-- ==== Sys2Proof/Word.lean ====
section
/-!
DEFINITION. The words of the SL4880: the 64-bit hide word (00_scope, Notation), the byte, and nothing more.
-/
namespace Sys2Proof

/-- A hide word: 64 bits, bit 0 least significant (00_scope, Notation). -/
abbrev Word := BitVec 64

/-- A byte; multi-byte quantities are little-endian (R7). -/
abbrev Byte := BitVec 8

end Sys2Proof
end

