-- ==== Sys2Proof/Syntax.lean ====
section
/-!
DEFINITION. The commands of the block: one constructor of `Instr` for each row of spec/opcode_table.json, with the
operands that reach the device from outside (a request's origin and payload, what a pin, a clock, a converter or the
device's own analog work was found to do).
-/
namespace Sys2Proof

/-- One independent receiver and emitter path (R4). -/
inductive Side where | a | b
deriving DecidableEq, Repr

/-- The two command ports, which share one Bridle (R116). -/
inductive Port where | harness | uart
deriving DecidableEq, Repr

/-- The two harness ports of a unit (chapter 05). -/
inductive HPort where | up | down
deriving DecidableEq, Repr

/-- Where a request came from: its port, and the ADDRESS field of its header (Table 06-1). -/
structure Origin where
  port : Port
  addr : Nat
deriving DecidableEq, Repr

/-- A packet as it travels: header fields (Table 06-1), payload, and the CRC it carries (R94).
`cut` says that a control character ended it early or data followed it (R95). -/
structure Packet where
  addr     : BitVec 6
  isReply  : Bool
  retry    : Bool
  seq      : BitVec 8
  opcode   : BitVec 8
  length   : BitVec 8
  status   : BitVec 8
  detail   : BitVec 8
  reserved : BitVec 16
  payload  : List Word
  crc      : BitVec 32
  cut      : Bool
deriving DecidableEq, Repr

/-- The data bytes of a timing symbol (Table 05-6): ORIGIN, CODE and ACC in 1/256 ns. -/
structure TimingSym where
  origin : BitVec 6
  code   : BitVec 8
  acc    : BitVec 24
deriving DecidableEq, Repr

/-- How an access to memory ended: in time and readable, with a single-bit error corrected, terminated (R337), or on an
uncorrectable word (R342). -/
inductive Access where | ok | corrected | timeout | ecc
deriving DecidableEq, Repr

/-- A transaction that the memory controller gave up (R337, R344): one of Cantle's, or a queued MEM_WRITE, which was
terminated or met an uncorrectable check word. -/
inductive BusFail where | cantle | write | writeEcc
deriving DecidableEq, Repr

/-- A converter's sample: its code, and whether the input exceeded the threshold of Table 08-2 at that instant (R151). -/
structure RawSample where
  code : Int
  above : Bool
deriving DecidableEq, Repr

/-- What one shot's window delivers to the Currier array: the samples of lanes XI, XQ, YI and YQ of the side: the four before
the commanded launch instant, whose over-range can still flag the first of the window (R151), and those from it on (R22). -/
structure ShotData where
  lanes : List (List RawSample)
deriving DecidableEq, Repr

/-- An over-ranged sample of a lane (main lanes 0 to 7, Raman lanes in the order A AS, A ST, B AS, B ST), by the number of
its main sample (R154). -/
structure OverSample where
  lane : Nat
  instant : Nat
deriving DecidableEq, Repr

/-- A sampling instant of a side's Raman lanes (R165). -/
structure RamanSample where
  anti   : RawSample
  stokes : RawSample
deriving DecidableEq, Repr

/-- A comparison of the shadow converter (R158, R159): its main sample, main code less shadow code, and whether either
sample carried SETTLE or OVERRANGE. -/
structure Comparison where
  instant : Nat
  diff : Int
  flagged : Bool
deriving DecidableEq, Repr

/-- What a foreground calibration step found for a group: its trims (opaque words, R369), the die temperature in
0.1 °C, the figures F0 to F3 (Table 17-3), for a main lane the slice in each phase position (R359), and for Awl the ΔTcal in
fs of both pairs of every converter, the spare pair's first (R286). -/
structure StepResult where
  group   : Nat
  trims   : List Word
  temp    : Int
  figures : List Nat
  slices  : List Nat
  rings   : List (Nat × Nat)
deriving DecidableEq, Repr

/-- What an aux conversion delivered: both codes before flagging, over-range of each converter, positive over-range,
and the sources that lost compliance: 0 IEXC0, 1 IEXC1, 2 VEXC (R291, R299). -/
structure AuxSample where
  code      : Int
  check     : Int
  ovr       : Bool
  overPos   : Bool
  checkOver : Bool
  lost      : List Nat
deriving DecidableEq, Repr

/-- The commands of the block, one constructor per row of spec/opcode_table.json. -/
inductive Instr where
  -- requests (Table 20-1): origin and payload
  | nop (o : Origin) (p : List Word)
  | identify (o : Origin) (p : List Word)
  | status (o : Origin) (p : List Word)
  | resetLevel0 (o : Origin) (w : Word)
  | resetLevel1 (o : Origin) (w : Word)
  | resetLevel2 (o : Origin) (w : Word)
  | resetLevel3 (o : Origin) (w : Word)
  | resetStart
  | resetOffTimeExpiry (vcoreFell : Bool)
  | resetSoftDone (trainFail : Option (Nat × Nat))
  | paramGet (o : Origin) (p : List Word)
  | paramSet (o : Origin) (p : List Word)
  | commit (o : Origin) (p : List Word)
  | commitValidationDone
  | discard (o : Origin) (p : List Word)
  | eventRead (o : Origin) (p : List Word)
  | eventAck (o : Origin) (p : List Word)
  | result (o : Origin) (p : List Word)
  | tackLoad (o : Origin) (p : List Word)
  | tackSave (o : Origin) (p : List Word)
  | tackSaveDone (readBackOk : Bool)
  | tackInfo (o : Origin) (p : List Word)
  | tackErase (o : Origin) (p : List Word)
  | tackEraseDone
  | tackProtectWrite (o : Origin) (v : Word)
  | chainEnumerate (o : Origin) (p : List Word)
  | chainAddrSet (o : Origin) (p : List Word)
  | chainDelayMeasure (o : Origin) (p : List Word)
  | chainDelayMeasureDone (meanRoundTrip : Nat)
  | delayProbeReceived
  | hopDelayUpReceived (delay : BitVec 32)
  | chainLoopback (o : Origin) (p : List Word)
  | routeSet (o : Origin) (p : List Word)
  | routeGet (o : Origin) (p : List Word)
  | scanSet (o : Origin) (p : List Word)
  | scanGet (o : Origin) (p : List Word)
  | zoneSet (o : Origin) (p : List Word)
  | zoneGet (o : Origin) (p : List Word)
  | zoneClear (o : Origin) (p : List Word)
  | baselineCapture (o : Origin) (p : List Word)
  | baselineCaptureDone (route : Nat)
  | acqStart (o : Origin) (p : List Word)
  | acqStop (o : Origin) (p : List Word)
  | acqStopped (side : Side)
  | arm (o : Origin) (p : List Word)
  | disarm (o : Origin) (p : List Word)
  | force (o : Origin) (p : List Word)
  | trigSet (o : Origin) (p : List Word)
  | trigGet (o : Origin) (p : List Word)
  | historyDump (o : Origin) (p : List Word)
  | historyDumpDone
  | slotSet (o : Origin) (p : List Word)
  | slotGet (o : Origin) (p : List Word)
  | curveLoad (o : Origin) (p : List Word)
  | emitEnable (o : Origin) (p : List Word)
  | lockSetOff (o : Origin) (w : Word)
  | lockSetOn (o : Origin) (w : Word)
  | lockSetManual (o : Origin) (w : Word)
  | emitDiagRead (o : Origin) (w : Word)
  | emitDiagProof (o : Origin) (w : Word)
  | auxXptSet (o : Origin) (p : List Word)
  | auxSeqLoad (o : Origin) (p : List Word)
  | auxRead (o : Origin) (p : List Word)
  | auxLimitSet (o : Origin) (p : List Word)
  | auxSeqKick (o : Origin) (v : Word)
  | adcCheckSet (o : Origin) (check w1 : Word)
  | adcCheckWrite (o : Origin) (v : Word)
  | adcCheckRetire (o : Origin) (check w1 : Word)
  | adcCheckRestore (o : Origin) (check w1 : Word)
  | adcCheckClear (o : Origin) (check w1 : Word)
  | dtsRefSet (o : Origin) (p : List Word)
  | timeSetImmediate (o : Origin) (tag w1 : Word)
  | timeSetNextPps (o : Origin) (tag w1 : Word)
  | timeSetChainSync (o : Origin) (tag w1 : Word)
  | timeLoadTimeout
  | timeGet (o : Origin) (p : List Word)
  | tbSelect (o : Origin) (p : List Word)
  | tdcCfg (o : Origin) (p : List Word)
  | tdcRead (o : Origin) (p : List Word)
  | streamCfg (o : Origin) (p : List Word)
  | streamTrain (o : Origin) (p : List Word)
  | dmaKickStart (o : Origin) (w first : Word)
  | dmaKickResume (o : Origin) (w : Word)
  | dmaAbort (o : Origin) (p : List Word)
  | dmaAbortDone (chan : Nat)
  | dmaStatus (o : Origin) (p : List Word)
  | memRead (o : Origin) (p : List Word)
  | memReadDone (slot : Nat) (acc : Access)
  | memWrite (o : Origin) (p : List Word)
  | memFill (o : Origin) (p : List Word)
  | memFillDone (acc : Access)
  | memInitWrite (o : Origin) (v : Word)
  | memPlanWrite (o : Origin) (v : Word)
  | calRun (o : Origin) (p : List Word)
  | calRunDone
  | calRead (o : Origin) (p : List Word)
  | calWrite (o : Origin) (p : List Word)
  | calQuality (o : Origin) (p : List Word)
  | healthRead (o : Origin) (p : List Word)
  | logRead (o : Origin) (p : List Word)
  | logClear (o : Origin) (p : List Word)
  | logClearDone
  | updateBegin (o : Origin) (p : List Word)
  | updateBeginDone
  | updateChunk (o : Origin) (p : List Word)
  | updateChunkStored
  | updateEnd (o : Origin) (p : List Word)
  | updateEndDone
  | updateActivateTrial (o : Origin) (w : Word)
  | updateActivateConfirm (o : Origin) (w : Word)
  | updateActivateReject (o : Origin) (w : Word)
  | trialTimerExpiry
  | standbyEnter (o : Origin) (p : List Word)
  | standbyPowerDown
  | lifetimeRead (o : Origin) (p : List Word)
  | pllCfgIcpWrite (o : Origin) (icp : BitVec 6)
  | pllDividerChange (o : Origin) (v : Word)
  | pllChangeTimeout
  | uartCfgWrite (o : Origin) (v : Word)
  | evtMaskWrite (o : Origin) (lo hi : Word)
  -- supplies, resets, start-up and standby
  | vaonPowerOn
  | vaonGood
  | railsGood
  | porRelease
  | refChoice (refclkSeen : Bool) (freqCode : Nat)
  | pllLockDeclared
  | cantleBootVerifyDone (checkA checkB : Nat)
  | dramTrainingDone (fail : Option (Nat × Nat)) (fittedGib : Nat)
  | calStepDone (results : List StepResult)
  | calStepTimeout (group : Nat)
  | resetNLow (widthNs : Nat)
  | resetNRise
  | brownout (monitor : Nat)
  | wakePinEdge (highUs : Nat)
  | wakeTimerExpiry
  | standbyWake
  | laserEnFall (widthNs : Nat)
  | laserEnRise
  -- clocks and time
  | pllPhaseErrorLoss
  | pllRefEdgesMissing
  | pllRefPresent
  | pllRelockTimeout
  | syncInEdge
  | syncApply (pfdEdges : Nat)
  | ppsEdge (falling : Bool)
  | ppsAbsentTimeout
  | ref10Present
  | ref10Absent
  | ref10GateEnd (error : Int)
  | timeBaseSecond
  | ageingDay
  | tinEdge (input : Nat) (falling : Bool)
  | awlConversionDone (input count : Nat)
  | awlBackgroundCal (rings : List (Nat × Nat)) (nonlinearity : Nat)
  | awlPairTakeover (input : Nat)
  | xtalFaultCheck (stopped outside : Bool)
  -- harness and UART
  | harnessCommaReceived (port : HPort)
  | harnessLinkLock (port : HPort)
  | harnessLinkLoss (port : HPort)
  | breakIn
  | breakInEnd
  | requestReceived (pkt : Packet)
  | harnessPacketForward (fromPort : HPort) (pkt : Packet)
  | replyPassingUp (pkt : Packet)
  | armSymbolReceived (port : HPort) (sym : TimingSym)
  | fireSymbolReceived (port : HPort) (sym : TimingSym)
  | syncSymbolReceived (port : HPort) (sym : TimingSym)
  | timingSymbolDiscard (port : HPort)
  | uartPacketReceived (raw : List Byte)
  | uartGapTimeout
  | uartFramingError
  -- probe emitter
  | shotGroupBoundary (side : Side)
  | launchGroupLaunch (side : Side)
  | launchEdge (side : Side)
  | launchMissing (side : Side)
  | gateLoadFault (side : Side) (short : Bool)
  | gatePulseEnd (side : Side) (heldNs energy : Nat)
  | proofPulse (side : Side)
  | wavelockAcquired (side : Side)
  | wavelockLost (side : Side)
  | lbiasLimitReached (side : Side) (upper : Bool)
  | tecLimitReached (side : Side) (upper : Bool)
  | dacFault (side : Side) (q : Bool)
  | thermalParkingDone (side : Side) (eccBad : Bool)
  | routeBlankingStart (side : Side)
  | switchStrobe (side : Side)
  | routeBlankingEnd (side : Side)
  | settlePeriodEnd (side : Side) (lanes : List (List Int))
  | aprActivation (side : Side)
  -- data plane
  | currierShotOutput (side : Side) (data : ShotData)
  | girthEvaluation
  | holdoffElapsed (zone : Nat)
  | autoTimeout (side : Side)
  | envelopeIntervalEnd (side : Side)
  | deltaTraceForm (side : Side)
  | digestPeriod (side : Side)
  | overrangeBurst (samples raman : List OverSample)
  | shadowDwellEnd (samples : List Comparison)
  | backgroundSliceTrim (lane : Nat) (trims : List Word) (figures : List Nat)
  | sliceSwap (lane : Nat)
  | backgroundRamanOffset (side : Side) (trims : List Word)
  | calDriftCheck (temps : List Int)
  | ramanShot (side : Side) (trace : List RamanSample)
  | accumulationComplete (side : Side)
  | thermalComputationDone (side : Side)
  | auxSettleDelayEnd
  | auxConversionEnd (smp : AuxSample)
  | auxTimerTrigger
  -- stream
  | latFcLock
  | latFcLoss
  | latFcTrainingStatus (laneOk : BitVec 8)
  | streamTrainingTimeout
  | creditGrant (n : Nat)
  | creditStallTimeout
  | frameSend
  | idleFrameTimeout
  | statusFrameTimer
  | dropFrameTimer
  -- memory and DMA
  | dramRefreshDue
  | zqCalibrationDue
  | dqsTrackingDue
  | dramPanicBegin (need0 need1 : Nat)
  | dramPanicEnd (need0 need1 : Nat)
  | dramLongPanic
  | bulkTimeout (fail : BusFail) (addr words : Nat)
  | selfRefreshEntry
  | patrolScrub (errors : List (Nat × Bool))
  | dmaBurst (acc : Access)
  | dmaDescriptorFetchDone (chan : Nat) (acc : Access)
  | dmaDescriptorEnd (chan : Nat) (acc : Access)
  -- management
  | monitorSample (temps : List Int) (volts : List Nat)
  | processMonitorSample (drifts : List Int)
  | overtempTrip (sensor : Nat)
  | clampDetection (domain peakUa : Nat)
  | surgeRecordClose
  | selftestStart
  | currierTileTestSlotEnd (pass : Bool)
  | selftestDone (analogFails : BitVec 13)
  | cantleWatchdogExpiry
  | mramWriteTimeout
  | cantleRestartDone
  | bridleHangCheck (hung : Bool)
  | healthDigestForm
  | healthDigestEventTimer
  | lifetimeUpdate
  | equivHoursMinute
  | mramScrub (region corrected : Nat) (bad : Option Nat) (worn : Bool)
  | logEntryWrite
  | vaonLoss
deriving DecidableEq, Repr

end Sys2Proof
end

