-- ==== Sys2Proof/Decode.lean ====
section
/-!
DEFINITION. The commands that a word spells: the table gives no row any bits, so none.
-/
namespace Sys2Proof

/-- The command of a word numbered as spec/opcode_table.json numbers its bits; no row has bits. -/
def decodeTableWord (_nbits _w : Nat) : Option Instr := none

end Sys2Proof
end

