-- ==== Sys2Proof/Config.lean ====
section
/-!
DEFINITION. What the spec leaves open: opaque constants without a body (nothing can be proved of their values), and the
rounding that every quotient of unstated last digit goes through.
-/
namespace Sys2Proof.Config

/-- Whether the quotient of the division at a place, of that numerator and denominator, is the one above (log 4). -/
opaque roundUp : Nat → Int → Nat → Bool

/-- A quotient whose last digit the spec does not fix: exact where it divides, else one of the two neighbours. -/
def quot (place : Nat) (num : Int) (den : Nat) : Int :=
  if num % den = 0 then num / den else num / den + if roundUp place num den then 1 else 0

/-- A value that the spec leaves open at a place (the number of a rule), the so-many-th drawn (log 4). -/
opaque free : Nat → Nat → Nat

/-- A free yes or no. -/
def freeBit (place n : Nat) : Bool := free place n % 2 = 1

/-- A rational whose last digit the spec does not fix, as `quot`. -/
def ratQ (place : Nat) (q : Rat) : Int := quot place q.num q.den

/-- The value that a rule (its number) leaves unstated for these operands (log 9). -/
opaque unstated : Nat → List Int → Int

/-- The header word of a DELTA_TRACE frame, whose layout is not stated: route, entry count, the trace's time tag (log 33). -/
opaque deltaHeader : Nat → Nat → Word → Word

/-- Integers of filters, by rule, parameters and index: what no figure of a rule settles (log 10). -/
opaque tapSeed : Nat → List Int → Nat → Int

/-- Tap k of n that sum to a total but for an error from −below to above: the last one makes up the sum, the others are free
(log 10). -/
def tapOf (rule : Nat) (params : List Int) (n total below above k : Nat) : Int :=
  if k + 1 = n then
    (total : Int) - below + tapSeed rule params k % (below + above + 1) - ((List.range k).map (tapSeed rule params)).sum
  else tapSeed rule params k

/-- What a tap may differ by from one that meets a figure with room to spare: free between −bound and bound (log 10). -/
def tapSlack (rule : Nat) (params : List Int) (bound k : Nat) : Int := tapSeed rule params k % (2 * bound + 1) - bound

/-- Tap k of 12 · D of a slot's channeliser filter, in 2^-30, by bandwidth in 0.1 MHz and D: at its centre the response is
0 dB ±0.05 dB (R171, Table 09-2; log 10). -/
def channelTap (band d k : Nat) : Int := tapOf 171 [band, d] (12 * d) (2 ^ 30) 6163198 6198779 k

/-- Tap 2k + 1 beside the centre of the half-band filter, in 2^-30: what aliases to zero frequency lies 80 dB down, and zero
frequency passes within ±0.01 dB (R207; log 10). -/
def halfTap (k : Nat) : Int := tapOf 207 [] 6 (2 ^ 28) 53687 53687 k

/-- The offset reference of a main lane in codes, in the opaque trims of its record (R157; log 17). -/
opaque laneOffset : List Word → Int

/-- The length of the JTAG instruction register, the bits that Capture-IR loads beyond the two of IEEE 1149.1, and the bits
that Capture-DR loads for an instruction other than BYPASS (R38; log 81). -/
opaque jtagIrExtra : List Bool
opaque jtagCapture : Option (List Bool) → Nat → List Bool

/-- This unit is unit 1 of its chain, the one wired to the host (R85; log 44). -/
opaque firstUnit : Bool

/-- The SECDED check byte of a hide word; the code is not given (R328; log 110). -/
opaque secded : Word → BitVec 8

/-- The die identity, unique to each die (R409, log 14). -/
opaque dieId : BitVec 128

/-- The hash in a key slot, set at manufacture (R390, log 11). -/
opaque keyHash : Nat → BitVec 256

/-- Record format of the running Cantle image (Table 17-4, log 17). -/
opaque calVersion : BitVec 8

/-- The slices that the opaque words of a main-lane record place in positions 0 to 7 (R371, log 17). -/
opaque recordSlices : List Word → List Nat

/-- The ΔTcal in fs of each converter's two pairs that the opaque words of an Awl record hold (R371, log 17). -/
opaque recordRings : List Word → List (Nat × Nat)

/-- Format version of Tack sets that the running Cantle image supports (R111; log 39). -/
opaque tackFormat : BitVec 8

/-- Word i of the factory trims of a group (R359, log 17). -/
opaque factoryTrim : Nat → Nat → Word

end Sys2Proof.Config
end

