-- ==== Sys2Proof/Machine/State.lean ====
section
/-!
DEFINITION. The state of one SL4880: every register, record, queue, counter, mode and memory the spec gives it, the
reasons a step can stop, and the state at VAON power-on. All plain data.
-/
namespace Sys2Proof.Machine

/-! ### Generic tables -/

/-- Values by number (a parameter ID, a channel), strictly rising by key; an unlisted key holds its default. -/
abbrev Store := List (Nat × Word)

/-- Records by number, strictly rising by key; an unlisted key is an undefined record. -/
abbrev Table := List (Nat × List Word)

/-- A pair of equal things, one for each side. -/
structure Both (α : Type) where
  a : α
  b : α
deriving DecidableEq, Repr

/-! ### Control plane: power, clocks, harness, Bridle, events -/

/-- The device states of Table 03-3, with STARTING divided by the step of Table 03-2 it is in (0: the switched domains
held in reset), STANDBY by whether PWR_EN is low yet for a level 3 off-time, and production test (R38). -/
inductive DevState where
  | off | vaonRise | railsWait | offTime | standby
  | starting (step : Nat)
  | ready | recovery | prodTest
deriving DecidableEq, Repr

/-- A standby entry or standby itself: WAKE_SECONDS, and the recorded wake sources as bits [2:0] of WAKE_REASON. -/
structure Standby where
  seconds : Nat
  sources : BitVec 3
deriving DecidableEq, Repr

/-- The sixteen states of the IEEE 1149.1 test access port (R38). -/
inductive Tap where
  | testLogicReset | runTestIdle
  | selectDr | captureDr | shiftDr | exit1Dr | pauseDr | exit2Dr | updateDr
  | selectIr | captureIr | shiftIr | exit1Ir | pauseIr | exit2Ir | updateIr
deriving DecidableEq, Repr

/-- The test access port: the state of its controller, the instruction in force (none: the one that Test-Logic-Reset puts
there), and the shift stage of the register between TDI and TDO, the bit next to TDO first (R38; log 81). -/
structure Jtag where
  state : Tap
  instr : Option (List Bool)
  shift : List Bool
deriving DecidableEq, Repr

/-- The always-on island, the power pins and the start-up in progress (chapter 03). -/
structure Power where
  dev       : DevState
  wake      : BitVec 4
  scratchLo : Word
  scratchHi : Word
  /-- HARN.ADDRESS, kept in the island (R78) -/
  address   : BitVec 6
  pwrEn     : Bool
  /-- the levels of PSEL1:PSEL0, TEST_MODE, LASER_EN and RESET_N (true: held low) as the board drives them -/
  psel      : BitVec 2
  testMode  : Bool
  laserEn   : Bool
  resetLow  : Bool
  /-- VCORE above its brownout threshold -/
  vcore     : Bool
  /-- the fault of the XT32 oscillator: stopped (false) or outside ±500 ppm (true) (R288) -/
  xtFault   : Option Bool
  /-- PSEL1:PSEL0 at the last release of system reset (R37) -/
  strap     : BitVec 2
  /-- the events of this start-up waiting for READY (R47), oldest first -/
  startQ    : List (Nat × Nat)
  /-- a RESET of level 0 or 1 in progress -/
  soft      : Option Nat
  /-- a RESET of level 2 or 3, or the level 2 reset of an activation, whose reply has left (R51) -/
  hard      : Option Nat
  /-- a standby entry or standby in progress (R59) -/
  stand     : Option Standby
  /-- the running start-up found that a level 3 reset did not remove power (R54) -/
  powerKept : Bool
  /-- the last standby was an over-temperature trip's, and no sample has been judged since its wake (R380) -/
  tripWake  : Bool
  /-- the JTAG port, which TRST_N and TEST_MODE leave alone together (R38; log 81) -/
  tap       : Jtag
deriving DecidableEq, Repr

/-- The loop state: off before the reference is chosen, start until the first lock, then Table 04-6. -/
inductive LoopState where | off | start | locked | hold | relock
deriving DecidableEq, Repr

/-- A change of N or REF_MULT in progress, with the settings to restore (R68). -/
structure PllChange where
  old       : Word
  /-- the previous settings are restored and the loop is to lock again -/
  restoring : Bool
deriving DecidableEq, Repr

/-- A recognised SYNC that waits for its PFD edge: from the timing line or from SYNC_IN, and the core cycle from which an
edge is its (R70, R86). -/
structure SyncWait where
  line : Bool
  due  : Nat
deriving DecidableEq, Repr

/-- The root PLL (chapter 04). -/
structure Pll where
  state       : LoopState
  refclk      : Bool
  freqCode    : Nat
  refPresent  : Bool
  /-- CLK.PLL_CFG -/
  cfg         : Word
  change      : Option PllChange
  /-- the present unlocked episode began with missing reference edges -/
  refLost     : Bool
  synced      : Bool
  /-- N root cycles pass per PFD edge since the last SYNC applied; false: the phase is open (R70) -/
  phaseKnown  : Bool
  unlockCount : Nat
  syncHeld    : Nat
  /-- recognised SYNCs waiting for their PFD edge, oldest first -/
  syncWait    : List SyncWait
deriving DecidableEq, Repr

/-- Link state of one data pair (Table 05-3). -/
inductive LinkState where | noLink | align | locked
deriving DecidableEq, Repr

/-- The timing symbols of Table 05-1, with the delay-measurement probe and echo. -/
inductive TimKind where | arm | fire | sync | probe | echo
deriving DecidableEq, Repr

/-- A symbol waiting for an output pair, and the core cycle of its arrival. -/
structure TimWait where
  kind    : TimKind
  sym     : TimingSym
  arrived : Nat
deriving DecidableEq, Repr

/-- A symbol of 8b/10b: a control character or a data byte. -/
structure Symbol where
  ctrl : Bool
  byte : Byte
deriving DecidableEq, Repr

/-- What a pair of the harness drives: from a core cycle on these symbols and then the idle one again and again, the running
disparity before the first of them positive or not (R72). -/
structure LineOut where
  start : Nat
  plus  : Bool
  syms  : List Symbol
  idle  : Symbol
deriving DecidableEq, Repr

/-- One timing output pair: the core cycle its symbol in progress ends in, what waits, the last symbol sent, and what the
pair drives. -/
structure TimOut where
  busyUntil : Nat
  waiting   : List TimWait
  last      : Option (TimKind × TimingSym)
  line      : LineOut
deriving DecidableEq, Repr

/-- This unit's own answer to a broadcast whose reply has not passed yet (R79): opcode, SEQ where the request came as a
packet, status and detail. -/
structure OwnReply where
  op     : BitVec 8
  seq    : Option (BitVec 8)
  status : BitVec 8
  detail : BitVec 8
deriving DecidableEq, Repr

/-- The harness ports (chapter 05). -/
structure Harness where
  up        : LinkState
  down      : LinkState
  /-- the DOWN port has been LOCKED since reset (R74) -/
  downEver  : Bool
  hopUp     : BitVec 32
  hopDown   : BitVec 32
  upCrc     : Nat
  downCrc   : Nat
  timErr    : Nat
  replyDrop : Nat
  breakIn   : Bool
  /-- a hop-delay measurement is running (R87) -/
  measuring : Bool
  /-- the result of a hop-delay measurement last sent to the neighbour below (R87) -/
  sentDelay : Option (BitVec 32)
  own       : Option OwnReply
  /-- CHAIN_ENUMERATE clears the address once this unit has contributed to its reply (R82) -/
  clearDue  : Bool
  /-- the request to address 63 that this unit took for its own and of which only one is done yet: its execution, or its
  passing on (R80) -/
  claim     : Option Packet
  /-- the last packet that left on HUP_DOUT and on HDN_DOUT -/
  outUp     : Option Packet
  outDown   : Option Packet
  /-- the core cycles until which HUP_DOUT and HDN_DOUT forward a packet (R77) -/
  upBusy    : Nat
  downBusy  : Nat
  /-- what HUP_DOUT and HDN_DOUT drive (R72) -/
  lineUp    : LineOut
  lineDown  : LineOut
  timUp     : TimOut
  timDown   : TimOut
deriving DecidableEq, Repr

/-- A reply as Bridle forms it. -/
structure Reply where
  status  : BitVec 8
  detail  : BitVec 8
  payload : List Word
deriving DecidableEq, Repr

/-- The stored entry of a command port (R98). -/
structure Stored where
  seq   : BitVec 8
  op    : BitVec 8
  crc   : BitVec 32
  /-- the address the reply carried -/
  addr  : BitVec 6
  reply : Reply
deriving DecidableEq, Repr

/-- The resources of R102, and the two kinds of deferred command that hold none (Table 20-4). -/
inductive Res where
  | draft | tack | pll | delay | reset | history | loader | stream | fill | log | update
  | cal (groups : BitVec 17)
  | baseline (route : Nat)
  | proof (side : Side)
  | dmaAbort (chan : Nat)
  | memRead (addr count : Nat)
deriving DecidableEq, Repr

/-- A deferred slot (Table 06-3); a RUNNING slot names what its command holds. -/
inductive Slot where
  | free
  | running (r : Res)
  | done (status : BitVec 8) (result : List Word)
deriving DecidableEq, Repr

/-- A Tack set to load with a commit: its number, and whether its snapshot goes along (R112). -/
structure TackLoad where
  set     : Nat
  withCal : Bool
deriving DecidableEq, Repr

/-- The commit gate: nothing, a validation in progress (R107), or a frozen snapshot (R16), which is the locked draft
copy, with the affected sides and those that still wait for their boundary. -/
inductive Gate where
  | idle
  | validating (tack : Option TackLoad)
  | frozen (tack : Option TackLoad) (affA affB waitA waitB : Bool)
deriving DecidableEq, Repr

/-- Bridle's own state (chapter 06). -/
structure Bridle where
  storedH  : Option Stored
  storedU  : Option Stored
  slots    : List Slot
  /-- DONE slots, the most recent completion first (Table 20-3) -/
  recent   : List Nat
  gate     : Gate
  /-- the last reply sent on each port -/
  replyH   : Option Reply
  replyU   : Option Reply
  /-- the last packet sent on MGT_TX, and its bytes on the line, framed (R114) -/
  sentU    : Option Packet
  lineU    : List Byte
deriving DecidableEq, Repr

/-- An entry of the event queue (Table 19-1). -/
structure EvEntry where
  tag    : Word
  event  : Nat
  unset  : Bool
  detail : BitVec 16
  qseq   : BitVec 16
deriving DecidableEq, Repr

/-- Something selected for the MRAM log (R382): record type, number, severity, flag, detail, tag and data words. -/
structure LogItem where
  tag    : Word
  type   : Nat
  code   : Nat
  unset  : Bool
  detail : BitVec 16
  data   : List Word
deriving DecidableEq, Repr

/-- The event queue (R17, R396) and what it has handed to the log. -/
structure Events where
  q    : List EvEntry
  next : BitVec 16
  lost : Nat
  logQ : List LogItem
  /-- MGT.STATUS.LOG_LOST -/
  logLost : Nat
deriving DecidableEq, Repr

/-- One copy of the staged configuration (R27, Table 06-9): RWS parameters that differ from reset, and the records. -/
structure Cfg where
  params : Store
  zones  : Table
  trigs  : Table
  routes : Table
  slots  : Table
  scans  : Table
  curves : Table
  seq    : Table
deriving DecidableEq, Repr

/-- A Tack set (Table 06-9): what its header and areas hold, and the CRC stored at 0xFFFC. -/
structure TackSet where
  /-- TACK_INFO reports EMPTY -/
  erased    : Bool
  format    : Nat
  member    : Nat
  saves     : Nat
  seconds   : BitVec 32
  cfg       : Cfg
  /-- the calibration records of the snapshot, by group, if it holds one -/
  cal       : Option Table
  crc       : BitVec 32
deriving DecidableEq, Repr

/-- A TACK_SAVE or TACK_ERASE under way (R112). -/
inductive TackOp where
  | save (set : Nat) (fromDraft withCal : Bool)
  | erase (set : Nat)
deriving DecidableEq, Repr

/-- The Tack area (R110 to R113) and SYS.TACK_STATUS. -/
structure Tacks where
  sets     : List TackSet
  op       : Option TackOp
  loaded   : Nat
  defaults : Bool
  fallback : Bool
  modified : Bool
deriving DecidableEq, Repr

/-! ### Probe emitter and converters, one of each per side unless said -/

/-- The gate states of Table 07-6. -/
inductive GateState where | unverified | verified | openLoad | short
deriving DecidableEq, Repr

/-- The wavelength lock states of EMIT_STATUS.WL (Table 07-7). -/
inductive WlState where | off | acquiring | locked | manual
deriving DecidableEq, Repr

/-- Where a side is in the route switch sequence of Table 07-9: not in one; step 1 passed (no launch, windows still
open); blanking (steps 2 to 5), with the strobe given or not yet; stopped by a RESET of level 0 that has not restarted it. -/
inductive SwitchSeq where | none | draining | blanking (strobed : Bool) | halted
deriving DecidableEq, Repr

/-- A shot in flight: its launch group and shot-group number, the route, the configuration in force at its launch
(R14), the flags it carries to the Currier array (R119, R131) and those of its samples (R156). -/
structure Shot where
  group    : Nat
  number   : Nat
  route    : Nat
  /-- core cycle of the commanded instant, and the ns of the time tag then -/
  cycle    : Nat
  tag      : Word
  est      : Bool
  unlocked : Bool
  settle   : Bool
  discard  : Bool
  /-- launched under a hold in force for the acoustic path (R19) -/
  held     : Bool
  /-- discarded because it cannot finish within R21 under overload (R193) -/
  late     : Bool
  /-- the visit of the route it was launched in -/
  visit    : Nat
  /-- the first launch on its route since a commit changed what R200 names of it -/
  moved    : Bool
  /-- the configurations that commits have ended since the launch before, in order (R190, R208) -/
  via      : List Cfg
  /-- where Awl found its launch edge: t0 in main samples from the commanded instant, and μ in 1/256 sample (R169) -/
  align    : Option (Nat × Nat)
  /-- the time tag of that edge (Table 15-6) -/
  edge     : Option Word
  cfg      : Cfg
deriving DecidableEq, Repr

/-- Lash, one side (chapter 07). -/
structure Lash where
  enabled    : Bool
  gate       : GateState
  dacFault   : Bool
  wl         : WlState
  lbias      : BitVec 16
  tec        : BitVec 16
  tecDriven  : Bool
  /-- energy-loop trims in 1/1024, last energies, limit flags, counts of updates beyond and within 10 %, by group -/
  trims      : List Nat
  energies   : List Nat
  atLimit    : List Bool
  beyond     : List Nat
  within     : List Nat
  unlocked   : List Bool
  /-- the shot clock runs -/
  running    : Bool
  entry      : Nat
  dwellLeft  : Nat
  seq        : SwitchSeq
  /-- the switch position of the present visit, and the settle groups left of it and added to it (R157) -/
  position   : Nat
  settleLeft : Nat
  extra      : Nat
  rampLeft   : Nat
  /-- shot groups since the start of acquisition, and launch groups of the present one already launched -/
  number     : Nat
  launched   : Nat
  /-- the present pulse is a proof pulse, and the launch group of the last ordinary pulse -/
  proof      : Bool
  /-- a cause of Table 07-10 came during the proof pulse: its proof is abandoned (R143); a proof of EMIT_DIAG waits to be
  issued (R145) -/
  proofOff   : Bool
  proofDue   : Bool
  /-- the set current of the pulse in progress, code, and whether a pulse is in progress -/
  pulse      : Option Nat
  /-- the core cycle the pulse began in -/
  pulseAt    : Nat
  /-- a cause of Table 07-10 cut the pulse in progress (R143) -/
  cut        : Bool
  shots      : List Shot
  missing    : Bool
  blocked    : BitVec 4
  count      : Nat
  /-- routes of which a commit changed what R200 names, and nothing was launched on since -/
  moved      : List Nat
  /-- the configurations that commits have ended since the last launch, in order -/
  taken      : List Cfg
  /-- route visits so far, the core cycle of the last shot-group boundary, and the main samples of the last launch edges -/
  visit      : Nat
  groupAt    : Nat
  edges      : List Nat
  /-- windows of shots no longer in flight whose samples carry SETTLE: first main sample and length -/
  void       : List (Nat × Nat)
  /-- until when SW_STB and DTS_TRIG are high, in quarters of a ns of the monotonic count (R134, R144) -/
  strobeEnd  : Nat
  trigEnd    : Nat
deriving DecidableEq, Repr

/-- Samples of a phase position that carry SETTLE: from one main sample on, up to another if it is known (Table 08-3). -/
structure Mark where
  pos  : Nat
  start : Nat
  upto : Option Nat
deriving DecidableEq, Repr

/-- A main lane: the slice in each phase position, retired slices, slices not trimmed since they were restored, fail
counts by slice and last verdicts by position (R159, R368), the core cycle each slice was trimmed, degraded positions, the positions whose samples
were flagged lately, the spare out for background calibration with the record's trims and the figures that its step formed, and its
over-range state (chapter 08). -/
structure Lane where
  pos      : List Nat
  retired  : BitVec 10
  raw      : BitVec 10
  fails    : List Nat
  verdicts : List Nat
  trimmed  : List Nat
  degraded : BitVec 8
  marks    : List Mark
  out      : Option Nat
  outTrims : List Word
  outFigures : List Nat
  ovrCount : Nat
  ovrUp    : Bool
deriving DecidableEq, Repr

/-- What the shadow converter keeps of a phase position in a dwell (R159): N, E and the sum of the differences. -/
structure DwellCount where
  n   : Nat
  e   : Nat
  sum : Int
deriving DecidableEq, Repr

/-- The receiver converters (chapter 08), both sides. -/
structure Recv where
  lanes     : List Lane
  lane      : Nat
  /-- of the present dwell: the main sample from which each position's counts run, and the counts as last taken -/
  fromAt    : List Nat
  tally     : List DwellCount
  dwells    : Nat
  laneFails : Nat
  suspect   : Bool
  lastFail  : Option Nat
  /-- lent to Strop: STATE reads PAUSED -/
  borrowed  : Bool
  /-- core cycle of the last over-range burst seen, if any (R154) -/
  burstAt   : Option Nat
  /-- EV_DTS_OVERRANGE given and not re-armed: A AS, A ST, B AS, B ST (R166) -/
  ramanUp   : BitVec 4
deriving DecidableEq, Repr

/-! ### Trace processing and routes, one of each per side (chapters 09 and 10) -/

/-- A gate pair of a zone: its measured phase ψ and its trackers by branch; absent: uninitialised (R178). Phases are
in 2^−16 cycle. -/
structure GateTrack where
  gate : Nat
  psi  : Option Int
  trk  : List (Nat × Int)
deriving DecidableEq, Repr

/-- One channel's sample of one launch group: the group's count since ACQ_START, δch in 2^−32 cycle, the quality code,
the fade margin, and its combined phasor. -/
structure ChanSample where
  count   : Nat
  delta   : Int
  quality : Nat
  fade    : Nat
  re      : Int
  im      : Int
deriving DecidableEq, Repr

/-- The detector of one channel (R245 to R247): STA and LTA over v² in (2^−32 cycle)², usable samples taken, whether it
is on, and what the band-pass keeps. -/
structure Detector where
  sta   : Rat
  lta   : Rat
  count : Nat
  on    : Bool
  hist  : List Int
deriving DecidableEq, Repr

/-- A channel: Φ (2^−32 cycle), the present gap, the restart groups left (R187), the decimator's samples, newest first,
the running sum of PH32 (2^−32 cycle), the last value formed with no hold (R19), and its detector. -/
structure Channel where
  phi    : Int
  gap    : Nat
  settle : Nat
  hist   : List ChanSample
  sum    : Int
  value  : Int
  det    : Detector
deriving DecidableEq, Repr

/-- Upward zero crossings of one channel in a record (R257): how many, the instants of the first and the last in ns, and
whether its last counted sample was below zero. -/
structure Cross where
  count : Nat
  first : Nat
  last  : Nat
  neg   : Bool
deriving DecidableEq, Repr

/-- A record of a zone (R249 to R257), open or closed. Instants are in ns of the time tag, but for `at` (TRIG_TIME) and
`deadline`, in quarters of a ns of the monotonic count (R270). With x = v · fout of each sample counted, in 2^−32 cycle
per second: `peak` is the largest |x|, `sumSq` the sum of x², `energy` that of x² / fout, `n` how many. -/
structure GRecord where
  id        : Nat
  zone      : Nat
  route     : Nat
  acoustic  : Bool
  cause     : Nat
  code      : Nat
  trig      : Nat
  at'       : Int
  frac      : Nat
  origin    : Nat
  fireTime  : Word
  fireSent  : Bool
  pre       : Nat
  deadline  : Int
  first     : Nat
  last      : Nat
  peak      : Rat
  peakCh    : Nat
  peakAt    : Word
  sumSq     : Rat
  energy    : Rat
  n         : Nat
  retrigs   : Nat
  overlaps  : Nat
  told      : Bool
  stale     : Bool
  settle    : Bool
  cross     : List (Nat × Cross)
  /-- close instant, once closed, and whether a HISTORY_DUMP has covered its interval (R264) -/
  closedAt  : Nat
  fetched   : Bool
deriving DecidableEq, Repr

/-- An output sample of one channel, as it is delivered to the three destinations (R21). -/
structure OutSample where
  value   : Int
  v       : Int
  quality : Nat
  fade    : Nat
deriving DecidableEq, Repr

/-- One output instant of a zone as Girth takes it (R248): its time tag, the same in quarters of a ns of the monotonic
count, the route visit and the configuration of its launches (R14). -/
structure ZoneOut where
  side    : Side
  zone    : Nat
  tag     : Word
  at'     : Int
  visit   : Nat
  cfg     : Cfg
  samples : List OutSample
deriving DecidableEq, Repr

/-- The zone states of Table 12-5. -/
inductive ZoneState where | disarmed | armed | opened | post | holdoff
deriving DecidableEq, Repr

/-- What the data plane and Girth keep of a zone. -/
structure ZoneRun where
  gates     : List GateTrack
  chans     : List Channel
  /-- output samples still to be flagged after a decimator clear (R208) -/
  settle    : Nat
  /-- the route visit of the last launch group -/
  visit     : Nat
  /-- channel samples, and those coded 0b01, of the present 1 s interval, and EV_FADE_LOW given (R180) -/
  samples   : Nat
  faded     : Nat
  fadeUp    : Bool
  /-- core cycles of the last EV_UNWRAP_SLIP for a slip (R183) and for a restart (Table 09-5) -/
  slipAt    : Option Nat
  restAt    : Option Nat
  state     : ZoneState
  /-- ends DISARMED (R252) -/
  disarm    : Bool
  record    : Option GRecord
  /-- the last 8 closed records, newest first (R255) -/
  closed    : List GRecord
  /-- dead time since the last MARK_OPEN and the start of a dead interval, in core cycles (R253) -/
  dead      : Nat
  deadSince : Option Nat
  /-- the last output instants, newest first: as far back as a trigger time may lie (R257) -/
  past      : List ZoneOut
deriving DecidableEq, Repr

/-- The Currier array and zone output of one side. -/
structure Currier where
  /-- launch groups since ACQ_START (R206) -/
  groups    : Nat
  slips     : Nat
  restarts  : Nat
  refMiss   : Nat
  launchEst : Nat
  noiseCal  : Bool
  overload  : Bool
  satCount  : Nat
  /-- reference gates of each route of the side, with their gauge of 16 -/
  refGates  : List (Nat × List GateTrack)
  /-- core cycle of each route's last valid launch group (R189) -/
  lastValid : List (Nat × Nat)
  /-- routes returned to, whose absence is judged at their next valid launch group (R189) -/
  returned  : List Nat
  /-- the configuration of the last launch group; its tag in ns and its core cycle with those before it, newest first
  (R209) -/
  cfg       : Cfg
  tags      : List (Nat × Nat)
  /-- of the present shot group: power by gate summed over its branches, valid gates or not, no SETTLE sample so far, no stale hold so far -/
  power     : List (Nat × Nat)
  clean     : Bool
  unheld    : Bool
  /-- noise power by branch in force, and the average over the guard gates (R179) -/
  noise     : List Nat
  guard     : List Nat
  /-- the start of the present 1 s interval of R180 -/
  second    : Nat
deriving DecidableEq, Repr

/-- A baseline of a route, in DRAM: its state (0 NONE, 1 CAPTURING, 2 VALID), and a capture under way: groups wanted,
groups counted and the sums of power by gate (R215); `prior` is the state that a capture found, `since` the core cycle from
which shot groups count, and `later` the groups that captures want which wait for one a break-in abandoned (R103, R420). -/
structure Baseline where
  state : Nat
  prior : Nat
  since : Nat
  want  : Nat
  done  : Nat
  sums  : List (Nat × Nat)
  noise : Nat
  later : List Nat
deriving DecidableEq, Repr

/-! ### Temperature sensing, one of each per side (chapter 11) -/

/-- A parked accumulation (R223): the sums and maps lie in its parking area. -/
structure Parked where
  route : Nat
  shots : Nat
  first : Word
  last  : Word
  satUp : Bool
deriving DecidableEq, Repr

/-- An accumulation that has completed and whose channels are being computed (R224): its route, its first and last trigger,
the time tag of its completion (Table 15-6),
Tref and its age then (R229), the configuration in force, the holds of its channels (R19, R230), the values and codes of its
zones' channels, and the zones whose channels a commit has changed since (R236). -/
structure Completion where
  route : Nat
  first : Word
  last  : Word
  done  : Word
  tref  : Nat
  age   : Nat
  cfg   : Cfg
  held  : Bool
  stale : Bool
  chans : List (Nat × List (Nat × Nat))
  gone  : List Nat
deriving DecidableEq, Repr

/-- A channel's last temperature coded 0b00 on a route, in 0.01 K, with its time tag (R235). -/
structure LastTemp where
  ord   : Nat
  route : Nat
  t16   : Nat
  tag   : Word
deriving DecidableEq, Repr

/-- The thermal path of one side. Sums, exclusion maps, channel table, persistence map and histograms are in the
shared thermal SRAM (Table 11-3). -/
structure Thermal where
  tref       : Nat
  /-- core cycle of the last DTS_REF_SET -/
  refAt      : Nat
  staleUp    : Bool
  route      : Nat
  shots      : Nat
  first      : Word
  last       : Word
  satUp      : Bool
  /-- the last shot was launched under a hold in force (R19) -/
  held       : Bool
  /-- the Raman shot clock runs; complete and not released (R224) -/
  running    : Bool
  comp       : Option Completion
  parked     : List Parked
  /-- a parking or restoring transfer is under way (R223) -/
  transfer   : Bool
  bgOff      : Bool
  refOff     : Bool
  completed  : Nat
  discarded  : Nat
  /-- completions since the last HISTOGRAM frame, by route -/
  histDone   : List (Nat × Nat)
  /-- zones in alarm, and the channels' last temperatures -/
  alarms     : List Nat
  prev       : List LastTemp
deriving DecidableEq, Repr

/-! ### Girth (chapter 12) -/

/-- Girth's state of one side. -/
structure GirthSide where
  acquiring  : Bool
  /-- ACQ_STOP given, EV_ACQ_STOPPED not posted (R242) -/
  stopping   : Bool
  /-- core cycle the auto timer runs from (R251) -/
  autoAt     : Nat
  records    : Nat
  overlaps   : Nat
  tableFull  : Nat
  /-- dead time in core cycles (R253) -/
  dead       : Nat
  breakRoute : Nat
  breakMm    : Nat
  /-- the start of the present envelope interval, if one runs, as a tag in ns and in quarters of a ns of the monotonic
  count; the start tag of the digest -/
  envStart   : Option (Nat × Int)
  digStart   : Word
  /-- records opened, refused, overlaps and breaks of the present digest (R266) -/
  digest     : List Nat
  digestId   : BitVec 32
deriving DecidableEq, Repr

/-- What Girth collects of a zone for an envelope interval: by bin, least and greatest v in the PR16 scale, and the codes
seen. -/
structure EnvBin where
  lo    : Int
  hi    : Int
  codes : BitVec 4
deriving DecidableEq, Repr

/-- What an envelope interval holds of a zone while its route, its channels, CH_EXP and its scale stay (R14). -/
structure EnvPart where
  route : Nat
  chans : Nat
  exp   : Nat
  k     : Nat
  bins  : List EnvBin
deriving DecidableEq, Repr

/-- What Girth compares on a route: shot groups and power by gate since the last delta trace, reported values by segment
in 0.01 dB, whether a loss step is reported (R259, R260); consecutive checked groups with the lit end short and with it
back, and whether a break is reported (R261); the boundaries of the last group and of the first short one. -/
structure Delta where
  done   : Nat
  sums   : List (Nat × Nat)
  told   : List (Nat × Int)
  stepUp : Bool
  short  : Nat
  back   : Nat
  broken : Bool
  lastAt : Word
  seenAt : Word
deriving DecidableEq, Repr

/-- A frame of the stream (R314): its header fields, time tag and payload. -/
structure Frame where
  type    : Nat
  route   : Nat
  zone    : Nat
  first   : Nat
  count   : Nat
  history : Bool
  part    : Bool
  fade    : Bool
  format  : Nat
  prk     : Nat
  /-- an uncorrectable word was met in it (Table 16-5) -/
  bad     : Bool
  time    : Word
  payload : List Word
deriving DecidableEq, Repr

/-- A HISTORY_DUMP under way (R265): its zone and interval in ns, its channel range and destination, the held frames it
has not dumped yet, and what it has dumped. -/
structure Dump where
  zone      : Nat
  start     : Nat
  stop      : Nat
  firstCh   : Nat
  count     : Nat
  toDram    : Bool
  left      : List Frame
  frames    : Nat
  truncated : Bool
  /-- it stopped early, and the newest instant in ns that was overwritten when it started -/
  cut       : Bool
  lostTo    : Option Nat
  firstTag  : Word
  lastTag   : Word
deriving DecidableEq, Repr

/-- Girth, both sides. -/
structure Girth where
  a        : GirthSide
  b        : GirthSide
  /-- entries of the record table in use, and a refused trigger reported (R254) -/
  used     : Nat
  fullUp   : Bool
  lastId   : BitVec 32
  /-- output instants delivered and not yet evaluated -/
  waiting  : List ZoneOut
  env      : List (Nat × List EnvPart)
  delta    : List (Nat × Delta)
  /-- the HISTORY_DUMP under way, and those that wait for one a break-in abandoned (R103, R420) -/
  dump     : Option Dump
  dumpQ    : List Dump
  /-- the history ring, oldest first (R263, log 22), and the newest instant overwritten, in ns -/
  ring     : List Frame
  lostTo   : Option Nat
  /-- what each zone adds to a side's digest, side B's from 512 on: records closed, channel samples, those coded 0b01, largest peak, energy,
  highest and lowest T16 (R266) -/
  digZones : List (Nat × List Nat)
deriving DecidableEq, Repr

/-! ### Time base and Awl (chapter 13) -/

/-- The discipline states of TB.STATUS.STATE. -/
inductive TbState where | free | acquire | locked | freq | holdover
deriving DecidableEq, Repr

/-- A deferred TIME_SET (R279). -/
inductive Loader where
  | nextPps (tag : Word)
  | chainSync (tag : Word)
deriving DecidableEq, Repr

/-- The time base. `now` counts 2^−32 ns; y and yI are in 10^−12 (0.001 ppb). -/
structure TimeBase where
  now       : Nat
  /-- what the advance has left over below 2^−32 ns, in 10^−12 of it (R270) -/
  part      : Nat
  mono      : Nat
  set       : Bool
  state     : TbState
  y         : Int
  yI        : Int
  /-- y on entry to HOLDOVER, or TRIM, and the core cycle d counts from (R278) -/
  y0        : Int
  origin    : Nat
  /-- y of the last 64 seconds spent in LOCKED or FREQ, newest first -/
  past      : List Int
  phase     : Int
  good      : Nat
  bad       : Nat
  ppsUp     : Bool
  /-- core cycle of the last accepted edge (present) or last edge (pairing) -/
  ppsAt     : Option Nat
  refUp     : Bool
  refIn     : Bool
  refBad    : Nat
  refGood   : Nat
  /-- errors of the last 100 gates in 10^−12, newest first, and the mean of the last whole second -/
  gates     : List Int
  steps     : Nat
  rejects   : Nat
  holdovers : Nat
  loader    : Option Loader
deriving DecidableEq, Repr

/-- An Awl queue entry (Table 13-3). -/
structure TdcEntry where
  tag      : Word
  frac     : BitVec 8
  falling  : Bool
  unset    : Bool
  degraded : Bool
  seq      : BitVec 32
deriving DecidableEq, Repr

/-- An edge being converted: polarity, the time base in 1/256 ns at the core edge that starts the stop ring and that edge's
number in half core cycles, whether the counter was unset and the PLL not LOCKED then, and the configuration it was accepted
under (R282). -/
structure Conversion where
  falling  : Bool
  tc       : Nat
  half     : Nat
  unset    : Bool
  degraded : Bool
  cfg      : Word
deriving DecidableEq, Repr

/-- One Awl input: queue, accepted-edge count, counters, the core cycle of the last accepted edge, the conversion in
progress, the pair in service, both pairs' ΔTcal in fs, a calibrated pair waiting to take over, and what a calibration that
is under way is to find of the pair in service once the spare has taken over. -/
structure AwlInput where
  queue    : List TdcEntry
  seq      : BitVec 32
  ovf      : Nat
  deadMiss : Nat
  ovfUp    : Bool
  lastAt   : Option Nat
  conv     : Option Conversion
  pair     : Bool
  dt0      : Nat
  dt1      : Nat
  takeover : Bool
  /-- ΔTcal of the pair out of service before the calibration that waits to take over -/
  was      : Nat
  second   : Option Nat
  /-- ΔTcal in service at the last EV_TDC_CAL_DONE -/
  told     : Nat
deriving DecidableEq, Repr

/-! ### Auxiliary front end (chapter 14) -/

/-- What the sequencer is doing. -/
inductive SeqPhase where
  | stopped | waiting | settling | converting
deriving DecidableEq, Repr

/-- An entry's result (Table 14-3) and what the device remembers of it: 0 no break, 2 and 1 confirming conversions still
to come, 3 broken, 4 broken with the second confirming conversion still to come (R299); a burn-out entry's last conversion over-ranged positively; and events given. -/
structure AuxEntry where
  word0   : Word
  word1   : Word
  breakSt : Nat
  posOver : Bool
  implUp  : Bool
  ovr0Up  : Bool
  ovr1Up  : Bool
deriving DecidableEq, Repr

/-- The auxiliary front end. -/
structure Aux where
  phase     : SeqPhase
  entry     : Nat
  counted   : Nat
  settle    : Nat
  pendingTr : Bool
  overrunUp : Bool
  paused    : Bool
  pauseReq  : Bool
  overrun   : Nat
  wraps     : Nat
  tripped   : BitVec 16
  /-- LIM_OUT0 to 3 asserted, and a conversion has ended since start-up (R303) -/
  limOut    : BitVec 4
  limLive   : Bool
  /-- pins and settings of the last entry that converted; none: the next one is a change (R293) -/
  last      : Option (List Word)
  results   : List AuxEntry
deriving DecidableEq, Repr

/-! ### Latigo (chapter 15) -/

/-- The link states of Table 15-4. -/
inductive LatState where | down | training | up
deriving DecidableEq, Repr

/-- A drop episode: overflow or shedding, drops since the last DROP frame, types, first and last tag, and zones. -/
structure Drops where
  frames : Nat
  types  : BitVec 16
  first  : Word
  last   : Word
  zones  : BitVec 512
deriving DecidableEq, Repr

/-- The stream port. -/
structure Stream where
  state     : LatState
  /-- the lanes and LAT_CK are driven, their columns counted from a core cycle on (R309) -/
  driven    : Bool
  runAt     : Nat
  fcLocked  : Bool
  fcEver    : Bool
  laneOk    : BitVec 8
  okRun     : Nat
  credits   : Nat
  stallUp   : Bool
  seq       : BitVec 11
  everUp    : Bool
  fifo      : List Frame
  elastic   : List Frame
  marks     : List Frame
  /-- the slot of the mark area that its oldest frame lies in (R332; log 109) -/
  markAt    : Nat
  /-- MARK_CLOSE slots reserved by open records (R323) -/
  reserved  : Nat
  /-- the frame being sent with its SEQ, and one to send again (R313) -/
  sending   : Option (Frame × BitVec 11)
  resend    : Option (Frame × BitVec 11)
  /-- STREAM_TRAIN waits for the frame in progress -/
  trainWait : Bool
  overflow  : Bool
  shedding  : Bool
  markFull  : Bool
  highUp    : Bool
  drops     : Drops
  sent      : BitVec 32
  creditErr : Nat
  resent    : Nat
  dropCount : Nat
  episodes  : Nat
  /-- the last frame started, as it left, and the core cycles of its START and of the end of its trailer -/
  last      : Option (Frame × BitVec 11)
  sendAt    : Nat
  sendEnd   : Nat
deriving DecidableEq, Repr

/-! ### Memory and Lace (chapter 16) -/

/-- The external memory and its controller; the bytes are those of the host memory map (Table 01-10). -/
structure Mem where
  bytes       : List Host.Cell
  /-- fitted capacity in GiB -/
  fitted      : Nat
  usable      : Bool
  /-- the controller drives MEMA and MEMB: RESET_N is released and CKE follows it (R33) -/
  driven      : Bool
  map         : BitVec 2
  ecc         : Bool
  panic       : Bool
  /-- ports whose need reached PANIC_HI in this panic, the most refreshes postponed in it, and EV_DRAM_PANIC given -/
  panicWho    : BitVec 2
  panicTold   : Bool
  /-- the last need of RT0 reported, in sixteenths of its FIFO (16: full, R340) -/
  rt0         : Nat
  mostPost    : Nat
  postponed   : Nat
  /-- how often the refresh interval is halved, as MR4 demands (R331) -/
  refHalf     : Nat
  /-- ZQ calibration and DQS tracking postponed in panic, with the refresh intervals since (R338) -/
  zqWaits     : Option Nat
  dqsWaits    : Option Nat
  selfRefresh : Bool
  /-- core cycles of the last EV_DRAM_SELF_REFRESH, EV_DRAM_ECC_CORR and EV_DRAM_ECC_UNCORR -/
  srAt        : Option Nat
  corrAt      : Option Nat
  uncorrAt    : Option Nat
  panics      : Nat
  longPanics  : Nat
  timeouts    : Nat
  histLost    : Nat
  corr        : Nat
  uncorr      : Nat
  eccAddr     : Nat
  /-- which use of the tile SRAM by the Currier array or its self-test was the last, and the hide words written since -/
  tilesUsed   : Option Nat
  tileOwn     : List Nat
  /-- MEM_FILL under way: address, bytes left, pattern; and those that wait for it, the last one's slot alone not abandoned -/
  fill        : Option (Nat × Nat × Word)
  fillQ       : List (Nat × Nat × Word)
deriving DecidableEq, Repr

/-- Channel states of DMA.STATUS_n. -/
inductive DmaState where | idle | running | idleAtEnd | loop | fetchErr | aborted
deriving DecidableEq, Repr

/-- What a RUNNING channel is at: its fetch, its bursts, the end of its descriptor, or one more reading of its LINK word,
which a parked channel may be at too (Table 16-8). -/
inductive DmaPhase where | fetch | burst | ending | link
deriving DecidableEq, Repr

/-- A Lace channel: the descriptor's address, the copy fetched, bytes done, running CRC, and the cause found. -/
structure DmaChan where
  state : DmaState
  phase : DmaPhase
  kick  : Bool
  desc  : Nat
  count : Nat
  words : List Word
  done  : Nat
  entry : Option Nat
  crc   : BitVec 32
  cause : Nat
  abort : Bool
deriving DecidableEq, Repr

/-- Lace: the channels, and for each level the channel whose turn it is and the bursts it has had in it (R345). -/
structure Dma where
  chans : List DmaChan
  turns : List (Nat × Nat)
deriving DecidableEq, Repr

/-! ### Calibration and the stale line (chapters 01 and 17) -/

/-- A calibration group: its opaque trims with the temperature they were formed at, temperature, time and figures of the
last foreground run, whether that timed out, the figure codes outside threshold (Table 17-2), and the lane noise that the
run measured (R179). -/
structure CalGroup where
  trims   : List Word
  formed  : Int
  temp    : Int
  seconds : BitVec 32
  figures : List Nat
  kept    : Bool
  low     : BitVec 8
  noise   : Nat
deriving DecidableEq, Repr

/-- A CAL_RUN under way: groups named, ended, timed out, and low. -/
structure CalRun where
  mask : BitVec 17
  left : BitVec 17
  late : BitVec 17
  low  : BitVec 17
deriving DecidableEq, Repr

/-- Strop. Paths of the stale line are numbered as EV_CAL_STALE_BEGIN's detail: bit 0 side, bit 1 thermal (R19). -/
structure Cal where
  groups   : List CalGroup
  /-- groups under foreground calibration -/
  running  : BitVec 17
  runs     : List CalRun
  /-- records accepted and not yet applied (R371) -/
  writes   : List (Nat × List Word)
  /-- the start-up calibration: 0 none, 1 phase 1, 2 group 8 (R359) -/
  phase    : Nat
  /-- polarisations taken by Strop: A X, A Y, B X, B Y (R361); those that are due since their B1; and when, in core cycles,
  lanes were away (`pos` is the polarisation) -/
  taken    : BitVec 4
  due      : BitVec 4
  takes    : List Mark
  /-- sides whose Raman lanes Strop has taken (R362) -/
  raman    : BitVec 2
  /-- hold requests of Strop and of Cantle, holds in force -/
  strop    : BitVec 4
  cantle   : BitVec 4
  held     : BitVec 4
  /-- the paths whose EV_CAL_STALE_BEGIN is due and was acquiring or accumulating when requested -/
  marked   : BitVec 4
  /-- a background round of Awl that has not ended: its nonlinearity figure, and how many pairs it refuses (R286, R367) -/
  awlRound : Option (Nat × Nat)
deriving DecidableEq, Repr

/-! ### Cantle (chapter 18) -/

/-- A log entry (Table 18-3). -/
structure LogEntry where
  word0 : Word
  word1 : Word
deriving DecidableEq, Repr

/-- An open surge record (R384, R385). -/
structure Surge where
  openedAt : Nat
  tag      : Word
  unset    : Bool
  lastAt   : Nat
  domains  : BitVec 8
  burst    : Bool
  brownout : Bool
  stale    : Bool
  peaks    : List Nat
  lanes    : BitVec 8
  raman    : Bool
  count    : Nat
  /-- losses of lock and uncorrectable words during the record, and the links that were up at its opening (Table 18-4) -/
  unlocks  : Nat
  uncorr   : Nat
  links    : BitVec 3
deriving DecidableEq, Repr

/-- A self-test: its domains, what its record saw at opening, the core cycle it started, tiles tested, tiles failed and
lanes that gave FAIL. -/
structure SelfTest where
  domains : BitVec 8
  record  : Surge
  cycle   : Nat
  tiles   : Nat
  tileBad : Bool
  laneBad : BitVec 8
deriving DecidableEq, Repr

/-- An image slot's content: header and body bytes as stored, whether the scrub has met an uncorrectable word in them
(R389), and the header's version, SVN and revoke bits. -/
structure Image where
  bytes   : List Byte
  bad     : Bool
  version : BitVec 32
  svn     : BitVec 16
  revoke  : BitVec 4
deriving DecidableEq, Repr

/-- The slot states of MGT.UPD_STATUS. -/
inductive SlotState where | empty | part | stored | trial | valid | rejected
deriving DecidableEq, Repr

/-- An update session in MRAM (R392): slot (true: B), length, CRC, chunks by index. -/
structure Session where
  slotB : Bool
  total : Nat
  crc   : BitVec 32
  data  : List (Nat × List Word)
deriving DecidableEq, Repr

/-- Work on the update path (R392, R393): an UPDATE_BEGIN with its words, or an UPDATE_END. -/
inductive UpdWork where
  | begins (words : List Word)
  | ends
deriving DecidableEq, Repr

/-- What the health digest collects over a period (Table 18-2). -/
structure DigestAcc where
  tjMax   : Int
  tjSum   : Int
  samples : Nat
  rails   : BitVec 16
  surges  : Nat
  failed  : Nat
  mram    : Nat
  dram    : Nat
deriving DecidableEq, Repr

/-- Cantle. -/
structure Cantle where
  running   : Bool
  imageB    : Bool
  /-- VERSION of the image that runs from its SRAM -/
  version   : BitVec 32
  /-- tiles that the self-test at start-up has been through (R193) -/
  tested    : Nat
  /-- a restart under way: the cause of EV_WDT_CANTLE (R376) -/
  restart   : Option Nat
  temps     : List Int
  volts     : List Nat
  procs     : List Int
  /-- runs of samples out low, out high and in range, at the first monitor of each rail, and the events given (R57) -/
  outLow    : List Nat
  outHigh   : List Nat
  inside    : List Nat
  lowUp     : BitVec 16
  highUp    : BitVec 16
  warnRun   : List Nat
  coolRun   : Nat
  /-- the sensor that raised EV_OVERTEMP_WARN and has not returned (R379) -/
  warnUp    : Option Nat
  tempTold  : Int
  /-- the hottest sample since the last EQUIV_HOURS_MINUTE -/
  hot       : Option Int
  procUp    : BitVec 8
  acc       : DigestAcc
  digest    : List Word
  log       : List LogEntry
  logNext   : BitVec 32
  nearUp    : Bool
  /-- UPTO of each LOG_CLEAR under way, oldest first; all but the last a break-in abandoned (R103, R420) -/
  clear     : List (BitVec 32)
  /-- the start of the present second of log writing, and the entries written in it (R382) -/
  logSec    : Nat
  logRate   : Nat
  surge     : Option Surge
  latched   : BitVec 8
  /-- each EV_ADC_OVERRANGE_BURST of the last 10 ms: core cycle, lanes, Raman -/
  bursts    : List (Nat × BitVec 8 × Bool)
  surges    : List (List Word)
  /-- a close that waits for SELFTEST_START, the test in progress and the queued one (R386) -/
  due       : Option SelfTest
  test      : Option SelfTest
  queued    : Option SelfTest
  failed    : BitVec 13
  domains   : BitVec 8
  testedAt  : BitVec 32
  life      : List Nat
  /-- older copies of the lifetime counters, newest first; the core cycle of the last update, core cycles towards the
  next hour of words 0, 1, 3, 4, 18 and 19, and the equivalent hours in 10^−9 h -/
  lifeOld   : List (List Nat)
  lifeAt    : Nat
  lifeFrac  : List Nat
  equiv     : Nat
  slotA     : SlotState
  slotB     : SlotState
  imageA    : Image
  imageBi   : Image
  attempts  : Nat
  session   : Option Session
  buffer    : List (Nat × List Word)
  /-- works of the update path under way, oldest first; all but the last a break-in abandoned (R103, R420) -/
  works     : List UpdWork
  svnFloor  : BitVec 16
  revoked   : BitVec 4
  rollback  : Option Nat
  /-- EV_SWITCH_ENDURANCE given, by side, kept with the counters (R137) -/
  endured   : BitVec 2
  trialAt   : Option Nat
  /-- corrected-word events of each region: core cycle of the last -/
  mramAt    : List (Option Nat)
deriving DecidableEq, Repr

/-! ### The machine -/

/-- The state of one SL4880 and the commands waiting for it. -/
structure State where
  pwr     : Power
  pll     : Pll
  harn    : Harness
  brg     : Bridle
  evq     : Events
  live    : Cfg
  draft   : Cfg
  /-- RW parameters that differ from reset, and those MRAM keeps (R113, R329, R395) -/
  rw      : Store
  nv      : Store
  tacks   : Tacks
  lash    : Both Lash
  recv    : Recv
  cur     : Both Currier
  zones   : List (Nat × ZoneRun)
  base    : List (Nat × Baseline)
  therm   : Both Thermal
  girth   : Girth
  tb      : TimeBase
  awl     : List AwlInput
  aux     : Aux
  strm    : Stream
  tiles   : BitVec 64
  mem     : Mem
  dma     : Dma
  cal     : Cal
  can     : Cantle
  /-- the model's own: how many free values have been drawn (log 4) -/
  drawn   : Nat
  pending : List Instr
deriving DecidableEq, Repr

/-! ### Why a step can stop -/

/-- No command of the block faults: the spec gives every one an effect. The constructor is there for the interface and
nothing raises it (safe: it is never reached). -/
inductive Fault where
  | none
deriving DecidableEq, Repr

/-- Why a command has no meaning. -/
inductive Refusal where
  /-- an arm of `exec` whose meaning is not written; raised by that arm alone (safe: the machine stops) -/
  | notModelled (mnemonic : String)
deriving DecidableEq, Repr

/-! ### Reset -/

/-- One value for each side. -/
def Both.same {α : Type} (x : α) : Both α := ⟨x, x⟩

/-- The part of a side. -/
def Both.get {α : Type} (x : Both α) : Side → α
  | .a => x.a
  | .b => x.b

/-- Replace the part of a side. -/
def Both.set {α : Type} (x : Both α) : Side → α → Both α
  | .a, v => { x with a := v }
  | .b, v => { x with b := v }

/-- Factory defaults: every parameter at its reset value, no records (R111). -/
def Cfg.factory : Cfg :=
  { params := [], zones := [], trigs := [], routes := [], slots := [], scans := [], curves := [], seq := [] }

/-- The test access port in Test-Logic-Reset. -/
def Jtag.init : Jtag := { state := .testLogicReset, instr := none, shift := [] }

/-- VAON has just risen; PWR_EN is low and WAKE_REASON.VAON_POR is 1 (R44, R62). The pins stand as the internal pulls
leave them (R37, Table 02-4); LASER_EN is low. log 5. -/
def Power.init : Power :=
  { dev := .vaonRise, wake := 8, scratchLo := 0, scratchHi := 0, address := 0, pwrEn := false, psel := 0,
    testMode := false, laserEn := false, resetLow := false, vcore := false, xtFault := none, strap := 0, startQ := [],
    soft := none, hard := none, stand := none, powerKept := false, tripWake := false, tap := Jtag.init }

/-- The PLL before its reference is chosen. -/
def Pll.init : Pll :=
  { state := .off, refclk := false, freqCode := 0, refPresent := false, cfg := 0, change := none, refLost := false,
    synced := false, phaseKnown := false, unlockCount := 0, syncHeld := 0, syncWait := [] }

/-- A pair that drives its idle symbol from a core cycle on, the disparity negative (R72). -/
def LineOut.idleFrom (cycle : Nat) (idle : Symbol) : LineOut := { start := cycle, plus := false, syms := [], idle := idle }

/-- The idle symbols of a data pair, K28.1, and of a timing pair, K28.5 (Table 05-1). -/
def dataIdle : Symbol := { ctrl := true, byte := 0x3C }
def timingIdle : Symbol := { ctrl := true, byte := 0xBC }

/-- A timing output pair at idle. -/
def TimOut.init : TimOut := { busyUntil := 0, waiting := [], last := none, line := LineOut.idleFrom 0 timingIdle }

/-- The harness after reset (Tables 05-8 to 05-11). -/
def Harness.init : Harness :=
  { up := .noLink, down := .noLink, downEver := false, hopUp := 0, hopDown := 0, upCrc := 0, downCrc := 0,
    timErr := 0, replyDrop := 0, breakIn := false, measuring := false, sentDelay := none, own := none, clearDue := false,
    claim := none, outUp := none, outDown := none, upBusy := 0, downBusy := 0,
    lineUp := LineOut.idleFrom 0 dataIdle, lineDown := LineOut.idleFrom 0 dataIdle, timUp := TimOut.init, timDown := TimOut.init }

/-- Bridle after reset: 16 FREE slots (Table 06-3). -/
def Bridle.init : Bridle :=
  { storedH := none, storedU := none, slots := List.replicate 16 .free, recent := [], gate := .idle, replyH := none,
    replyU := none, sentU := none, lineU := [] }

/-- The empty queue (R396). -/
def Events.init : Events := { q := [], next := 0, lost := 0, logQ := [], logLost := 0 }

/-- An EMPTY Tack set. -/
def TackSet.empty : TackSet :=
  { erased := true, format := 0, member := 0, saves := 0, seconds := 0, cfg := Cfg.factory, cal := none, crc := 0 }

/-- Four EMPTY sets (log 6); nothing loaded. -/
def Tacks.init : Tacks :=
  { sets := List.replicate 4 TackSet.empty, op := none, loaded := 0, defaults := false, fallback := false,
    modified := false }

/-- Lash of a side after reset (Table 07-11, R125, R130). -/
def Lash.init : Lash :=
  { enabled := false, gate := .unverified, dacFault := false, wl := .off, lbias := 0, tec := 0, tecDriven := false,
    trims := List.replicate 8 1024, energies := List.replicate 8 0, atLimit := List.replicate 8 false,
    beyond := List.replicate 8 0, within := List.replicate 8 0, unlocked := List.replicate 8 false, running := false,
    entry := 0, dwellLeft := 0, seq := .none, position := 0, settleLeft := 0, extra := 0, rampLeft := 0, number := 0,
    launched := 0, proof := false, proofOff := false, proofDue := false, pulse := none, pulseAt := 0, cut := false, shots := [], missing := false, blocked := 0,
    count := 0, moved := [], taken := [], visit := 0, groupAt := 0, edges := [], void := [], strobeEnd := 0, trigEnd := 0 }

/-- A main lane before its first calibration: slices 0 to 7 in positions 0 to 7 (log 16). -/
def Lane.init : Lane :=
  { pos := [0, 1, 2, 3, 4, 5, 6, 7], retired := 0, raw := 0, fails := List.replicate 10 0, verdicts := List.replicate 8 0,
    trimmed := List.replicate 10 0, degraded := 0, marks := [], out := none, outTrims := [], outFigures := [], ovrCount := 0, ovrUp := false }

/-- The converters after reset (Table 08-7). -/
def Recv.init : Recv :=
  { lanes := List.replicate 8 Lane.init, lane := 0, fromAt := List.replicate 8 0, tally := [], dwells := 0, laneFails := 0, suspect := false, lastFail := none,
    borrowed := false, burstAt := none, ramanUp := 0 }

/-- A cleared detector (R246). -/
def Detector.init : Detector := { sta := 0, lta := 0, count := 0, on := false, hist := [] }

/-- A channel that has formed nothing. -/
def Channel.init : Channel :=
  { phi := 0, gap := 0, settle := 0, hist := [], sum := 0, value := 0, det := Detector.init }

/-- A zone that has formed nothing, DISARMED (R252). -/
def ZoneRun.init : ZoneRun :=
  { gates := [], chans := [], settle := 0, visit := 0, samples := 0, faded := 0, fadeUp := false, slipAt := none, restAt := none,
    state := .disarmed, disarm := false, record := none, closed := [], dead := 0, deadSince := none, past := [] }

/-- The Currier array of a side after reset (Table 09-6). -/
def Currier.init : Currier :=
  { groups := 0, slips := 0, restarts := 0, refMiss := 0, launchEst := 0, noiseCal := false,
    overload := false, satCount := 0, refGates := [], lastValid := [], returned := [], cfg := Cfg.factory,
    tags := [], power := [], clean := false, unheld := false, noise := List.replicate 16 0, guard := List.replicate 16 0,
    second := 0 }

/-- The thermal path of a side after reset (Table 11-4). -/
def Thermal.init : Thermal :=
  { tref := 0, refAt := 0, staleUp := false, route := 0, shots := 0, first := 0, last := 0, satUp := false,
    held := false, running := false, comp := none, parked := [], transfer := false, bgOff := false,
    refOff := false, completed := 0, discarded := 0, histDone := [], alarms := [], prev := [] }

/-- A route on which nothing is compared yet. -/
def Delta.init : Delta :=
  { done := 0, sums := [], told := [], stepUp := false, short := 0, back := 0, broken := false, lastAt := 0, seenAt := 0 }

/-- Girth of a side after reset (Table 12-9). -/
def GirthSide.init : GirthSide :=
  { acquiring := false, stopping := false, autoAt := 0, records := 0, overlaps := 0, tableFull := 0, dead := 0,
    breakRoute := 0, breakMm := 0, envStart := none, digStart := 0,
    digest := [0, 0, 0, 0], digestId := 0 }

/-- Girth after reset. -/
def Girth.init : Girth :=
  { a := GirthSide.init, b := GirthSide.init, used := 0, fullUp := false, lastId := 0, waiting := [], env := [],
    delta := [], dump := none, dumpQ := [], ring := [], lostTo := none, digZones := [] }

/-- The time base at a start-up: the counter at zero and unset (R272). -/
def TimeBase.init : TimeBase :=
  { now := 0, part := 0, mono := 0, set := false, state := .free, y := 0, yI := 0, y0 := 0, origin := 0, past := [], phase := 0,
    good := 0, bad := 0, ppsUp := false, ppsAt := none, refUp := false, refIn := false, refBad := 0, refGood := 0,
    gates := [], steps := 0, rejects := 0, holdovers := 0, loader := none }

/-- An Awl input after reset: an empty queue, pair 0 in service at the nominal 3906 fs (chapter 13). -/
def AwlInput.init : AwlInput :=
  { queue := [], seq := 0, ovf := 0, deadMiss := 0, ovfUp := false, lastAt := none, conv := none, pair := false,
    dt0 := 3906, dt1 := 3906, takeover := false, was := 3906, second := none, told := 3906 }

/-- An entry's result after reset: EMPTY is 1 (Table 14-3). -/
def AuxEntry.init : AuxEntry :=
  { word0 := 0, word1 := 1 <<< 55, breakSt := 0, posOver := false, implUp := false, ovr0Up := false, ovr1Up := false }

/-- The auxiliary front end after reset: stopped, LIM_OUT released (R32, R294). -/
def Aux.init : Aux :=
  { phase := .stopped, entry := 0, counted := 0, settle := 0, pendingTr := false, overrunUp := false, paused := false,
    pauseReq := false, overrun := 0, wraps := 0, tripped := 0, limOut := 0, limLive := false, last := none,
    results := List.replicate 64 AuxEntry.init }

/-- No drops. -/
def Drops.none : Drops := { frames := 0, types := 0, first := 0, last := 0, zones := 0 }

/-- The stream port after reset: DOWN, lanes at high impedance (Table 15-4). -/
def Stream.init : Stream :=
  { state := .down, driven := false, runAt := 0, fcLocked := false, fcEver := false, laneOk := 0, okRun := 0, credits := 0,
    stallUp := false, seq := 0, everUp := false, fifo := [], elastic := [], marks := [], markAt := 0, reserved := 0, sending := none,
    resend := none, trainWait := false, overflow := false, shedding := false, markFull := false, highUp := false,
    drops := Drops.none, sent := 0, creditErr := 0, resent := 0, dropCount := 0, episodes := 0, last := none, sendAt := 0, sendEnd := 0 }

/-- The memory before training: not usable, nothing written (log 7); fitted with 2 GiB until training finds out. -/
def Mem.init : Mem :=
  { bytes := [], fitted := 2, usable := false, driven := false, map := 0, ecc := false, panic := false, panicWho := 0, panicTold := false, rt0 := 0, mostPost := 0,
    postponed := 0, refHalf := 0, zqWaits := none, dqsWaits := none, selfRefresh := false, srAt := none, corrAt := none,
    uncorrAt := none, panics := 0, longPanics := 0, timeouts := 0, histLost := 0, corr := 0, uncorr := 0, eccAddr := 0,
    tilesUsed := none, tileOwn := [], fill := none, fillQ := [] }

/-- An IDLE Lace channel. -/
def DmaChan.init : DmaChan :=
  { state := .idle, phase := .fetch, kick := false, desc := 0, count := 0, words := [], done := 0, entry := none, crc := 0xFFFFFFFF,
    cause := 0, abort := false }

/-- Lace after reset. -/
def Dma.init : Dma := { chans := List.replicate 16 DmaChan.init, turns := List.replicate 4 (0, 0) }

/-- A calibration group before its first run; its trims are the factory trims, opaque (log 17). -/
def CalGroup.init : CalGroup :=
  { trims := [], formed := 0, temp := 0, seconds := 0, figures := [], kept := false, low := 0, noise := 0 }

/-- Strop after reset. -/
def Cal.init : Cal :=
  { groups := List.replicate 17 CalGroup.init, running := 0, runs := [], writes := [], phase := 0, taken := 0, due := 0, takes := [], raman := 0,
    strop := 0, cantle := 0, held := 0, marked := 0, awlRound := none }

/-- An empty digest period. -/
def DigestAcc.init : DigestAcc :=
  { tjMax := -32768, tjSum := 0, samples := 0, rails := 0, surges := 0, failed := 0, mram := 0, dram := 0 }

/-- An image of which the model holds no bytes: the one Horyr ships (log 6). -/
def Image.shipped : Image := { bytes := [], bad := false, version := 0, svn := 0, revoke := 0 }

/-- Cantle before it boots; its MRAM as shipped: images A and B VALID, empty log, counters at 0 (log 6). -/
def Cantle.init : Cantle :=
  { running := false, imageB := false, version := 0, tested := 0, restart := none, temps := List.replicate 12 0, volts := List.replicate 16 0,
    procs := List.replicate 8 0, outLow := List.replicate 16 0, outHigh := List.replicate 16 0,
    inside := List.replicate 16 0, lowUp := 0, highUp := 0, warnRun := List.replicate 12 0, coolRun := 0,
    warnUp := none, tempTold := 0, hot := none, procUp := 0, acc := DigestAcc.init, digest := List.replicate 6 0, log := [],
    logNext := 0, nearUp := false, clear := [], logSec := 0, logRate := 0, surge := none, latched := 0, bursts := [],
    surges := [], due := none, test := none, queued := none, failed := 0, domains := 0, testedAt := 0,
    life := List.replicate 24 0, lifeOld := [], lifeAt := 0, lifeFrac := List.replicate 6 0, equiv := 0, slotA := .valid, slotB := .valid, imageA := Image.shipped, imageBi := Image.shipped,
    attempts := 0, session := none, buffer := [], works := [], svnFloor := 0, revoked := 0,
    rollback := none, endured := 0, trialAt := none, mramAt := List.replicate 5 none }

/-- The device right after VAON has powered on, nothing else yet good (R44, R62; log 5). -/
def State.reset : State :=
  { pwr := Power.init, pll := Pll.init, harn := Harness.init, brg := Bridle.init, evq := Events.init,
    live := Cfg.factory, draft := Cfg.factory, rw := [], nv := [], tacks := Tacks.init, lash := .same Lash.init,
    recv := Recv.init, cur := .same Currier.init, zones := [], base := [], therm := .same Thermal.init,
    girth := Girth.init, tb := TimeBase.init, awl := List.replicate 11 AwlInput.init, aux := Aux.init,
    strm := Stream.init, tiles := BitVec.allOnes 64, mem := Mem.init, dma := Dma.init, cal := Cal.init,
    can := Cantle.init, drawn := 0, pending := [] }

end Sys2Proof.Machine
end

