-- ==== Sys2Proof/Machine/Ops.lean ====
section
/-!
DEFINITION. The shared operations over the state: bit fields, tables with defaults, memory, CRC-32C, time tags, event
posting, deferred slots and replies. Every meaning is written over these.
-/

/-- 0 for side A, 1 for side B. -/
def Sys2Proof.Side.num : Sys2Proof.Side → Nat
  | .a => 0
  | .b => 1

namespace Sys2Proof.Machine

/-! ### Bit fields -/

/-- Bits [hi:lo] of a hide word as a number. -/
def fld (w : Word) (hi lo : Nat) : Nat := w.toNat / 2 ^ lo % 2 ^ (hi + 1 - lo)

/-- Bit i of a hide word. -/
def bit (w : Word) (i : Nat) : Bool := w.toNat.testBit i

/-- Bits [hi:lo] as a two's-complement number. -/
def sfld (w : Word) (hi lo : Nat) : Int := (BitVec.ofNat (hi + 1 - lo) (fld w hi lo)).toInt

/-- A hide word from fields (lowest bit, width, value); a value keeps its low bits. -/
def mk (fs : List (Nat × Nat × Nat)) : Word :=
  BitVec.ofNat 64 (fs.foldl (fun a f => a + f.2.2 % 2 ^ f.2.1 * 2 ^ f.1) 0)

/-- A signed value in n bits. -/
def sbits (n : Nat) (x : Int) : Nat := (BitVec.ofInt n x).toNat

/-- One bit as a number. -/
def b2n (b : Bool) : Nat := if b then 1 else 0

/-- No bit outside the mask is set (R8). -/
def within (mask w : Word) : Bool := w &&& ~~~ mask == 0

/-- Count up, saturating at 2^n − 1. -/
def sat (n x : Nat) : Nat := min x (2 ^ n - 1)

/-- The ceiling of a / b. -/
def cdiv (a b : Nat) : Nat := (a + b - 1) / b

/-- Word i of a payload, 0 beyond its end. -/
def wd (p : List Word) (i : Nat) : Word := p.getD i 0

/-! ### Lists with defaults, strictly rising by key -/

/-- The value at a key, the default where it is not listed. -/
def kvGet {α : Type} (d : α) : List (Nat × α) → Nat → α
  | [], _ => d
  | (k, v) :: t, a => if a = k then v else kvGet d t a

/-- Write a key; a default value removes its entry. -/
def kvSet {α : Type} [DecidableEq α] (d : α) : List (Nat × α) → Nat → α → List (Nat × α)
  | [], a, b => if b = d then [] else [(a, b)]
  | (k, v) :: t, a, b =>
    if a < k then (if b = d then (k, v) :: t else (a, b) :: (k, v) :: t)
    else if a = k then (if b = d then t else (a, b) :: t)
    else (k, v) :: kvSet d t a b

/-- Every key lies above the bound, keys rise strictly, and no entry holds the default. -/
def kvWf {α : Type} [DecidableEq α] (d : α) : Option Nat → List (Nat × α) → Bool
  | _, [] => true
  | lo, (k, v) :: t => (match lo with | none => true | some b => decide (b < k)) && decide (v ≠ d) && kvWf d (some k) t

/-- The entry of a plain list with one changed; a list too short stays as it is. -/
def upd {α : Type} (l : List α) (i : Nat) (f : α → α) : List α := l.modify i f

/-- Add to a count kept by key. -/
def bump (l : List (Nat × Nat)) (k n : Nat) : List (Nat × Nat) := kvSet 0 l k (kvGet 0 l k + n)

/-! ### Memory: the bytes of Table 01-10; an unlisted byte reads 0 (log 7) -/

/-- Read one byte. -/
def memGet (m : List Host.Cell) (a : Nat) : Byte := kvGet 0 m a

/-- Write one byte. -/
def memSet (m : List Host.Cell) (a : Nat) (b : Byte) : List Host.Cell := kvSet 0 m a b

/-- The canonical form of memory. -/
def Memory.wf (m : List Host.Cell) : Bool := kvWf (0 : Byte) none m

/-- The eight bytes of a hide word, little-endian (R7). -/
def wordBytes (w : Word) : List Byte := (List.range 8).map fun i => BitVec.ofNat 8 (w.toNat / 2 ^ (8 * i))

/-- A hide word from its bytes. -/
def bytesWord (l : List Byte) : Word :=
  BitVec.ofNat 64 (l.take 8 |>.foldr (fun b a => b.toNat + 256 * a) 0)

/-- Write bytes from an address on. -/
def memPut (m : List Host.Cell) (a : Nat) : List Byte → List Host.Cell
  | [] => m
  | b :: t => memPut (memSet m a b) (a + 1) t

/-- Read the hide word at an address. -/
def memWord (m : List Host.Cell) (a : Nat) : Word :=
  bytesWord ((List.range 8).map fun i => memGet m (a + i))

/-- Write hide words from an address on. -/
def memPutWords (m : List Host.Cell) (a : Nat) (ws : List Word) : List Host.Cell :=
  memPut m a (ws.flatMap wordBytes)

/-- Read n hide words from an address on. -/
def memWords (m : List Host.Cell) (a n : Nat) : List Word := (List.range n).map fun i => memWord m (a + 8 * i)

/-- Clear a run of bytes. -/
def memClear (m : List Host.Cell) (a n : Nat) : List Host.Cell := m.filter fun c => c.1 < a || a + n ≤ c.1

/-- A port request reaches the DRAM, which leaves self-refresh (R341). -/
def wakeMem (s : State) : State := { s with mem := { s.mem with selfRefresh := false } }

/-- Change the bytes of the map; in DRAM. -/
def setBytes (f : List Host.Cell → List Host.Cell) (s : State) : State :=
  { s with mem := { s.mem with bytes := f s.mem.bytes } }

def dramBytes (f : List Host.Cell → List Host.Cell) (s : State) : State := wakeMem (setBytes f s)

/-- The Currier array, or its self-test, writes the tile SRAM. -/
def useTiles (s : State) : State :=
  { s with mem := { s.mem with tilesUsed := some s.drawn, tileOwn := [] }, drawn := s.drawn + 1 }

/-! ### CRC-32C (R94) -/

/-- One bit of the reflected CRC. -/
def crcBit (c : BitVec 32) : BitVec 32 := if c.getLsbD 0 then (c >>> 1) ^^^ 0x82F63B78 else c >>> 1

/-- One byte of the CRC. -/
def crcByte (c : BitVec 32) (b : Byte) : BitVec 32 := Nat.repeat crcBit 8 (c ^^^ b.zeroExtend 32)

/-- The running CRC over bytes, seed and final XOR apart. -/
def crcRun (c : BitVec 32) (l : List Byte) : BitVec 32 := l.foldl crcByte c

/-- The CRC-32C of bytes. -/
def crc32c (l : List Byte) : BitVec 32 := ~~~ crcRun 0xFFFFFFFF l

/-- The CRC-32C of hide words. -/
def crcWords (ws : List Word) : BitVec 32 := crc32c (ws.flatMap wordBytes)

/-! ### Event numbers (Table 19-2) -/

abbrev evPor : Nat := 0
abbrev evBrownout : Nat := 1
abbrev evWdtCantle : Nat := 2
abbrev evWdtBridle : Nat := 3
abbrev evStandbyExit : Nat := 4
abbrev evTackFallback : Nat := 5
abbrev evDefaultsLoaded : Nat := 6
abbrev evClockLoss : Nat := 7
abbrev evPllUnlock : Nat := 8
abbrev evRailLow : Nat := 9
abbrev evRailHigh : Nat := 10
abbrev evOvertempWarn : Nat := 11
abbrev evOvertempTrip : Nat := 12
abbrev evLaserInterlock : Nat := 13
abbrev evBootImageB : Nat := 14
abbrev evResetCmd : Nat := 15
abbrev evChainUpLock : Nat := 16
abbrev evChainUpLoss : Nat := 17
abbrev evChainDownLock : Nat := 18
abbrev evChainDownLoss : Nat := 19
abbrev evChainCrc : Nat := 20
abbrev evChainBreakin : Nat := 21
abbrev evAddrAssigned : Nat := 22
abbrev evTimingSymErr : Nat := 23
abbrev evCmdRejected : Nat := 24
abbrev evCmdDone : Nat := 25
abbrev evCommitApplied : Nat := 26
abbrev evCommitFailed : Nat := 27
abbrev evMgtUartErr : Nat := 28
abbrev evDeferredOverflow : Nat := 29
abbrev evArmReceived : Nat := 30
abbrev evFireReceived : Nat := 31
abbrev evAcqStarted : Nat := 32
abbrev evAcqStopped : Nat := 33
abbrev evTrigLocal : Nat := 34
abbrev evTrigAuto : Nat := 35
abbrev evRecordClosed : Nat := 36
abbrev evDeadtime : Nat := 37
abbrev evRecordTableFull : Nat := 38
abbrev evRetrigOverlap : Nat := 39
abbrev evDeltaTrace : Nat := 40
abbrev evFibreBreak : Nat := 41
abbrev evFibreLossStep : Nat := 42
abbrev evHistoryWrap : Nat := 43
abbrev evCurrierOverload : Nat := 44
abbrev evUnwrapSlip : Nat := 45
abbrev evFadeLow : Nat := 46
abbrev evThermalAlarm : Nat := 47
abbrev evAdcOverrange : Nat := 48
abbrev evAdcOverrangeBurst : Nat := 49
abbrev evAdcImplausible : Nat := 50
abbrev evAdcSliceRetired : Nat := 51
abbrev evDtsOverrange : Nat := 52
abbrev evAuxSeqWrap : Nat := 53
abbrev evAuxTrigOverrun : Nat := 54
abbrev evAuxWireBreak : Nat := 55
abbrev evAuxImplausible : Nat := 56
abbrev evAuxLimit : Nat := 57
abbrev evAuxExcitCompliance : Nat := 58
abbrev evAuxOverrange : Nat := 59
abbrev evDtsRefStale : Nat := 60
abbrev evDtsAccumDone : Nat := 61
abbrev evDtsSaturation : Nat := 62
abbrev evRxSettleLong : Nat := 63
abbrev evEmitEnabled : Nat := 64
abbrev evEmitDisabled : Nat := 65
abbrev evGateOpenLoad : Nat := 66
abbrev evGateShort : Nat := 67
abbrev evGateUnverified : Nat := 68
abbrev evPowerLoopLimit : Nat := 69
abbrev evPowerLoopUnlock : Nat := 70
abbrev evWavelockAcquired : Nat := 71
abbrev evWavelockLost : Nat := 72
abbrev evTecLimit : Nat := 73
abbrev evLbiasLimit : Nat := 74
abbrev evRouteSwitched : Nat := 75
abbrev evSwitchEndurance : Nat := 76
abbrev evAprActive : Nat := 77
abbrev evDacFault : Nat := 78
abbrev evLaunchMissing : Nat := 79
abbrev evRefPresent : Nat := 80
abbrev evRefAbsent : Nat := 81
abbrev evPpsPresent : Nat := 82
abbrev evPpsAbsent : Nat := 83
abbrev evHoldover : Nat := 84
abbrev evTimeStep : Nat := 85
abbrev evTdcQueueOvf : Nat := 86
abbrev evTdcEdge : Nat := 87
abbrev evSyncReceived : Nat := 88
abbrev evDividerResync : Nat := 89
abbrev evXtalFault : Nat := 90
abbrev evRefOutOfWindow : Nat := 91
abbrev evAgeingApplied : Nat := 92
abbrev evChainTimeSet : Nat := 93
abbrev evTdcCalDone : Nat := 94
abbrev evTimeUnset : Nat := 95
abbrev evDmaDone : Nat := 96
abbrev evDmaDescBad : Nat := 97
abbrev evDmaFetchErr : Nat := 98
abbrev evDmaLoop : Nat := 99
abbrev evDmaIdleAtEnd : Nat := 100
abbrev evDramEccCorr : Nat := 101
abbrev evDramEccUncorr : Nat := 102
abbrev evDramPanic : Nat := 103
abbrev evDramTrainFail : Nat := 104
abbrev evDramSelfRefresh : Nat := 105
abbrev evStreamUp : Nat := 106
abbrev evStreamDown : Nat := 107
abbrev evStreamCreditStall : Nat := 108
abbrev evElasticHigh : Nat := 109
abbrev evStreamDrop : Nat := 110
abbrev evStreamTrainFail : Nat := 111
abbrev evCalDone : Nat := 112
abbrev evCalTimeout : Nat := 113
abbrev evCalQualityLow : Nat := 114
abbrev evCalStaleBegin : Nat := 115
abbrev evCalStaleEnd : Nat := 116
abbrev evTempMon : Nat := 117
abbrev evVoltMon : Nat := 118
abbrev evProcMonDrift : Nat := 119
abbrev evSurge : Nat := 120
abbrev evLogNearFull : Nat := 121
abbrev evMramCorr : Nat := 122
abbrev evMramWear : Nat := 123
abbrev evUpdateStored : Nat := 124
abbrev evUpdateBadSig : Nat := 125
abbrev evUpdateRolledBack : Nat := 126
abbrev evHealthDigest : Nat := 127

/-- The severities of Table 19-2, two bits an event: 0 INFO, 1 NOTICE, 2 WARNING, 3 FAULT. -/
def severity (n : Nat) : Nat :=
  0x399ba168fa83b4f840a42544be2a29f4526691a9a76c6404098049986fabf9ad / 4 ^ n % 4

/-! ### Time (R23, R270) -/

/-- Core cycles in a microsecond, a millisecond and a second. -/
abbrev usCycles : Nat := 400
abbrev msCycles : Nat := 400000
abbrev sCycles : Nat := 400000000

/-- A time tag from whole nanoseconds. -/
def tagOfNs (ns : Nat) : Word := mk [(0, 30, ns % 1000000000), (30, 34, ns / 1000000000)]

/-- The whole nanoseconds of a time tag. -/
def nsOfTag (t : Word) : Nat := fld t 63 30 * 1000000000 + fld t 29 0

/-- A time tag is valid (R23). -/
def tagOk (w : Word) : Bool := fld w 29 0 ≤ 999999999

/-- The present time tag: the counter with its fraction truncated (R270). -/
def now (s : State) : Word := tagOfNs (s.tb.now / 2 ^ 32)

/-- The tag of an instant so many core cycles away from now, as the counter will read it or has read it. -/
def tagAt (s : State) (cycle : Nat) : Word :=
  tagOfNs ((s.tb.now / 2 ^ 31 + cycle * 5 - s.tb.mono * 5) / 2)

/-! ### Events (R17, R399, R400) -/

/-- Is bit n of a 128-bit pair of parameters set? -/
def pairBit (lo hi : Word) (n : Nat) : Bool := if n < 64 then bit lo n else bit hi (n - 64)

/-- EVT.DISCARD names the event. -/
def discarded (s : State) (n : Nat) : Bool := pairBit (kvGet 0 s.rw 0x52) (kvGet 0 s.rw 0x53) n

/-- EVT.CTRL.LOG_ALL. -/
def logAll (s : State) : Bool := bit (kvGet 0 s.rw 0x54) 0

/-- Store a posting in the queue, or count it when 1024 are held; offer it to the log, whose buffer holds 256. -/
def Events.push (e : Events) (n d : Nat) (tag : Word) (unset drop log : Bool) : Events :=
  let full := 1024 ≤ e.q.length
  let room := (e.logQ.filter fun x => x.code < 128).length < 256
  { q := if drop || full then e.q
         else e.q ++ [{ tag := tag, event := n, unset := unset, detail := BitVec.ofNat 16 d, qseq := e.next }]
    next := if drop || full then e.next else e.next + 1
    lost := if !drop && full then sat 16 (e.lost + 1) else e.lost
    logQ := if log && room then
        e.logQ ++ [{ tag := tag, type := 0, code := n, unset := unset, detail := BitVec.ofNat 16 d, data := [] }]
      else e.logQ
    logLost := if log && !room then sat 16 (e.logLost + 1) else e.logLost }

/-- Post an event with a given time tag. -/
def postAt (n d : Nat) (tag : Word) (s : State) : State :=
  { s with evq := s.evq.push n d tag (!s.tb.set) (discarded s n) (1 ≤ severity n || logAll s) }

/-- Post an event now. -/
def post (n d : Nat) (s : State) : State := postAt n d (now s) s

/-- The plane that posts an event: 0 data, 1 control, 2 management. Table 01-1 gives the harness and Bridle to control and
Cantle and Strop to management; that supplies, resets and clocks are control and all else is data is log 82's choice. -/
def plane (n : Nat) : Nat :=
  if n ≤ 1 ∨ (4 ≤ n ∧ n ≤ 8) ∨ (15 ≤ n ∧ n ≤ 31) ∨ n = 88 ∨ n = 89 then 1
  else if n = 2 ∨ n = 3 ∨ (9 ≤ n ∧ n ≤ 12) ∨ n = 14 ∨ 112 ≤ n then 2
  else 0

/-- The members of a list that have a property, replaced in turn by others. -/
def replaceEach {α : Type} (p : α → Bool) : List α → List α → List α
  | _, [] => []
  | [], xs => xs
  | y :: ys, x :: xs => if p x then y :: replaceEach p ys xs else x :: replaceEach p (y :: ys) xs

/-- Completions in ascending slot order, at the places where completions stand (R420). -/
def bySlot {α : Type} (event detail : α → Nat) (l : List α) : List α :=
  let done := fun x => event x == evCmdDone
  replaceEach done ((List.range 16).flatMap fun k => l.filter fun x => done x && detail x % 16 == k) l

/-- Postings in the order data, control, management (R17), each plane's in their own order but for completions (R420). -/
def inPlanes {α : Type} (event detail : α → Nat) (l : List α) : List α :=
  bySlot event detail ([0, 1, 2].flatMap fun k => l.filter fun e => plane (event e) == k)

/-- An item is offered to the log, whose buffer holds 256 events (R375). -/
def Events.offer (e : Events) (x : LogItem) : Events :=
  if x.type = 0 ∧ 256 ≤ (e.logQ.filter fun y => y.code < 128).length then { e with logLost := sat 16 (e.logLost + 1) }
  else { e with logQ := e.logQ ++ [x] }

/-- Everything a function posts enters in the order of the planes (R17). -/
def planes (f : State → State) (s : State) : State :=
  let t := f { s with evq := { s.evq with q := [], logQ := [] } }
  let e := (inPlanes (·.event) (·.detail.toNat) t.evq.q).foldl
    (fun e x => e.push x.event x.detail.toNat x.tag x.unset false false)
    { t.evq with q := s.evq.q, next := s.evq.next, lost := s.evq.lost, logQ := s.evq.logQ }
  let logged := inPlanes (fun x : LogItem => if x.type = 0 then x.code else 127) (·.detail.toNat) t.evq.logQ
  let ended := t.brg.recent.length - s.brg.recent.length
  { t with evq := logged.foldl Events.offer e
           brg := { t.brg with recent :=
             ((List.range 16).reverse.filter fun k => (t.brg.recent.take ended).contains k) ++ t.brg.recent.drop ended } }

/-- Post an event when a condition holds. -/
def postIf (c : Bool) (n d : Nat) (s : State) : State := if c then post n d s else s

/-- Hand a record of Cantle's own to the log (R382): its code, detail, tag with whether the time was unset then, and data
words, the first with the entry. -/
def logRecordOf (code d : Nat) (tag : Word) (unset : Bool) (data : List Word) (s : State) : State :=
  { s with evq := { s.evq with logQ := s.evq.logQ ++
      [{ tag := tag, type := 1, code := code, unset := unset, detail := BitVec.ofNat 16 d, data := data }] } }

/-- A record of this instant. -/
def logRecord (code d : Nat) (tag : Word) (data : List Word) (s : State) : State := logRecordOf code d tag (!s.tb.set) data s

/-! ### Sides -/

/-- The side of a number or a flag. -/
def sideOf (n : Nat) : Side := if n % 2 = 0 then .a else .b

/-- The side of a route number (Table 10-1). -/
def routeSide (r : Nat) : Side := if r < 4 then .a else .b

/-- Do something for side A, then for side B. -/
def bothSides (f : Side → State → State) (s : State) : State := f .b (f .a s)

/-- Change what Girth holds of a side. -/
def Girth.side (g : Girth) : Side → GirthSide
  | .a => g.a
  | .b => g.b

def Girth.setSide (g : Girth) : Side → GirthSide → Girth
  | .a, v => { g with a := v }
  | .b, v => { g with b := v }

/-- A side acquires (R242, GIRTH.STATUS.ACQUIRING). -/
def acquiring (s : State) (d : Side) : Bool := (s.girth.side d).acquiring

/-- Either side acquires. -/
def anyAcquiring (s : State) : Bool := acquiring s .a || acquiring s .b

/-- The channels of a completed accumulation are being computed (R224). -/
def Thermal.computing (t : Thermal) : Bool := t.comp.isSome

/-- A thermal path is accumulating (DTS.STATUS.ACCUMULATING). -/
def accumulating (s : State) (d : Side) : Bool := (s.therm.get d).running

/-- Either thermal path is accumulating. -/
def anyAccumulating (s : State) : Bool := accumulating s .a || accumulating s .b

def setLash (d : Side) (f : Lash → Lash) (s : State) : State := { s with lash := s.lash.set d (f (s.lash.get d)) }
def setGirth (d : Side) (f : GirthSide → GirthSide) (s : State) : State :=
  { s with girth := s.girth.setSide d (f (s.girth.side d)) }
def setCur (d : Side) (f : Currier → Currier) (s : State) : State := { s with cur := s.cur.set d (f (s.cur.get d)) }
def setTherm (d : Side) (f : Thermal → Thermal) (s : State) : State :=
  { s with therm := s.therm.set d (f (s.therm.get d)) }

/-- What the data plane keeps of a zone. -/
def zoneRun (s : State) (z : Nat) : ZoneRun := kvGet ZoneRun.init s.zones z

def setZone (z : Nat) (f : ZoneRun → ZoneRun) (s : State) : State :=
  { s with zones := kvSet ZoneRun.init s.zones z (f (zoneRun s z)) }

/-! ### Deferred slots (Table 06-3, R101, R102) -/

/-- Two resources cannot be held together: the same, or calibration groups in common. -/
def Res.clash : Res → Res → Bool
  | .cal a, .cal b => a &&& b != 0
  | .dmaAbort _, _ => false
  | .memRead _ _, _ => false
  | r, q => r == q

/-- A RUNNING command holds something that clashes. -/
def held (s : State) (r : Res) : Bool :=
  s.brg.slots.any fun x => match x with | .running q => q.clash r | _ => false

/-- The lowest-numbered FREE slot. -/
def freeSlot (s : State) : Option Nat := s.brg.slots.findIdx? (· == .free)

/-- A slot becomes DONE with a status and a result, and EV_CMD_DONE is posted (R101). -/
def slotDone (k st : Nat) (res : List Word) (s : State) : State :=
  post evCmdDone (k + 256 * st)
    { s with brg := { s.brg with slots := s.brg.slots.set k (.done (BitVec.ofNat 8 st) res),
                                 recent := k :: s.brg.recent } }

/-- The work of a resource ends: its slot, if the command was not abandoned, becomes DONE. -/
def finish (r : Res) (st : Nat) (res : List Word) (s : State) : State :=
  match s.brg.slots.findIdx? (· == .running r) with
  | some k => slotDone k st res s
  | none => s

/-- A work ends; where a break-in has abandoned it, no slot is told (R103): one that runs is that of a later command. -/
def endsFor (abandoned : Bool) (f : State → State) (s : State) : State :=
  if abandoned then
    let t := f { s with brg := { s.brg with slots := List.replicate 16 .free, recent := [] } }
    { t with brg := { t.brg with slots := s.brg.slots, recent := s.brg.recent } }
  else f s

/-- The resource has a command that was not abandoned. -/
def wanted (s : State) (r : Res) : Bool := s.brg.slots.any (· == .running r)

/-! ### Status codes (Table 06-2) -/

abbrev stOk : Nat := 0x00
abbrev stAccepted : Nat := 0x01
abbrev stBusy : Nat := 0x02
abbrev stBadOpcode : Nat := 0x10
abbrev stBadLength : Nat := 0x11
abbrev stBadValue : Nat := 0x12
abbrev stBadState : Nat := 0x13
abbrev stConflict : Nat := 0x14
abbrev stCrcError : Nat := 0x20
abbrev stNotReady : Nat := 0x30
abbrev stDenied : Nat := 0x40
abbrev stInternal : Nat := 0xFF

/-- A reply with a status, a detail and a payload. -/
def reply (st d : Nat) (p : List Word) : Reply := { status := BitVec.ofNat 8 st, detail := BitVec.ofNat 8 d, payload := p }

/-- OK with a payload. -/
def okReply (p : List Word) : Reply := reply stOk 0 p

/-- The outcome of every meaning: a next state. -/
abbrev Out := Host.Outcome State Fault Refusal

end Sys2Proof.Machine
end

