-- ==== Sys2Proof/Machine/Operands.lean ====
section
/-!
DEFINITION. The operand forms: the parameter table by ID (Tables 03-5 to 18-10) with access, reset value, defined bits
and value checks; the staged records with theirs; and the distance axis of a route.
-/
namespace Sys2Proof.Machine

/-! ### Rounding -/

/-- A quotient to the nearest; a half may go either way (log 4). -/
def nearest (place num den : Nat) : Nat :=
  if 2 * num % (2 * den) = den then (Config.quot place num den).toNat else (2 * num + den) / (2 * den)

/-- The same of a number with a sign. -/
def nearestInt (place : Nat) (num : Int) (den : Nat) : Int :=
  if num < 0 then -(nearest place num.natAbs den : Int) else nearest place num.natAbs den

/-! ### The parameter table -/

/-- Access of a parameter (Table 00-5), with RW divided by where the value lives: the volatile store, MRAM, or a unit of
its own. -/
inductive PAccess where | ro | rw | nv | own | wo | rws
deriving DecidableEq, Repr

/-- One parameter, or `count` of them at consecutive IDs; `sides`: another for side B at ID + 0x100. -/
structure PRow where
  id    : Nat
  count : Nat
  sides : Bool
  acc   : PAccess
  reset : Word
  mask  : Word
deriving DecidableEq, Repr

/-- Parameters of the control plane (Tables 03-5, 04-3 to 04-8, 05-8 to 05-11, 06-4, 06-11, 06-12, 19-4). -/
def pControl : List PRow := [
  ⟨0x0010, 1, false, .ro, 0, 0⟩, ⟨0x0011, 2, false, .own, 0, 0xFFFFFFFFFFFFFFFF⟩,
  ⟨0x0020, 1, false, .ro, 0, 0⟩, ⟨0x0021, 1, false, .own, 0, 0x3FFFF⟩, ⟨0x0022, 1, false, .rw, 2, 7⟩,
  ⟨0x0023, 1, false, .ro, 0, 0⟩, ⟨0x0030, 1, false, .ro, 0, 0⟩, ⟨0x0031, 1, false, .nv, 0, 0xF⟩,
  ⟨0x0040, 1, false, .ro, 0, 0⟩,
  ⟨0x0050, 1, false, .rw, 0xA83121B9D1510000, 0xFFFFFFFFFFFFFFFF⟩,
  ⟨0x0051, 1, false, .rw, 0x8439063071850891, 0xFFFFFFFFFFFFFFFF⟩,
  ⟨0x0052, 2, false, .rw, 0, 0xFFFFFFFFFFFFFFFF⟩, ⟨0x0054, 1, false, .rw, 0, 1⟩,
  ⟨0x1000, 1, false, .ro, 0, 0⟩, ⟨0x1001, 1, false, .rw, 0, 3⟩, ⟨0x1002, 2, false, .ro, 0, 0⟩]

/-- Parameters of routes, zones and Girth (Tables 10-6, 12-9). -/
def pGirth : List PRow := [
  ⟨0x2000, 3, false, .ro, 0, 0⟩, ⟨0x2010, 1, false, .ro, 0, 0⟩,
  ⟨0x3000, 1, true, .rw, 4, 0xFF0F⟩, ⟨0x3001, 1, true, .rw, 0, 0xFFFF⟩, ⟨0x3002, 1, true, .rws, 0, 0xFFFFF⟩,
  ⟨0x3003, 1, true, .rws, 0x140A40000, 0xFFFFFFFFF⟩, ⟨0x3004, 1, true, .rw, 0x320003, 0xFFFF000F⟩,
  ⟨0x3005, 1, false, .rw, 0, 0x1FFFF⟩, ⟨0x3020, 2, true, .ro, 0, 0⟩, ⟨0x3030, 2, false, .ro, 0, 0⟩]

/-- Parameters of Lash (Table 07-11). -/
def pLash : List PRow := [
  ⟨0x4000, 1, true, .rws, 0x111, 0x3FF⟩, ⟨0x4001, 1, true, .rws, 1000, 0xFFFFFFFF⟩,
  ⟨0x4002, 1, true, .rws, 1048576, 0x1FFFFF⟩, ⟨0x4003, 1, true, .rws, 0x1414, 0xFFFF⟩,
  ⟨0x4004, 1, true, .rws, 0, 0xFFFF001F⟩, ⟨0x4005, 1, true, .rws, 0, 0x1F⟩,
  ⟨0x4006, 1, true, .rws, 0x40001004B0, 0x3FFFFFFFFFF⟩, ⟨0x4007, 1, true, .rws, 0xA03E8, 0xFFFFFFFF03FFFFFF⟩,
  ⟨0x4008, 1, true, .rws, 0, 0xF⟩, ⟨0x4009, 1, true, .rw, 0, 1⟩, ⟨0x400A, 1, true, .rws, 100, 0x3FF⟩,
  ⟨0x4020, 1, true, .rw, 0x61480000, 0xFFFFFFFF⟩, ⟨0x4021, 1, true, .rw, 0xFFFF0000FFFF0000, 0xFFFFFFFFFFFFFFFF⟩,
  ⟨0x4030, 2, true, .ro, 0, 0⟩]

/-- Parameters of the converters and the aux front end (Tables 08-7, 14-4). -/
def pConv : List PRow := [
  ⟨0x5000, 1, true, .rws, 0, 0xF⟩, ⟨0x5010, 1, true, .rws, 0x1000402, 0x0FFF0F0F⟩,
  ⟨0x5020, 1, false, .rw, 0x0960_0284_0010, 0xFFFF0FFFFFFF⟩, ⟨0x5030, 1, true, .ro, 0, 0⟩,
  ⟨0x5040, 1, false, .rw, 0x0010_2100_1421, 0xFFFFFFFFFF3F⟩, ⟨0x5041, 1, false, .ro, 0, 0⟩,
  ⟨0x5050, 8, false, .ro, 0, 0⟩, ⟨0x5060, 1, true, .rws, 0, 3⟩,
  ⟨0x5800, 1, false, .rws, 0, 0x0000FFFF00003FFF⟩, ⟨0x5801, 1, false, .wo, 0, 1⟩,
  ⟨0x5802, 1, false, .rws, 0, 0x0FFFFFFF⟩, ⟨0x5803, 1, false, .rws, 4096, 0xFFFFFF⟩,
  ⟨0x5810, 16, false, .rws, 0, 0xFFFFFFFFFFFFFFFF⟩, ⟨0x5840, 16, false, .rws, 0x1000000000000000, 0x1FFFFFFFFFFFFFFF⟩,
  ⟨0x5860, 4, false, .rws, 0, 0x1FFFF⟩, ⟨0x5880, 1, false, .ro, 0, 0⟩]

/-- Parameters of the time base and Awl (Table 13-4). -/
def pTime : List PRow := [
  ⟨0x6000, 1, false, .rw, 0x03E80006, 0xFFFFFFFF000F⟩, ⟨0x6001, 1, false, .rw, 0, 0xFFFFFFFF⟩,
  ⟨0x6002, 1, false, .rw, 0, 0xFFFFFFFF⟩, ⟨0x6010, 3, false, .ro, 0, 0⟩,
  ⟨0x6020, 8, false, .rw, 0x5A28, 0xFFFFFF7F⟩, ⟨0x6028, 3, false, .rw, 0, 0x60⟩, ⟨0x6030, 11, false, .ro, 0, 0⟩,
  ⟨0x6040, 1, false, .rw, 10, 0xFFFF⟩]

/-- Parameters of the stream, the memory and Lace (Tables 15-8, 16-9). -/
def pMem : List PRow := [
  ⟨0x7000, 1, false, .rw, 0x000003E8_324B_0410, 0xFFFFFFFF7F7F7F1F⟩, ⟨0x7001, 2, false, .rw, 0, 0x00FFFFFFFFFFFFF1⟩,
  ⟨0x7010, 4, false, .ro, 0, 0⟩, ⟨0x7100, 1, false, .nv, 3, 7⟩,
  ⟨0x7101, 1, false, .rw, 0x00009C40_186C, 0xFFFFFFFFFFFF⟩, ⟨0x7102, 1, false, .rw, 0x108, 0xFFFF⟩,
  ⟨0x7110, 4, false, .ro, 0, 0⟩, ⟨0x7200, 1, false, .rw, 4096, 0xFFFF⟩,
  ⟨0x7201, 1, false, .rw, 0, 0xFFFFFFFFFFFFFFFF⟩, ⟨0x7210, 16, false, .ro, 0, 0⟩]

/-- Parameters of Strop and Cantle (Tables 06-13, 17-5, 18-10). -/
def pMgt : List PRow := [
  ⟨0x8000, 1, false, .rw, 0x0F0A6401, 0xFFFFFF01⟩, ⟨0x8001, 1, false, .rw, 0x1400103C08B89846, 0xFFFFFFFFFFFFFFFF⟩,
  ⟨0x8010, 1, false, .ro, 0, 0⟩, ⟨0x9000, 1, false, .rw, 0x14, 0x1F⟩,
  ⟨0x9001, 1, false, .nv, 0x0A1E0258_04B003E8, 0x3FFFFFFFFFFFFFFF⟩, ⟨0x9002, 1, false, .nv, 60, 0xFFFF⟩,
  ⟨0x9003, 1, false, .nv, 0x5A01, 0x7F01⟩, ⟨0x9004, 1, false, .nv, 0x0AFF, 0xFFFF⟩,
  ⟨0x9005, 1, false, .nv, 600, 0xFFFF⟩, ⟨0x9010, 3, false, .ro, 0, 0⟩, ⟨0x9014, 1, false, .ro, 0, 0⟩]

/-- Parameters of the thermal path and the Currier array (Tables 09-6, 11-4). -/
def pThermal : List PRow := [
  ⟨0xA000, 1, true, .rws, 0, 3⟩, ⟨0xA001, 1, true, .rws, 131072, 0xFFF0003FFFF⟩,
  ⟨0xA002, 1, true, .rws, 0x00010000_00055730, 0x01FFFFFF003FFFFF⟩, ⟨0xA003, 1, true, .rws, 1000, 0xFFFF⟩,
  ⟨0xA004, 1, true, .rws, 63330, 0xFFFFFFFF⟩, ⟨0xA005, 1, true, .rw, 600, 0xFFF⟩,
  ⟨0xA006, 1, true, .rws, 0x0001_5B13_0064, 0xFFFFFFFFFFFF⟩, ⟨0xA007, 1, true, .rws, 0x0003000000000000, 0x00FFFFFFFFFFFFFF⟩,
  ⟨0xA020, 3, true, .ro, 0, 0⟩,
  ⟨0xB000, 1, true, .rws, 1, 3⟩, ⟨0xB001, 1, true, .rws, 0xFFFF, 0xFFFF⟩, ⟨0xB002, 1, true, .rws, 8, 0xF⟩,
  ⟨0xB003, 1, true, .rws, 0x40_0000_0860, 0xFFFFFFFFFF⟩, ⟨0xB004, 1, true, .rws, 0x1928, 0xFFFF⟩,
  ⟨0xB020, 1, true, .ro, 0, 0⟩, ⟨0xB030, 2, false, .ro, 0, 0⟩]

/-- Every parameter of the SL4880. -/
def pTable : List PRow := pControl ++ pGirth ++ pLash ++ pConv ++ pTime ++ pMem ++ pMgt ++ pThermal

/-- The row covers the ID. -/
def PRow.has (r : PRow) (id : Nat) : Bool :=
  (r.id ≤ id && id < r.id + r.count) || (r.sides && r.id + 0x100 ≤ id && id < r.id + 0x100 + r.count)

/-- The row of an ID; none: unassigned (R104). -/
def pRow (id : Nat) : Option PRow := pTable.find? fun r => r.has id

/-- The reset value of a parameter. -/
def pReset (id : Nat) : Word := match pRow id with | some r => r.reset | none => 0

/-- A per-side parameter's ID for a side. -/
def sid (d : Side) (id : Nat) : Nat := id + 0x100 * d.num

/-- The live value of a volatile RW parameter. -/
def rwGet (s : State) (id : Nat) : Word := kvGet (pReset id) s.rw id

/-- The value of a parameter that MRAM keeps. -/
def nvGet (s : State) (id : Nat) : Word := kvGet (pReset id) s.nv id

/-- The value of an RWS parameter in a copy of the configuration. -/
def cfgGet (c : Cfg) (id : Nat) : Word := kvGet (pReset id) c.params id

/-- The value of a side's RWS parameter. -/
def sideGet (c : Cfg) (d : Side) (id : Nat) : Word := cfgGet c (sid d id)

/-- A crosspoint set is empty or valid (R289). -/
def xptOk (w : Word) : Bool :=
  let r := (List.range 16).map fun p => fld w (4 * p + 3) (4 * p)
  let n := fun (f : Nat → Bool) => r.countP f
  w == 0 || (r.all (· ≤ 9) && n (fun x => x = 1 || x = 7 || x = 8) = 1 && n (fun x => x = 2 || x = 9) ≤ 1 &&
    n (fun x => x = 3 || x = 7) ≤ 1 && n (fun x => x = 4 || x = 8) ≤ 1 && n (· = 5) ≤ 1)

/-- A value lies in an inclusive range. -/
def rng (x lo hi : Nat) : Bool := lo ≤ x && x ≤ hi

/-- The field ranges of a parameter, by its side A ID (the field tables of chapters 03 to 18). -/
def pRange (id : Nat) (v : Word) : Bool :=
  match id with
  | 0x3002 => fld v 19 16 ≤ 8
  | 0x3003 => rng (fld v 19 16) 4 12 && fld v 27 20 ≠ 0
  | 0x3004 => rng (fld v 3 1) 1 4 && fld v 31 16 ≠ 0
  | 0x4000 => rng (fld v 3 0) 1 8 && rng (fld v 7 4) 1 8 && fld v 9 8 ≠ 3
  | 0x4001 => rng (fld v 15 0) 500 1500 && -1000 ≤ sfld v 31 16 && sfld v 31 16 ≤ 1000
  | 0x4002 => rng (fld v 20 0) 8192 1048576
  | 0x4004 => fld v 4 0 ≤ 16
  | 0x4005 => fld v 4 0 ≤ 16
  | 0x4006 => rng (fld v 41 32) 48 1000
  | 0x4007 => rng (fld v 25 16) 1 1000
  | 0x4008 => fld v 3 0 ≤ 8
  | 0x400A => rng (fld v 9 0) 10 1000
  | 0x4020 => fld v 27 16 ≠ 0 && rng (fld v 31 28) 1 12
  | 0x4021 => fld v 15 0 < fld v 31 16 && fld v 47 32 < fld v 63 48
  | 0x5020 => fld v 15 0 ≠ 0 && (fld v 19 16 = 0 || rng (fld v 19 16) 2 8) && fld v 27 20 ≠ 0
  | 0x5040 => fld v 1 0 ≠ 3 && fld v 15 8 ≠ 0 && fld v 27 16 ≠ 0 && fld v 31 28 ≠ 0
  | 0x5800 => fld v 6 0 ≤ 64 && fld v 9 8 ≠ 3
  | 0x5802 => fld v 7 0 ≤ 150 && fld v 15 8 ≤ 150 && (fld v 27 16 = 0 || rng (fld v 27 16) 500 2500)
  | 0x6000 => fld v 1 0 ≠ 3
  | 0x6001 => -100000000 ≤ sfld v 31 0 && sfld v 31 0 ≤ 100000000
  | 0x6002 => -100000 ≤ sfld v 31 0 && sfld v 31 0 ≤ 100000
  | 0x7000 => fld v 1 0 ≠ 3 && fld v 14 8 ≤ 64 && fld v 22 16 ≤ 100 && fld v 30 24 ≤ 99 &&
      (fld v 22 16 = 0 || fld v 30 24 < fld v 22 16)
  | 0x7101 => fld v 3 0 = 0 || fld v 7 4 < fld v 3 0
  | 0x7200 => fld v 15 0 ≠ 0
  | 0x9000 => fld v 3 0 ≤ 7
  | 0x9001 => 600 ≤ sfld v 15 0 && sfld v 15 0 ≤ 1150 && 1050 ≤ sfld v 31 16 && sfld v 31 16 ≤ 1250 &&
      sfld v 15 0 < sfld v 31 16 && fld v 61 56 ≤ 50
  | 0x9003 => fld v 14 8 ≤ 100
  | 0x9004 => rng (fld v 15 8) 1 100
  | 0x9005 => 60 ≤ fld v 15 0
  | 0xA001 => rng (fld v 17 0) 1024 131072
  | 0xA002 => 2000 ≤ fld v 21 0 && rng (fld v 56 32) 1 16777216
  | 0xA003 => fld v 15 0 ≠ 0
  | 0xA004 => 50000 ≤ fld v 15 0 && -10000 ≤ sfld v 31 16 && sfld v 31 16 ≤ 10000
  | 0xA005 => rng (fld v 11 0) 1 3600
  | 0xA006 => fld v 15 0 ≠ 0
  | 0xA007 => fld v 55 48 ≠ 0
  | 0xB002 => rng (fld v 3 0) 4 12
  | 0xB003 => (fld v 7 0 = 0 || rng (fld v 7 0) 64 127) && fld v 39 32 ≤ 127
  | 0xB004 => fld v 15 8 ≤ 100
  | _ =>
    if rng id 0x5810 0x581F then xptOk v
    else if rng id 0x5840 0x584F then !(bit v 58 && bit v 59 && sfld v 23 0 ≤ sfld v 47 24)
    else if rng id 0x6020 0x602A then fld v 2 1 ≠ 3 && fld v 4 3 ≠ 3 && fld v 15 8 ≤ 180
    else true

/-- The side A ID of an ID. -/
def pBase (id : Nat) : Nat :=
  match pRow id with
  | some r => if r.sides && r.id + r.count ≤ id then id - 0x100 else id
  | none => id

/-- A value a write may carry: reserved and RO bits 0, every field in range (R8, R11). -/
def pOk (id : Nat) (v : Word) : Bool :=
  match pRow id with
  | some r => r.acc ≠ .ro && within r.mask v && pRange (pBase id) v
  | none => false

/-! ### Staged records -/

/-- A slot record (Table 07-3): the word at fault, if any. -/
def slotBad (w0 w1 : Word) : Option Nat :=
  if !(within 0x01FFFF7FFF1FFF0F w0 && rng (fld w0 19 8) 100 2400 && rng (fld w0 38 24) 100 20000 &&
    fld w0 51 40 ≠ 0 && fld w0 56 52 ≤ 16) then some 0
  else if !(within 0xFFFF0FFF w1 && fld w1 11 0 ≠ 0) then some 1 else none

/-- A route record (Table 10-1); LENGTH_M = 0 deletes whatever the other defined fields hold (R197). -/
def routeBad (w0 w1 : Word) : Option Nat :=
  let del := fld w0 24 8 = 0
  if !(within 0x0000FFFF01FFFF07 w0 && (del || fld w0 24 8 ≤ 88000)) then some 0
  else if !(within 0xFFFFFFFF0003FFFF w1 &&
    (del || rng (fld w1 17 0) 140000 155000 && fld w1 63 48 ≤ 5000)) then some 1 else none

/-- A zone record (Table 10-2). -/
def zoneBad (w0 w1 w2 : Word) : Option Nat :=
  if !(within 0x0007FFFFFF7F0FFF w0 && rng (fld w0 22 16) 1 64 && fld w0 50 24 ≤ 87999999) then some 0
  else if !(within 0x0000FFFF07FFFFFF w1 && rng (fld w1 26 0) 1 88000000 && fld w0 50 24 < fld w1 26 0 &&
    300 ≤ fld w1 47 32) then some 1
  else if !(within 0x1F731F w2 && fld w2 3 0 ≤ 10) then some 2 else none

/-- A trigger record (Table 12-3, R244). -/
def trigBad (w0 w1 : Word) : Option Nat :=
  let det := fld w0 10 9
  if !(within 0xFFFFFFFF1FFF07FF w0 && det ≠ 3 && fld w0 35 32 ≤ 12 && fld w0 35 32 + 3 ≤ fld w0 39 36 &&
    257 ≤ fld w0 55 40 && fld w0 63 56 ≠ 0 && fld w0 63 56 * 16 < fld w0 55 40) then some 0
  else if !(within 0xFFFFFFFF3FFFFFFF w1 && (det ≠ 2 || 1 ≤ fld w1 7 0 && fld w1 7 0 < fld w1 15 8) &&
    fld w1 23 16 ≠ 0 && fld w1 63 56 ≠ 0) then some 1 else none

/-- A scan entry (Table 07-8). -/
def scanBad (w : Word) : Bool := !within 0xFFFF0003 w

/-- A sequencer entry (Table 14-2). -/
def seqBad (w : Word) : Bool := !(within 0x00FFFFFFFFFF3FFF w && fld w 8 5 ≤ 10)

/-- The words a curve needs after its header (R123). -/
def curveWords (h : Word) : Nat := if fld h 7 5 = 3 then cdiv (fld h 15 8) 4 else 0

/-- A curve header (Table 07-5). -/
def curveBad (h : Word) : Bool :=
  let t := fld h 7 5
  !(rng (fld h 4 0) 1 16 && t ≤ 3 && (if t = 3 then rng (fld h 15 8) 2 124 && h.toNat / 2 ^ 16 = 0 else fld h 15 8 = 0) &&
    (if t = 1 then rng (fld h 63 48) 1 1000 else if t = 2 then rng (fld h 63 48) 26 2560 else fld h 63 48 = 0))

/-- The factory-default slot record (Table 07-3), under its own number (log 24). -/
def slotDefault (i : Nat) : List Word := [mk [(0, 3, i % 8), (3, 1, i / 8), (8, 12, 800), (24, 15, 10000)], 0]

/-- The record of an undefined route (Table 10-1), under its own number (log 24). -/
def routeDefault (r : Nat) : List Word := [mk [(0, 3, r)], 146820]

/-- The default trigger record (Table 12-3), under its own number (log 24). -/
def trigDefault (z : Nat) : List Word :=
  [mk [(0, 9, z), (32, 4, 4), (36, 4, 10), (40, 16, 1024), (56, 8, 32)], mk [(16, 8, 1), (32, 8, 10), (40, 8, 50), (56, 8, 60)]]

/-- A record of a table. -/
def rec (t : Table) (k : Nat) : List Word := kvGet [] t k

/-- A record, or its default. -/
def recOr (t : Table) (k : Nat) (d : List Word) : List Word := if rec t k = [] then d else rec t k

def slotRec (c : Cfg) (d : Side) (i : Nat) : List Word := recOr c.slots (8 * d.num + i) (slotDefault (8 * d.num + i))
def routeRec (c : Cfg) (r : Nat) : List Word := recOr c.routes r (routeDefault r)
def trigRec (c : Cfg) (z : Nat) : List Word := recOr c.trigs z (trigDefault z)

/-- The entries of a side's scan table. -/
def scanOf (c : Cfg) (d : Side) : List Word := rec c.scans d.num

/-! ### A side's plan -/

def slotCount (c : Cfg) (d : Side) : Nat := fld (sideGet c d 0x4000) 3 0
def groupCount (c : Cfg) (d : Side) : Nat := fld (sideGet c d 0x4000) 7 4
/-- The slot decimation D. -/
def decim (c : Cfg) (d : Side) : Nat := 4 * 2 ^ fld (sideGet c d 0x4000) 9 8
/-- The round-trip window W in main samples. -/
def window (c : Cfg) (d : Side) : Nat := fld (sideGet c d 0x4002) 20 0
/-- Slots of one launch group, ascending (R117). -/
def groupSlots (c : Cfg) (d : Side) (g : Nat) : List Nat :=
  let m := slotCount c d / groupCount c d
  (List.range m).map (g * m + ·)

/-- Scan entries that are not skipped, with their numbers. -/
def activeScan (c : Cfg) (d : Side) : List (Nat × Word) :=
  ((scanOf c d).zipIdx.map fun e => (e.2, e.1)).filter fun e => fld e.2 31 16 ≠ 0

/-- The route number of a scan entry. -/
def entryRoute (d : Side) (w : Word) : Nat := 4 * d.num + fld w 1 0

/-- The routes a side scans, ascending, each once. -/
def scanRoutes (c : Cfg) (d : Side) : List Nat :=
  ((List.range 4).map (4 * d.num + ·)).filter fun r => (activeScan c d).any fun e => entryRoute d e.2 = r

/-- PROOF.GUARD as it binds: in a scan of one route with EVERY not 0 (R127). -/
def proofGuard (c : Cfg) (d : Side) : Nat :=
  if (scanRoutes c d).length = 1 ∧ fld (sideGet c d 0x4006) 31 16 ≠ 0 then fld (sideGet c d 0x4006) 15 0 else 0

/-! ### Routes, zones and distances (R3, R196) -/

/-- The speed of light in m/s. -/
abbrev cLight : Nat := 299792458

def routeLen (c : Cfg) (r : Nat) : Nat := fld (wd (routeRec c r) 0) 24 8
def routeGuard (c : Cfg) (r : Nat) : Nat := fld (wd (routeRec c r) 0) 47 32
/-- The group index in 10^−5. -/
def routeIndex (c : Cfg) (r : Nat) : Nat := fld (wd (routeRec c r) 1) 17 0
def refStart (c : Cfg) (r : Nat) : Nat := fld (wd (routeRec c r) 1) 47 32
def refLen (c : Cfg) (r : Nat) : Nat := fld (wd (routeRec c r) 1) 63 48
/-- A route record is complete (R198). -/
def routeOk (c : Cfg) (r : Nat) : Bool := routeLen c r ≠ 0

/-- The distance of half-gate position h (twice q) is h · D · c / (48 · N) mm; compare it with x mm. -/
def halfGateBelow (n dd h x : Nat) : Bool := h * dd * cLight < 48 * n * x

/-- The distance of a main sample in mm, rounded down. -/
def sampleMm (n m : Nat) : Nat := m * cLight / (24 * n)

/-- The least half-gate position at or beyond x mm. -/
def halfGateAt (n dd x : Nat) : Nat := cdiv (48 * n * x) (dd * cLight)

/-- Numbers of the defined zones, ascending. -/
def zoneNums (c : Cfg) : List Nat := c.zones.map (·.1)

def zoneRec (c : Cfg) (z : Nat) : List Word := rec c.zones z
def zoneDefined (c : Cfg) (z : Nat) : Bool := zoneRec c z ≠ []
def zoneRoute (c : Cfg) (z : Nat) : Nat := fld (wd (zoneRec c z) 0) 11 9
def zoneGauge (c : Cfg) (z : Nat) : Nat := fld (wd (zoneRec c z) 0) 22 16
def zoneStart (c : Cfg) (z : Nat) : Nat := fld (wd (zoneRec c z) 0) 50 24
def zoneEnd (c : Cfg) (z : Nat) : Nat := fld (wd (zoneRec c z) 1) 26 0
def zoneSpacing (c : Cfg) (z : Nat) : Nat := fld (wd (zoneRec c z) 1) 47 32
/-- The decimation exponent r. -/
def zoneRate (c : Cfg) (z : Nat) : Nat := fld (wd (zoneRec c z) 2) 3 0
def zoneBoxcar (c : Cfg) (z : Nat) : Bool := bit (wd (zoneRec c z) 2) 4
def zoneFormat (c : Cfg) (z : Nat) : Nat := fld (wd (zoneRec c z) 2) 9 8
/-- k of PR_LSB = 2^−k. -/
def zoneK (c : Cfg) (z : Nat) : Nat := 8 + fld (wd (zoneRec c z) 2) 14 12
def zoneAcoustic (c : Cfg) (z : Nat) : Bool := bit (wd (zoneRec c z) 2) 16
def zoneStream (c : Cfg) (z : Nat) : Bool := bit (wd (zoneRec c z) 2) 17
def zoneHistory (c : Cfg) (z : Nat) : Bool := bit (wd (zoneRec c z) 2) 18
def zoneThermal (c : Cfg) (z : Nat) : Bool := bit (wd (zoneRec c z) 2) 19
def zoneFade (c : Cfg) (z : Nat) : Bool := bit (wd (zoneRec c z) 2) 20
def zoneSide (c : Cfg) (z : Nat) : Side := routeSide (zoneRoute c z)

/-- Acoustic channels of a zone (R203). -/
def zoneChans (c : Cfg) (z : Nat) : Nat :=
  if zoneAcoustic c z then (zoneEnd c z - zoneStart c z) / zoneSpacing c z else 0

/-- Zones of a route, ascending. -/
def zonesOn (c : Cfg) (r : Nat) : List Nat := (zoneNums c).filter fun z => zoneRoute c z = r

/-- Zones of a side's routes, ascending. -/
def sideZones (c : Cfg) (d : Side) : List Nat := (zoneNums c).filter fun z => zoneSide c z == d

/-- Acoustic channels on a route. -/
def routeChans (c : Cfg) (r : Nat) : Nat := ((zonesOn c r).map (zoneChans c)).sum

/-- The routes of a side. -/
def sideRoutes (d : Side) : List Nat := (List.range 4).map (4 * d.num + ·)

/-- Gate pairs of a channel: the gates g whose pair position g + G/2 lies in the cell (R203). -/
def chanGates (c : Cfg) (z ch : Nat) : List Nat :=
  let n := routeIndex c (zoneRoute c z)
  let dd := decim c (zoneSide c z)
  let lo := zoneStart c z + ch * zoneSpacing c z
  let a := halfGateAt n dd lo
  let b := halfGateAt n dd (lo + zoneSpacing c z)
  ((List.range (b - a)).map (a + ·)).filterMap fun h =>
    if zoneGauge c z ≤ h ∧ (h - zoneGauge c z) % 2 = 0 then some ((h - zoneGauge c z) / 2) else none

/-- Reference gates of a route: z(g + 8) in the reference section (R199). -/
def refGatesOf (c : Cfg) (r : Nat) : List Nat :=
  let n := routeIndex c r
  let dd := decim c (routeSide r)
  if refLen c r = 0 then [] else
    let a := halfGateAt n dd (1000 * refStart c r)
    let b := halfGateAt n dd (1000 * (refStart c r + refLen c r))
    ((List.range (b - a)).map (a + ·)).filterMap fun h =>
      if 16 ≤ h ∧ h % 2 = 0 then some (h / 2 - 8) else none

/-! ### Converter samples -/

/-- OVERRANGE of sample i: the input exceeded the threshold then or in the recovery count of samples before (R151). -/
def overAt (recovery : Nat) (l : Array RawSample) (i : Nat) : Bool :=
  (List.range (recovery + 1)).any fun k => k ≤ i && match l[i - k]? with | some x => x.above | none => false

/-! ### Stream and thermal rates (R213, R214, R232, R233) -/

/-- Bits of a value, by format. -/
def formatBits (f : Nat) : Nat := if f = 0 then 16 else if f = 1 then 12 else 32

/-- Payload words of an acoustic frame of m channels. -/
def acPayload (f : Nat) (fade : Bool) (m : Nat) : Nat :=
  cdiv (m * formatBits f) 64 + cdiv m 32 + if fade then cdiv m 8 else 0

/-- Channels of a full acoustic frame (Table 10-5). -/
def acFull (f : Nat) (fade : Bool) : Nat :=
  if f = 0 then (if fade then 1248 else 1792) else if f = 1 then (if fade then 1472 else 2304)
  else if fade then 768 else 960

/-- Frames of n channels at m a frame: (first, count). -/
def splitFrames (n m : Nat) : List (Nat × Nat) :=
  (List.range (cdiv n m)).map fun i => (i * m, min m (n - i * m))

/-- Counted bytes of one output instant of a zone. -/
def acBytes (c : Cfg) (z : Nat) : Nat :=
  ((splitFrames (zoneChans c z) (acFull (zoneFormat c z) (zoneFade c z))).map fun x =>
    8 * acPayload (zoneFormat c z) (zoneFade c z) x.2 + 24).sum

/-- Bits per second of a zone's output, as a fraction: fout = k · fs / (W · 2^r). -/
def acRate (c : Cfg) (z : Nat) : Rat :=
  let d := zoneSide c z
  (8 * acBytes c z * groupCount c d * 1200000000 : Rat) / (window c d * 2 ^ zoneRate c z)

/-- The acoustic rate of one side: the largest total of its scanned routes. -/
def acSide (c : Cfg) (d : Side) : Rat :=
  ((scanRoutes c d).map fun r =>
    ((((zonesOn c r).filter fun z => zoneAcoustic c z && zoneStream c z).map (acRate c)).sum)).foldl max 0

/-- Thermal channels of a zone at its side's spacing (R231). -/
def thChans (c : Cfg) (z : Nat) : Nat :=
  (zoneEnd c z - zoneStart c z) / fld (sideGet c (zoneSide c z) 0xA003) 15 0

/-- Thermal zones of a route of the side's scan. -/
def thZones (c : Cfg) (r : Nat) : List Nat := (zonesOn c r).filter (zoneThermal c)

/-- Thermal zones of a side in ascending order, those of its scan (R231). -/
def thSide (c : Cfg) (d : Side) : List Nat :=
  (zoneNums c).filter fun z => zoneThermal c z && decide (zoneRoute c z ∈ scanRoutes c d)

def thEnable (c : Cfg) (d : Side) : Bool := bit (sideGet c d 0xA000) 0
def thStream (c : Cfg) (d : Side) : Bool := bit (sideGet c d 0xA000) 1
def thTrace (c : Cfg) (d : Side) : Nat := fld (sideGet c d 0xA001) 17 0
def thZero (c : Cfg) (d : Side) : Nat := fld (sideGet c d 0xA001) 43 32
def thPeriod (c : Cfg) (d : Side) : Nat := fld (sideGet c d 0xA002) 21 0
def thShots (c : Cfg) (d : Side) : Nat := fld (sideGet c d 0xA002) 56 32

/-- Payload words of a THERMAL frame of m channels. -/
def thPayload (m : Nat) : Nat := cdiv m 4 + cdiv m 32

/-- The thermal rate of one side in bits per second (R233). -/
def thRate (c : Cfg) (d : Side) : Rat :=
  if !(thEnable c d && thStream c d) then 0 else
  let every := fld (sideGet c d 0xA006) 47 32
  let bytes := fun r => (((thZones c r).map fun z =>
    ((splitFrames (thChans c z) 1792).map fun x => 8 * thPayload x.2 + 24).sum).sum : Rat) +
      (if every = 0 then 0 else ((thZones c r).length * 1048 : Rat) / every)
  (8 * 400000000 : Rat) / (thShots c d * thPeriod c d) * ((scanRoutes c d).map bytes).foldl max 0

/-- The acoustic, the thermal and the total stream rate of a configuration. -/
def acTotal (c : Cfg) : Rat := acSide c .a + acSide c .b
def thTotal (c : Cfg) : Rat := thRate c .a + thRate c .b

/-- 95 % of the budget of a lane rate, in Mb/s (R214). -/
def budgetMbps (rate : Nat) : Nat := if rate = 0 then 19000 else if rate = 1 then 9500 else 4750

end Sys2Proof.Machine
end

