-- ==== Sys2Proof/Machine/Flags.lean ====
section
/-!
DEFINITION. What the read-only registers show: every RO parameter and RO field, the STATUS and identity words, and the
computed figures behind them (Currier load, capacity, rates, quality words).
-/
namespace Sys2Proof.Machine

/-! ### The commit gate and the two copies (R14 to R16, R27) -/

/-- The draft is locked: a validation runs, or a snapshot is frozen (R16, R107). -/
def draftLocked (s : State) : Bool := match s.brg.gate with | .idle => false | _ => true

/-- The configuration a side runs: its frozen snapshot once its boundary has passed, else the live copy (R14, R15). -/
def cfgOf (s : State) (d : Side) : Cfg :=
  match s.brg.gate with
  | .frozen _ _ _ wa wb => if (match d with | .a => wa | .b => wb) then s.live else s.draft
  | _ => s.live

/-- The configuration of content that belongs to no side: a frozen snapshot has it in force (R437). -/
def cfgFree (s : State) : Cfg := match s.brg.gate with | .frozen _ _ _ _ _ => s.draft | _ => s.live

/-- The live value of an RWS parameter: that of its side, of no side for the aux front end. -/
def liveParam (s : State) (id : Nat) : Word :=
  match pRow id with
  | some r => if r.sides then cfgGet (cfgOf s (if r.id + r.count ≤ id then .b else .a)) id else cfgGet (cfgFree s) id
  | none => 0

/-! ### Power, clocks, harness -/

def isReady (s : State) : Bool := s.pwr.dev == .ready
def inRecovery (s : State) : Bool := s.pwr.dev == .recovery

/-- The unit is the last of its chain. -/
def isLast (s : State) : Bool := s.harn.down != .locked || bit (rwGet s 0x1001) 0

def pllLocked (s : State) : Bool := s.pll.state == .locked

/-- LASER_OK (R141). A standby entry takes it low with PWR_EN, not at its step 2: R56's light stop is of both sides' light, and
R141 names no standby (DESIGN CHOICE, log 103). -/
def laserOk (s : State) : Bool :=
  let bad := fun (l : Lash) => l.gate == .openLoad || l.gate == .short || l.dacFault
  s.pwr.laserEn && pllLocked s && s.pwr.vcore && !bad s.lash.a && !bad s.lash.b

/-- ATTN_N is driven low: READY, and an entry held is unmasked (R398). -/
def attn (s : State) : Bool :=
  isReady s && s.evq.q.any fun e => !pairBit (rwGet s 0x50) (rwGet s 0x51) e.event

/-- Reference edges are there. After a loss of edges no row says when they return, 1 ms before PLL_REF_PRESENT; until then
the bit is open (log 74). -/
def refPresent (s : State) : Bool :=
  s.pll.refPresent || ((s.pll.state == .hold || s.pll.state == .start) && Config.freeBit 69 s.drawn)

/-- The charge pump is held: HOLD, or a change in progress, which a loss of lock ends (R68, R69). -/
def pumpHeld (s : State) : Bool := s.pll.state == .hold || (pllLocked s && s.pll.change.isSome)

/-- CLK.STATUS (Table 04-7). -/
def clkStatus (s : State) : Word :=
  mk [(0, 1, b2n (pllLocked s)), (1, 1, b2n (refPresent s)),
    (2, 1, b2n (pumpHeld s)), (3, 1, b2n s.pll.synced), (16, 16, s.pll.unlockCount),
    (32, 16, s.pll.syncHeld)]

/-- SYS.TACK_STATUS (Table 06-11). -/
def tackStatus (s : State) : Word :=
  mk [(0, 2, s.pwr.strap.toNat), (2, 2, s.tacks.loaded), (4, 1, b2n s.tacks.defaults), (5, 1, b2n s.tacks.fallback),
    (6, 1, b2n s.tacks.modified)]

/-- A bitmap of the slots of one kind. -/
def slotMap (s : State) (f : Slot → Bool) : Nat :=
  ((s.brg.slots.zipIdx.filter fun x => f x.1).map fun x => 2 ^ x.2).sum

def Slot.isRunning : Slot → Bool
  | .running _ => true
  | _ => false
def Slot.isDone : Slot → Bool
  | .done _ _ => true
  | _ => false

/-- SYS.DEFER_STATUS (Table 06-4). -/
def deferStatus (s : State) : Word := mk [(0, 16, slotMap s Slot.isRunning), (16, 16, slotMap s Slot.isDone)]

/-- HARN.ADDRESS and the counters (Tables 05-8, 05-10, 05-11). -/
def harnAddress (s : State) : Word := mk [(0, 6, s.pwr.address.toNat), (14, 1, b2n (isLast s))]
def hopDelay (s : State) : Word := mk [(0, 32, s.harn.hopUp.toNat), (32, 32, s.harn.hopDown.toNat)]
def harnErrors (s : State) : Word :=
  mk [(0, 16, s.harn.upCrc), (16, 16, s.harn.downCrc), (32, 16, s.harn.timErr), (48, 16, s.harn.replyDrop)]

/-- The identity record (Table 20-2); over the UART its UART bit is 1. -/
def identity (s : State) (uart : Bool) : List Word :=
  [mk [(0, 16, 0x4880), (16, 8, 0xB1), (24, 6, s.pwr.address.toNat), (32, 4, 1), (36, 1, b2n uart)],
   (Config.dieId).setWidth 64, (Config.dieId >>> 64).setWidth 64,
   mk [(0, 32, if inRecovery s then 0 else s.can.version.toNat), (32, 1, b2n (s.can.imageB && !inRecovery s)),
     (33, 1, b2n (inRecovery s)), (34, 5, if s.mem.usable then s.mem.fitted else 0)]]

/-! ### Receivers -/

/-- A slice occupies a position. -/
def Lane.live (l : Lane) (x : Nat) : Bool := l.pos.contains x

/-- Slices in no position and not retired. -/
def Lane.loose (l : Lane) : List Nat := (List.range 10).filter fun x => !l.live x && !l.retired.getLsbD x

/-- Usable spares: those of them that have been trimmed since they were restored (R164). -/
def Lane.spares (l : Lane) : List Nat := l.loose.filter fun x => !l.raw.getLsbD x

def lane (s : State) (n : Nat) : Lane := s.recv.lanes.getD n Lane.init
def setLane (n : Nat) (f : Lane → Lane) (s : State) : State :=
  { s with recv := { s.recv with lanes := upd s.recv.lanes n f } }

/-- ADC.SLICES_n (Table 08-7). -/
def slicesWord (s : State) (n : Nat) : Word :=
  let l := lane s n
  mk (((List.range 8).map fun p => (4 * p, 4, l.pos.getD p 0)) ++ [(32, 10, l.retired.toNat),
    (42, 10, ((List.range 10).filter fun x => l.fails.getD x 0 ≠ 0).foldl (fun a x => a + 2 ^ x) 0),
    (52, 2, l.spares.length), (54, 1, b2n (l.degraded != 0))])

/-- ADC.CHECK_STATUS (Table 08-7): checking skips a lane under foreground calibration (R161). -/
def checkState (s : State) : Nat :=
  if s.recv.borrowed || s.cal.running.getLsbD 8 then 2 else if s.recv.suspect then 3
  else if fld (rwGet s 0x5040) 1 0 = 0 || !acquiring s (if s.recv.lane < 4 then .a else .b) ||
    s.cal.running.getLsbD s.recv.lane then 0 else 1
def checkStatus (s : State) : Word :=
  mk [(0, 2, checkState s), (2, 3, s.recv.lane), (16, 16, s.recv.dwells), (32, 16, s.recv.laneFails)]

/-- The lanes of a side are powered: its scan table is not empty (R150). -/
def lanesPowered (s : State) (d : Side) : Bool := scanOf (cfgOf s d) d != []

def ovrCounts (s : State) (d : Side) : Word :=
  mk ((List.range 4).map fun i => (16 * i, 16, (lane s (4 * d.num + i)).ovrCount))

/-- Polarisations of a side that do not combine: a degraded position (R175) or lanes taken by Strop (R361). -/
def polExcl (s : State) (d : Side) : Nat :=
  let p := fun i => b2n ((lane s (4 * d.num + 2 * i)).degraded != 0 || (lane s (4 * d.num + 2 * i + 1)).degraded != 0 ||
    s.cal.taken.getLsbD (2 * d.num + i))
  p 0 + 2 * p 1

/-! ### Currier load (R191) -/

/-- The replica length of a slot. -/
def replica (c : Cfg) (d : Side) (i : Nat) : Nat := cdiv (6 * fld (wd (slotRec c d i) 0) 38 24) (5 * decim c d)

/-- The exponent of the transform size, 10 to 14 (R172). -/
def transformExp (lr : Nat) : Nat := if 4 * lr ≤ 1024 then 10 else if 4 * lr ≤ 2048 then 11
  else if 4 * lr ≤ 4096 then 12 else if 4 * lr ≤ 8192 then 13 else 14

/-- The load of one side in MAC/s. -/
def loadMacs (c : Cfg) (d : Side) : Rat :=
  let sl := slotCount c d
  let fd : Rat := 1200000000 / decim c d
  let one := fun i => let e := transformExp (replica c d i); let n := 2 ^ e
    ((16 * n * e : Rat) / 5 + 4 * n) / (n - replica c d i + 1)
  let nch := ((scanRoutes c d).map (routeChans c)).foldl max 0
  96 * sl * fd + 2 * fd * ((List.range sl).map one).sum +
    (4 * nch * groupCount c d * 1200000000 : Rat) / window c d

/-- Tiles in service. -/
def liveTiles (s : State) : Nat := ((List.range 64).filter fun i => s.tiles.getLsbD i).length

/-- A side's share of the load in 0.01 %, rounded up. -/
def loadShare (s : State) (c : Cfg) (d : Side) : Nat :=
  if liveTiles s = 0 then 65535
  else (loadMacs c d * 10000 / (25600000000 * liveTiles s)).ceil.toNat

/-- The load of the counted sides exceeds 100.00 % (R192). -/
def overload (s : State) (ca cb : Cfg) (a b : Bool) : Bool :=
  if liveTiles s = 0 then a || b
  else 1 < ((if a then loadMacs ca .a else 0) + (if b then loadMacs cb .b else 0)) / (25600000000 * liveTiles s)

/-- The route a side is on. -/
def presentRoute (s : State) (d : Side) : Nat := 4 * d.num + (s.lash.get d).position

/-- The present route of an acquiring side has no laser-phase removal: no reference section, or fewer than 64 gates
(R181); of a side that is not acquiring it reads 0 (DESIGN CHOICE, log 116). -/
def refOff (s : State) (d : Side) : Bool :=
  acquiring s d && decide ((refGatesOf (cfgOf s d) (presentRoute s d)).length < 64)

/-- CUR.STATUS (Table 09-6). -/
def curStatus (s : State) : Word :=
  let share := fun d => if acquiring s d then sat 16 (loadShare s (cfgOf s d) d) else 0
  mk [(0, 16, share .a), (16, 16, share .b), (32, 7, liveTiles s), (40, 1, b2n s.cur.a.overload),
    (41, 1, b2n s.cur.b.overload), (42, 1, b2n (refOff s .a)), (43, 1, b2n (refOff s .b)), (44, 2, polExcl s .a),
    (46, 2, polExcl s .b), (48, 1, b2n s.cur.a.noiseCal), (49, 1, b2n s.cur.b.noiseCal)]

def curCounts (s : State) (d : Side) : Word :=
  let c := s.cur.get d
  mk [(0, 16, c.slips), (16, 16, c.restarts), (32, 16, c.refMiss), (48, 16, c.launchEst)]

/-! ### Routes and zones (Table 10-6) -/

def sideChans (c : Cfg) (d : Side) : Nat := ((sideRoutes d).map (routeChans c)).sum
def zoneCapacity (s : State) : Word :=
  mk [(0, 17, sideChans (cfgOf s .a) .a), (32, 17, sideChans (cfgOf s .b) .b),
    (49, 10, ((sideZones (cfgOf s .a) .a ++ sideZones (cfgOf s .b) .b).dedup).length)]
def zoneStreamWord (s : State) : Word :=
  let r := fun (a b : Rat) => sat 16 ((a + b) / 1000000).ceil.toNat
  let ca := cfgOf s .a
  let cb := cfgOf s .b
  mk [(0, 16, r (acSide ca .a) (acSide cb .b)), (16, 16, r (thRate ca .a) (thRate cb .b)),
    (32, 16, budgetMbps (fld (rwGet s 0x7000) 1 0))]
def satCounts (s : State) : Word := mk [(0, 32, s.cur.a.satCount), (32, 32, s.cur.b.satCount)]

/-- A baseline; absent: NONE. -/
def Baseline.none : Baseline := { state := 0, prior := 0, since := 0, want := 0, done := 0, sums := [], noise := 0, later := [] }
def baseline (s : State) (r : Nat) : Baseline := kvGet Baseline.none s.base r
def setBase (r : Nat) (f : Baseline → Baseline) (s : State) : State :=
  { s with base := kvSet Baseline.none s.base r (f (baseline s r)) }
def baselineWord (s : State) : Word := mk ((List.range 8).map fun r => (2 * r, 2, (baseline s r).state))

/-! ### Lash, Girth, thermal path -/

def GateState.code : GateState → Nat
  | .unverified => 0
  | .verified => 1
  | .openLoad => 2
  | .short => 3
def WlState.code : WlState → Nat
  | .off => 0
  | .acquiring => 1
  | .locked => 2
  | .manual => 3
def Lash.blanking (l : Lash) : Bool := match l.seq with | .blanking _ => true | _ => false

/-- LASH.EMIT_STATUS (Table 07-11). -/
def emitStatus (s : State) (d : Side) : Word :=
  let l := s.lash.get d
  mk [(0, 1, b2n l.enabled), (1, 1, b2n l.running), (2, 2, l.gate.code), (4, 2, l.wl.code), (6, 1, b2n l.dacFault),
    (7, 1, b2n l.blanking), (8, 2, l.position), (16, 4, l.entry), (32, 16, l.rampLeft)]

def aprWord (s : State) (d : Side) : Word :=
  mk [(0, 1, b2n (bit (rwGet s (sid d 0x4009)) 0)), (4, 4, (s.lash.get d).blocked.toNat)]

/-- Open records of a side's zones. -/
def openRecords (s : State) (d : Side) : Nat :=
  (s.zones.filter fun z => match z.2.record with | some r => routeSide r.route == d | none => false).length

/-- What Girth compares on a route. -/
def deltaOf (s : State) (r : Nat) : Delta := kvGet Delta.init s.girth.delta r
def setDelta (r : Nat) (f : Delta → Delta) (s : State) : State :=
  { s with girth := { s.girth with delta := kvSet Delta.init s.girth.delta r (f (deltaOf s r)) } }

def girthStatus (s : State) (d : Side) : Word :=
  let g := s.girth.side d
  mk [(0, 1, b2n g.acquiring), (1, 1, b2n ((g.acquiring || (s.lash.get d).number ≠ 0) && (baseline s (presentRoute s d)).state ≠ 2)), (2, 1, b2n ((sideRoutes d).any fun r => (deltaOf s r).broken)),
    (8, 8, openRecords s d), (16, 3, g.breakRoute), (32, 32, g.breakMm)]
def girthCounts (s : State) (d : Side) : Word :=
  let g := s.girth.side d
  mk [(0, 16, g.records), (16, 16, g.overlaps), (32, 16, g.tableFull), (48, 16, sat 16 (g.dead / 40000000))]

/-- The age of a side's reference temperature in seconds (R229). -/
def refAge (s : State) (d : Side) : Nat := (s.tb.mono - (s.therm.get d).refAt) / sCycles
def refStatus (s : State) (d : Side) : Word :=
  let t := s.therm.get d
  let age := if t.tref = 0 then 0 else refAge s d
  mk [(0, 32, t.tref), (32, 12, sat 12 age), (44, 1, b2n (decide (fld (rwGet s (sid d 0xA005)) 11 0 < age)))]
def thermStatus (s : State) (d : Side) : Word :=
  let t := s.therm.get d
  mk [(0, 1, b2n t.running), (1, 1, b2n t.bgOff), (2, 1, b2n t.refOff), (4, 3, t.route), (8, 25, t.shots),
    (33, 18, if thEnable (cfgOf s d) d then ((thSide (cfgOf s d) d).map (thChans (cfgOf s d))).sum else 0)]
def accumCount (s : State) (d : Side) : Word :=
  mk [(0, 32, (s.therm.get d).completed), (32, 32, (s.therm.get d).discarded)]

/-! ### Time base and Awl -/

def TbState.code : TbState → Nat
  | .free => 0
  | .acquire => 1
  | .locked => 2
  | .freq => 3
  | .holdover => 4

/-- TB.STATUS (Table 13-4). -/
def tbStatus (s : State) : Word :=
  let t := s.tb
  mk [(0, 1, b2n t.set), (1, 3, t.state.code), (4, 1, b2n t.ppsUp), (5, 1, b2n t.refUp), (6, 1, b2n (t.refUp && t.refIn)),
    (7, 1, b2n (!pllLocked s)), (8, 1, b2n t.loader.isSome), (16, 16, sbits 16 (max (-32767) (min 32767 t.phase))),
    (32, 32, sbits 32 t.y)]

/-- Whole seconds of the present HOLDOVER, or since the XTAL origin of R278. -/
def holdSeconds (s : State) : Nat :=
  if s.tb.state == .holdover || (s.tb.state == .free && fld (rwGet s 0x6000) 1 0 = 0) then (s.tb.mono - s.tb.origin) / sCycles else 0

/-- AGEING · d in 10^−12, d in days at whole seconds; rounded as Config.roundUp says (log 4). -/
def ageingCorr (s : State) : Int :=
  Config.quot 278 (sfld (rwGet s 0x6002) 31 0 * holdSeconds s) 86400
def holdWord (s : State) : Word :=
  mk [(0, 32, holdSeconds s), (32, 32, sbits 32 (if holdSeconds s = 0 then 0 else ageingCorr s))]
def tbCounts (s : State) : Word := mk [(0, 16, s.tb.steps), (16, 16, s.tb.rejects), (32, 16, s.tb.holdovers)]

def awlIn (s : State) (n : Nat) : AwlInput := s.awl.getD n AwlInput.init
def setAwl (n : Nat) (f : AwlInput → AwlInput) (s : State) : State := { s with awl := upd s.awl n f }
def tdcStatus (s : State) (n : Nat) : Word :=
  let a := awlIn s n
  mk [(0, 10, a.queue.length), (16, 16, a.ovf), (32, 16, a.deadMiss), (48, 1, b2n a.pair)]

/-! ### Aux, stream, memory, Lace -/

def seqStatus (s : State) : Word :=
  let a := s.aux
  mk [(0, 6, a.entry), (6, 1, b2n (a.phase == .settling || a.phase == .converting)), (7, 1, b2n a.pendingTr),
    (8, 1, b2n a.paused), (16, 16, a.overrun), (32, 16, a.wraps), (48, 16, a.tripped.toNat)]

/-- Bytes a frame takes in the output queue: header, payload and trailer (R313, R319). -/
def Frame.bytes (f : Frame) : Nat := 8 * f.payload.length + 24
def framesBytes (l : List Frame) : Nat := (l.map Frame.bytes).sum

/-- Sizes of the regions of Table 16-3 in bytes. -/
def elasticSize (s : State) : Nat := fld (rwGet s 0x7000) 14 8 * 0x4000000
def historySize (s : State) : Nat := fld (rwGet s 0x7102) 7 0 * 0x4000000
def dumpSize (s : State) : Nat := fld (rwGet s 0x7102) 15 8 * 0x4000000
/-- The ranks of each channel (Table 16-1); 4 and 8 GiB may be fitted as one or two, which is the board's (log 110). -/
def dramRanks (s : State) : Nat :=
  if s.mem.fitted = 2 then 1 else if s.mem.fitted = 16 then 2 else 1 + Config.free 327 s.mem.fitted % 2
/-- Row bits per rank: a channel has half of the capacity, in rows of 4 KiB in 8 banks of each rank (R327). -/
def rowBits (s : State) : Nat := Nat.log2 (s.mem.fitted * 0x4000 / dramRanks s)
/-- The usable capacity Cu (R328). -/
def usableCap (s : State) : Nat := s.mem.fitted * 0x40000000 * (if s.mem.ecc then 7 else 8) / 8
def hostEnd (s : State) : Nat := usableCap s - historySize s - dumpSize s - elasticSize s

/-- The elastic fill in %. -/
def elasticPct (s : State) : Nat :=
  if elasticSize s = 0 then 0 else framesBytes s.strm.elastic * 100 / elasticSize s

def LatState.code : LatState → Nat
  | .down => 0
  | .training => 1
  | .up => 2
def streamStatus (s : State) : Word :=
  let t := s.strm
  mk [(0, 2, t.state.code), (2, 1, b2n t.overflow), (3, 1, b2n t.shedding), (4, 1, b2n t.markFull), (8, 8, t.credits),
    (16, 8, t.laneOk.toNat), (24, 7, elasticPct s)]
def streamFill (s : State) : Word := mk [(0, 32, framesBytes s.strm.elastic / 4096), (32, 17, s.strm.marks.length)]
def streamCounts (s : State) : Word :=
  mk [(0, 32, s.strm.sent.toNat), (32, 16, s.strm.creditErr), (48, 16, s.strm.resent)]
def streamDrops (s : State) : Word := mk [(0, 32, s.strm.dropCount), (32, 32, s.strm.episodes)]

def memStatus (s : State) : Word :=
  let m := s.mem
  mk [(0, 1, b2n m.usable), (1, 1, b2n m.ecc), (2, 2, m.map.toNat), (4, 1, b2n m.panic), (5, 1, b2n m.selfRefresh),
    (8, 4, m.postponed), (16, 9, if m.usable then usableCap s / 0x4000000 else 0),
    (32, 9, if m.usable then hostEnd s / 0x4000000 else 0)]
def memCounts (s : State) : Word :=
  mk [(0, 16, s.mem.panics), (16, 16, s.mem.longPanics), (32, 16, s.mem.timeouts), (48, 16, s.mem.histLost)]
def memEcc (s : State) : Word := mk [(0, 32, s.mem.corr), (32, 32, s.mem.uncorr)]

/-- The memory channel of a DRAM address (Table 16-4): 0 MEMA, 1 MEMB. -/
def dramChannel (s : State) (a : Nat) : Nat :=
  if 2 ≤ s.mem.map.toNat then a / 256 % 2 else b2n (s.mem.fitted * 0x40000000 ≤ 2 * a)

/-- Where a byte of the capacity lies in the parts (R335). -/
structure DramPlace where
  channel : Nat
  rank    : Nat
  bank    : Nat
  row     : Nat
  column  : Nat
deriving DecidableEq, Repr

/-- The address maps (Table 16-4): MAP0 and MAP1 give each channel half of the capacity. The rank bit, where there is one,
is the top bit of the row; "ranks" in the table's bit spans counts rank bits (log 110). -/
def dramPlace (s : State) (a : Nat) : DramPlace :=
  let half := s.mem.fitted * 0x20000000
  let low := a % half
  let split := a % 256 + 256 * (a / 512 % 16)
  let at' := fun (bank row column : Nat) =>
    ({ channel := dramChannel s a, rank := row / 2 ^ rowBits s, bank := bank, row := row % 2 ^ rowBits s,
       column := column } : DramPlace)
  match s.mem.map.toNat with
  | 0 => at' (low / 2 ^ 12 % 8) (low / 2 ^ 15) (a % 4096)
  | 1 => at' (8 * low / half) (low % (half / 8) / 4096) (a % 4096)
  | 2 => at' (a / 2 ^ 13 % 8) (a / 2 ^ 16) split
  | _ => at' ((a / 2 ^ 13 % 8) ^^^ (a / 2 ^ 16 % 8)) (a / 2 ^ 16) split

/-- What the parts hold at a device address: data below Cu; with inline ECC the check byte of hide word a / 8 at Cu + a / 8
(R328). The code is a SECDED code that the spec does not give. -/
def deviceByte (s : State) (x : Nat) : Byte :=
  if x < usableCap s then memGet s.mem.bytes x
  else Config.secded (memWord s.mem.bytes (8 * (x - usableCap s)))

/-- An event that may be given only so many core cycles after the last. -/
def rested (last : Option Nat) (cycle gap : Nat) : Bool := match last with | some t => t + gap ≤ cycle | none => true

/-- What a read of the device's own finds in DRAM with inline ECC; open (R342, log 94). -/
def readCondition (ecc : Bool) (drawn : Nat) : Access :=
  let x := Config.unstated 342 [drawn] % 3
  if !ecc || x = 0 then .ok else if x = 1 then .corrected else .ecc

/-- A single-bit error is corrected (R342). -/
def eccCorr (port a : Nat) (patrol : Bool) (s : State) : State :=
  let give := rested s.mem.corrAt s.tb.mono sCycles
  let s1 := { s with
    mem := { s.mem with corr := sat 32 (s.mem.corr + 1), corrAt := if give then some s.tb.mono else s.mem.corrAt }
    can := { s.can with acc := { s.can.acc with dram := sat 32 (s.can.acc.dram + 1) } } }
  postIf give evDramEccCorr (port + 4 * dramChannel s a + 8 * b2n patrol) s1

/-- What happens during an open surge record goes into it (Table 18-4). -/
def duringSurge (f : Surge → Surge) (s : State) : State := { s with can := { s.can with surge := s.can.surge.map f } }

/-- An uncorrectable word is read (R342). -/
def eccUncorr (port a : Nat) (patrol : Bool) (s : State) : State :=
  let give := rested s.mem.uncorrAt s.tb.mono (100 * msCycles)
  let s1 := duringSurge (fun r => { r with uncorr := r.uncorr + 1 }) { s with mem := { s.mem with
    uncorr := sat 32 (s.mem.uncorr + 1), eccAddr := a, uncorrAt := if give then some s.tb.mono else s.mem.uncorrAt } }
  postIf give evDramEccUncorr (port + 4 * dramChannel s a + 8 * b2n patrol) s1

/-- What the check of word i found in an access that as a whole met acc, at word k at least; the other words are open
(log 94). -/
def wordCheck (acc : Access) (k drawn i : Nat) : Access :=
  let x := Config.free 342 (drawn + 1 + i) % 3
  if i = k then acc else if x = 1 then .corrected else if x = 2 && acc == .ecc then .ecc else .ok

/-- Every word in error of a port's read of n words is counted, with its event (R342). -/
def wordsFound (port : Nat) (acc : Access) (a n : Nat) (s : State) : State :=
  let k := Config.free 342 s.drawn % max n 1
  (List.range (max n 1)).foldl (fun t i => match wordCheck acc k s.drawn i with
    | .corrected => eccCorr port (a + 8 * i) false t
    | .ecc => eccUncorr port (a + 8 * i) false t
    | _ => t) { s with drawn := s.drawn + 1 + n }

/-- A block's read of n words of its own, of what the check found, by a port. -/
def blockRead (port : Nat) (acc : Access) (a n : Nat) (s : State) : State :=
  if acc == .corrected || acc == .ecc then wordsFound port acc a n (wakeMem s) else wakeMem s

def DmaState.code : DmaState → Nat
  | .idle => 0
  | .running => 1
  | .idleAtEnd => 2
  | .loop => 3
  | .fetchErr => 4
  | .aborted => 5
def chan (s : State) (n : Nat) : DmaChan := s.dma.chans.getD n DmaChan.init
def setChan (n : Nat) (f : DmaChan → DmaChan) (s : State) : State :=
  { s with dma := { s.dma with chans := upd s.dma.chans n f } }
def dmaStatus (s : State) (n : Nat) : Word :=
  let c := chan s n
  mk [(0, 3, c.state.code), (3, 1, b2n c.kick), (6, 34, c.desc / 64), (40, 16, sat 16 c.count)]

/-! ### Calibration -/

def calGroup (s : State) (g : Nat) : CalGroup := s.cal.groups.getD g CalGroup.init
def setCal (g : Nat) (f : CalGroup → CalGroup) (s : State) : State :=
  { s with cal := { s.cal with groups := upd s.cal.groups g f } }

/-- Record words of a group (Table 17-1). -/
def calWords (g : Nat) : Nat := if g ≤ 8 then 13 else if g ≤ 10 then 6 else if g ≤ 12 then 8 else if g ≤ 14 then 3
  else if g = 15 then 8 else 10

/-- The first word and the whole of a group's calibration record (R369): header, trims, CRC. -/
def calHeader (s : State) (g : Nat) : Word :=
  mk [(0, 5, g), (8, 8, calWords g), (16, 8, Config.calVersion.toNat), (32, 16, Config.dieId.toNat),
    (48, 16, sbits 16 (calGroup s g).formed)]

/-- The trims of a group: those formed or written, else the factory trims held on the die (log 17). -/
def calTrims (s : State) (g : Nat) : List Word :=
  if (calGroup s g).trims = [] then (List.range (calWords g - 2)).map fun i => Config.factoryTrim g i
  else (calGroup s g).trims
def calRecord (s : State) (g : Nat) : List Word :=
  let body := calHeader s g :: calTrims s g
  body ++ [mk [(0, 32, (crcWords body).toNat)]]

def calStatus (s : State) : Word :=
  mk [(0, 17, s.cal.running.toNat),
    (32, 17, ((List.range 17).filter fun g => (calGroup s g).low != 0).foldl (fun a g => a + 2 ^ g) 0),
    (49, 1, b2n s.recv.suspect)]

/-! ### Cantle -/

/-- MGT.STATUS (Table 18-10). -/
def logOldest (s : State) : BitVec 32 := s.can.logNext - BitVec.ofNat 32 s.can.log.length
def mgtStatus (s : State) : Word :=
  mk [(0, 1, b2n s.can.running), (1, 1, b2n (s.can.imageB && !inRecovery s)), (2, 1, b2n s.can.test.isSome),
    (3, 1, b2n s.can.surge.isSome), (16, 16, s.evq.logLost), (32, 32, (logOldest s).toNat)]
def SlotState.code : SlotState → Nat
  | .empty => 0
  | .part => 1
  | .stored => 2
  | .trial => 3
  | .valid => 4
  | .rejected => 5
def updStatus (s : State) : Word :=
  let c := s.can
  mk [(0, 3, c.slotA.code), (3, 3, c.slotB.code), (6, 2, c.attempts), (8, 8, c.buffer.length),
    (16, 16, match c.session with | some x => x.data.length | none => 0), (32, 16, c.svnFloor.toNat),
    (48, 4, c.revoked.toNat)]

/-- A slot holds a whole image (MGT.IMAGES reads 0 otherwise). -/
def SlotState.whole : SlotState → Bool
  | .stored => true
  | .trial => true
  | .valid => true
  | _ => false
def imagesWord (s : State) : Word :=
  mk [(0, 32, if s.can.slotA.whole then s.can.imageA.version.toNat else 0),
    (32, 32, if s.can.slotB.whole then s.can.imageBi.version.toNat else 0)]
def selftestWord (s : State) : Word :=
  mk [(0, 13, s.can.failed.toNat), (16, 8, s.can.domains.toNat), (32, 32, s.can.testedAt.toNat)]

/-! ### Reading a parameter (R105) -/

/-- An RO parameter, by its side A ID. -/
def readRo (s : State) (d : Side) (id : Nat) : Word :=
  match id with
  | 0x0010 => mk [(0, 4, s.pwr.wake.toNat)]
  | 0x0020 => mk [(0, 1, b2n s.pll.refclk), (4, 4, s.pll.freqCode)]
  | 0x0023 => clkStatus s
  | 0x0030 => tackStatus s
  | 0x0040 => deferStatus s
  | 0x1000 => harnAddress s
  | 0x1002 => hopDelay s
  | 0x1003 => harnErrors s
  | 0x2000 => zoneCapacity s
  | 0x2001 => zoneStreamWord s
  | 0x2002 => satCounts s
  | 0x2010 => baselineWord s
  | 0x3020 => girthStatus s d
  | 0x3021 => girthCounts s d
  | 0x3030 => mk [(0, 32, s.girth.lastId.toNat), (32, 8, s.girth.used)]
  | 0x3031 => mk [(0, 32, s.girth.a.digestId.toNat), (32, 32, s.girth.b.digestId.toNat)]
  | 0x4030 => emitStatus s d
  | 0x4031 => mk [(0, 32, (s.lash.get d).count)]
  | 0x5030 => ovrCounts s d
  | 0x5041 => checkStatus s
  | 0x5880 => seqStatus s
  | 0x6010 => tbStatus s
  | 0x6011 => holdWord s
  | 0x6012 => tbCounts s
  | 0x7010 => streamStatus s
  | 0x7011 => streamFill s
  | 0x7012 => streamCounts s
  | 0x7013 => streamDrops s
  | 0x7110 => memStatus s
  | 0x7111 => memCounts s
  | 0x7112 => memEcc s
  | 0x7113 => mk [(0, 40, s.mem.eccAddr)]
  | 0x8010 => calStatus s
  | 0x9010 => mgtStatus s
  | 0x9011 => updStatus s
  | 0x9012 => imagesWord s
  | 0x9014 => selftestWord s
  | 0xA020 => refStatus s d
  | 0xA021 => thermStatus s d
  | 0xA022 => accumCount s d
  | 0xB020 => curCounts s d
  | 0xB030 => curStatus s
  | 0xB031 => s.tiles
  | _ =>
    if rng id 0x5050 0x5057 then slicesWord s (id - 0x5050)
    else if rng id 0x6030 0x603A then tdcStatus s (id - 0x6030)
    else if rng id 0x7210 0x721F then dmaStatus s (id - 0x7210)
    else 0

/-- A parameter with a home of its own. -/
def readOwn (s : State) (id : Nat) : Word :=
  if id = 0x0011 then s.pwr.scratchLo else if id = 0x0012 then s.pwr.scratchHi else s.pll.cfg

/-- The side an ID belongs to. -/
def idSide (id : Nat) : Side := if pBase id = id then .a else .b

/-- PARAM_GET of one ID; draft selects the draft value of an RWS parameter (R27, R105). -/
def readParam (s : State) (draft : Bool) (id : Nat) : Word :=
  match pRow id with
  | none => 0
  | some r =>
    match r.acc with
    | .ro => readRo s (idSide id) (pBase id)
    | .rw => if pBase id = 0x4009 then aprWord s (idSide id) else rwGet s id
    | .nv => nvGet s id
    | .own => readOwn s id
    | .wo => 0
    | .rws => if draft then cfgGet s.draft id else liveParam s id

/-! ### STATUS (Table 20-3) -/

/-- The most recent completion still DONE. -/
def lastDone (s : State) : Option (Nat × BitVec 8) :=
  s.brg.recent.findSome? fun k => match s.brg.slots.getD k .free with | .done st _ => some (k, st) | _ => none

/-- The two words of STATUS. -/
def statusWords (s : State) : List Word :=
  let st := if inRecovery s then 2 else 1
  let low := if inRecovery s then 0 else
    (mk [(2, 1, b2n (acquiring s .a)), (3, 1, b2n (acquiring s .b)), (4, 1, b2n s.lash.a.enabled),
      (5, 1, b2n s.lash.b.enabled), (6, 1, b2n (draftLocked s)), (7, 1, b2n s.can.running), (8, 1, b2n (pllLocked s)),
      (9, 1, b2n s.tb.set), (10, 1, b2n s.mem.usable), (11, 2, s.strm.state.code), (13, 1, b2n (attn s)),
      (14, 1, b2n s.can.test.isSome)]).toNat
  let last := lastDone s
  [mk [(0, 15, st + low), (16, 11, s.evq.q.length), (32, 16, s.evq.lost)],
   mk [(0, 16, slotMap s Slot.isRunning), (16, 16, slotMap s Slot.isDone),
     (32, 4, match last with | some x => x.1 | none => 0), (36, 1, b2n last.isSome),
     (40, 8, match last with | some x => x.2.toNat | none => 0)]]

end Sys2Proof.Machine
end

