-- ==== Sys2Proof/Machine/Bridle.lean ====
section
/-!
DEFINITION. Bridle: the checking order of R96, the deferred slots, replies and their delivery, and the commands that
concern the command port alone (NOP, IDENTIFY, STATUS, RESULT, EVENT_READ, EVENT_ACK, CHAIN_LOOPBACK, PARAM_GET).
-/
namespace Sys2Proof.Machine

/-! ### Who executes a request (Table 05-4, R80, R83, R114) -/

/-- Bridle answers: step 3 of Table 03-2 or later, READY, RECOVERY or production test (R46, R49, R38). -/
def answers (s : State) : Bool :=
  match s.pwr.dev with
  | .starting n => decide (3 ≤ n)
  | .ready => true
  | .recovery => true
  | .prodTest => true
  | _ => false

/-- A request that came by the harness with this address is executed here. -/
def addressed (s : State) (a : Nat) : Bool :=
  a = 62 || (1 ≤ a && a ≤ 31 && a = s.pwr.address.toNat) || (a = 63 && s.pwr.address == 0)

/-- A request to address 63 has reached a last unit that is assigned (R80). -/
def noneLeft (s : State) (a : Nat) : Bool := a = 63 && s.pwr.address != 0 && isLast s

/-- The unit takes requests of this port at all: alive, the UP data pair LOCKED and not in break-in (R90, R91), the UART
enabled (Table 06-13). -/
def portLive (s : State) (p : Port) : Bool :=
  answers s && match p with
    | .harness => s.harn.up == .locked && !s.harn.breakIn
    | .uart => bit (rwGet s 0x9000) 4

/-- The request is executed by this unit. -/
def reaches (s : State) (o : Origin) : Bool :=
  portLive s o.port && match o.port with
    | .harness => addressed s o.addr
    | .uart => true

/-! ### Handlers -/

/-- Column 62 of Table 20-1. -/
inductive Bcast where | yes | no | only
deriving DecidableEq, Repr

/-- One row of Table 20-1: its opcode, column 62, marks C, M and V, the allowed LENGTH, the payload word at fault, the
states and protections that refuse it, whether it defers and what it then holds, what it does at once (with its reply),
and how its deferred work starts. -/
structure Handler where
  op     : Nat
  bcast  : Bcast
  cantle : Bool
  dram   : List Word → Bool
  recov  : Bool
  lenOk  : List Word → Bool
  value  : State → List Word → Option Nat
  bad    : State → Origin → List Word → Bool
  denied : State → List Word → Bool
  defers : State → List Word → Option Res
  run    : Origin → List Word → State → Reply × State
  start  : Origin → List Word → State → State

/-- An immediate command of fixed LENGTH, allowed everywhere, with no check yet. -/
def Handler.plain (op n : Nat) (run : Origin → List Word → State → Reply × State) : Handler :=
  { op := op, bcast := .yes, cantle := false, dram := fun _ => false, recov := false, lenOk := fun p => p.length = n,
    value := fun _ _ => none, bad := fun _ _ _ => false, denied := fun _ _ => false, defers := fun _ _ => none,
    run := run, start := fun _ _ s => s }

/-- A deferred command of fixed LENGTH holding one resource. -/
def Handler.work (op n : Nat) (r : List Word → Res) (start : Origin → List Word → State → State) : Handler :=
  { Handler.plain op n (fun _ _ s => (okReply [], s)) with
    defers := fun _ p => some (r p), start := start }

/-- OK without payload, with an effect. -/
def Handler.ok (f : List Word → State → State) (_ : Origin) (p : List Word) (s : State) : Reply × State :=
  (okReply [], f p s)

/-- Reserved bits of payload words: the index of the first word with a bit outside its mask. -/
def maskFault (ms : List Word) (p : List Word) : Option Nat :=
  ((List.range ms.length).find? fun i => !within (ms.getD i 0) (wd p i))

/-- Step 7 of R96: the marks C and M, column 62, and the command's own state rule. -/
def Handler.badState (h : Handler) (s : State) (o : Origin) (p : List Word) : Bool :=
  (o.port == .harness && ((h.bcast == .no && o.addr = 62) || (h.bcast == .only && o.addr ≠ 62))) ||
  (h.cantle && !s.can.running && !inRecovery s) || (h.dram p && !s.mem.usable) || h.bad s o p ||
  match h.defers s p with | some r => held s r | none => false

/-- A refusal: the reply, and EV_CMD_REJECTED where R97 raises it. -/
def refuse (op st d : Nat) (s : State) : Reply × State :=
  (reply st d [], postIf (0x10 ≤ st && st ≤ 0x40 && st ≠ 0x20 && st ≠ 0x30) evCmdRejected (op + 256 * st) s)

/-- Steps 3 and 5 to 9 of R96, then the command. `hdr`: STATUS, DETAIL or the reserved header bits are not 0. -/
def answer (h : Handler) (hdr : Bool) (o : Origin) (p : List Word) (s : State) : Reply × State :=
  if !(isReady s || (inRecovery s && h.recov)) then refuse h.op stNotReady 0 s
  else if !h.lenOk p then refuse h.op stBadLength 0xFF s
  else if hdr then refuse h.op stBadValue 0xFF s
  else match h.value s p with
    | some i => refuse h.op stBadValue i s
    | none =>
      if h.badState s o p then refuse h.op stBadState 0 s
      else if h.denied s p then refuse h.op stDenied 0 s
      else match h.defers s p with
        | some r =>
          match freeSlot s with
          | none => (reply stBusy 0 [], post evDeferredOverflow h.op s)
          | some k => (reply stAccepted k [], h.start o p
              { s with brg := { s.brg with slots := s.brg.slots.set k (.running r) } })
        | none =>
          let x := h.run o p s
          if x.1.status = 0x14 && h.op ≠ 0x0A then (reply stConflict 0 [], (refuse h.op stConflict 0 x.2).2) else x

/-! ### Delivery (R77, R79, R83) -/

/-- The reply leaves on its port; a broadcast's waits for the reply from below unless this is the last unit. A request row
gives no SEQ (log 3). -/
def deliver (o : Origin) (op : Nat) (r : Reply) (s : State) : State :=
  match o.port with
  | .uart => { s with brg := { s.brg with replyU := some r } }
  | .harness =>
    if o.addr = 62 && !isLast s then
      { s with harn := { s.harn with own := some { op := BitVec.ofNat 8 op, seq := none, status := r.status, detail := r.detail } } }
    else if s.tb.mono < s.harn.upBusy then { s with harn := { s.harn with replyDrop := sat 16 (s.harn.replyDrop + 1) } }
    else { s with brg := { s.brg with replyH := some r } }

/-- The last unit's answer to a request that found no unassigned unit: NOT_READY at step 3 of R96, then BAD_STATE (R80). -/
def answerNone (recov : Bool) (op : Nat) (s : State) : Reply × State :=
  if isReady s || (inRecovery s && recov) then refuse op stBadState 0 s else refuse op stNotReady 0 s

/-- A request row gives no SEQ, so the port's stored entry is no retry's match any more (log 3). -/
def dropStored (p : Port) (s : State) : State :=
  match p with
  | .harness => { s with brg := { s.brg with storedH := none } }
  | .uart => { s with brg := { s.brg with storedU := none } }

/-- A request with origin and payload, its CRC good: executed here, answered as the last unit, or passed by. -/
def request (h : Handler) (o : Origin) (p : List Word) (s : State) : State :=
  if reaches s o then
    let x := answer h false o p s
    deliver o h.op x.1 (dropStored o.port x.2)
  else if o.port == .harness && portLive s .harness && noneLeft s o.addr then
    let x := answerNone h.recov h.op s
    deliver o h.op x.1 (dropStored .harness x.2)
  else s

/-! ### NOP, IDENTIFY, STATUS, CHAIN_LOOPBACK -/

/-- NOP (R408). -/
def hNop : Handler := Handler.plain 0x00 0 (Handler.ok fun _ s => s)
/-- NOP. -/
def execNop (o : Origin) (p : List Word) (s : State) : Out := .next (request hNop o p s)

/-- IDENTIFY (R409). -/
def hIdentify : Handler :=
  { Handler.plain 0x01 0 (fun o _ s => (okReply (identity s (o.port == .uart)), s)) with recov := true }
/-- IDENTIFY. -/
def execIdentify (o : Origin) (p : List Word) (s : State) : Out := .next (request hIdentify o p s)

/-- A slot becomes FREE. -/
def slotFree (k : Nat) (s : State) : State :=
  { s with brg := { s.brg with slots := s.brg.slots.set k .free, recent := s.brg.recent.filter (· ≠ k) } }

/-- STATUS; in RECOVERY it frees the slot that LAST_SLOT names (R410). -/
def hStatus : Handler :=
  { Handler.plain 0x02 0 (fun _ _ s => (okReply (statusWords s),
      match lastDone s with
      | some x => if inRecovery s then slotFree x.1 s else s
      | none => s)) with recov := true }
/-- STATUS. -/
def execStatus (o : Origin) (p : List Word) (s : State) : Out := .next (request hStatus o p s)

/-- CHAIN_LOOPBACK (R416). -/
def hChainLoopback : Handler :=
  { Handler.plain 0x1B 0 (fun _ p s => (okReply p, s)) with lenOk := fun p => p.length ≤ 32 }
/-- CHAIN_LOOPBACK. -/
def execChainLoopback (o : Origin) (p : List Word) (s : State) : Out := .next (request hChainLoopback o p s)

/-! ### PARAM_GET (R105) -/

/-- PARAM_GET: each word an ID and DRAFT; an unknown ID or a reserved bit is at fault. -/
def hParamGet : Handler :=
  { Handler.plain 0x04 0 (fun _ p s => (okReply (p.map fun w => readParam s (bit w 16) (fld w 15 0)), s)) with
    lenOk := fun p => p.length ≤ 32
    value := fun _ p => p.findIdx? fun w => !(within 0x1FFFF w && (pRow (fld w 15 0)).isSome) }
/-- PARAM_GET. -/
def execParamGet (o : Origin) (p : List Word) (s : State) : Out := .next (request hParamGet o p s)

/-! ### EVENT_READ, EVENT_ACK (R396, R397) -/

/-- Word 0 of Table 19-1. -/
def eventWord (s : State) (returned : Nat) : Word :=
  mk [(0, 11, s.evq.q.length), (16, 4, returned),
    (32, 16, match s.evq.q with | e :: _ => e.qseq.toNat | [] => s.evq.next.toNat), (48, 16, s.evq.lost)]

/-- The two words of an entry. -/
def entryWords (e : EvEntry) : List Word :=
  [e.tag, mk [(0, 7, e.event), (8, 2, severity e.event), (10, 1, b2n e.unset), (16, 16, e.detail.toNat),
    (32, 16, e.qseq.toNat)]]

/-- EVENT_READ. -/
def hEventRead : Handler :=
  { Handler.plain 0x08 1 (fun _ p s =>
      let n := min (fld (wd p 0) 3 0) s.evq.q.length
      (okReply (eventWord s n :: (s.evq.q.take n).flatMap entryWords), s)) with
    value := fun _ p => maskFault [0xF] p }
/-- EVENT_READ. -/
def execEventRead (o : Origin) (p : List Word) (s : State) : Out := .next (request hEventRead o p s)

/-- d of R397: how far UPTO lies beyond the oldest entry. -/
def ackDistance (s : State) (w : Word) : Nat :=
  (BitVec.ofNat 16 (fld w 15 0) - match s.evq.q with | e :: _ => e.qseq | [] => s.evq.next).toNat

/-- EVENT_ACK. -/
def hEventAck : Handler :=
  { Handler.plain 0x09 1 (fun _ p s =>
      let d := ackDistance s (wd p 0)
      let s' := { s with evq := { s.evq with q := if d < s.evq.q.length then s.evq.q.drop (d + 1) else s.evq.q } }
      (okReply [eventWord s' 0], s')) with
    bcast := .no
    value := fun s p => match maskFault [0xFFFF] p with
      | some i => some i
      | none => let d := ackDistance s (wd p 0)
        if d < s.evq.q.length || 64512 ≤ d then none else some 0 }
/-- EVENT_ACK. -/
def execEventAck (o : Origin) (p : List Word) (s : State) : Out := .next (request hEventAck o p s)

/-! ### RESULT (R412, Table 06-3) -/

/-- RESULT. -/
def hResult : Handler :=
  { Handler.plain 0x0A 1 (fun _ p s =>
      let k := fld (wd p 0) 3 0
      match s.brg.slots.getD k .free with
      | .done st res => ({ status := st, detail := 0, payload := res }, slotFree k s)
      | _ => (reply stAccepted k [], s)) with
    bcast := .no
    value := fun _ p => maskFault [0xF] p
    bad := fun s _ p => s.brg.slots.getD (fld (wd p 0) 3 0) .free == .free }
/-- RESULT. -/
def execResult (o : Origin) (p : List Word) (s : State) : Out := .next (request hResult o p s)

/-! ### Abandonment (Table 06-3, R91, R420) -/

/-- Every slot becomes FREE: no reply, no EV_CMD_DONE. What the works do then is their own rules'. -/
def freeSlots (s : State) : State :=
  { s with brg := { s.brg with slots := List.replicate 16 .free, recent := [] } }

/-- Both stored entries are cleared (R98). -/
def clearStored (s : State) : State := { s with brg := { s.brg with storedH := none, storedU := none } }

end Sys2Proof.Machine
end

