-- ==== Sys2Proof/Machine/Recv.lean ====
section
/-!
DEFINITION. The receiver converters (chapter 08): over-range counts and bursts, the shadow converter with its verdicts,
slice retirement and restoring, and ADC_CHECK_SET.
-/
namespace Sys2Proof.Machine

def setRecv (f : Recv → Recv) (s : State) : State := { s with recv := f s.recv }

/-! ### Over-range (R152, R153, R154) -/

def ovrThresh (s : State) : Nat := fld (rwGet s 0x5020) 15 0
def burstLanes (s : State) : Nat := fld (rwGet s 0x5020) 19 16

/-- A lane completes a shot group with so many over-ranged samples: the count, and EV_ADC_OVERRANGE above THRESH, once
until a group without any (R152, R153). -/
def laneGroup (n x : Nat) (s : State) : State :=
  let up := decide (ovrThresh s < x) && !(lane s n).ovrUp
  postIf up evAdcOverrange n (setLane n (fun l => { l with
    ovrCount := if x = 0 then l.ovrCount else sat 16 (l.ovrCount + 1), ovrUp := (l.ovrUp || up) && x ≠ 0 }) s)

/-- The four lanes of a side complete a shot group. -/
def sideOvers (d : Side) (overs : List Nat) (s : State) : State :=
  (List.range 4).foldl (fun s i => laneGroup (4 * d.num + i) (overs.getD i 0) s) s

/-- Lanes of a bitmap. -/
def popcount (n x : Nat) : Nat := ((List.range n).filter fun i => x.testBit i).length

/-- A burst is kept for 10 ms, whether Cantle runs or is stopped, and added to an open surge record (R155, R384). -/
def burstToSurge (lanes : BitVec 8) (raman : Bool) (s : State) : State :=
  { s with can := { s.can with
      bursts := (s.tb.mono, lanes, raman) :: s.can.bursts.filter fun b => s.tb.mono ≤ b.1 + 10 * msCycles
      surge := s.can.surge.map fun r => { r with burst := true, lanes := r.lanes ||| lanes, raman := r.raman || raman } } }

/-- The main sample of the present core cycle. -/
def mainNow (s : State) : Nat := 3 * s.tb.mono

/-- The mark covers main sample n. -/
def Mark.covers (m : Mark) (n : Nat) : Bool :=
  m.pos = n % 8 && m.start ≤ n && match m.upto with | some u => decide (n < u) | none => true

/-- Main sample n of a lane carries SETTLE for its own position: retired or degraded (Table 08-3). -/
def Lane.settles (l : Lane) (n : Nat) : Bool := l.marks.any fun m => m.covers n

/-- Where the shot's window starts: t0, in main samples after the commanded instant, and μ in 1/256 sample. Where Awl timed
no edge the launch is taken 50 ns after the commanded instant (R119, R169). -/
def Shot.start (sh : Shot) : Nat × Nat := if sh.est then (60, 0) else sh.align.getD (60, 0)

/-- The window of a shot: its first main sample and its length. -/
def Shot.span (d : Side) (x : Shot) : Nat × Nat := (3 * x.cycle + x.start.1, window x.cfg d)

/-- Windows whose samples carry SETTLE for their shot: a settle group's, and those of shots discarded (Table 08-3). -/
def Lash.settling (d : Side) (l : Lash) : List (Nat × Nat) :=
  (l.shots.filter fun x => x.settle || x.discard).map (Shot.span d) ++ l.void

/-- Main sample n falls in a window whose samples carry SETTLE for their shot. -/
def shotSettles (s : State) (d : Side) (n : Nat) : Bool :=
  ((s.lash.get d).settling d).any fun w => decide (w.1 ≤ n) && decide (n < w.1 + w.2)

/-- Sample m of the window is in the trace-end guard (R127). -/
def guarded (c : Cfg) (d : Side) (m : Nat) : Bool := decide (window c d ≤ m + proofGuard c d)

/-- Main sample n lies in the trace-end guard of a window of a side (Table 08-3). -/
def shotGuards (s : State) (d : Side) (n : Nat) : Bool :=
  (s.lash.get d).shots.any fun x =>
    let t := (x.span d).1
    t ≤ n && n < t + window x.cfg d && guarded x.cfg d (n - t)

/-- Main sample n of lane k carries SETTLE, for a cause that State holds (Table 08-3). -/
def flaggedAt (s : State) (k n : Nat) : Bool :=
  (lane s k).settles n || shotSettles s (sideOf (k / 4)) n || shotGuards s (sideOf (k / 4)) n

/-- Does an over-ranged sample count toward a burst: no SETTLE, and not within BLANK of a launch edge of its side? -/
def burstCounts (s : State) (x : OverSample) : Bool :=
  let d := sideOf (x.lane / 4)
  let blank := fld (rwGet s 0x5020) 47 32
  !flaggedAt s x.lane x.instant && !(s.lash.get d).edges.any fun e => e ≤ x.instant && x.instant < e + blank

/-- Samples that lie in the interval of BURST_WINDOW core cycles from a main sample on. -/
def inBurst (s : State) (start : Nat) (l : List OverSample) : List OverSample :=
  l.filter fun x => start ≤ x.instant && x.instant < start + 3 * fld (rwGet s 0x5020) 27 20

/-- A bitmap of the lanes of some samples. -/
def lanesOf (l : List OverSample) : BitVec 8 :=
  BitVec.ofNat 8 (((List.range 8).filter fun k => l.any (·.lane = k)).map (2 ^ ·)).sum

/-- The first interval with enough lanes over-ranged: its lanes, and whether a Raman lane was in it. -/
def findBurst (s : State) (samples raman : List OverSample) : Option (BitVec 8 × Bool) :=
  let l := samples.filter (burstCounts s)
  (l.find? fun x => burstLanes s ≤ popcount 8 (lanesOf (inBurst s x.instant l)).toNat).map fun x =>
    (lanesOf (inBurst s x.instant l), inBurst s x.instant raman != [])

/-- OVERRANGE_BURST (R154): enough lanes within one burst window, once until 1 ms has passed without a burst. -/
def execOverrangeBurst (samples raman : List OverSample) (s : State) : Out :=
  if burstLanes s = 0 then .next s else
  .next (match findBurst s samples raman with
    | none => s
    | some b =>
      let again := match s.recv.burstAt with
        | some t => decide (t + msCycles ≤ s.tb.mono)
        | none => true
      let s1 := setRecv (fun r => { r with burstAt := some s.tb.mono }) s
      if again then post evAdcOverrangeBurst (b.1.toNat + 256 * b2n b.2) (burstToSurge b.1 b.2 s1) else s1)

/-! ### Positions and exclusions (R148, R159, R175) -/

/-- The trackers of a side's branches of the polarisations in `bits` are dropped: they are initialised again (R178). -/
def dropTrackers (d : Side) (bits : Nat) (s : State) : State :=
  let drop := fun (t : GateTrack) => { t with trk := t.trk.filter fun x => !bits.testBit (x.1 % 2) }
  if bits = 0 then s else
  setCur d (fun u => { u with refGates := u.refGates.map fun x => (x.1, x.2.map drop) })
    { s with zones := s.zones.map fun z =>
        if zoneSide (cfgOf s d) z.1 == d then (z.1, { z.2 with gates := z.2.gates.map drop }) else z }

/-- A change after which the branches whose exclusion it ended are initialised again (R175). -/
def watchExcl (f : State → State) (s : State) : State :=
  let t := f s
  bothSides (fun d t => dropTrackers d (polExcl s d &&& (3 - polExcl t d)) t) t

/-- Change a lane: the dwell's counts of a position whose slice changes start again (R159), and exclusions are watched. -/
def changeLane (n : Nat) (f : Lane → Lane) (s : State) : State :=
  watchExcl (fun s =>
    let t := setLane n f s
    let fresh := fun p => s.recv.lane = n && (lane s n).pos.getD p 0 ≠ (lane t n).pos.getD p 0
    setRecv (fun r => { r with fromAt := r.fromAt.zipIdx.map fun x => if fresh x.2 then mainNow s else x.1 }) t) s

/-! ### Main lanes taken by Strop (R361) -/

/-- A mark that no shot in flight can meet any more is dropped; an open one ends. -/
def recent (now : Nat) (l : List Mark) : List Mark :=
  l.filter fun m => match m.upto with | some u => decide (now < u + 2 ^ 22) | none => true

/-- Strop takes the main lanes of some polarisations (A X, A Y, B X, B Y). -/
def takePols (m : BitVec 4) (s : State) : State :=
  let new := (List.range 4).filter fun p => m.getLsbD p && !s.cal.taken.getLsbD p
  { s with cal := { s.cal with
      taken := s.cal.taken ||| m, due := s.cal.due &&& ~~~m
      takes := new.map (fun p => { pos := p, start := s.tb.mono, upto := none }) ++ recent s.tb.mono s.cal.takes } }

/-- They return. -/
def freePols (m : BitVec 4) (s : State) : State :=
  { s with cal := { s.cal with
      taken := s.cal.taken &&& ~~~m, due := s.cal.due &&& ~~~m
      takes := s.cal.takes.map fun x =>
        if m.getLsbD x.pos && x.upto.isNone then { x with upto := some s.tb.mono } else x } }

/-- The polarisations of a side. -/
def sidePols (d : Side) : BitVec 4 := 3 <<< (2 * d.num)

/-- The polarisations of a side whose first pair of lanes is under foreground calibration. -/
def runningPols (s : State) (d : Side) : BitVec 4 :=
  BitVec.ofNat 4 (((List.range 2).map fun i => b2n (s.cal.running.getLsbD (4 * d.num + 2 * i)) * 2 ^ (2 * d.num + i)).sum)

/-- B1 of the pairs that wait for it; and a Raman group takes its lanes, now that its last trace has ended (R361, R362). -/
def pairsDue (d : Side) (s : State) : State :=
  { s with cal := { s.cal with
      due := s.cal.due ||| (runningPols s d &&& ~~~s.cal.taken)
      raman := if s.cal.running.getLsbD (9 + d.num) then s.cal.raman ||| (1 <<< d.num) else s.cal.raman } }

/-- B1 + τ: the last window opened before B1 closes, and the pairs that are due are taken. -/
def takeDue (d : Side) (s : State) : State := takePols (s.cal.due &&& sidePols d) s

/-- Acquisition on the side has ended: what its foreground calibrations name is taken. -/
def takeIdle (d : Side) (s : State) : State := takePols (runningPols s d) (pairsDue d s)

/-- Polarisations of a side that a shot cannot use: with a degraded position, or taken over some part of its window (R175,
R361; log 106). -/
def shotExcl (s : State) (d : Side) (sh : Shot) : Nat :=
  let away := fun i => s.cal.takes.any fun x => x.pos = 2 * d.num + i && 3 * x.start < 3 * sh.cycle + window sh.cfg d &&
    match x.upto with | some u => decide (sh.cycle < u) | none => true
  let p := fun i => b2n ((lane s (4 * d.num + 2 * i)).degraded != 0 || (lane s (4 * d.num + 2 * i + 1)).degraded != 0 || away i)
  p 0 + 2 * p 1

/-! ### Retirement (R162 to R164) -/

/-- A usable spare, the lowest that is not in background calibration, else the one that is. -/
def spareFor (l : Lane) : Option Nat :=
  (l.spares.find? fun x => l.out ≠ some x) <|> l.spares.head?

/-- The marks of a position that are still open end. -/
def Lane.unmark (l : Lane) (p at' : Nat) : Lane :=
  { l with marks := l.marks.map fun m => if m.pos = p && m.upto.isNone then { m with upto := some at' } else m }

/-- Put a slice into a position at a main sample. -/
def Lane.place (l : Lane) (p x at' : Nat) : Lane :=
  { l.unmark p at' with
      pos := l.pos.set p x, degraded := l.degraded &&& ~~~ ((1 : BitVec 8) <<< p), raw := l.raw &&& ~~~ ((1 : BitVec 10) <<< x)
      out := if l.out = some x then none else l.out, outTrims := if l.out = some x then [] else l.outTrims
      outFigures := if l.out = some x then [] else l.outFigures }

/-- A position's samples carry SETTLE from a main sample on; marks that no shot in flight can meet any more go. -/
def Lane.mark (l : Lane) (p at' : Nat) (upto : Option Nat) : Lane :=
  { l with marks := { pos := p, start := at', upto := upto } ::
      l.marks.filter fun m => match m.upto with | some u => decide (at' < u + 2 ^ 22) | none => true }

/-- A slice is retired at a main sample: a spare takes its position `swap` samples later, at most 1 µs, with SETTLE up to
then; or the position is degraded, with SETTLE until a spare becomes usable (Table 08-3). -/
def Lane.retire (l : Lane) (x at' swap : Nat) : Lane :=
  let l1 := { l with retired := l.retired ||| (1 <<< x), out := if l.out = some x then none else l.out,
                     outTrims := if l.out = some x then [] else l.outTrims
                     outFigures := if l.out = some x then [] else l.outFigures }
  match l.pos.findIdx? (· = x) with
  | none => l1
  | some p =>
    match spareFor l1 with
    | some y => (l1.place p y at').mark p at' (some (at' + swap))
    | none => { l1.mark p at' none with degraded := l1.degraded ||| (1 <<< p) }

/-- Cantle keeps the retired bitmaps among its lifetime counters, 10 bits a lane (R162, words 16 and 17 of Table 18-6). -/
def keepRetired (n : Nat) (s : State) : State :=
  let half := n / 4
  let w := ((List.range 4).map fun i => (lane s (4 * half + i)).retired.toNat * 2 ^ (10 * i)).sum
  { s with can := { s.can with life := s.can.life.set (16 + half) w } }

/-- The present dwell is discarded and begins again on its lane (R158, R161). -/
def restartDwell (s : State) : State := setRecv (fun r => { r with fromAt := List.replicate 8 (mainNow s) }) s

/-- The shadow converter is returned by Strop; the dwell that it interrupted is repeated. -/
def giveBack (s : State) : State := if s.recv.borrowed then restartDwell (setRecv (fun r => { r with borrowed := false }) s) else s

/-- The trims of a group's record in force are new words that no operand gives: opaque, so free (log 17). -/
def freshTrims (g : Nat) (s : State) : State :=
  setCal g (fun c => { c with trims := (List.range (calWords g - 2)).map fun i => BitVec.ofNat 64 (Config.free 369 (s.drawn + i)) })
    { s with drawn := s.drawn + (calWords g - 2) }

/-- Retire a slice of a lane: the record in force places it no longer (R370); a step of Strop's that loses its spare to it is aborted. When the swap comes within 1 µs is
open. -/
def retireSlice (n x : Nat) (s : State) : State :=
  let had := (lane s n).out.isSome
  let s0 := changeLane n (fun l => l.retire x (mainNow s) (Config.free 162 s.drawn % 1201)) { s with drawn := s.drawn + 1 }
  let s1 := freshTrims n (if had && (lane s0 n).out.isNone then giveBack s0 else s0)
  let l := lane s1 n
  let bad := match l.pos.findIdx? (· = x) with | some p => l.degraded.getLsbD p | none => false
  post evAdcSliceRetired (n + 16 * x + 256 * l.spares.length + 0x8000 * b2n bad) (keepRetired n s1)

/-- A retired slice returns as a spare, to be trimmed before its first use; one that still stands in a degraded position
is no better for it (R164). -/
def Lane.restore (l : Lane) (x : Nat) : Lane :=
  { l with retired := l.retired &&& ~~~ ((1 : BitVec 10) <<< x), raw := l.raw ||| (1 <<< x) }

def restoreSlice (n x : Nat) (s : State) : State := keepRetired n (changeLane n (fun l => l.restore x) s)

/-! ### Trims and slices (R359, R371) -/

/-- An assignment of slices to positions that can stand: eight different slices, of them no more retired than the lane
lacks good ones: those positions stay degraded (R163, R359; log 16). -/
def slicesOk (retired : BitVec 10) (l : List Nat) : Bool :=
  l.length = 8 && l.Nodup && (l.all fun x => decide (x < 10)) &&
    l.countP (retired.getLsbD ·) ≤ 8 - (List.range 10).countP fun x => !retired.getLsbD x

/-- A lane takes an assignment of trimmed slices, where it can stand. -/
def Lane.assign (x : Lane) (l : List Nat) (at' : Nat) : Lane :=
  if slicesOk x.retired l then
    let bad := fun p => x.retired.getLsbD (l.getD p 0)
    let y := (List.range 8).foldl (fun y p =>
      if !bad p then y.unmark p at' else if x.degraded.getLsbD p then y else y.mark p at' none) x
    { y with pos := l, raw := 0, degraded := BitVec.ofNat 8 (((List.range 8).filter bad).map (2 ^ ·)).sum }
  else x

def takeSlices (n : Nat) (l : List Nat) (s : State) : State := changeLane n (fun x => x.assign l (mainNow s)) s

/-- A calibration record takes effect: its trims with their temperature, and a main lane's slices. -/
def applyRecord (g : Nat) (p : List Word) (s : State) : State :=
  let body := (p.drop 1).dropLast
  let s1 := setCal g (fun c => { c with trims := body, formed := sfld (wd p 0) 63 48 }) s
  if g < 8 then takeSlices g (Config.recordSlices body) s1 else s1

/-- Accepted records of some groups take effect. -/
def applyRecords (f : Nat → Bool) (s : State) : State :=
  (s.cal.writes.filter fun w => f w.1).foldl (fun s w => applyRecord w.1 w.2 s)
    { s with cal := { s.cal with writes := s.cal.writes.filter fun w => !f w.1 } }

/-! ### The shadow converter (R158 to R161) -/

def checkMode (s : State) : Nat := fld (rwGet s 0x5040) 1 0
def checkLane (s : State) : Nat := fld (rwGet s 0x5040) 4 2
def autoRetire (s : State) : Bool := bit (rwGet s 0x5040) 5
def checkTol (s : State) : Nat := fld (rwGet s 0x5040) 27 16
def failLimit (s : State) : Nat := fld (rwGet s 0x5040) 31 28
def marginLimit (s : State) : Nat := fld (rwGet s 0x5040) 47 32

/-- The side of a lane. -/
def laneSide (n : Nat) : Side := if n < 4 then .a else .b

/-- ROTATE visits this lane: its side acquires, and no foreground calibration has it. -/
def visits (s : State) (n : Nat) : Bool := acquiring s (laneSide n) && !s.cal.running.getLsbD n

/-- A self-test visits the lanes of the acquiring sides, whatever MODE says (Table 18-4). -/
def selfTesting (s : State) : Bool := s.can.test.isSome && anyAcquiring s

/-- The lane after this one. -/
def nextLane (s : State) (n : Nat) : Nat :=
  if checkMode s = 2 && !selfTesting s then checkLane s else
  ((List.range 8).find? fun i => n < i && visits s i).getD (((List.range 8).find? fun i => visits s i).getD n)

/-- Checking moves on, to a fresh dwell. -/
def moveLane (s : State) : State := restartDwell (setRecv (fun r => { r with lane := nextLane s r.lane }) s)

/-- The lane checked is one that is due: in ROTATE one that is visited, in FIXED the lane named; else checking moves. -/
def fixLane (s : State) : State :=
  if checkMode s = 2 && !selfTesting s then if s.recv.lane = checkLane s then s else moveLane s
  else if visits s s.recv.lane then s else moveLane s

/-- The verdict of a position (Table 08-5): 0 none, 1 PASS, 2 MARGINAL, 3 FAIL. -/
def verdict (s : State) (x : DwellCount) : Nat :=
  let mean := decide (8 * x.sum.natAbs ≤ checkTol s * x.n)
  if x.n < 65536 then 0 else if x.e = 0 && mean then 1 else if x.e ≤ marginLimit s && mean then 2 else 3

/-- One position's verdict is kept as its last, and goes to its slice. -/
def creditVerdict (n : Nat) (p v : Nat) (s : State) : State :=
  let x := (lane s n).pos.getD p 0
  let set := fun (f : Nat → Nat) (l : Lane) => { l with fails := upd l.fails x f, verdicts := l.verdicts.set p v }
  if v = 0 then setLane n (fun l => { l with verdicts := l.verdicts.set p 0 }) s
  else if v < 3 then setLane n (set fun _ => 0) s
  else
    let s1 := post evAdcImplausible (n + 16 * x) (setLane n (set fun k => min (k + 1) (failLimit s)) s)
    if autoRetire s && failLimit s ≤ (lane s1 n).fails.getD x 0 && !(lane s1 n).retired.getLsbD x then retireSlice n x s1
    else s1

/-- A lane failure; the second in a row on another lane makes the converter suspect (R160). -/
def laneFailure (n : Nat) (s : State) : State :=
  let twice := match s.recv.lastFail with | some m => m ≠ n | none => false
  let s1 := post evAdcImplausible (n + 0xF0 + 0x100)
    (setRecv (fun r => { r with laneFails := sat 16 (r.laneFails + 1), lastFail := some n, suspect := r.suspect || twice }) s)
  postIf twice evAdcImplausible (n + 0xF0 + 0x200) s1

/-- A lane of the running self-test gave FAIL in some position. -/
def laneToTest (n : Nat) (fail : Bool) (s : State) : State :=
  if !fail then s else
  { s with can := { s.can with test := s.can.test.map fun t => { t with laneBad := t.laneBad ||| ((1 : BitVec 8) <<< n) } } }

/-- A dwell is under way. -/
def dwelling (s : State) : Bool := checkState s = 1 || (checkState s = 0 && selfTesting s && visits s s.recv.lane)

/-- Np, Ep and the sum of the differences of a position: its unflagged comparisons since its slice came (R159). SETTLE for a
cause that State holds counts whatever the operand says. -/
def dwellCount (s : State) (samples : List Comparison) (p : Nat) : DwellCount :=
  let l := samples.filter fun x => x.instant % 8 = p && s.recv.fromAt.getD p 0 ≤ x.instant && !x.flagged &&
    !flaggedAt s s.recv.lane x.instant
  { n := l.length, e := l.countP fun x => checkTol s < x.diff.natAbs, sum := (l.map (·.diff)).sum }

/-- SHADOW_DWELL_END: the comparisons of the dwell. -/
def execShadowDwellEnd (samples : List Comparison) (s : State) : Out :=
  if !dwelling s then .next s else
  let n := s.recv.lane
  let counts := (List.range 8).map (dwellCount s samples)
  let vs := counts.map (verdict s)
  let s1 := setRecv (fun r => { r with tally := counts }) <| laneToTest n (vs.contains 3) (setRecv (fun r => { r with dwells := (r.dwells + 1) % 65536 }) s)
  .next (moveLane (if 4 ≤ vs.countP (· = 3) then laneFailure n s1
    else vs.zipIdx.foldl (fun s v => creditVerdict n v.2 v.1 s) (setRecv (fun r => { r with lastFail := none }) s1)))

/-! ### ADC_CHECK_SET and the write of ADC.CHECK (R158, R167) -/

/-- A write of ADC.CHECK: a change of MODE, LANE, DWELL or TOL discards the dwell, and checking starts on the next lane
due. -/
def writeCheck (v : Word) (s : State) : State :=
  let old := rwGet s 0x5040
  let s1 := { s with rw := kvSet (pReset 0x5040) s.rw 0x5040 v }
  if (old &&& 0x0FFFFF1F) = (v &&& 0x0FFFFF1F) then s1 else moveLane s1

/-- All verdicts and fail counts cleared, the suspect state left. -/
def clearVerdicts (s : State) : State :=
  setRecv (fun r => { r with suspect := false, lastFail := none, lanes := r.lanes.map fun l =>
    { l with fails := List.replicate 10 0, verdicts := List.replicate 8 0 } }) s

def checkAction (w : Word) : Nat := fld w 2 0
def checkTarget (w : Word) : Nat × Nat := (fld w 10 8, fld w 15 12)

/-- The action of word 1. -/
def checkAct (w : Word) (s : State) : State :=
  let t := checkTarget w
  match checkAction w with
  | 1 => retireSlice t.1 t.2 s
  | 2 => restoreSlice t.1 t.2 s
  | 3 => clearVerdicts s
  | _ => s

/-- ADC_CHECK_SET. -/
def hAdcCheckSet : Handler :=
  { Handler.plain 0x54 2 (fun _ p s =>
      let t := checkTarget (wd p 1)
      let l := lane s t.1
      if checkAction (wd p 1) = 1 && l.live t.2 && l.spares.filter (· ≠ t.2) = [] then (reply stConflict 0 [], s)
      else (okReply [], checkAct (wd p 1) (writeCheck (wd p 0) s))) with
    value := fun _ p =>
      if !pOk 0x5040 (wd p 0) then some 0
      else if !(within 0xF707 (wd p 1) && checkAction (wd p 1) ≤ 3 && (checkTarget (wd p 1)).2 ≤ 9) then some 1 else none
    bad := fun s _ p =>
      let t := checkTarget (wd p 1)
      let gone := (lane s t.1).retired.getLsbD t.2
      (checkAction (wd p 1) = 1 && gone) || (checkAction (wd p 1) = 2 && !gone) }

/-- Word 1 with its ACTION given. -/
def withAction (a : Nat) (w : Word) : Word := (w &&& ~~~ 7) ||| BitVec.ofNat 64 a

/-- ADC_CHECK_SET with action NONE. -/
def execAdcCheckSet (o : Origin) (check w1 : Word) (s : State) : Out :=
  .next (request hAdcCheckSet o [check, withAction 0 w1] s)
/-- ADC_CHECK_SET with action RETIRE. -/
def execAdcCheckRetire (o : Origin) (check w1 : Word) (s : State) : Out :=
  .next (request hAdcCheckSet o [check, withAction 1 w1] s)
/-- ADC_CHECK_SET with action RESTORE. -/
def execAdcCheckRestore (o : Origin) (check w1 : Word) (s : State) : Out :=
  .next (request hAdcCheckSet o [check, withAction 2 w1] s)
/-- ADC_CHECK_SET with action CLEAR. -/
def execAdcCheckClear (o : Origin) (check w1 : Word) (s : State) : Out :=
  .next (request hAdcCheckSet o [check, withAction 3 w1] s)

end Sys2Proof.Machine
end

