-- ==== Sys2Proof/Machine/AuxFront.lean ====
section
/-!
DEFINITION. The auxiliary front end (chapter 14): the sequencer, conversions and their results, limit switches and
LIM_OUT, triggers, calibration pauses, and what a commit does to them.
-/
namespace Sys2Proof.Machine

def setAux (f : Aux → Aux) (s : State) : State := { s with aux := f s.aux }

/-! ### Settings (Tables 14-2 and 14-4) -/

def auxLength (c : Cfg) : Nat := fld (cfgGet c 0x5800) 6 0
def auxTriggered (c : Cfg) : Bool := bit (cfgGet c 0x5800) 7
def auxSource (c : Cfg) : Nat := fld (cfgGet c 0x5800) 9 8
def auxTin (c : Cfg) : Nat := fld (cfgGet c 0x5800) 12 10
def auxWrapEv (c : Cfg) : Bool := bit (cfgGet c 0x5800) 13
def auxPeriod (c : Cfg) : Nat := fld (cfgGet c 0x5800) 47 32
def auxTol (c : Cfg) : Nat := fld (cfgGet c 0x5803) 23 0
def seqWord (c : Cfg) (n : Nat) : Word := wd (rec c.seq n) 0
def seqRepeat (c : Cfg) (n : Nat) : Nat := fld (seqWord c n) 23 16
/-- The crosspoint set an entry names. -/
def seqXpt (c : Cfg) (n : Nat) : Word := cfgGet c (0x5810 + fld (seqWord c n) 3 0)
/-- The settling count Ns. -/
def seqNs (c : Cfg) (n : Nat) : Nat := if bit (seqWord c n) 4 then 4 else 3

/-- The pin of a set that holds one of some roles. -/
def pinOf (x : Word) (roles : List Nat) : Option Nat := (List.range 16).find? fun p => roles.contains (fld x (4 * p + 3) (4 * p))

/-- The roles that put a source on a pin: 0 IEXC0, 1 IEXC1, 2 VEXC (Table 14-1). -/
def sourceRoles (n : Nat) : List Nat := if n = 0 then [3, 7] else if n = 1 then [4, 8] else [5]

/-- The level of a source that a set names, 0 of another (R290). -/
def sourceLevel (c : Cfg) (x : Word) (n : Nat) : Nat :=
  let e := cfgGet c 0x5802
  if (pinOf x (sourceRoles n)).isNone then 0
  else if n = 0 then fld e 7 0 else if n = 1 then fld e 15 8 else fld e 27 16

/-- The sources that a set drives. -/
def sourcesOn (c : Cfg) (x : Word) : List Nat := (List.range 3).filter fun n => sourceLevel c x n ≠ 0

/-- The levels of the sources that a set names, others 0. -/
def levelsOf (c : Cfg) (x : Word) : Word :=
  mk [(0, 8, sourceLevel c x 0), (8, 8, sourceLevel c x 1), (16, 12, sourceLevel c x 2)]

/-- What a role puts on its pin: a source that is off leaves the pin without it (R290). -/
def driven (c : Cfg) (x : Word) (role : Nat) : Nat :=
  match (List.range 3).find? fun n => (sourceRoles n).contains role with
  | some n => if sourceLevel c x n ≠ 0 then role else if role = 7 ∨ role = 8 then 1 else 0
  | none => role

/-- The roles of pins AUX0 to AUX15 now: those of the set of the entry in progress, every pin OFF without one. -/
def auxRoles (s : State) : List Nat :=
  let c := cfgFree s
  let x := if s.aux.phase == .settling || s.aux.phase == .converting then seqXpt c s.aux.entry else 0
  (List.range 16).map fun p => driven c x (fld x (4 * p + 3) (4 * p))

/-- What makes an entry a change (R293): set contents, FILTER, RATE, GAIN, CHECK, BURNOUT, levels in use. -/
def seqSettings (c : Cfg) (n : Nat) : List Word :=
  [seqXpt c n, seqWord c n &&& 0x3FF0, levelsOf c (seqXpt c n)]

/-! ### The sequencer (R293 to R295) -/

def auxEntry (s : State) (n : Nat) : AuxEntry := s.aux.results.getD n AuxEntry.init
def setAuxEntry (n : Nat) (f : AuxEntry → AuxEntry) (s : State) : State :=
  setAux (fun a => { a with results := upd a.results n f }) s

/-- An entry that names an empty set: its result says NO_INPUT; it makes no conversion. -/
def noInput (n : Nat) (s : State) : State :=
  let w := (auxEntry s n).word1
  setAuxEntry n (fun e => { e with
    word0 := now s, word1 := mk [(54, 1, 1), (55, 1, fld w 55 55), (56, 8, fld w 63 56)] }) s

/-- An entry starts: as a change with its settling, or at once. -/
def beginEntry (n : Nat) (s : State) : State :=
  let c := cfgFree s
  let x := seqSettings c n
  let change := s.aux.last ≠ some x
  setAux (fun a => { a with
    entry := n, counted := 0, last := some x, settle := if change then seqNs c n else 0
    phase := if change && fld (seqWord c n) 39 24 ≠ 0 then .settling else .converting }) s

/-- A run or a loop pass ends (R296); a triggered run leaves every pin OFF. -/
def passEnd (s : State) : State :=
  let c := cfgFree s
  let s1 := setAux (fun a => { a with wraps := (a.wraps + 1) % 65536, last := if auxTriggered c then none else a.last }) s
  postIf (auxWrapEv c) evAuxSeqWrap (b2n (auxTriggered c)) s1

/-- Wait for a trigger; with a pending one the next run is to start: whether it does. -/
def runOver (s : State) : Bool × State :=
  if s.aux.pendingTr then (true, setAux (fun a => { a with pendingTr := false, overrunUp := false }) s)
  else (false, setAux (fun a => { a with phase := .waiting, entry := 0 }) s)

/-- Go on from an entry: skip, note empty sets, and start the next that converts. `fuel` entries are looked at; a table
in which none converts makes one pass and waits (log 36). -/
def goOn : Nat → Nat → State → State
  | 0, _, s => setAux (fun a => { a with phase := .waiting, entry := 0 }) s
  | fuel + 1, n, s =>
    let c := cfgFree s
    if auxLength c ≤ n then
      let s1 := passEnd s
      if auxTriggered c then
        let x := runOver s1
        if x.1 then goOn fuel 0 x.2 else x.2
      else goOn fuel 0 s1
    else if seqRepeat c n = 0 then goOn fuel (n + 1) s
    else if seqXpt c n = 0 then goOn fuel (n + 1) (noInput n s)
    else beginEntry n s

/-- Entries of one pass, and its ends. -/
def passFuel (c : Cfg) : Nat := 2 * auxLength c + 2

/-- The sequencer starts or restarts (R294); with the conversion that a pause waited for discarded, the pause begins. -/
def auxStart (s : State) : State :=
  let c := cfgFree s
  let s1 := setAux (fun a => { a with
    entry := 0, counted := 0, settle := 0, last := none, pendingTr := false, overrunUp := false
    paused := a.paused || a.pauseReq, pauseReq := false }) s
  if auxLength c = 0 then setAux (fun a => { a with phase := .stopped }) s1
  else if s1.aux.paused || auxTriggered c then setAux (fun a => { a with phase := .waiting }) s1
  else goOn (passFuel c) 0 s1

/-- A trigger (R295). -/
def auxTrigger (s : State) : State :=
  let a := s.aux
  if !auxTriggered (cfgFree s) || !isReady s || a.phase == .stopped then s
  else if a.phase == .waiting && !a.paused then
    goOn (passFuel (cfgFree s)) 0 (setAux (fun a => { a with overrunUp := false }) s)
  else if !a.pendingTr then setAux (fun a => { a with pendingTr := true }) s
  else
    let s1 := setAux (fun a => { a with overrun := sat 16 (a.overrun + 1), overrunUp := true }) s
    postIf (!a.overrunUp) evAuxTrigOverrun s1.aux.overrun s1

/-- The host's trigger: a write of AUX.SEQ_KICK. -/
def auxKick (v : Word) (s : State) : State := if bit v 0 && auxSource (cfgFree s) = 0 then auxTrigger s else s

/-- An edge that Awl accepted on TIN i. -/
def auxTinEdge (i : Nat) (s : State) : State :=
  if auxSource (cfgFree s) = 1 && auxTin (cfgFree s) = i then auxTrigger s else s

/-- AUX_TIMER_TRIGGER. -/
def execAuxTimerTrigger (s : State) : Out :=
  .next (if auxSource (cfgFree s) = 2 && auxPeriod (cfgFree s) ≠ 0 then auxTrigger s else s)

/-- AUX_SETTLE_DELAY_END: the first conversion starts; not during a pause. -/
def execAuxSettleDelayEnd (s : State) : Out :=
  .next (if s.aux.phase == .settling && !s.aux.paused then setAux (fun a => { a with phase := .converting }) s else s)

/-! ### Calibration pauses (R304) -/

/-- A pause begins: at once where nothing converts, else at the end of the conversion in progress. -/
def auxPause (s : State) : State :=
  if s.aux.phase == .converting then setAux (fun a => { a with pauseReq := true }) s
  else setAux (fun a => { a with paused := true }) s

/-- The pause ends: the entry after the paused one is next, as a change. -/
def auxResume (s : State) : State :=
  let c := cfgFree s
  let a := s.aux
  let s1 := setAux (fun a => { a with paused := false, pauseReq := false, last := none }) s
  if !a.paused then s1
  else match a.phase with
    | .stopped => s1
    | .waiting =>
      if auxTriggered c then (let x := runOver s1; if x.1 then goOn (passFuel c) 0 x.2 else x.2)
      else goOn (passFuel c) 0 s1
    | _ => goOn (passFuel c) (a.entry + 1) s1

/-! ### Conversions (R298 to R303) -/

/-- How a break goes on: the new state, BROKEN, confirmed now, recovered now, and SETTLING by confirmation. -/
structure BreakStep where
  st        : Nat
  posOver   : Bool
  broken    : Bool
  confirmed : Bool
  recovered : Bool
  settling  : Bool

/-- R299 for one conversion. -/
def breakStep (e : AuxEntry) (burnout lost overPos : Bool) : BreakStep :=
  let b : BreakStep :=
    { st := e.breakSt, posOver := overPos, broken := lost, confirmed := false, recovered := false, settling := false }
  if 3 ≤ e.breakSt then
    if overPos || lost then { b with st := 3, broken := true } else { b with st := 0, recovered := true, settling := true }
  else if (burnout && e.posOver && overPos) || (e.breakSt ≠ 0 && overPos) then
    { b with st := if e.breakSt = 2 then 4 else 3, broken := true, confirmed := true }
  else if e.breakSt ≠ 0 then { b with st := if lost then 2 else e.breakSt - 1, settling := !lost }
  else if lost then { b with st := 2 }
  else b

/-- The 50 nA of R299 flow: in both conversions that confirm a break, and in every one of an entry with BURNOUT = 1. -/
def burnoutOn (s : State) : Bool :=
  s.aux.phase == .converting && (bit (seqWord (cfgFree s) s.aux.entry) 13 ||
    [1, 2, 4].contains (auxEntry s s.aux.entry).breakSt)

/-- AIN_P of the entry in progress takes the current. -/
def burnoutPin (s : State) : Option Nat := if burnoutOn s then pinOf (seqXpt (cfgFree s) s.aux.entry) [1, 7, 8] else none

/-- A limit switch after a conversion (R302). -/
def lswNext (w : Word) (tripped bad : Bool) (code : Int) : Bool :=
  let hi := sfld w 23 0
  let lo := sfld w 47 24
  let hy : Int := fld w 57 48 * 256
  let hiEn := bit w 58
  let loEn := bit w 59
  if bad then tripped || bit w 60
  else if (hiEn && decide (hi < code)) || (loEn && decide (code < lo)) then true
  else tripped && !((!hiEn || decide (code ≤ hi - hy)) && (!loEn || decide (lo + hy ≤ code)))

/-- One switch named by the entry. -/
def switchStep (bad : Bool) (code : Int) (i : Nat) (s : State) : State :=
  let old := s.aux.tripped.getLsbD i
  let new := lswNext (cfgGet (cfgFree s) (0x5840 + i)) old bad code
  if old == new then s else
  post evAuxLimit (i + if new then 0 else 0x8000) (setAux (fun a => { a with
    tripped := if new then a.tripped ||| (1 <<< i) else a.tripped &&& ~~~ ((1 : BitVec 16) <<< i) }) s)

/-- LIM_OUT n as its map requires (R303). -/
def limRequired (c : Cfg) (tripped : BitVec 16) (n : Nat) : Bool :=
  let w := cfgGet c (0x5860 + n)
  let m := BitVec.ofNat 16 (fld w 15 0)
  m != 0 && if bit w 16 then tripped &&& m == m else tripped &&& m != 0

/-- The outputs after a conversion. -/
def limOutputs (s : State) : State :=
  setAux (fun a => { a with
    limLive := true
    limOut := BitVec.ofNat 4 (((List.range 4).map fun n => b2n (limRequired (cfgFree s) a.tripped n) * 2 ^ n).sum) }) s

/-- A code passes the 24-bit range. -/
def pastRange (x : Int) : Bool := x < -8388608 || 8388607 < x

/-- A conversion as both converters deliver it (R291): over-ranged also when a code would pass the 24-bit range, the code
then held at the end of the range; losses of compliance count for the sources that the entry drives. -/
def heldSample (smp : AuxSample) (on : List Nat) : AuxSample :=
  let past := smp.ovr || smp.overPos || pastRange smp.code
  let pos := smp.overPos || decide (8388607 < smp.code) || (smp.ovr && decide (0 ≤ smp.code))
  let checkOver := smp.checkOver || pastRange smp.check
  { code := if past then (if pos then 8388607 else -8388608) else smp.code
    check := if checkOver then (if 0 ≤ smp.check then 8388607 else -8388608) else smp.check
    ovr := past, overPos := past && pos, checkOver := checkOver, lost := smp.lost.filter on.contains }

/-- The result words of a conversion, its flags given. -/
def resultWord (e : AuxEntry) (smp : AuxSample) (check settling broken impl : Bool) : Word :=
  mk [(0, 24, if broken then 0 else sbits 24 smp.code), (24, 24, if check then sbits 24 smp.check else 0),
    (48, 1, b2n settling), (49, 1, b2n smp.ovr), (50, 1, b2n broken), (51, 1, b2n (smp.lost != [])), (52, 1, b2n impl),
    (53, 1, b2n (check && smp.checkOver)), (56, 8, fld e.word1 63 56 + 1)]

/-- The conversion is written, and its events follow. -/
def convert (raw : AuxSample) (s : State) : State :=
  let c := cfgFree s
  let n := s.aux.entry
  let smp := heldSample raw (sourcesOn c (seqXpt c n))
  let w := seqWord c n
  let check := bit w 12
  let e := auxEntry s n
  let b := breakStep e (bit w 13) (smp.lost != []) smp.overPos
  let settling := s.aux.settle ≠ 0 || b.settling
  let compared := check && !settling && !b.broken && !smp.ovr && !smp.checkOver && auxTol c ≠ 0
  let impl := compared && decide (auxTol c < (smp.code - smp.check).natAbs)
  let s1 := setAuxEntry n (fun e => { e with
      word0 := now s, word1 := resultWord e smp check settling b.broken impl, breakSt := b.st, posOver := b.posOver
      implUp := if compared then impl else e.implUp, ovr0Up := smp.ovr, ovr1Up := check && smp.checkOver }) s
  let s2 := smp.lost.foldl (fun s x => post evAuxExcitCompliance
    (n + 256 * x + 4096 * (pinOf (seqXpt c n) (sourceRoles x)).getD 0) s) s1
  let pin := 256 * (pinOf (seqXpt c n) [1, 7, 8]).getD 0
  let s3 := postIf b.recovered evAuxWireBreak (n + pin + 0x8000) (postIf b.confirmed evAuxWireBreak (n + pin) s2)
  let s4 := postIf (check && smp.checkOver && !e.ovr1Up) evAuxOverrange (n + 256) (postIf (smp.ovr && !e.ovr0Up) evAuxOverrange n s3)
  let s5 := postIf (impl && !e.implUp) evAuxImplausible n s4
  let s6 := if settling then s5 else
    ((List.range 16).filter fun i => bit w (40 + i)).foldl
      (fun s i => switchStep (b.broken || smp.ovr || impl) smp.code i s) s5
  setAux (fun a => { a with settle := a.settle - 1, counted := if settling then a.counted else a.counted + 1 })
    (limOutputs s6)

/-- A record of group 16 takes effect at the end of a conversion; the next entry is then a change (R371). -/
def applyAux (s : State) : State :=
  if s.cal.writes.any fun w => w.1 = 16 then setAux (fun a => { a with last := none }) (applyRecords (· = 16) s) else s

/-- AUX_CONVERSION_END. -/
def execAuxConversionEnd (smp : AuxSample) (s : State) : Out :=
  .next (if s.aux.phase != .converting then s else
    let s1 := applyAux (convert smp s)
    if s1.aux.pauseReq then setAux (fun a => { a with paused := true, pauseReq := false, phase := .settling }) s1
    else if seqRepeat (cfgFree s1) s1.aux.entry ≤ s1.aux.counted then
      goOn (passFuel (cfgFree s1)) (s1.aux.entry + 1) s1
    else s1)

/-! ### Commits (R294, R297) -/

/-- Does a commit restart the sequencer? -/
def auxRestarts (old new : Cfg) : Bool :=
  cfgGet old 0x5800 ≠ cfgGet new 0x5800 || old.seq ≠ new.seq ||
    (List.range 16).any fun i => cfgGet old (0x5810 + i) ≠ cfgGet new (0x5810 + i)

/-- The aux settings of a commit take effect; the new ones are in force already. A restart empties the results; what is known
of a break stays, for it is told once (R299). -/
def auxCommit (old new : Cfg) (s : State) : State :=
  if auxRestarts old new then
    auxStart (setAux (fun a => { a with results := a.results.map fun e =>
      { e with word1 := e.word1 ||| (1 <<< 55) } }) s)
  else
    let n := s.aux.entry
    let busy := s.aux.phase == .settling || s.aux.phase == .converting
    if busy && levelsOf old (seqXpt old n) ≠ levelsOf new (seqXpt new n) then
      setAux (fun a => { a with
        settle := seqNs new n + if a.phase == .converting then 1 else 0, last := some (seqSettings new n) }) s
    else s

/-! ### AUX_READ (R305) -/

/-- AUX_READ. -/
def hAuxRead : Handler :=
  { Handler.plain 0x52 1 (fun _ p s =>
      let f := fld (wd p 0) 5 0
      (okReply (seqStatus s :: (List.range (fld (wd p 0) 12 8)).flatMap fun i =>
        [(auxEntry s (f + i)).word0, (auxEntry s (f + i)).word1]), s)) with
    value := fun _ p =>
      let w := wd p 0
      if within 0x1F3F w && fld w 12 8 ≤ 15 && fld w 5 0 + fld w 12 8 ≤ 64 then none else some 0 }
/-- AUX_READ. -/
def execAuxRead (o : Origin) (p : List Word) (s : State) : Out := .next (request hAuxRead o p s)

end Sys2Proof.Machine
end

