-- ==== Sys2Proof/Machine/Numeric.lean ====
section
/-!
DEFINITION. The real functions that the rules name (angle, magnitude, cis, logarithm, power), by integer arithmetic: each
is computed to far more digits than its result keeps, and the last digit kept is left open by `Config.quot` (log 9).
-/
namespace Sys2Proof.Machine

/-- A complex number. -/
abbrev Cplx := Int × Int

namespace Cplx
def add (x y : Cplx) : Cplx := (x.1 + y.1, x.2 + y.2)
def mul (x y : Cplx) : Cplx := (x.1 * y.1 - x.2 * y.2, x.1 * y.2 + x.2 * y.1)
def conj (x : Cplx) : Cplx := (x.1, -x.2)
def scale (k : Int) (x : Cplx) : Cplx := (k * x.1, k * x.2)
def sum (l : List Cplx) : Cplx := l.foldl add (0, 0)
/-- The squared magnitude. -/
def normSq (x : Cplx) : Nat := (x.1 * x.1 + x.2 * x.2).toNat
end Cplx

/-- The square root, rounded down: one bit after another. -/
def isqrt (n : Nat) : Nat :=
  let b := Nat.log2 n / 2 + 1
  (List.range b).foldl (fun r i => let q := r + 2 ^ (b - 1 - i); if q * q ≤ n then q else r) 0

/-- The square root to a whole number whose last digit is open; exact for a square. -/
def sqrtQ (place n : Nat) : Nat :=
  let r := isqrt n
  if r * r = n then r else r + b2n (Config.roundUp place n 1)

/-- The magnitude of a complex number in the unit of its parts. -/
def magnitude (place : Nat) (z : Cplx) : Nat := sqrtQ place z.normSq

/-! ### Angle -/

/-- A number scaled by a power of two to about 100 bits, which leaves its angle. -/
def scaled (z : Cplx) : Cplx :=
  let k := Nat.log2 (max z.1.natAbs z.2.natAbs)
  if k ≤ 100 then (z.1 * 2 ^ (100 - k), z.2 * 2 ^ (100 - k)) else (z.1 / 2 ^ (k - 100), z.2 / 2 ^ (k - 100))

/-- The first n bits of an angle in cycles: squaring doubles it, and the half plane is its next bit. -/
def angleBits : Nat → Cplx → Nat → Nat
  | 0, _, acc => acc
  | n + 1, z, acc =>
    angleBits n (scaled (z.mul z)) (2 * acc + if z.2 < 0 ∨ (z.2 = 0 ∧ z.1 < 0) then 1 else 0)

/-- arg in 2^−40 cycle, in (−0.5, 0.5]. -/
def angle40 (z : Cplx) : Int :=
  let a := angleBits 40 (scaled z) 0
  if 2 ^ 39 < a then (a : Int) - 2 ^ 40 else a

/-- arg in 2^−n cycle, its last digit open; that of 0 is not stated (R177). -/
def argQ (place n : Nat) (z : Cplx) : Int :=
  if z = (0, 0) then Config.unstated place [] else Config.quot place (angle40 z) (2 ^ (40 - n))

/-! ### cis -/

/-- cis of 2^−(n+2) cycle in 2^−60, by halving the angle of j. -/
def cisHalf : Nat → Cplx
  | 0 => (0, 2 ^ 60)
  | n + 1 =>
    let z := cisHalf n
    let c : Int := isqrt (2 ^ 59 * (2 ^ 60 + z.1).toNat)
    (c, z.2 * 2 ^ 59 / c)

/-- cis of a phase in 2^−32 cycle, in 2^−60. -/
def cis (x : Int) : Cplx :=
  let p := (x % 2 ^ 32).toNat
  (List.range 31).foldl (fun z i =>
    if p.testBit (30 - i) then let w := z.mul (cisHalf i); (w.1 / 2 ^ 60, w.2 / 2 ^ 60) else z)
    (if p.testBit 31 then (-2 ^ 60, 0) else (2 ^ 60, 0))

/-- A complex number turned by a phase in 2^−32 cycle, in its own unit with the last digit open. -/
def turn (place : Nat) (z : Cplx) (x : Int) : Cplx :=
  let w := z.mul (cis x)
  (Config.quot place w.1 (2 ^ 60), Config.quot place w.2 (2 ^ 60))

/-! ### Logarithm and power of two -/

/-- The first n bits behind the point of a binary logarithm, of a mantissa in 2^−100 from 1 to 2. -/
def logBits : Nat → Nat → Nat → Nat
  | 0, _, acc => acc
  | n + 1, m, acc =>
    let q := m * m / 2 ^ 100
    if 2 ^ 101 ≤ q then logBits n (q / 2) (2 * acc + 1) else logBits n q (2 * acc)

/-- log2 (a / b) in 2^−40, for positive a and b. -/
def log2Q (a b : Nat) : Int :=
  let e : Int := (Nat.log2 a : Int) - Nat.log2 b
  let m := a * 2 ^ (100 + (-e).toNat) / (b * 2 ^ e.toNat)
  let low := decide (m < 2 ^ 100)
  (e - if low then 1 else 0) * 2 ^ 40 + logBits 40 (if low then 2 * m else m) 0

/-- The 2^i-th root of two, in 2^−60. -/
def rootTwo : Nat → Nat
  | 0 => 2 ^ 61
  | i + 1 => isqrt (rootTwo i * 2 ^ 60)

/-- 2 to a power in 2^−40, in 2^−60. -/
def exp2Q (x : Int) : Nat :=
  let n := x / 2 ^ 40
  let f := (x % 2 ^ 40).toNat
  let m := (List.range 40).foldl (fun a i => if f.testBit (39 - i) then a * rootTwo (i + 1) / 2 ^ 60 else a) (2 ^ 60)
  m * 2 ^ n.toNat / 2 ^ (-n).toNat

/-- ln 2, ln 10, log10 2 and π in 2^−60. -/
abbrev ln2 : Nat := 799144290325165978
abbrev ln10 : Nat := 2654699869899991813
abbrev lg2 : Nat := 347063955532709820
abbrev pi60 : Nat := 3622009729038561421

/-- The natural logarithm of a / b in 2^−40. -/
def lnQ (a b : Nat) : Int := log2Q a b * ln2 / 2 ^ 60

/-- Ten times the decimal logarithm of a / b, in 0.01 with the last digit open; without one of the two it is not stated. -/
def centibel (place a b : Nat) : Int :=
  if a = 0 ∨ b = 0 then Config.unstated place [a, b] else Config.quot place (1000 * log2Q a b * lg2) (2 ^ 100)

/-- e to a power in 2^−40, in 2^−60. -/
def expQ (x : Int) : Nat := exp2Q (x * 2 ^ 60 / ln2)

end Sys2Proof.Machine
end

