-- ==== Sys2Proof/Machine/Line.lean ====
section
/-!
DEFINITION. The line codes: 8b/10b symbols as the harness, LAT_FC and the Latigo lanes carry them (R72, R308), and the
columns of the Latigo link (R309, R312). The spec names 8b/10b and gives no table of it; the one here is the public code
(PRESUMED, log 91). The running disparity of each pair the device drives is in State; that of what it receives is in the
rows, which bring packets and symbols whole (log 91).
-/
namespace Sys2Proof.Machine

/-! ### 8b/10b -/

/-- The control character Kx.y. -/
def Symbol.k (x y : Nat) : Symbol := { ctrl := true, byte := BitVec.ofNat 8 (32 * y + x) }

/-- A data byte. -/
def Symbol.d (b : Byte) : Symbol := { ctrl := false, byte := b }

/-- The ones of a code of n bits. -/
def onesOf (n x : Nat) : Nat := (List.range n).countP x.testBit

/-- abcdei of D0 to D31 at negative disparity, a first. -/
def six : List Nat :=
  [0b100111, 0b011101, 0b101101, 0b110001, 0b110101, 0b101001, 0b011001, 0b111000,
   0b111001, 0b100101, 0b010101, 0b110100, 0b001101, 0b101100, 0b011100, 0b010111,
   0b011011, 0b100011, 0b010011, 0b110010, 0b001011, 0b101010, 0b011010, 0b111010,
   0b110011, 0b100110, 0b010110, 0b110110, 0b001110, 0b101110, 0b011110, 0b101011]

/-- fghj of Dx.0 to Dx.7 at negative disparity. -/
def four' : List Nat := [0b1011, 0b1001, 0b0101, 0b1100, 0b1101, 0b1010, 0b0110, 0b1110]

/-- A part of a code at a disparity: the other form of one that is not balanced, or whose halves differ (D7, Dx.3). -/
def atDisparity (n : Nat) (plus : Bool) (x : Nat) : Nat :=
  if plus && (2 * onesOf n x ≠ n || x = 0b111000 || (n = 4 && x = 0b1100)) then 2 ^ n - 1 - x else x

/-- The disparity after a part of a code. -/
def disparityAfter (n : Nat) (plus : Bool) (x : Nat) : Bool := if 2 * onesOf n x = n then plus else !plus

/-- Dx.7 takes its alternative form, so that no run of five arises at the seam. -/
def altSeven (plus : Bool) (x : Nat) : Bool := if plus then [11, 13, 14].contains x else [17, 18, 20].contains x

/-- The ten bits abcdei fghj of a data byte at a disparity. -/
def dataCode (plus : Bool) (b : Byte) : Nat :=
  let x := b.toNat % 32
  let a := atDisparity 6 plus (six.getD x 0)
  let p := disparityAfter 6 plus a
  let f := if b.toNat / 32 = 7 && altSeven p x then 0b0111 else four'.getD (b.toNat / 32) 0
  16 * a + atDisparity 4 p f

/-- fghj of K28.0 to K28.7 at negative disparity. -/
def four28 : List Nat := [0b0100, 0b1001, 0b0101, 0b0011, 0b0010, 0b1010, 0b0110, 0b1000]

/-- The ten bits of a control character at a disparity. -/
def controlCode (plus : Bool) (b : Byte) : Nat :=
  let x := b.toNat % 32
  let c := if x = 28 then 16 * 0b001111 + four28.getD (b.toNat / 32) 0 else 16 * six.getD x 0 + 0b1000
  if plus then 1023 - c else c

/-- The code of a symbol and the disparity after it; `plus`: the disparity before it is positive. -/
def Symbol.encode (plus : Bool) (x : Symbol) : Nat × Bool :=
  let c := if x.ctrl then controlCode plus x.byte else dataCode plus x.byte
  (c, disparityAfter 10 plus c)

/-- Symbols one after another from a disparity. -/
def lineCode : Bool → List Symbol → List Nat
  | _, [] => []
  | p, x :: r => let y := x.encode p; y.1 :: lineCode y.2 r

/-- A line after reset: the disparity starts negative (R72). -/
def fromReset (l : List Symbol) : List Nat := lineCode false l

/-! ### What a pair drives (R72) -/

/-- The disparity after n symbols of a row that goes on with an idle one. -/
def disparityAt (plus : Bool) (idle : Symbol) : List Symbol → Nat → Bool
  | _, 0 => plus
  | [], n + 1 => if (idle.encode plus).2 = plus ∨ (n + 1) % 2 = 0 then plus else !plus
  | x :: r, n + 1 => disparityAt (x.encode plus).2 idle r n

/-- Symbols of 16 core cycles (40 ns) begun by a cycle. -/
def LineOut.begun (l : LineOut) (cycle : Nat) : Nat := cdiv (cycle - l.start) 16

/-- More symbols after those that still wait: at the end of the symbol in progress, behind so many idle ones at least. -/
def LineOut.send (l : LineOut) (cycle lead : Nat) (x : List Symbol) : LineOut :=
  let n := l.begun cycle
  let rest := l.syms.drop n
  { l with start := l.start + 16 * n, plus := disparityAt l.plus l.idle l.syms n
           syms := rest ++ List.replicate (lead - rest.length) l.idle ++ x }

/-- What still waits is given up for other symbols (R76). -/
def LineOut.cut (l : LineOut) (cycle : Nat) (x : List Symbol) : LineOut := { l.send cycle 0 [] with syms := x }

/-- Another symbol is driven continuously, at once. -/
def LineOut.drive (l : LineOut) (cycle : Nat) (idle : Symbol) : LineOut := { l.cut cycle [] with idle := idle }

/-- The symbol a pair drives in a core cycle, and its ten bits at the running disparity. -/
def LineOut.symbol (l : LineOut) (cycle : Nat) : Symbol := l.syms.getD ((cycle - l.start) / 16) l.idle
def LineOut.code (l : LineOut) (cycle : Nat) : Nat :=
  ((l.symbol cycle).encode (disparityAt l.plus l.idle l.syms ((cycle - l.start) / 16))).1

/-- The symbols that a pair may carry: every data byte, and the control characters listed for it. -/
def allowed (controls : List Symbol) : List Symbol := (List.range 256).map (fun b => Symbol.d (BitVec.ofNat 8 b)) ++ controls

/-- The symbol of ten bits at a disparity; none is a symbol error (R74): an invalid code, one of the other disparity, or a
control character that the pair does not use. -/
def decodeSymbol (controls : List Symbol) (plus : Bool) (code : Nat) : Option Symbol :=
  (allowed controls).find? fun x => (x.encode plus).1 = code

/-- The control characters of Table 05-1 on the data pair and on the timing pair, and of Table 15-3. -/
def dataControls : List Symbol := [.k 28 1, .k 28 5, .k 28 7]
def timingControls : List Symbol := [.k 28 5, .k 28 0, .k 28 3, .k 28 6, .k 28 2, .k 28 4]
def fcControls : List Symbol := [.k 28 1, .k 28 5, .k 28 3]

/-! ### Columns (R308, R309, R312) -/

/-- A column: a hide word, or one of Table 15-2; the second of a TRAIN pair carries RATE. -/
inductive Column where
  | data (w : Word)
  | idle | start | align
  | train (rate : Nat)
deriving DecidableEq, Repr

/-- What lane i carries in a column. -/
def Column.lane (c : Column) (i : Nat) : Symbol :=
  match c with
  | .data w => .d (BitVec.ofNat 8 (w.toNat / 2 ^ (8 * i)))
  | .idle => .k 28 1
  | .start => .k 27 7
  | .align => .k 28 5
  | .train r => .d (BitVec.ofNat 8 (i + 16 * r))

/-- The columns of a frame: START, then its hide words. -/
def frameColumns (ws : List Word) : List Column := .start :: ws.map .data

/-- The pair of TRAIN columns. -/
def trainColumns (rate : Nat) : List Column := [.align, .train rate]

/-- One ALIGN after every 128 columns of any kind; so many have gone since the last. -/
def withAlign : Nat → List Column → List Column
  | _, [] => []
  | n, c :: r => if 128 ≤ n then .align :: c :: withAlign 1 r else c :: withAlign (n + 1) r

/-- How many columns n of them take with the ALIGN columns among them. -/
def withAligns (since n : Nat) : Nat := n + (since + n - 1) / 128

end Sys2Proof.Machine
end

