-- ==== Sys2Proof/Machine/Stream.lean ====
section
/-!
DEFINITION. The Latigo stream port (chapter 15): the output queue with its elastic buffer, mark area and drops, the
link with its training, credits and frames.
-/
namespace Sys2Proof.Machine

/-! ### Configuration -/

def streamOn (s : State) : Bool := bit (rwGet s 0x7000) 2
def streamRate (s : State) : Nat := fld (rwGet s 0x7000) 1 0
def shedPolicy (s : State) : Bool := bit (rwGet s 0x7000) 3
def autoRetrain (s : State) : Bool := bit (rwGet s 0x7000) 4
def highPct (s : State) : Nat := fld (rwGet s 0x7000) 22 16
def lowPct (s : State) : Nat := fld (rwGet s 0x7000) 30 24

def setStrm (f : Stream → Stream) (s : State) : State := { s with strm := f s.strm }

/-- A frame with only its type and time. -/
def Frame.bare (t : Nat) (time : Word) (p : List Word) : Frame :=
  { type := t, route := 0, zone := 0, first := 0, count := 0, history := false, part := false, fade := false,
    format := 0, prk := 0, bad := false, time := time, payload := p }

/-- The two header words of a frame (Table 15-5). -/
def Frame.header (f : Frame) (seq : BitVec 11) : List Word :=
  [Machine.mk [(0, 4, f.type), (4, 3, f.route), (7, 9, f.zone), (16, 17, f.first), (33, 12, f.count), (45, 1, b2n f.history),
    (46, 1, b2n f.part), (47, 1, b2n f.fade), (48, 2, f.format), (50, 3, f.prk), (53, 11, seq.toNat)], f.time]

/-- The whole frame as hide words: header, payload, trailer (R314); with an uncorrectable word in it the trailer CRC is
complemented (Table 16-5). -/
def Frame.words (f : Frame) (seq : BitVec 11) : List Word :=
  let body := f.header seq ++ f.payload
  let c := crcWords body
  body ++ [Machine.mk [(0, 32, if f.bad then (~~~ c).toNat else c.toNat), (32, 10, f.payload.length)]]

/-! ### The output queue (R320 to R323) -/

/-- Bytes of the on-chip FIFO, and slots of the mark area. -/
abbrev fifoSize : Nat := 262144
abbrev markSlots : Nat := 131072

/-- The fill of the RT0 FIFO, in sixteenths of 64 KiB, at which only the 4 KiB reserved for marks and parking are left (R340). -/
abbrev rt0Full : Nat := 15

/-- The FIFO has room for a frame. -/
def fifoRoom (t : Stream) (f : Frame) : Bool := framesBytes t.fifo + f.bytes ≤ fifoSize

/-- The elastic buffer has room for a frame; without usable DRAM, or with the RT0 FIFO full but for its reserve (R340), it has none. -/
def elasticRoom (s : State) (f : Frame) : Bool :=
  s.mem.usable && s.mem.rt0 < rt0Full && framesBytes s.strm.elastic + f.bytes ≤ elasticSize s

/-- Slots of the mark area neither used nor reserved. -/
def freeMarks (t : Stream) : Nat := markSlots - t.marks.length - t.reserved

/-- Can a record open: MARK_OPEN, MARK_CLOSE and a DROP frame fit the mark area (R323)? -/
def markRoom (s : State) : Bool := 3 ≤ freeMarks s.strm

/-- When no room for a record is left: MARK_FULL, and EV_ELASTIC_HIGH with bit 15 (R323). -/
def watchMarks (s : State) : State :=
  if markRoom s || s.strm.markFull then s
  else post evElasticHigh (elasticPct s + 0x8000) (setStrm (fun t => { t with markFull := true }) s)

/-- The frames whose loss a DROP frame counts carry a zone in these types (Table 15-6). -/
def zonedType (t : Nat) : Bool := t = 1 || t = 2 || t = 3 || t = 4 || t = 5 || t = 7

/-- A frame is dropped whole and counted (R322). -/
def dropFrame (f : Frame) (s : State) : State :=
  let d := s.strm.drops
  let d' : Drops :=
    { frames := sat 32 (d.frames + 1), types := d.types ||| (1 <<< f.type),
      first := if d.frames = 0 then f.time else d.first, last := f.time,
      zones := if zonedType f.type then d.zones ||| (1 <<< f.zone) else d.zones }
  setStrm (fun t => { t with drops := d', dropCount := sat 32 (t.dropCount + 1) }) s

/-- Marks and DROP frames go to the mark area in overflow; every other frame is dropped (R321). A MARK_CLOSE takes the
slot reserved for it; a DROP frame that finds no slot keeps its counts (R322). -/
def overflowed (f : Frame) (s : State) : State :=
  if f.type = 3 || f.type = 0xA then
    if freeMarks s.strm = 0 then s else watchMarks (wakeMem (setStrm (fun t => { t with marks := t.marks ++ [f] }) s))
  else if f.type = 4 then wakeMem (setStrm (fun t => { t with marks := t.marks ++ [f] }) s)
  else dropFrame f s

/-- A drop episode begins: one event for each (R322). An episode in progress absorbs a second cause (log 28). -/
def beginEpisode (detail : Nat) (s : State) : State :=
  if s.strm.overflow || s.strm.shedding then s
  else post evStreamDrop detail (setStrm (fun t => { t with episodes := sat 32 (t.episodes + 1) }) s)

/-- The elastic fill has risen: EV_ELASTIC_HIGH and shedding at HIGH % (R322). -/
def fillRisen (s : State) : State :=
  let hi := highPct s ≠ 0 && highPct s * elasticSize s ≤ framesBytes s.strm.elastic * 100
  let s1 := if hi && !s.strm.highUp then
      post evElasticHigh (elasticPct s) (setStrm (fun t => { t with highUp := true }) s) else s
  if hi && shedPolicy s && !s.strm.shedding then
    setStrm (fun t => { t with shedding := true }) (beginEpisode 1 s1) else s1

/-- A frame enters the output queue (R320 to R322). -/
def enqueue (f : Frame) (s : State) : State :=
  let t := s.strm
  if !streamOn s then s
  else if t.shedding && (f.type = 1 || f.type = 9) then dropFrame f s
  else if t.overflow then overflowed f s
  else if t.elastic = [] && t.marks = [] && fifoRoom t f then setStrm (fun t => { t with fifo := t.fifo ++ [f] }) s
  else if elasticRoom s f then fillRisen (wakeMem (setStrm (fun t => { t with elastic := t.elastic ++ [f] }) s))
  else overflowed f (setStrm (fun t => { t with overflow := true }) (beginEpisode 0 s))

def enqueueAll (l : List Frame) (s : State) : State := l.foldl (fun s f => enqueue f s) s

/-- The DROP frame (Table 15-7) of the drops since the previous one. -/
def dropFrameOf (s : State) (ended : Bool) : Frame :=
  let d := s.strm.drops
  Frame.bare 0xA (now s) ([mk [(0, 32, d.frames), (32, 16, d.types.toNat), (48, 1, b2n (!s.strm.overflow && s.strm.shedding)),
    (49, 1, b2n ended)], d.first, d.last] ++ (List.range 8).map fun i => (d.zones >>> (64 * i)).setWidth 64)

/-- A DROP frame leaves with the counts it was formed of; one that is not formed, ENABLE being 0, leaves them to the next
(R320, R322). -/
def sendDrop (f : Frame) (s : State) : State :=
  if streamOn s then enqueue f (setStrm (fun t => { t with drops := Drops.none }) s) else s

/-- Form a DROP frame; without a slot in the mark area its counts wait for the next (R322). -/
def formDrop (ended : Bool) (s : State) : State :=
  if s.strm.overflow && !ended && freeMarks s.strm = 0 then s else sendDrop (dropFrameOf s ended) s

/-- The elastic fill is at or below LOW %. -/
def atLow (s : State) : Bool := framesBytes s.strm.elastic * 100 ≤ lowPct s * elasticSize s

/-- The queue has drained: overflow and shedding end at LOW %, with a DROP frame at the end of the episode; MARK_FULL
clears when a record has room again (R321 to R323). -/
def fillFallen (s : State) : State :=
  let t := s.strm
  let on := t.overflow || t.shedding
  let ov := t.overflow && !(t.marks = [] && atLow s)
  let sh := t.shedding && !atLow s
  let s1 := setStrm (fun t => { t with highUp := t.highUp && !atLow s, markFull := t.markFull && freeMarks t < 3 }) s
  if on && !(ov || sh) then
    sendDrop (dropFrameOf s1 true) (setStrm (fun t => { t with overflow := false, shedding := false }) s1)
  else setStrm (fun t => { t with overflow := ov, shedding := sh }) s1

/-- The frame that the FIFO takes next from DRAM: from the head of the elastic buffer, then from the mark area, where a whole
frame fits (R320, R321); with the port without it. -/
def Stream.pulled (t : Stream) : Option (Frame × Stream) :=
  match t.elastic, t.marks with
  | f :: r, _ => if fifoRoom t f then some (f, { t with elastic := r }) else none
  | [], f :: r => if fifoRoom t f then some (f, { t with marks := r, markAt := (t.markAt + 1) % markSlots }) else none
  | [], [] => none

/-- Some address of a hide word in a region, which keeps its order to itself (R332). -/
def someWord (lo size drawn : Nat) : Nat := lo + 8 * (Config.free 342 drawn % max 1 (size / 8))

/-- RT1 reads the words of a frame from an address on. -/
def frameRead (acc : Access) (f : Frame) (a : Nat) (s : State) : State := blockRead 1 acc a (f.payload.length + 3) s

/-- The FIFO takes frames from DRAM while they fit; one with an uncorrectable word goes on with its trailer CRC complemented
(Table 16-5). -/
def refill : Nat → State → State
  | 0, s => s
  | n + 1, s =>
    match s.strm.pulled with
    | none => s
    | some (f, t) =>
      let acc := readCondition s.mem.ecc s.drawn
      let a := if s.strm.elastic = [] then 128 * s.strm.markAt else someWord (hostEnd s) (elasticSize s) (s.drawn + 1)
      refill n (frameRead acc f a { s with
        strm := { t with fifo := t.fifo ++ [{ f with bad := f.bad || acc == .ecc }] }, drawn := s.drawn + 2 })

/-- The FIFO refills and the fill is judged. -/
def drain (s : State) : State := fillFallen (refill (s.strm.elastic.length + s.strm.marks.length) s)

/-! ### The link (R310 to R313) -/

/-- Columns since the last ALIGN: one follows every 128 (R309). A column lasts 5/4 core cycles at RATE 0; that the count
starts with training is the model's choice (log 91). -/
def columnNo (s : State) (cycle : Nat) : Nat := (cycle - s.strm.runAt) * 4 / (5 * 2 ^ streamRate s)
def sinceAlign (s : State) : Nat := columnNo s s.tb.mono % 129

/-- Core cycles that a frame's columns take: START, header, payload, trailer and the ALIGN columns among them (R309). -/
def frameCycles (s : State) (f : Frame) : Nat :=
  cdiv (withAligns (sinceAlign s) (f.payload.length + 4) * 5 * 2 ^ streamRate s) 4

/-- A frame is still being sent, or the 16 IDLE columns of Table 15-4. -/
def inProgress (s : State) : Bool := s.tb.mono < s.strm.sendEnd

/-- The column that the lanes carry now (R309, R311, R312): none while they are at high impedance; every 129th is ALIGN; the
others are the pairs of training, the columns of the frame in progress, or IDLE. -/
def columnNow (s : State) : Option Column :=
  let t := s.strm
  let k := columnNo s s.tb.mono
  let other := fun (x : Nat) => x - x / 129
  if !t.driven then none else if k % 129 = 128 then some .align else some <| match t.state, t.last with
    | .training, _ => (trainColumns (streamRate s)).getD (other k % 2) .idle
    | .up, some (f, q) =>
      if t.sendAt ≤ s.tb.mono && inProgress s then
        (frameColumns (f.words q)).getD (other k - other (columnNo s t.sendAt)) .idle
      else .idle
    | _, _ => .idle

/-- The frame in progress is cut off, to be sent again (R313); an IDLE frame is not. -/
def cutFrame (s : State) : State :=
  setStrm (fun t => { t with
    resend := if inProgress s && t.sending.isSome then t.sending else t.resend, sending := none, sendEnd := s.tb.mono }) s

/-- Training begins (R312). -/
def beginTraining (s : State) : State :=
  setStrm (fun t => { t with state := .training, driven := true, runAt := s.tb.mono, okRun := 0, fcEver := t.fcLocked, trainWait := false,
                             sending := none }) s

/-- The last LANE_OK, and bit 8 when LAT_FC never locked. -/
def trainWord (t : Stream) : Nat := t.laneOk.toNat + if t.fcEver then 0 else 256

/-- STREAM_TRAIN: while UP the frame in progress is completed first (Table 15-4). -/
def startTraining (s : State) : State :=
  match s.strm.state with
  | .training => s
  | .down => beginTraining s
  | .up =>
    if inProgress s then setStrm (fun t => { t with trainWait := true }) s else beginTraining (post evStreamDown 2 s)

/-- STREAM_TRAIN (R312). -/
def hStreamTrain : Handler :=
  { Handler.work 0x71 0 (fun _ => .stream) (fun _ _ s => startTraining s) with
    dram := fun _ => true
    bad := fun s _ _ => !streamOn s }
/-- STREAM_TRAIN. -/
def execStreamTrain (o : Origin) (p : List Word) (s : State) : Out := .next (request hStreamTrain o p s)

/-- LAT_FC locks. -/
def execLatFcLock (s : State) : Out := .next (setStrm (fun t => { t with fcLocked := true, fcEver := true }) s)

/-- LAT_FC is lost: UP goes DOWN (Table 15-4); a STREAM_TRAIN that waits for the frame now cut off trains at once. -/
def execLatFcLoss (s : State) : Out :=
  let s1 := setStrm (fun t => { t with fcLocked := false }) s
  .next (if s.strm.state ≠ .up then s1
    else if s.strm.trainWait then beginTraining (post evStreamDown 0 (cutFrame s1))
    else post evStreamDown 0 (setStrm (fun t => { t with state := .down }) (cutFrame s1)))

/-- Training has succeeded: 16 IDLE columns, UP, no credits (Table 15-4); SEQ starts at 0 the first time (R314). -/
def linkUp (s : State) : State :=
  finish .stream stOk [mk [(0, 9, trainWord s.strm)]]
    (post evStreamUp (streamRate s) (setStrm (fun t => { t with
      state := .up, credits := 0, seq := if t.everUp then t.seq else 0, everUp := true
      sendEnd := s.tb.mono + cdiv (withAligns (sinceAlign s) 16 * 5 * 2 ^ streamRate s) 4
      sendAt := s.tb.mono + cdiv (withAligns (sinceAlign s) 16 * 5 * 2 ^ streamRate s) 4 }) s))

/-- A training status pair arrives (Table 15-4). -/
def execLatFcTrainingStatus (laneOk : BitVec 8) (s : State) : Out :=
  if !s.strm.fcLocked then .next s else
  let s1 := setStrm (fun t => { t with laneOk := laneOk, okRun := if laneOk = 0xFF then t.okRun + 1 else 0 }) s
  .next (match s.strm.state with
    | .training => if 64 ≤ s1.strm.okRun then linkUp s1 else s1
    | .down => if autoRetrain s then beginTraining s1 else s1
    | .up => if autoRetrain s then beginTraining (post evStreamDown 1 (cutFrame s1)) else s1)

/-- 10 ms since training began (Table 15-4). -/
def execStreamTrainingTimeout (s : State) : Out :=
  if s.strm.state = .training then
    .next (finish .stream stInternal [mk [(0, 9, trainWord s.strm)]]
      (post evStreamTrainFail (trainWord s.strm) (setStrm (fun t => { t with state := .down, driven := false }) s)))
  else .next s

/-- A RESET of level 1 or higher takes the link down (Table 15-4); SEQ starts again (R314). -/
def streamReset (s : State) : State :=
  postIf (s.strm.state = .up) evStreamDown 3
    (setStrm (fun t => { t with
      state := .down, driven := false, trainWait := false, sending := none, resend := none, sendEnd := s.tb.mono
      everUp := false, seq := 0 }) s)

/-- A grant of N credits; N = 0 is ignored, and beyond 255 counts an error (R319). -/
def execCreditGrant (n : Nat) (s : State) : Out :=
  if n = 0 || 255 < n || !s.strm.fcLocked then .next s
  else .next (setStrm (fun t => { t with
    credits := min 255 (t.credits + n), creditErr := if 255 < t.credits + n then sat 16 (t.creditErr + 1) else t.creditErr }) s)

/-- A frame has waited STALL_US with no credit (R319). -/
def execCreditStallTimeout (s : State) : Out :=
  let t := s.strm
  .next (if t.state = .up && t.credits = 0 && (t.resend.isSome || t.fifo ≠ []) && fld (rwGet s 0x7000) 47 32 ≠ 0 && !t.stallUp then
    post evStreamCreditStall 0 (setStrm (fun t => { t with stallUp := true }) s) else s)

/-! ### History frames (R265, R324) -/

/-- Bits [lo, lo + n) of a run of words. -/
def bitRun (ws : List Word) (lo n : Nat) : Nat :=
  (ws.foldr (fun w a => w.toNat + 2 ^ 64 * a) 0) / 2 ^ lo % 2 ^ n

/-- A number as so many words. -/
def natWords (x n : Nat) : List Word := (List.range n).map fun i => BitVec.ofNat 64 (x / 2 ^ (64 * i))

/-- An ACOUSTIC frame cut to the channels from a to b − 1, as a history frame (R265, R316). -/
def Frame.crop (f : Frame) (a b : Nat) : Frame :=
  let lo := max a f.first - f.first
  let m := min b (f.first + f.count) - f.first - lo
  let bf := formatBits f.format
  let vw := cdiv (f.count * bf) 64
  let qw := cdiv f.count 32
  let vals := natWords (bitRun (f.payload.take vw) (bf * lo) (bf * m)) (cdiv (m * bf) 64)
  let qual := natWords (bitRun ((f.payload.drop vw).take qw) (2 * lo) (2 * m)) (cdiv m 32)
  let fade := if f.fade then natWords (bitRun (f.payload.drop (vw + qw)) (8 * lo) (8 * m)) (cdiv m 8) else []
  { f with first := f.first + lo, count := m, history := true, payload := vals ++ qual ++ fade }

/-- One frame of the dump has gone to its destination. -/
def Dump.took (d : Dump) (f : Frame) : Dump :=
  { d with left := d.left.drop 1, frames := d.frames + 1, firstTag := if d.frames = 0 then f.time else d.firstTag,
           lastTag := f.time }

/-- The next history frame that waits for the stream. -/
def historyFrame (s : State) : Option Frame :=
  match s.girth.dump with
  | some d => match d.left with
    | f :: _ => if d.toDram then none else some (f.crop d.firstCh (d.firstCh + d.count))
    | [] => none
  | none => none

/-! ### Frames leave (R313, R314, R319, R324) -/

/-- A frame starts: a credit, its SEQ, and the counts; it is in progress until its trailer. -/
def startFrame (f : Frame) (seq : BitVec 11) (again : Bool) (s : State) : State :=
  setStrm (fun t => { t with
    credits := t.credits - 1, stallUp := false, sending := some (f, seq), last := some (f, seq),
    sendAt := s.tb.mono, sendEnd := s.tb.mono + frameCycles s f, sent := t.sent + 1,
    resent := if again then sat 16 (t.resent + 1) else t.resent, seq := if again then t.seq else t.seq + 1 }) s

/-- A frame of the history ring is read, where in the ring is open (R332). -/
def ringRead (acc : Access) (f : Frame) (s : State) : State :=
  frameRead acc f (someWord (usableCap s - historySize s) (historySize s) (s.drawn + 1)) { s with drawn := s.drawn + 2 }

/-- A queued frame starts when the link is UP and a credit is free: one cut off before, the head of the queue, or with
an empty queue a history frame. -/
def execFrameSend (s : State) : Out :=
  let t := s.strm
  .next (if t.state = .up && t.credits ≠ 0 && !t.trainWait && !inProgress s then
    match t.resend, t.fifo with
    | some (f, q), _ => startFrame f q true (setStrm (fun t => { t with resend := none }) s)
    | none, f :: r => drain (startFrame f t.seq false (setStrm (fun t => { t with fifo := r }) s))
    | none, [] =>
      match historyFrame s with
      | some f =>
        let acc := readCondition s.mem.ecc s.drawn
        startFrame { f with bad := acc == .ecc } t.seq false (ringRead acc f { s with girth := { s.girth with dump := s.girth.dump.map fun d => d.took f } })
      | none => s
  else s)

/-- No frame for 1 ms while UP: an IDLE frame, without credit or SEQ (R315). -/
def execIdleFrameTimeout (s : State) : Out :=
  .next (if s.strm.state = .up && !s.strm.trainWait && !inProgress s then
    let f := Frame.bare 0 (now s) []
    setStrm (fun t => { t with last := some (f, 0), sending := none, sendAt := s.tb.mono, sendEnd := s.tb.mono + frameCycles s f }) s
  else s)

/-- Every STATUS_MS a STATUS frame (Table 15-6). -/
def execStatusFrameTimer (s : State) : Out :=
  .next (if fld (rwGet s 0x7000) 63 48 = 0 then s
    else enqueue (Frame.bare 0xB (now s) [streamStatus s, streamFill s, streamDrops s]) s)

/-- One second into a drop episode, or after its last DROP frame (R322). -/
def execDropFrameTimer (s : State) : Out :=
  .next (if s.strm.overflow || s.strm.shedding then formDrop false s else s)

end Sys2Proof.Machine
end

