-- ==== Sys2Proof/Machine/Timing.lean ====
section
/-!
DEFINITION. The timing output pairs (R85, R86): a symbol lasts 240 ns, a symbol in progress is never cut, a waiting SYNC
leaves first, and the time a symbol waits is added to its ACC.
-/
namespace Sys2Proof.Machine

/-- Core cycles of a timing symbol: 240 ns (R84). -/
abbrev symCycles : Nat := 96

/-- Core cycles a probe or echo takes: one character of 40 ns (R72, Table 05-1); a symbol takes its six. -/
def TimKind.cycles : TimKind → Nat
  | .probe => 16
  | .echo => 16
  | _ => symCycles

/-- A timing symbol, which goes before probes (R87). -/
def TimKind.symbol : TimKind → Bool
  | .probe => false
  | .echo => false
  | _ => true

/-- The control character of a timing symbol, a probe or an echo (Table 05-1). -/
def TimKind.control (k : TimKind) : Symbol :=
  match k with
  | .arm => .k 28 0
  | .fire => .k 28 3
  | .sync => .k 28 6
  | .probe => .k 28 2
  | .echo => .k 28 4

/-- The symbols of a timing symbol (Table 05-6); a probe or an echo is its character alone. -/
def timingSymbols (k : TimKind) (x : TimingSym) : List Symbol :=
  if k.symbol then
    k.control :: ((wordBytes (mk [(0, 6, x.origin.toNat), (8, 8, x.code.toNat), (16, 24, x.acc.toNat)])).take 5).map .d
  else [k.control]

/-- Add to ACC, in 1/256 ns; where it would pass its 24 bits the spec states no value (log 29). -/
def TimingSym.plus (t : TimingSym) (x drawn : Nat) : TimingSym :=
  { t with acc := if t.acc.toNat + x < 2 ^ 24 then BitVec.ofNat 24 (t.acc.toNat + x)
                  else BitVec.ofNat 24 (Config.free 85 drawn) }

/-- What leaves next: a SYNC before the others, these in order of arrival (R86), and probes after every symbol (R87). -/
def pickWait (l : List TimWait) : Option (TimWait × List TimWait) :=
  match (l.findIdx? (·.kind == .sync)).or (l.findIdx? (·.kind.symbol)) with
  | some i => (l[i]?).map fun w => (w, l.eraseIdx i)
  | none => match l with
    | w :: r => some (w, r)
    | [] => none

/-- The pair is free at this cycle: the next waiting symbol leaves. -/
def TimOut.advance (o : TimOut) (cycle drawn : Nat) : TimOut :=
  if cycle < o.busyUntil then o else
  match pickWait o.waiting with
  | some (w, r) =>
    let sym := if w.kind.symbol then TimingSym.plus w.sym ((cycle - w.arrived) * 640) drawn else w.sym
    { busyUntil := cycle + w.kind.cycles, waiting := r, last := some (w.kind, sym)
      line := o.line.send cycle 0 (timingSymbols w.kind sym) }
  | none => o

/-- A symbol is handed to an output pair: it leaves at once, or waits. -/
def TimOut.put (o : TimOut) (k : TimKind) (t : TimingSym) (cycle drawn : Nat) : TimOut :=
  TimOut.advance { o with waiting := o.waiting ++ [{ kind := k, sym := t, arrived := cycle }] } cycle drawn

/-- Send on HUP_TOUT or HDN_TOUT. -/
def timSend (p : HPort) (k : TimKind) (t : TimingSym) (s : State) : State :=
  match p with
  | .up => { s with harn := { s.harn with timUp := s.harn.timUp.put k t s.tb.mono s.drawn }, drawn := s.drawn + 1 }
  | .down => { s with harn := { s.harn with timDown := s.harn.timDown.put k t s.tb.mono s.drawn }, drawn := s.drawn + 1 }

/-- Hop delay of a port in 1/256 ns; 0 is compensated with the nominal 160 ns (R88). -/
def hopOf (s : State) (p : HPort) : Nat :=
  let d := match p with | .up => s.harn.hopUp | .down => s.harn.hopDown
  if d = 0 then 40960 else d.toNat

/-- The hop that a symbol came over. Unit 1 is wired to the host: the origin instant of the host's symbol is its arrival
there, and no hop is taken off or added for that link, which nothing measures (R85). Which unit of its chain this one is, no
state tells: it is a fact of the wiring (log 44). -/
def hopFor (s : State) (p : HPort) : Nat :=
  if p = .up ∧ Config.firstUnit = true ∧ s.harn.hopUp = 0 then 0 else hopOf s p

/-- A symbol's origin instant lies this much, in 1/256 ns, before its arrival (R85). -/
def sinceOrigin (s : State) (p : HPort) (t : TimingSym) : Nat := t.acc.toNat + hopFor s p

/-- The time counter so many 1/256 ns ago, in 1/256 ns. For an instant before the counter's zero, soon after a TIME_SET to
a small value, the spec gives no tag, and the model takes 0 (DESIGN CHOICE, log 83). -/
def backBy (s : State) (x : Nat) : Nat := s.tb.now / 2 ^ 24 - x

/-- This unit originates a FIRE on both pairs (R85, R250); ACC starts at its own wait. -/
def sendFire (code : Nat) (s : State) : State :=
  let t : TimingSym := { origin := s.pwr.address, code := BitVec.ofNat 8 code, acc := 0 }
  timSend .down .fire t (timSend .up .fire t s)

end Sys2Proof.Machine
end

