-- ==== Sys2Proof/Machine/Girth.lean ====
section
/-!
DEFINITION. Girth (chapter 12): zone states and records, detectors, source triggers, marks and their measurements,
envelopes, delta traces and fibre breaks, the history ring, and digests.
-/
namespace Sys2Proof.Machine

/-! ### Trigger records (Table 12-3) -/

def trigDetector (c : Cfg) (z : Nat) : Nat := fld (wd (trigRec c z) 0) 10 9
def trigTin (c : Cfg) (z i : Nat) : Bool := bit (wd (trigRec c z) 0) (16 + i)
def trigThermal (c : Cfg) (z : Nat) : Bool := bit (wd (trigRec c z) 0) 24 && zoneThermal c z
def trigFire (c : Cfg) (z : Nat) : Bool := bit (wd (trigRec c z) 0) 25
def trigForce (c : Cfg) (z : Nat) : Bool := bit (wd (trigRec c z) 0) 26
def trigAuto (c : Cfg) (z : Nat) : Bool := bit (wd (trigRec c z) 0) 27
def trigDelta (c : Cfg) (z : Nat) : Bool := bit (wd (trigRec c z) 0) 28
def trigSta (c : Cfg) (z : Nat) : Nat := fld (wd (trigRec c z) 0) 35 32
def trigLta (c : Cfg) (z : Nat) : Nat := fld (wd (trigRec c z) 0) 39 36
/-- The turn-on ratio ON / 256 and the turn-off ratio OFF / 16. -/
def trigOn (c : Cfg) (z : Nat) : Rat := (fld (wd (trigRec c z) 0) 55 40 : Rat) / 256
def trigOff (c : Cfg) (z : Nat) : Rat := (fld (wd (trigRec c z) 0) 63 56 : Rat) / 16
def trigLo (c : Cfg) (z : Nat) : Nat := fld (wd (trigRec c z) 1) 7 0
def trigHi (c : Cfg) (z : Nat) : Nat := fld (wd (trigRec c z) 1) 15 8
def trigCluster (c : Cfg) (z : Nat) : Nat := fld (wd (trigRec c z) 1) 23 16
def trigGap (c : Cfg) (z : Nat) : Nat := fld (wd (trigRec c z) 1) 27 24
def trigExtend (c : Cfg) (z : Nat) : Bool := bit (wd (trigRec c z) 1) 28
def trigFireOut (c : Cfg) (z : Nat) : Bool := bit (wd (trigRec c z) 1) 29
/-- PRE, POST and MAX_LEN in ns; HOLDOFF in core cycles. -/
def trigPre (c : Cfg) (z : Nat) : Nat := fld (wd (trigRec c z) 1) 39 32 * 10000000
def trigPost (c : Cfg) (z : Nat) : Nat := fld (wd (trigRec c z) 1) 47 40 * 10000000
def trigHold (c : Cfg) (z : Nat) : Nat := fld (wd (trigRec c z) 1) 55 48 * 10 * msCycles
def trigMax (c : Cfg) (z : Nat) : Nat := fld (wd (trigRec c z) 1) 63 56 * 1000000000

/-- GIRTH.CTRL of a side. -/
def girthCtrl (s : State) (d : Side) : Word := rwGet s (sid d 0x3000)
def singleMode (s : State) (d : Side) : Bool := bit (girthCtrl s d) 0
def fadeGate (s : State) (d : Side) : Bool := bit (girthCtrl s d) 2

/-- A frame of a zone or a route. -/
def zoneFrame (t zone route first count : Nat) (time : Word) (p : List Word) : Frame :=
  { Frame.bare t time p with route := route, zone := zone, first := first, count := count }

/-- The numbers of a list, each in so many bits, as one little-endian bit string of hide words. -/
def packed (bits : Nat) (l : List Nat) : List Word :=
  natWords (l.foldr (fun v a => v % 2 ^ bits + 2 ^ bits * a) 0) (cdiv (l.length * bits) 64)

/-! ### Clusters (R247) -/

/-- Runs of on channels, joined over gaps: (first, last, channels on). -/
def onRuns (gap : Nat) (l : List Nat) : List (Nat × Nat × Nat) :=
  l.foldl (fun runs i => match runs with
    | (a, b, n) :: r => if i ≤ b + gap + 1 then (a, i, n + 1) :: r else (i, i, 1) :: runs
    | [] => [(i, i, 1)]) []

/-- Numbers of the channels that are on. -/
def onChans (chans : List Channel) : List Nat := (List.range chans.length).filter fun i => match chans[i]? with
  | some ch => ch.det.on
  | none => false

/-- The clusters of a zone, ascending. -/
def clusters (c : Cfg) (z : Nat) (chans : List Channel) : List (Nat × Nat) :=
  (((onRuns (trigGap c z) (onChans chans)).filter fun r => trigCluster c z ≤ r.2.2).map fun r => (r.1, r.2.1)).reverse

/-- The zone's detector is active. -/
def detectorActive (c : Cfg) (z : Nat) (chans : List Channel) : Bool :=
  trigDetector c z ≠ 0 && clusters c z chans ≠ []

/-! ### Zone measurements in physical units -/

/-- fout of a zone as a fraction in Hz: k · fs / (W · 2^r). -/
def fout (c : Cfg) (z : Nat) : Rat :=
  (groupCount c (zoneSide c z) * 1200000000 : Rat) / (window c (zoneSide c z) * 2 ^ zoneRate c z)

/-- A saturating rounded quotient; its last digit is Config's (log 4). -/
def satQ (place n : Nat) (q : Rat) : Nat := sat n (Config.ratQ place q).toNat

/-- The root of a quotient, exact where it is whole, else one of its two neighbours (log 4). -/
def rootQ (place : Nat) (q : Rat) : Nat :=
  let f := Nat.sqrt (q.num.toNat / q.den)
  if ((f * f : Nat) : Rat) = q then f else f + b2n (Config.roundUp place q.num q.den)

/-- PEAK, RMS and ENERGY of Table 12-7 in 2^−8, DOM_PERIOD in µs. -/
def recPeak (r : GRecord) : Nat := satQ 257 32 (r.peak / 2 ^ 24)
def recRms (r : GRecord) : Nat := if r.n = 0 then 0 else sat 32 (rootQ 257 (r.sumSq / (r.n * 2 ^ 48)))
def recEnergy (r : GRecord) : Nat := satQ 257 64 (r.energy / 2 ^ 56)

/-- No crossing yet. -/
def Cross.none : Cross := { count := 0, first := 0, last := 0, neg := false }

def domPeriod (r : GRecord) : Nat :=
  let x := kvGet Cross.none r.cross r.peakCh
  if x.count < 2 then 0 else sat 32 (Config.quot 257 (x.last - x.first : Int) (1000 * (x.count - 1))).toNat

/-! ### The monotonic count (R270) -/

/-- An instant given in ns of the time counter, as it stands, in quarters of a ns of the monotonic count. -/
def mono4 (s : State) (ns : Nat) : Int := 10 * s.tb.mono + ((ns : Int) * 2 ^ 32 - s.tb.now) / 2 ^ 30

/-- The ns that the time counter shows at an instant of the monotonic count. -/
def nsAt4 (s : State) (x : Int) : Nat := ((s.tb.now + (x - 10 * s.tb.mono) * 2 ^ 30) / 2 ^ 32).toNat

/-- The instant that it is, in quarters of a ns. -/
def nowAt4 (s : State) : Int := 10 * s.tb.mono

/-! ### Measurements (R257) -/

/-- One counted sample of one channel: v, and fout of its output. -/
def GRecord.count (r : GRecord) (ch ns : Nat) (f : Rat) (v : Int) : GRecord :=
  let y := kvGet Cross.none r.cross ch
  let up := y.neg && decide (0 ≤ v)
  let y' : Cross := { count := if up then y.count + 1 else y.count, first := if up && y.count = 0 then ns else y.first,
                      last := if up then ns else y.last, neg := decide (v < 0) }
  let x : Rat := v.natAbs * f
  let big := r.n = 0 || decide (r.peak < x)
  { r with cross := kvSet Cross.none r.cross ch y', peak := if big then x else r.peak
           peakCh := if big then ch else r.peakCh, peakAt := if big then tagOfNs ns else r.peakAt
           sumSq := r.sumSq + x * x, energy := r.energy + x * v.natAbs, n := r.n + 1 }

/-- One sample within the span. -/
def GRecord.see (r : GRecord) (ch ns : Nat) (f : Rat) (x : OutSample) : GRecord :=
  if x.quality = 3 then { r with stale := true }
  else if x.quality = 2 then { r with settle := true }
  else r.count ch ns f x.v

/-- One output instant of a record: the span grows over every cluster, then its samples are taken. -/
def GRecord.instant (r : GRecord) (cl : List (Nat × Nat)) (o : ZoneOut) : GRecord :=
  let ns := nsOfTag o.tag
  let f := fout o.cfg o.zone
  let r1 := cl.foldl (fun r k => { r with first := min r.first k.1, last := max r.last k.2 }) r
  if ns < r1.trig then r1 else
  ((List.range o.samples.length).filter fun i => r1.first ≤ i && i ≤ r1.last).foldl (fun r i => match o.samples[i]? with
    | some x => r.see i ns f x
    | none => r) r1

/-- A record that opens takes the instants from TRIG_TIME on that have been evaluated already, newest first. -/
def GRecord.catchUp (r : GRecord) (past : List ZoneOut) : GRecord := past.foldr (fun o r => r.instant [] o) r

/-! ### Opening and closing records (R252 to R256, R323) -/

/-- Dead time of an interval is added to the zone and its side (R253). -/
def endDead (d : Side) (z : Nat) (s : State) : State :=
  match (zoneRun s z).deadSince with
  | some t =>
    setGirth d (fun g => { g with dead := g.dead + (s.tb.mono - t) })
      (setZone z (fun r => { r with dead := r.dead + (s.tb.mono - t), deadSince := none }) s)
  | none => s

/-- A trigger that could not open a record begins a dead interval. -/
def beginDead (z : Nat) (s : State) : State :=
  setZone z (fun r => { r with deadSince := some (r.deadSince.getD s.tb.mono) }) s

/-- Add to a digest count of a side: 0 opened, 1 refused, 2 overlaps, 3 breaks. -/
def digestAdd (d : Side) (i : Nat) (s : State) : State :=
  setGirth d (fun g => { g with digest := upd g.digest i (sat 16 <| · + 1) }) s

/-- A refused trigger (R254, R323). -/
def refuseRecord (d : Side) (z : Nat) (s : State) : State :=
  let s1 := watchMarks s
  let s2 := if s1.girth.fullUp then s1 else
    post evRecordTableFull z { s1 with girth := { s1.girth with fullUp := true } }
  beginDead z (digestAdd d 1 (setGirth d (fun g => { g with tableFull := sat 16 (g.tableFull + 1) }) s2))

/-- The next RECORD_ID: 1 after 0xFFFF_FFFF (R255). -/
def nextId (x : BitVec 32) : BitVec 32 := if x = 0xFFFFFFFF then 1 else x + 1

/-- A trigger: its cause and code, its time in ns with the fraction, and the ORIGIN and instant of a FIRE. -/
structure Trigger where
  cause  : Nat
  code   : Nat
  ns     : Nat
  frac   : Nat
  origin : Nat
  fire   : Word

/-- A trigger of the device's own at an instant. -/
def Trigger.own (cause code ns frac : Nat) : Trigger :=
  { cause := cause, code := code, ns := ns, frac := frac, origin := 0, fire := 0 }

/-- The MARK_OPEN payload (Table 12-6). -/
def markOpen (c : Cfg) (r : GRecord) (deadUs : Nat) : List Word :=
  [mk [(0, 32, r.id), (32, 9, r.zone), (41, 3, r.route), (48, 3, r.cause), (51, 1, b2n (r.cause = 7)),
      (52, 1, b2n r.fireSent), (56, 8, r.code)],
   tagOfNs r.trig, mk [(0, 8, r.frac), (8, 6, r.origin), (32, 32, deadUs)], mk [(0, 17, r.first), (32, 17, r.last)],
   r.fireTime, tagOfNs (r.trig - trigPre c r.zone)]

/-- Open a record in an ARMED zone, the span given, with a free table entry and room for its marks; else refuse it. -/
def openRecord (c : Cfg) (d : Side) (z : Nat) (t : Trigger) (first last : Nat) (active : Bool) (s : State) : State :=
  if 128 ≤ s.girth.used || !markRoom s then refuseRecord d z s else
  let s := endDead d z s
  let id := nextId s.girth.lastId
  let sends := trigFireOut c z && (t.cause ≤ 3 || t.cause = 5) && s.pwr.address != 0
  let r : GRecord :=
    { id := id.toNat, zone := z, route := zoneRoute c z, acoustic := zoneAcoustic c z, cause := t.cause, code := t.code,
      trig := t.ns, at' := mono4 s t.ns, frac := t.frac, origin := t.origin, fireTime := if sends then now s else t.fire,
      fireSent := sends, pre := t.ns - trigPre c z, deadline := mono4 s t.ns + 4 * trigPost c z, first := first,
      last := last, peak := 0, peakCh := 0, peakAt := 0, sumSq := 0, energy := 0, n := 0, retrigs := 0, overlaps := 0,
      told := false, stale := false, settle := false, cross := [], closedAt := 0, fetched := false }
  let us := sat 32 (Config.quot 253 ((zoneRun s z).dead : Int) usCycles).toNat
  let s1 := setZone z (fun x => { x with
    record := some (r.catchUp x.past), dead := 0, state := if active then .opened else .post }) s
  let s2 := setGirth d (fun g => { g with records := sat 16 (g.records + 1), autoAt := s.tb.mono }) (digestAdd d 0 s1)
  let s3 := enqueue (zoneFrame 3 z (zoneRoute c z) 0 0 (tagOfNs t.ns) (markOpen c r us))
    { s2 with girth := { s2.girth with used := s2.girth.used + 1, lastId := id } }
  let s4 := watchMarks (setStrm (fun t => { t with reserved := t.reserved + 1 }) s3)
  let s5 := postIf (t.cause ≠ 6) evTrigLocal (z + 4096 * t.cause) s4
  if sends then sendFire (t.cause + 16 * d.num) s5 else s5

/-- The MARK_CLOSE payload (Table 12-7); a zone with ACOUSTIC = 0 has only DURATION and words 0 and 1. -/
def markClose (r : GRecord) (cause ns : Nat) : List Word :=
  let dur := sat 32 (Config.quot 257 ((ns - r.trig : Nat) : Int) 1000).toNat
  let w0 := [(0, 32, r.id), (32, 9, r.zone), (41, 3, r.route), (48, 3, cause)]
  if r.acoustic then
    [mk (w0 ++ [(51, 1, b2n r.stale), (52, 1, b2n r.settle)]), tagOfNs ns,
     mk [(0, 32, dur), (32, 16, r.retrigs), (48, 16, r.overlaps)], mk [(0, 17, r.first), (32, 17, r.last)],
     mk [(0, 32, recPeak r), (32, 17, r.peakCh)], mk [(0, 32, recRms r), (32, 32, domPeriod r)],
     BitVec.ofNat 64 (recEnergy r), r.peakAt]
  else [mk w0, tagOfNs ns, mk [(0, 32, dur)], 0, 0, 0, 0, 0]

/-- What each zone adds to a side's digest: records, samples, those coded 0b01, peak, energy, highest and lowest T16. -/
def digKey (d : Side) (z : Nat) : Nat := 512 * d.num + z
def digZone (s : State) (k : Nat) : List Nat := kvGet [0, 0, 0, 0, 0, 0, 0] s.girth.digZones k
def setDigZone (k : Nat) (f : List Nat → List Nat) (s : State) : State :=
  { s with girth := { s.girth with digZones := kvSet [0, 0, 0, 0, 0, 0, 0] s.girth.digZones k (f (digZone s k)) } }

/-- Nothing counted for a side's digest. -/
def clearDigZones (d : Side) (l : List (Nat × List Nat)) : List (Nat × List Nat) := l.filter fun e => e.1 / 512 ≠ d.num

/-- A hold-off ends (Table 12-5). -/
def endHoldoff (d : Side) (z : Nat) (s : State) : State :=
  let s1 := postIf (zoneRun s z).deadSince.isSome evDeadtime z (endDead d z s)
  let single := singleMode s d
  setZone z (fun r => { r with state := if r.disarm || single then .disarmed else .armed, disarm := false }) s1

/-- A zone stands on a side: by its open record, or the last one while it holds off; else by its own record. -/
def standsOn (s : State) (d : Side) (z : Nat × ZoneRun) : Bool :=
  match z.2.record, z.2.state, z.2.closed with
  | some r, _, _ => routeSide r.route == d
  | none, .holdoff, r :: _ => routeSide r.route == d
  | _, _, _ => zoneDefined (cfgOf s d) z.1 && zoneSide (cfgOf s d) z.1 == d

/-- The side a zone stands on. -/
def runSide (s : State) (z : Nat) : Side := if standsOn s .b (z, zoneRun s z) then .b else .a

/-- An entry is free again: the dead time of refused zones ends (R253). -/
def entryFreed (s : State) : State :=
  (s.zones.filter fun z => z.2.deadSince.isSome && z.2.state != .holdoff).foldl
    (fun s z => endDead (runSide s z.1) z.1 s) s

/-- The open record of a zone closes with a cause at an instant; the zone enters HOLDOFF, and leaves it at once when it
lasts no time or acquisition ends. -/
def closeRecord (d : Side) (z cause ns : Nat) (s : State) : State :=
  match (zoneRun s z).record with
  | none => s
  | some r =>
    let c := cfgOf s d
    let r' := { r with closedAt := ns }
    let s1 := setZone z (fun x => { x with record := none, state := .holdoff, closed := (r' :: x.closed).take 8 }) s
    let s2 := enqueue (zoneFrame 4 z r.route 0 0 (tagOfNs ns) (markClose r cause ns)) s1
    let s3 := post evRecordClosed (z + 4096 * cause) (setStrm (fun t => { t with reserved := t.reserved - 1 }) s2)
    let s4 := setDigZone (digKey d z) (fun l => upd (upd (upd l 0 (sat 8 <| · + 1)) 3 (max · (recPeak r))) 4 (· + recEnergy r)) s3
    let s5 := entryFreed { s4 with girth := { s4.girth with used := s4.girth.used - 1, fullUp := false } }
    if trigHold c z = 0 || cause = 3 then endHoldoff d z s5 else s5

/-- Zones of a side, those with something kept. -/
def keptZones (s : State) (d : Side) : List Nat := (s.zones.filter (standsOn s d)).map (·.1)

/-- Every open record of a side closes with a cause, now. -/
def closeAll (d : Side) (cause : Nat) (s : State) : State :=
  (keptZones s d).foldl (fun s z => closeRecord d z cause (nsOfTag (now s)) s) s

/-- Acquisition has ended on a side: records close with cause STOP, and hold-offs end at once (Table 12-5). -/
def stopRecords (d : Side) (s : State) : State :=
  let s1 := closeAll d 3 s
  (keptZones s1 d).foldl (fun s z => if (zoneRun s z).state == .holdoff then endHoldoff d z s else s) s1

/-! ### Triggers (R249, Table 12-5) -/

/-- A retrigger on an open record at an instant of the monotonic count: EXTEND or OVERLAP. -/
def retrigger (c : Cfg) (d : Side) (z : Nat) (source : Bool) (x : Int) (s : State) : State :=
  match (zoneRun s z).record with
  | none => s
  | some r =>
    if trigExtend c z then
      let dl := if source then max r.deadline (x + 4 * trigPost c z) else r.deadline
      setZone z (fun y => { y with
        record := some { r with retrigs := sat 16 (r.retrigs + 1), deadline := dl },
        state := if source then y.state else .opened }) s
    else
      let s1 := setZone z (fun y => { y with record := some { r with overlaps := sat 16 (r.overlaps + 1), told := true } }) s
      postIf (!r.told) evRetrigOverlap z
        (digestAdd d 2 (setGirth d (fun g => { g with overlaps := sat 16 (g.overlaps + 1) }) s1))

/-- Triggers may open records on this side: acquiring, and no ACQ_STOP given (R242). -/
def triggersOn (s : State) (d : Side) : Bool := acquiring s d && !(s.girth.side d).stopping

/-- A source trigger at one zone. -/
def sourceAt (t : Trigger) (d : Side) (z : Nat) (s : State) : State :=
  let c := cfgOf s d
  match (zoneRun s z).state with
  | .disarmed => s
  | .armed =>
    if triggersOn s d then openRecord c d z t 0 (zoneChans c z - 1) (detectorActive c z (zoneRun s z).chans) s else s
  | .holdoff => beginDead z s
  | _ => retrigger c d z true (mono4 s t.ns) s

/-- Zones a source trigger reaches on a side: those that enable it, on the present route (R249). A side that stops counts
as acquiring still (R242). -/
def reached (s : State) (d : Side) (on : Cfg → Nat → Bool) : List Nat :=
  if acquiring s d then (zonesOn (cfgOf s d) (presentRoute s d)).filter fun z => on (cfgOf s d) z else []

/-- A source trigger on both sides. -/
def sourceTrigger (t : Trigger) (on : Cfg → Nat → Bool) (s : State) : State :=
  bothSides (fun d s => (reached s d on).foldl (fun s z => sourceAt t d z s) s) s

/-- A source trigger on one side. -/
def sideTrigger (t : Trigger) (d : Side) (on : Cfg → Nat → Bool) (s : State) : State :=
  (reached s d on).foldl (fun s z => sourceAt t d z s) s

/-! ### Detectors (R245 to R248) -/

/-- The ratio, where it is defined. -/
def Detector.ratio (x : Detector) : Option Rat := if x.lta = 0 then none else some (x.sta / x.lta)

/-- A sample counts for detectors. -/
def usable (gate : Bool) (q : Nat) : Bool := q = 0 || (q = 1 && !gate)

/-- The tangent of a phase in 1/1024 cycle, in 2^−50. -/
def tan50 (f : Nat) : Int :=
  let z := cis (f * 2 ^ 22)
  z.2 * 2 ^ 50 / z.1

/-- The band-pass of R245, a second-order Butterworth prototype taken to the two edges by the bilinear transform (log 10):
the last four inputs and the last four outputs, newest first, take one more input; outputs are in 2^−16 of the input's
unit. -/
def bandPass (lo hi : Nat) (hist : List Int) (v : Int) : List Int × Int :=
  let w1 := tan50 lo
  let w2 := tan50 hi
  let b := w2 - w1
  let p := w1 * w2 / 2 ^ 50
  let root : Int := isqrt (2 ^ 101)
  let a3 := root * b / 2 ^ 50
  let a2 := 2 * p + b * b / 2 ^ 50
  let a1 := a3 * p / 2 ^ 50
  let a0 := p * p / 2 ^ 50
  let one : Int := 2 ^ 50
  let d0 := one + a3 + a2 + a1 + a0
  let x := v :: hist.take 4
  let at' := fun (i : Nat) => hist.getD i 0
  let y := Config.quot 245 (b * b / 2 ^ 50 * 2 ^ 16 * (v - 2 * at' 1 + at' 3) - (-4 * one - 2 * a3 + 2 * a1 + 4 * a0) * at' 4 -
    (6 * one - 2 * a2 + 6 * a0) * at' 5 - (-4 * one + 2 * a3 - 2 * a1 + 4 * a0) * at' 6 -
    (one - a3 + a2 - a1 + a0) * at' 7) d0.toNat
  ((x.take 4 ++ List.replicate (4 - x.length) 0) ++ y :: (hist.drop 4).take 3, y)

/-- One usable sample of a channel. -/
def Detector.take (c : Cfg) (z : Nat) (x : Detector) (v : Int) : Detector :=
  let y : List Int × Rat := if trigDetector c z = 2 then
      let w := bandPass (trigLo c z) (trigHi c z) x.hist v
      (w.1, (w.2 : Rat) / 2 ^ 16)
    else ([], v)
  let sq : Rat := y.2 * y.2
  let sta := x.sta + (sq - x.sta) / 2 ^ trigSta c z
  let lta := if x.on then x.lta else x.lta + (sq - x.lta) / 2 ^ trigLta c z
  let n := min (x.count + 1) (2 ^ trigLta c z)
  let on := if lta = 0 then x.on else
    if x.on then !(decide (sta / lta < trigOff c z))
    else decide (n = 2 ^ trigLta c z ∧ trigOn c z ≤ sta / lta)
  { sta := sta, lta := lta, count := n, on := on, hist := y.1 }

/-- The crossing instant of a channel that is on, as a part of the interval between two output instants: interpolated when
it turned on now, else at the previous one (R248). -/
def crossing (c : Cfg) (z : Nat) (old new : Detector) : Rat :=
  let r0 := old.ratio.getD 0
  match new.ratio with
  | some r1 => if old.on || trigOn c z ≤ r0 then 0 else (trigOn c z - r0) / (r1 - r0)
  | none => 0

/-- The cluster whose channel crossed earliest, and that part of the interval. -/
def earliest (c : Cfg) (z : Nat) (old new : List Channel) (cl : List (Nat × Nat)) : Option (Rat × Nat × Nat) :=
  let one := fun i => crossing c z ((old[i]?).getD Channel.init).det ((new[i]?).getD Channel.init).det
  let cand := cl.flatMap fun k => ((onChans new).filter fun i => k.1 ≤ i && i ≤ k.2).map fun i => (one i, k.1, k.2)
  cand.foldl (fun b x => match b with
    | some y => if x.1 < y.1 then some x else some y
    | none => some x) none

/-! ### Due records (R252) -/

/-- The cause with which a record is due to close at an instant of the monotonic count, if any: the limit that passed first
(R252; log 32). -/
def dueCause (c : Cfg) (st : ZoneState) (r : GRecord) (x : Int) : Option Nat :=
  let limit := r.at' + 4 * trigMax c r.zone
  let post := st == .post && decide (r.deadline ≤ x)
  let full := decide (limit ≤ x)
  if post && (!full || r.deadline ≤ limit) then some 0 else if full then some 1 else none

/-- Close the zone's record if it is due at an instant: its time tag in ns, the same of the monotonic count. -/
def closeDue (c : Cfg) (d : Side) (z ns : Nat) (x : Int) (s : State) : State :=
  match (zoneRun s z).record with
  | none => s
  | some r => match dueCause c (zoneRun s z).state r x with
    | some k => closeRecord d z k ns s
    | none => s

/-- Records of zones with ACOUSTIC = 0 close at a shot-group boundary of the side (R252). -/
def boundaryDue (d : Side) (s : State) : State :=
  ((keptZones s d).filter fun z => !zoneAcoustic (cfgOf s d) z).foldl
    (fun s z => closeDue (cfgOf s d) d z (nsOfTag (now s)) (nowAt4 s) s) s

/-! ### Envelopes (R258) -/

/-- The scale of PR16 and PR12: v · 2^k to the nearest, ties away from zero; v in 2^−32 cycle (R210). -/
def prRound (k : Nat) (v : Int) : Int := v.sign * ((v.natAbs * 2 ^ k + 2 ^ 31) / 2 ^ 32 : Nat)

/-- Clamp to n bits, two's complement. -/
def clampS (n : Nat) (x : Int) : Int := max (-(2 : Int) ^ (n - 1)) (min ((2 : Int) ^ (n - 1) - 1) x)

def envPeriod (c : Cfg) (d : Side) : Nat := fld (sideGet c d 0x3002) 15 0
def envExp (c : Cfg) (d : Side) : Nat := fld (sideGet c d 0x3002) 19 16

/-- An empty bin. -/
def EnvBin.empty : EnvBin := { lo := 0, hi := 0, codes := 0 }

/-- A sample enters its bin, in the scale of its zone. -/
def EnvBin.add (k : Nat) (b : EnvBin) (x : OutSample) : EnvBin :=
  let v := clampS 16 (prRound k x.v)
  let first := !(b.codes.getLsbD 0 || b.codes.getLsbD 1)
  let codes := b.codes ||| (1 <<< x.quality)
  if x.quality ≤ 1 then
    { lo := if first then v else min b.lo v, hi := if first then v else max b.hi v, codes := codes }
  else { b with codes := codes }

/-- At least so many bins. -/
def envBins (n : Nat) (bins : List EnvBin) : List EnvBin := bins ++ List.replicate (n - bins.length) EnvBin.empty

/-- An output instant enters the bins of its zone. -/
def envTake (e k : Nat) (bins : List EnvBin) (xs : List OutSample) : List EnvBin :=
  (List.range xs.length).foldl (fun bs i => match xs[i]? with
    | some x => upd bs (i / 2 ^ e) (·.add k x)
    | none => bs) (envBins (cdiv xs.length (2 ^ e)) bins)

/-- The code of a bin; one that no sample reached has none stated. -/
def EnvBin.code (b : EnvBin) (drawn : Nat) : Nat :=
  if b.codes.getLsbD 0 then 0 else if b.codes.getLsbD 1 then 1 else if b.codes.getLsbD 3 then 3
  else if b.codes.getLsbD 2 then 2 else Config.free 258 drawn % 4

/-- What a configuration makes of a zone's envelopes, with nothing collected. -/
def envPart (c : Cfg) (d : Side) (z : Nat) : EnvPart :=
  { route := zoneRoute c z, chans := zoneChans c z, exp := envExp c d, k := zoneK c z, bins := [] }

/-- Samples enter the newest part; a configuration that bins them otherwise starts a part of its own (R14). -/
def envAdd (p : EnvPart) (xs : List OutSample) (l : List EnvPart) : List EnvPart :=
  match l.getLast? with
  | some q =>
    if { q with bins := [] } = p then l.dropLast ++ [{ q with bins := envTake q.exp q.k q.bins xs }]
    else l ++ [{ p with bins := envTake p.exp p.k [] xs }]
  | none => [{ p with bins := envTake p.exp p.k [] xs }]

/-- The ENVELOPE frames of a part of a zone for an interval that began at a tag in ns. -/
def envFrames (z start drawn : Nat) (part : Bool) (p : EnvPart) : List Frame :=
  let n := cdiv p.chans (2 ^ p.exp)
  let bins := (envBins n p.bins).take n
  (splitFrames bins.length 960).map fun x =>
    let bs := (bins.drop x.1).take x.2
    { zoneFrame 5 z p.route x.1 x.2 (tagOfNs start)
        (packed 32 (bs.map fun b => sbits 16 b.lo + 65536 * sbits 16 b.hi) ++ packed 2 (bs.map fun b => b.code drawn)) with part := part }

/-- The zones whose envelopes belong to a side's present route: its acoustic zones, and zones that have something collected
on it under a configuration before. -/
def envZones (s : State) (d : Side) : List Nat :=
  let r := presentRoute s d
  let zs := (zonesOn (cfgOf s d) r).filter fun z => zoneAcoustic (cfgOf s d) z
  zs ++ (s.girth.env.filter fun e => !zs.contains e.1 && e.2.any (·.route = r)).map (·.1)

/-- What a zone's frames of the interval show: its parts, oldest first, or empty bins. -/
def envParts (s : State) (d : Side) (z : Nat) : List EnvPart :=
  match kvGet [] s.girth.env z with
  | [] => [envPart (cfgOf s d) d z]
  | l => l

/-- Envelopes of the present route are sent where an interval runs, and the next follows it back to back; with a route
switch the dwell's interval is over. An interval in which a commit changes how a zone is binned gives a frame of each
(DESIGN CHOICE, log 100). -/
def envelopes (d : Side) (part : Bool) (s : State) : State :=
  match (s.girth.side d).envStart with
  | none => s
  | some b =>
    let c := cfgOf s d
    let zs := envZones s d
    let fs := if envPeriod c d = 0 then [] else
      zs.flatMap fun z => (envParts s d z).flatMap (envFrames z b.1 s.drawn part)
    let x := b.2 + 4000000 * envPeriod c d
    let s1 := enqueueAll fs s
    setGirth d (fun g => { g with envStart := if part || envPeriod c d = 0 then none else some (nsAt4 s x, x) })
      { s1 with girth := { s1.girth with env := s1.girth.env.filter fun e => !zs.contains e.1 }, drawn := s1.drawn + 1 }

/-- ENVELOPE_INTERVAL_END. -/
def execEnvelopeIntervalEnd (d : Side) (s : State) : Out :=
  .next (if acquiring s d && envPeriod (cfgOf s d) d ≠ 0 then envelopes d false s else s)

/-! ### Evaluation of an output instant -/

/-- The zone's detectors take an output instant; the channels keep the rest. -/
def detect (c : Cfg) (z : Nat) (gate : Bool) (chans : List Channel) (xs : List OutSample) : List Channel :=
  (List.range chans.length).map fun i =>
    let ch := (chans[i]?).getD Channel.init
    match xs[i]? with
    | some x => if trigDetector c z ≠ 0 && usable gate x.quality then { ch with det := ch.det.take c z x.v } else ch
    | none => ch

/-- The state of Table 12-5 after a detector trigger or its end, at an output instant with the one before. -/
def zoneEvent (o p : ZoneOut) (old new : List Channel) (s : State) : State :=
  let c := o.cfg
  let d := o.side
  let z := o.zone
  let t0 := nsOfTag p.tag
  let before := detectorActive c z old
  let after := detectorActive c z new
  let zr := zoneRun s z
  if after && !before then
    match zr.state with
    | .disarmed => s
    | .armed =>
      match earliest c z old new (clusters c z new) with
      | some (f, a, b) =>
        let t : Rat := t0 + f * ((nsOfTag o.tag : Rat) - t0)
        if triggersOn s d then openRecord c d z (Trigger.own 0 0 (Config.ratQ 248 t).toNat 0) a b true s else s
      | none => s
    | .opened => s
    | .post => retrigger c d z false o.at' s
    | .holdoff => beginDead z s
  else if zr.state == .opened && !after then
    setZone z (fun x => { x with
      state := .post
      record := x.record.map fun r => { r with deadline := max r.deadline (o.at' + 4 * trigPost c z) } }) s
  else s

/-- The digest of a zone takes the codes of an output instant. -/
def digestTake (k : Nat) (xs : List OutSample) (s : State) : State :=
  setDigZone k (fun l => upd (upd l 1 (· + xs.length)) 2 (· + xs.countP (·.quality = 1))) s

/-- How far back, in ns, a trigger time on a route may lie: where its accumulation began (R220), and the group that may turn
out to be the first of a break or a step (Table 12-4). -/
def pastFrom (s : State) (d : Side) (r : Nat) : Nat :=
  let t := s.therm.get d
  let x := deltaOf s r
  let begun := match t.parked.find? (·.route = r) with
    | some p => nsOfTag p.first
    | none => if t.route = r && t.shots ≠ 0 then nsOfTag t.first
      else match t.comp with
        | some x => if x.route = r then nsOfTag x.first else nsOfTag (now s)
        | none => nsOfTag (now s)
  min begun (min (nsOfTag x.lastAt) (if x.short = 0 then nsOfTag x.lastAt else nsOfTag x.seenAt))

/-- An output instant belongs to the dwell that goes on: launched in the present visit, and no switch has begun. -/
def inDwell (s : State) (o : ZoneOut) : Bool :=
  let l := s.lash.get o.side
  o.visit = l.visit && l.seq == .none

/-- An output instant enters its envelope interval; the first of a dwell starts one (R258). -/
def envelopeTake (o : ZoneOut) (s : State) : State :=
  if envPeriod o.cfg o.side = 0 || !inDwell s o then s else
  let bins := envAdd (envPart o.cfg o.side o.zone) o.samples (kvGet [] s.girth.env o.zone)
  setGirth o.side (fun g => { g with envStart := some (g.envStart.getD (nsOfTag o.tag, o.at')) })
    { s with girth := { s.girth with env := kvSet [] s.girth.env o.zone bins } }

/-- Girth evaluates one output instant of a zone, under the configuration of its launches (R14). -/
def evaluate (o : ZoneOut) (s : State) : State :=
  let c := o.cfg
  let zr := zoneRun s o.zone
  let new := detect c o.zone (fadeGate s o.side) zr.chans o.samples
  let s1 := setZone o.zone (fun x => { x with chans := new }) s
  let s2 := zoneEvent o (zr.past.headD o) zr.chans new s1
  let cl := if trigDetector c o.zone = 0 then [] else clusters c o.zone new
  let s3 := setZone o.zone (fun x => { x with
    record := x.record.map fun r => r.instant cl o
    past := o :: x.past.filter fun p => pastFrom s o.side (zoneRoute c o.zone) ≤ nsOfTag p.tag }) s2
  envelopeTake o (digestTake (digKey o.side o.zone) o.samples (closeDue c o.side o.zone (nsOfTag o.tag) o.at' s3))

/-- GIRTH_EVALUATION: the oldest output instant delivered (R248). -/
def execGirthEvaluation (s : State) : Out :=
  .next (match s.girth.waiting with
    | o :: r => evaluate o { s with girth := { s.girth with waiting := r } }
    | [] => s)

/-- HOLDOFF_ELAPSED. -/
def execHoldoffElapsed (z : Nat) (s : State) : Out :=
  .next (if (zoneRun s z).state == .holdoff then endHoldoff (runSide s z) z s else s)

/-- AUTO_TIMEOUT (R251): no record on the side for so long. The event comes whether or not a zone takes the trigger. -/
def execAutoTimeout (d : Side) (s : State) : Out :=
  let t := fld (rwGet s (sid d 0x3001)) 15 0
  .next (if t ≠ 0 && acquiring s d && t * sCycles ≤ s.tb.mono - (s.girth.side d).autoAt then
    let s1 := post evTrigAuto d.num (setGirth d (fun g => { g with autoAt := s.tb.mono }) s)
    sideTrigger (Trigger.own 6 0 (nsOfTag (now s)) 0) d
      (fun c z => trigAuto c z && (zoneRun s z).state == .armed) s1
  else s)

/-! ### ARM, DISARM, FORCE (R267) -/

/-- SIDES of a payload word names a side. -/
def namesSide (w : Word) (d : Side) : Bool := bit w d.num

/-- SIDES = 0, or a reserved bit. -/
def sidesFault (mask : Word) (p : List Word) : Option Nat :=
  if fld (wd p 0) 1 0 = 0 then some 0 else maskFault [mask] p

/-- The defined zones of a side. -/
def ownZones (s : State) (d : Side) : List Nat := sideZones (cfgOf s d) d

/-- ARM on a side. -/
def armSide (d : Side) (s : State) : State :=
  (ownZones s d).foldl (fun s z => setZone z (fun r => { r with
    state := if r.state == .disarmed then .armed else r.state }) s) s

/-- DISARM on a side. -/
def disarmSide (d : Side) (s : State) : State :=
  (keptZones s d).foldl (fun s z => setZone z (fun r => match r.state with
    | .disarmed => r
    | .armed => { r with state := .disarmed }
    | _ => { r with disarm := true }) s) s

/-- Apply to the sides a payload word names. -/
def onSides (w : Word) (f : Side → State → State) (s : State) : State :=
  bothSides (fun d s => if namesSide w d then f d s else s) s

/-- ARM. -/
def hArm : Handler :=
  { Handler.plain 0x32 1 (Handler.ok fun p s => onSides (wd p 0) armSide s) with value := fun _ p => sidesFault 3 p }
/-- ARM. -/
def execArm (o : Origin) (p : List Word) (s : State) : Out := .next (request hArm o p s)

/-- DISARM. -/
def hDisarm : Handler :=
  { Handler.plain 0x33 1 (Handler.ok fun p s => onSides (wd p 0) disarmSide s) with value := fun _ p => sidesFault 3 p }
/-- DISARM. -/
def execDisarm (o : Origin) (p : List Word) (s : State) : Out := .next (request hDisarm o p s)

/-- FORCE: the reply counts the records opened. -/
def hForce : Handler :=
  { Handler.plain 0x34 1 (fun _ p s =>
      let w := wd p 0
      let t := Trigger.own 5 (fld w 15 8) (nsOfTag (now s)) 0
      let s1 := bothSides (fun d s => if namesSide w d then sideTrigger t d trigForce s else s) s
      (okReply [BitVec.ofNat 64 (s1.girth.used - s.girth.used)], s1)) with
    value := fun _ p => sidesFault 0xFF03 p }
/-- FORCE. -/
def execForce (o : Origin) (p : List Word) (s : State) : Out := .next (request hForce o p s)

end Sys2Proof.Machine
end

