-- ==== Sys2Proof/Machine/TimeBase.lean ====
section
/-!
DEFINITION. The time counter and its discipline (chapter 13): PPS and REF10 presence, steps and steering, holdover and
ageing, and the TIME and TB commands. Corrections are in 0.001 ppb, phase errors in 2^−32 ns.
-/
namespace Sys2Proof.Machine

def setTb (f : TimeBase → TimeBase) (s : State) : State := { s with tb := f s.tb }

/-! ### TB.CTRL, TB.TRIM, TB.AGEING -/

def tbSource (s : State) : Nat := fld (rwGet s 0x6000) 1 0
def tbRefUse (s : State) : Bool := bit (rwGet s 0x6000) 2
def tbFalling (s : State) : Bool := bit (rwGet s 0x6000) 3
def tbStepNs (s : State) : Nat := fld (rwGet s 0x6000) 31 16
def tbPpsDelay (s : State) : Nat := fld (rwGet s 0x6000) 47 32
def tbTrim (s : State) : Int := sfld (rwGet s 0x6001) 31 0

/-- y stays within ±200 ppm (R270). -/
def clampY (y : Int) : Int := max (-200000000) (min 200000000 y)

/-- The counter's range in 2^−32 ns: 2^34 seconds (R23). -/
abbrev tbRange : Nat := 2 ^ 34 * 1000000000 * 2 ^ 32

/-! ### Steps (R271) -/

/-- The counter takes a value; EV_TIME_STEP when it was set already, or when the discipline steps it. -/
def stepTo (value : Nat) (byCommand : Bool) (s : State) : State :=
  let old := s.tb.now
  let size := (value - old) + (old - value)
  let log := Nat.log2 (size / 2 ^ 32)
  let event := !byCommand || s.tb.set
  let s1 := setTb (fun t => { t with
    now := value % tbRange, part := 0, set := t.set || byCommand, steps := if event then sat 16 (t.steps + 1) else t.steps }) s
  postIf event evTimeStep (b2n byCommand + 2 * b2n (decide (value < old)) + 256 * log) s1

/-! ### References in use (R273, R276) -/

/-- REF10 can be used. -/
def refGood (s : State) : Bool := s.tb.refUp && s.tb.refIn

/-- REF10 steers the frequency. -/
def refSteers (s : State) : Bool := refGood s && (tbSource s = 2 || (tbSource s = 1 && tbRefUse s))

/-- Every reference in use is present. -/
def refsPresent (s : State) : Bool :=
  s.tb.ppsUp && !(tbSource s = 1 && tbRefUse s && !refGood s)

/-- The mean error of the 100 gates of the last second; none before there are 100. -/
def refMean (s : State) : Option Int :=
  if s.tb.gates.length = 100 then some (Config.quot 275 s.tb.gates.sum 100) else none

/-- The correction is frozen while the PLL is not LOCKED (R277). -/
def setY (y : Int) (s : State) : State := if pllLocked s then setTb (fun t => { t with y := clampY y }) s else s

/-! ### States (Table 13-1) -/

/-- The discipline starts, or starts again. -/
def toAcquire (s : State) : State := setTb (fun t => { t with state := .acquire, good := 0, bad := 0 }) s

/-- y from REF10 alone. -/
def toFreq (s : State) : State := setY ((refMean s).getD s.tb.y) (setTb (fun t => { t with state := .freq }) s)

/-- The mean of y over the last 64 seconds in LOCKED or FREQ, else yI (R278). -/
def holdY (t : TimeBase) : Int := if t.past.length = 64 then Config.quot 278 t.past.sum 64 else t.yI

/-- The references in use are lost. -/
def toHoldover (s : State) : State :=
  let y0 := holdY s.tb
  post evHoldover 0 (setY y0 (setTb (fun t => { t with
    state := .holdover, y0 := y0, origin := t.mono, holdovers := sat 16 (t.holdovers + 1) }) s))

/-- AUTO falls back on REF10. -/
def fallsBack (s : State) : Bool := tbSource s = 2 && refGood s

/-- The state after a change of source or of a reference. -/
def discipline (s : State) : State :=
  if tbSource s = 0 then s else
  match s.tb.state with
  | .free => if refsPresent s then toAcquire s else if fallsBack s then toFreq s else s
  | .acquire | .locked => if refsPresent s then s else if fallsBack s then toFreq s else toHoldover s
  | .freq => if refsPresent s then toAcquire s else if fallsBack s then s else toHoldover s
  | .holdover =>
    if refsPresent s then toAcquire (post evHoldover 0x8000 s)
    else if fallsBack s then toFreq (post evHoldover 0x8000 s) else s

/-- XTAL: y is TRIM plus the ageing term, from now on (R273). -/
def toXtal (s : State) : State :=
  setY (tbTrim s) (setTb (fun t => { t with state := .free, y0 := tbTrim s, origin := t.mono }) s)

/-- TB.CTRL or TB.TRIM has been written. -/
def tbWritten (s : State) : State := if tbSource s = 0 then toXtal s else discipline s

/-! ### PPS (R274, R276) -/

/-- Two edges are 1 s ± 100 µs apart. -/
def aSecondApart (a b : Nat) : Bool := sCycles ≤ (b - a) + 40000 && b - a ≤ sCycles + 40000

/-- e: the counter less PPS_DELAY against the nearest whole second, in 2^−32 ns. -/
def phaseError (s : State) : Int :=
  let unit : Int := 1000000000 * 2 ^ 32
  let x : Int := (s.tb.now : Int) - tbPpsDelay s * 2 ^ 32
  (x + unit / 2) % unit - unit / 2

/-- The counters of Table 13-1 and the states they decide. -/
def judgeError (e : Int) (s : State) : State :=
  let ns := fun n : Nat => decide (e.natAbs ≤ n * 2 ^ 32)
  match s.tb.state with
  | .acquire =>
    let n := if ns 50 then s.tb.good + 1 else 0
    setTb (fun t => { t with good := n, state := if 8 ≤ n then .locked else .acquire, bad := 0 }) s
  | .locked =>
    let n := if ns 200 then 0 else s.tb.bad + 1
    setTb (fun t => { t with bad := n, state := if 2 ≤ n then .acquire else .locked, good := 0 }) s
  | _ => s

/-- A measured e steps the counter or corrects y (R276). -/
def steer (e : Int) (s : State) : State :=
  if tbStepNs s ≠ 0 && decide (tbStepNs s * 2 ^ 32 < e.natAbs) then
    stepTo (((s.tb.now : Int) - e) % tbRange).toNat false s
  else
    let yI := if refSteers s then s.tb.yI else s.tb.yI - Config.quot 276 (e * 1000) (256 * 2 ^ 32)
    let y := yI - Config.quot 276 (e * 1000) (16 * 2 ^ 32)
    setTb (fun t => { t with yI := yI, y := clampY (max (yI - 50000000) (min (yI + 50000000) y)) }) s

/-- e is measured at every accepted edge, unless the PLL is not LOCKED (R277); the discipline takes it in ACQUIRE and
LOCKED. -/
def takeError (s : State) : State :=
  if !pllLocked s then s else
  let e := phaseError s
  let s1 := setTb (fun t => { t with phase := Config.quot 276 e (2 ^ 32) }) s
  if s.tb.state == .acquire || s.tb.state == .locked then judgeError e (steer e s1) else s1

/-- A pending NEXT_PPS load takes the edge (R279). -/
def loadAtPps (s : State) : State :=
  match s.tb.loader with
  | some (.nextPps tag) =>
    let v := (fld tag 63 30 * 1000000000 + tbPpsDelay s) * 2 ^ 32
    finish .loader stOk [] (stepTo v true (setTb (fun t => { t with loader := none }) s))
  | _ => s

/-- An accepted edge. -/
def ppsAccepted (s : State) : State :=
  planes (fun s => takeError (discipline (loadAtPps (setTb (fun t => { t with ppsAt := some t.mono }) s)))) s

/-- An edge that is not one second after the one it is judged against. -/
def ppsRejected (s : State) : State :=
  setTb (fun t => { t with rejects := sat 16 (t.rejects + 1), ppsAt := if t.ppsUp then t.ppsAt else some t.mono }) s

/-- PPS_EDGE. -/
def execPpsEdge (falling : Bool) (s : State) : Out :=
  .next (if falling != tbFalling s then s else
    match s.tb.ppsAt with
    | none => setTb (fun t => { t with ppsAt := some t.mono }) s
    | some a =>
      if aSecondApart a s.tb.mono then
        ppsAccepted (if s.tb.ppsUp then s else post evPpsPresent 0 (setTb (fun t => { t with ppsUp := true }) s))
      else ppsRejected s)

/-- PPS_ABSENT_TIMEOUT: 1.5 s have passed without an accepted edge. -/
def execPpsAbsentTimeout (s : State) : Out :=
  .next (if s.tb.ppsUp then
    discipline (post evPpsAbsent 0 (setTb (fun t => { t with ppsUp := false, ppsAt := none }) s)) else s)

/-! ### REF10 (R275) -/

/-- REF10_PRESENT: in window until two gates say otherwise. -/
def execRef10Present (s : State) : Out :=
  .next (if s.tb.refUp then s else
    discipline (post evRefPresent 0 (setTb (fun t => { t with
      refUp := true, refIn := true, refBad := 0, refGood := 0, gates := [] }) s)))

/-- REF10_ABSENT. -/
def execRef10Absent (s : State) : Out :=
  .next (if s.tb.refUp then
    discipline (post evRefAbsent 0 (setTb (fun t => { t with refUp := false, gates := [] }) s)) else s)

/-- A gate's error counts toward leaving the window, or toward returning to it. -/
def judgeGate (error : Int) (s : State) : State :=
  let bad := if 100000000 < error.natAbs then s.tb.refBad + 1 else 0
  let good := if error.natAbs ≤ 90000000 then s.tb.refGood + 1 else 0
  let s1 := setTb (fun t => { t with refBad := min bad 2, refGood := min good 10 }) s
  let ppm := sat 15 (Config.quot 275 error.natAbs 1000000).toNat
  if s.tb.refIn && 2 ≤ bad then
    discipline (post evRefOutOfWindow ppm (setTb (fun t => { t with refIn := false, refGood := 0 }) s1))
  else if !s.tb.refIn && 10 ≤ good then
    discipline (post evRefOutOfWindow (ppm + 0x8000) (setTb (fun t => { t with refIn := true, refBad := 0 }) s1))
  else s1

/-- REF10_GATE_END: the gate's frequency error in 10^−12; ignored while the PLL is not LOCKED (R277). -/
def execRef10GateEnd (error : Int) (s : State) : Out :=
  .next (if s.tb.refUp && pllLocked s then
    judgeGate error (setTb (fun t => { t with gates := (error :: t.gates).take 100 }) s) else s)

/-! ### Whole seconds (R276, R278) -/

/-- TIME_BASE_SECOND: y from REF10 or from ageing, and the history of y; without PLL lock y stands still (R276) and its seconds
count as before (R278). -/
def execTimeBaseSecond (s : State) : Out :=
  let keep := fun s : State => if s.tb.state == .locked || s.tb.state == .freq then
    setTb (fun t => { t with past := (t.y :: t.past).take 64 }) s else s
  .next (if !pllLocked s then keep s else
    match s.tb.state with
    | .free => if tbSource s = 0 then setY (s.tb.y0 + ageingCorr s) s else s
    | .holdover => setY (s.tb.y0 + ageingCorr s) s
    | .freq => keep (setY ((refMean s).getD s.tb.y) s)
    | _ => keep (if refSteers s then setTb (fun t => { t with yI := (refMean s).getD t.yI }) s else s))

/-- AGEING_DAY: a whole day of d. -/
def execAgeingDay (s : State) : Out :=
  .next (if s.tb.state == .holdover || tbSource s = 0 then post evAgeingApplied (sat 16 (holdSeconds s / 86400)) s else s)

/-! ### TIME_SET, TIME_GET, TB_SELECT (R273, R279, R280) -/

def timeMode (p : List Word) : Nat := fld (wd p 1) 1 0

/-- LINE_SYNC_EN of CLK.SYNC_CTRL. -/
def lineSyncOn (s : State) : Bool := bit (rwGet s 0x0022) 1

/-- TIME_SET. -/
def hTimeSet : Handler :=
  { Handler.plain 0x60 2 (fun _ p s => (okReply [], stepTo (nsOfTag (wd p 0) * 2 ^ 32) true s)) with
    value := fun _ p =>
      if !tagOk (wd p 0) || (timeMode p = 1 && fld (wd p 0) 29 0 ≠ 0) then some 0
      else if !(within 3 (wd p 1) && timeMode p ≠ 3) then some 1 else none
    bad := fun s o p => held s .loader || (timeMode p = 1 && !s.tb.ppsUp) ||
      (timeMode p = 2 && (o.port == .uart || !lineSyncOn s))
    defers := fun _ p => if timeMode p = 0 then none else some .loader
    start := fun _ p s => setTb (fun t => { t with
      loader := some (if timeMode p = 1 then .nextPps (wd p 0) else .chainSync (wd p 0)) }) s }

/-- Word 1 of TIME_SET with its MODE given. -/
def withMode (m : Nat) (w : Word) : Word := (w &&& ~~~ 3) ||| BitVec.ofNat 64 m

/-- TIME_SET, MODE 0. -/
def execTimeSetImmediate (o : Origin) (tag w1 : Word) (s : State) : Out := .next (request hTimeSet o [tag, withMode 0 w1] s)
/-- TIME_SET, MODE 1. -/
def execTimeSetNextPps (o : Origin) (tag w1 : Word) (s : State) : Out := .next (request hTimeSet o [tag, withMode 1 w1] s)
/-- TIME_SET, MODE 2. -/
def execTimeSetChainSync (o : Origin) (tag w1 : Word) (s : State) : Out := .next (request hTimeSet o [tag, withMode 2 w1] s)

/-- TIME_LOAD_TIMEOUT: the pending load is given up. -/
def execTimeLoadTimeout (s : State) : Out :=
  .next (if s.tb.loader.isSome then finish .loader stConflict [] (setTb (fun t => { t with loader := none }) s) else s)

/-- TIME_GET. -/
def hTimeGet : Handler := Handler.plain 0x61 0 (fun _ _ s => (okReply [now s, tbStatus s], s))
/-- TIME_GET. -/
def execTimeGet (o : Origin) (p : List Word) (s : State) : Out := .next (request hTimeGet o p s)

/-- A volatile parameter takes a value. -/
def putRw (id : Nat) (v : Word) (s : State) : State := { s with rw := kvSet (pReset id) s.rw id v }

/-- TB_SELECT. -/
def hTbSelect : Handler :=
  { Handler.plain 0x62 1 (Handler.ok fun p s => tbWritten (putRw 0x6000 (wd p 0) s)) with
    value := fun _ p => if pOk 0x6000 (wd p 0) then none else some 0 }
/-- TB_SELECT. -/
def execTbSelect (o : Origin) (p : List Word) (s : State) : Out := .next (request hTbSelect o p s)

end Sys2Proof.Machine
end

