-- ==== Sys2Proof/Machine/Awl.lean ====
section
/-!
DEFINITION. Awl (chapter 13): edges accepted on the inputs, vernier conversions, the queues with TDC_READ, and TDC_CFG.
-/
namespace Sys2Proof.Machine

/-! ### TDC.IN_n -/

def tdcCfg (s : State) (n : Nat) : Word := rwGet s (0x6020 + n)
/-- The edge has the polarity of EDGE. -/
def edgeWanted (w : Word) (falling : Bool) : Bool := fld w 2 1 = 2 || fld w 2 1 = b2n falling
/-- The hold-off in core cycles, rounded up. -/
def holdCycles (w : Word) : Nat := cdiv (2 * fld w 31 16) 5

/-- Core cycles of the dead time: 320 ns (R282). -/
abbrev deadCycles : Nat := 128

/-- The counter's range in 1/256 ns. -/
abbrev fineRange : Nat := 2 ^ 34 * 1000000000 * 256

/-! ### Acceptance (R282) -/

/-- The input's converter is within a dead time. -/
def awlBusy (s : State) (n : Nat) : Bool :=
  (awlIn s n).conv.isSome || match (awlIn s n).lastAt with
    | some t => decide (s.tb.mono < t + deadCycles)
    | none => false

/-- The hold-off of the previous accepted edge has expired. -/
def holdOver (s : State) (n : Nat) : Bool := match (awlIn s n).lastAt with
  | some t => decide (t + holdCycles (tdcCfg s n) ≤ s.tb.mono)
  | none => true

/-- An accepted edge starts its conversion. Which half of the core cycle starts the stop ring is not the model's: the
edge half a cycle later stands 1.25 ns = 320/256 ns further on (log 40). -/
def awlAccept (n : Nat) (falling : Bool) (s : State) : State :=
  let h := b2n (Config.freeBit 281 s.drawn)
  let tc := s.tb.now / 2 ^ 24 + 320 * h
  setAwl n (fun a => { a with
    seq := a.seq + 1, lastAt := some s.tb.mono
    conv := some { falling := falling, tc := tc, half := 2 * s.tb.mono + h, unset := !s.tb.set, degraded := !pllLocked s, cfg := tdcCfg s n } })
    { s with drawn := s.drawn + 1 }

/-- An edge that meets every condition but the dead time. -/
def awlEdge (n : Nat) (falling : Bool) (s : State) : State :=
  if awlBusy s n then setAwl n (fun a => { a with deadMiss := sat 16 (a.deadMiss + 1) }) s else awlAccept n falling s

/-- TIN_EDGE; input 10 is LOOPBACK, on which Strop's generator alone makes edges (Table 13-2, R286). -/
def execTinEdge (n : Nat) (falling : Bool) (s : State) : Out :=
  let w := tdcCfg s n
  .next (if n = 10 then awlEdge n falling s
  else if n < 8 && bit w 0 && edgeWanted w falling && holdOver s n then
    if awlBusy s n then awlEdge n falling s else auxTinEdge n (awlEdge n falling s)
  else s)

/-! ### Conversions (R281, R283) -/

/-- ΔTcal of the pair in service, in fs. -/
def AwlInput.delta (a : AwlInput) : Nat := if a.pair then a.dt1 else a.dt0

/-- How long before the stop ring the edge came, in 1/256 ns: round(256 · n · ΔTcal). -/
def edgeBack (a : AwlInput) (count : Nat) : Nat := nearest 281 (256 * count * a.delta) 1000000

/-- The time of an edge in 1/256 ns. -/
def edgeTime (a : AwlInput) (c : Conversion) (count : Nat) : Nat :=
  (c.tc + fineRange - edgeBack a count) % fineRange

/-- t0 and μ of an edge so many 1/256 ns after a main sample: 1.2 samples a ns (R169). -/
def alignment (x : Nat) : Nat × Nat :=
  let m := nearest 169 (6 * x % 1280) 5
  if m = 256 then (6 * x / 1280 + 1, 0) else (6 * x / 1280, m)

/-- Awl delivers a launch edge to the shot that it began: the last one commanded, within 200 ns (R119). A core cycle is 640 of
1/256 ns. -/
def Lash.align (l : Lash) (at' : Nat) (tag : Word) : Lash :=
  match l.shots.getLast? with
  | some x =>
    if x.align.isNone && 640 * x.cycle ≤ at' && at' ≤ 640 * x.cycle + 51200 then
      { l with shots := l.shots.dropLast ++ [{ x with align := some (alignment (at' - 640 * x.cycle)), edge := some tag }] }
    else l
  | none => l

/-- The entry of a converted edge (Table 13-3). -/
def tdcEntry (a : AwlInput) (c : Conversion) (count : Nat) : TdcEntry :=
  let t := edgeTime a c count
  { tag := tagOfNs (t / 256), frac := BitVec.ofNat 8 t, falling := c.falling, unset := c.unset, degraded := c.degraded,
    seq := a.seq }

/-- A queue of 512 entries takes one, or overflows (R283). -/
def queueEdge (n : Nat) (e : TdcEntry) (event : Bool) (s : State) : State :=
  let a := awlIn s n
  if 512 ≤ a.queue.length then
    postIf (!a.ovfUp) evTdcQueueOvf n (setAwl n (fun a => { a with ovf := sat 16 (a.ovf + 1), ovfUp := true }) s)
  else postIf (event && a.queue = []) evTdcEdge n (setAwl n (fun a => { a with queue := a.queue ++ [e] }) s)

/-- AWL_CONVERSION_DONE: the edge goes to the queue where QUEUE asks for it, a TIN edge to Girth (R249), and a launch edge to
the Currier array (R169). -/
def execAwlConversionDone (n count : Nat) (s : State) : Out :=
  let a := awlIn s n
  .next (match a.conv with
    | some c =>
      if 320 < count then s else
      let e := tdcEntry a c count
      let s1 := setAwl n (fun a => { a with conv := none }) s
      let s2 := if bit c.cfg 5 then queueEdge n e (bit c.cfg 6) s1 else s1
      if n < 8 then sourceTrigger (Trigger.own 3 n (nsOfTag e.tag) e.frac.toNat) (fun c z => trigTin c z n) s2
      else if n < 10 then setLash (if n = 8 then .a else .b) (fun l => l.align (320 * c.half - edgeBack a count) e.tag) s2
      else s2
    | none => s)

/-- ΔTcal lies within the limits of service (R286). -/
def deltaOk (d : Nat) : Bool := rng d 3500 4300

/-- The pair out of service has been calibrated; outside the limits it is not put into service (R286). -/
def AwlInput.ring (a : AwlInput) (x : Nat) : AwlInput :=
  if !deltaOk x then { a with takeover := false }
  else if a.pair then { a with was := a.dt0, dt0 := x, takeover := true } else { a with was := a.dt1, dt1 := x, takeover := true }

/-- A round under way is abandoned: a spare that waits to take over keeps its previous trims (R366). -/
def AwlInput.abandon (a : AwlInput) : AwlInput :=
  let b := if !a.takeover then a else if a.pair then { a with dt0 := a.was } else { a with dt1 := a.was }
  { b with takeover := false, second := none }

/-- A round calibrates the spare pair, and the pair in service once the spare has taken over; a spare that may not leaves the
other converting (log 38). -/
def AwlInput.round (a : AwlInput) (x : Nat × Nat) : AwlInput :=
  { a.ring x.1 with second := if deltaOk x.1 then some x.2 else none }

/-- The calibrated pair takes over, and the one that it replaces is calibrated. -/
def AwlInput.swap (a : AwlInput) : AwlInput :=
  let b := { a with pair := !a.pair, takeover := false, second := none }
  match a.second with | some x => b.ring x | none => b

/-! ### TDC_READ, TDC_CFG (R284, R285) -/

/-- The two words of an entry. -/
def TdcEntry.words (e : TdcEntry) : List Word :=
  [e.tag, Machine.mk [(0, 8, e.frac.toNat), (8, 1, b2n e.falling), (9, 1, b2n e.unset), (10, 1, b2n e.degraded),
    (32, 32, e.seq.toNat)]]

/-- TDC_READ. -/
def hTdcRead : Handler :=
  { Handler.plain 0x64 1 (fun _ p s =>
      let w := wd p 0
      let n := fld w 3 0
      let a := awlIn s n
      let k := min (fld w 11 8) a.queue.length
      let flush := bit w 16
      (okReply (mk [(0, 16, k), (16, 16, a.queue.length - k), (32, 16, a.ovf), (48, 16, a.deadMiss)] ::
          (a.queue.take k).flatMap TdcEntry.words),
        setAwl n (fun a =>
          let left := if flush then [] else a.queue.drop k
          { a with queue := left, ovf := if flush then 0 else a.ovf, deadMiss := if flush then 0 else a.deadMiss,
                   ovfUp := a.ovfUp && left ≠ [] }) s)) with
    bcast := .no
    value := fun _ p => if within 0x10F0F (wd p 0) && fld (wd p 0) 3 0 ≤ 10 then none else some 0 }
/-- TDC_READ. -/
def execTdcRead (o : Origin) (p : List Word) (s : State) : Out := .next (request hTdcRead o p s)

/-- TDC_CFG. -/
def hTdcCfg : Handler :=
  { Handler.plain 0x63 2 (Handler.ok fun p s => putRw (0x6020 + fld (wd p 0) 3 0) (wd p 1) s) with
    value := fun _ p =>
      if !(within 0xF (wd p 0) && fld (wd p 0) 3 0 ≤ 10) then some 0
      else if pOk (0x6020 + fld (wd p 0) 3 0) (wd p 1) then none else some 1 }
/-- TDC_CFG. -/
def execTdcCfg (o : Origin) (p : List Word) (s : State) : Out := .next (request hTdcCfg o p s)

end Sys2Proof.Machine
end

