-- ==== Sys2Proof/Machine/Thermal.lean ====
section
/-!
DEFINITION. The thermal path (chapter 11): Raman shots and accumulation in the shared thermal SRAM, parking, the
temperature computation with its channel table, histograms, persistence and alarms, and DTS_REF_SET.
-/
namespace Sys2Proof.Machine

/-! ### The shared thermal SRAM (Table 11-3) -/

/-- Its base in the host map (Table 01-10). -/
abbrev thermalBase : Nat := 0x1100000000

/-- Sums of a lane (0 AS, 1 ST), channel table, persistence map, histogram of a zone, exclusion map of a lane. -/
def sumsAt (d : Side) (lane : Nat) : Nat := thermalBase + (2 * d.num + lane) * 0x80000
def tableAt (d : Side) : Nat := thermalBase + 0x200000 + d.num * 0x80000
def persistAt (d : Side) : Nat := thermalBase + 0x300000 + d.num * 0x20000
def histAt (z : Nat) : Nat := thermalBase + 0x340000 + z * 0x400
def mapAt (d : Side) (lane : Nat) : Nat := thermalBase + 0x3C0000 + (2 * d.num + lane) * 0x4000

/-- A 32-bit word of memory, and one written. -/
def mem32 (m : List Host.Cell) (a : Nat) : Nat :=
  ((List.range 4).map fun i => (memGet m (a + i)).toNat * 256 ^ i).sum
def setMem32 (m : List Host.Cell) (a v : Nat) : List Host.Cell :=
  memPut m a ((List.range 4).map fun i => BitVec.ofNat 8 (v / 256 ^ i))

/-- Copy n bytes. -/
def memMove (m : List Host.Cell) (src dst n : Nat) : List Host.Cell :=
  (m.filter fun c => src ≤ c.1 && c.1 < src + n).foldl (fun a c => memSet a (c.1 - src + dst) c.2) (memClear m dst n)

/-- A sum, signed, and an exclusion mark. -/
def sumOf (m : List Host.Cell) (d : Side) (lane i : Nat) : Int := (BitVec.ofNat 32 (mem32 m (sumsAt d lane + 4 * i))).toInt
def marked (m : List Host.Cell) (d : Side) (lane i : Nat) : Bool :=
  (memGet m (mapAt d lane + i / 8)).toNat.testBit (i % 8)
def setMark (m : List Host.Cell) (d : Side) (lane i : Nat) : List Host.Cell :=
  memSet m (mapAt d lane + i / 8) (memGet m (mapAt d lane + i / 8) ||| (1 <<< (i % 8)))

/-- The accumulators of a side at zero. -/
def clearSums (d : Side) (s : State) : State :=
  setBytes (fun m => memClear (memClear (memClear m (sumsAt d 0) 0x100000) (mapAt d 0) 0x4000) (mapAt d 1) 0x4000) s

/-! ### Accumulations (R220 to R223, R237) -/

/-- The present accumulation of a side is discarded. One that has completed is none any more: its sums stay until its
channels are computed. -/
def discardPresent (d : Side) (s : State) : State :=
  let s1 := setTherm d (fun t => { t with
    shots := 0, first := 0, last := 0, satUp := false
    discarded := if t.shots ≠ 0 then sat 32 (t.discarded + 1) else t.discarded }) s
  if (s.therm.get d).computing then s1 else clearSums d s1

/-- A parked accumulation is discarded. -/
def discardParked (d : Side) (r : Nat) (s : State) : State :=
  setTherm d (fun t => { t with
    parked := t.parked.filter (·.route ≠ r)
    discarded := if t.parked.any (·.route = r) then sat 32 (t.discarded + 1) else t.discarded }) s

/-- The accumulation of a route, wherever it is, is discarded. -/
def discardRoute (d : Side) (r : Nat) (s : State) : State :=
  discardParked d r (if (s.therm.get d).route = r then discardPresent d s else s)

/-- Every accumulation of a side is discarded (Table 11-1). -/
def discardSide (d : Side) (s : State) : State :=
  (sideRoutes d).foldl (fun s r => discardParked d r s) (discardPresent d s)

/-- Add one code to a sum: it holds at its limit, where its position is marked (R221). -/
def addCode (d : Side) (lane i : Nat) (code : Int) (oor : Bool) (x : List Host.Cell × Bool) : List Host.Cell × Bool :=
  let v := sumOf x.1 d lane i + code
  let lim := max (-(2 ^ 31 : Int)) (min (2 ^ 31 - 1) v)
  let full := decide (v ≠ lim)
  let m := setMem32 x.1 (sumsAt d lane + 4 * i) (sbits 32 lim)
  (if oor || full then setMark m d lane i else m, x.2 || full)

/-- A code after INVERT; −32768 has no stated negative (R165). -/
def ramanCode (invert : Bool) (c : Int) : Int :=
  if !invert then c else if c = -32768 then (BitVec.ofInt 16 (Config.unstated 165 [c])).toInt else -c

/-- The hide words of a Raman trace (Table 08-4): codes after INVERT, OVERRANGE held for two samples more (Table 08-2), and
SETTLE. The first two samples given come before the trace: they are no part of it, but their over-range may reach into it. -/
def ramanWords (c : Cfg) (d : Side) (settle : Bool) (trace : List RamanSample) : List Word :=
  let inv := fun k => bit (sideGet c d 0x5060) k
  let a := (trace.map (·.anti)).toArray
  let b := (trace.map (·.stokes)).toArray
  (trace.zipIdx.drop 2).map fun x =>
    mk [(0, 16, sbits 16 (ramanCode (inv 0) x.1.anti.code)), (16, 1, b2n (overAt 2 a x.2)), (17, 1, b2n settle),
      (32, 16, sbits 16 (ramanCode (inv 1) x.1.stokes.code)), (48, 1, b2n (overAt 2 b x.2)), (49, 1, b2n settle)]

/-- One lane of a trace is added: memory, and whether a sum saturated. -/
def addLane (d : Side) (lane : Nat) (trace : List Word) (m : List Host.Cell) : List Host.Cell × Bool :=
  trace.zipIdx.foldl (fun x w =>
    let o := 32 * lane
    addCode d lane w.2 (sfld w.1 (o + 15) o) (bit w.1 (o + 16)) x) (m, false)

/-- A lane over-ranged in the trace from a sample on. -/
def laneRanged (trace : List Word) (lane start : Nat) : Bool := (trace.drop start).any fun w => bit w (32 * lane + 16)

/-- EV_DTS_OVERRANGE and its re-arming (R166); of BLANK / 8 samples the whole ones count, and they
count from trace sample 0 (DESIGN CHOICE, log 105). -/
def ramanRange (d : Side) (trace : List Word) (lane : Nat) (s : State) : State :=
  let i := 2 * d.num + lane
  let blank := fld (rwGet s 0x5020) 47 32 / 8
  let up := s.recv.ramanUp.getLsbD i
  let now := laneRanged trace lane blank
  let any := laneRanged trace lane 0
  postIf (now && !up) evDtsOverrange (d.num + 2 * lane)
    { s with recv := { s.recv with ramanUp :=
        if now then s.recv.ramanUp ||| (1 <<< i) else if any then s.recv.ramanUp
        else s.recv.ramanUp &&& ~~~ ((1 : BitVec 4) <<< i) } }

/-- Entries that are not skipped and whose route is not blocked. -/
def openScan (s : State) (d : Side) : List (Nat × Word) :=
  (activeScan (cfgOf s d) d).filter fun e => !(s.lash.get d).blocked.getLsbD (fld e.2 1 0)

/-- The first open entry from a number on, else the first of all. -/
def entryFrom (s : State) (d : Side) (n : Nat) : Option (Nat × Word) :=
  ((openScan s d).find? fun e => n ≤ e.1) <|> (openScan s d).head?

/-- Shot groups from the last boundary to step 1 of the next route switch: the rest of the dwell, and the dwells of the
entries after it on the same route (R134); none where no entry leaves the route. -/
def groupsLeft (s : State) (d : Side) : Option Nat :=
  let l := s.lash.get d
  let es := openScan s d
  let next := es.filter (l.entry < ·.1) ++ es.filter (·.1 ≤ l.entry)
  let stays := fun (e : Nat × Word) => entryRoute d e.2 == presentRoute s d
  if next.all stays then none else some (l.dwellLeft + ((next.takeWhile stays).map fun e => fld e.2 31 16).sum)

/-- A trace that begins now ends before blanking may begin (R144): its first sample comes 100 ns after the trigger, a
Raman sample lasts eight main samples. -/
def traceFits (s : State) (d : Side) : Bool :=
  let c := cfgOf s d
  match groupsLeft s d with
  | none => true
  | some n => 3 * (s.tb.mono - (s.lash.get d).groupAt) + 120 + 8 * thTrace c d ≤
      n * window c d + (groupCount c d - 1) * window c d / groupCount c d

/-- The side's table holds an entry; without one it emits nothing (R132). -/
def scans (s : State) (d : Side) : Bool := !(activeScan (cfgOf s d) d).isEmpty

/-- The Raman shot clock may fire (R144, R219). -/
def ramanReady (s : State) (d : Side) : Bool :=
  let t := s.therm.get d
  let l := s.lash.get d
  acquiring s d && !(s.girth.side d).stopping && scans s d && thEnable (cfgOf s d) d && t.running && !t.computing && !t.transfer &&
    l.enabled && s.pwr.laserEn && l.seq == .none && traceFits s d

/-- A Raman shot: DTS_TRIG rises (R144), and its trace is added (R220, R221). -/
def addTrace (d : Side) (tr : List Word) (s : State) : State :=
  let t := s.therm.get d
  if tr.any (fun w => bit w 17 || bit w 49) || thShots (cfgOf s d) d ≤ t.shots then s else
  let a := addLane d 0 tr s.mem.bytes
  let b := addLane d 1 tr a.1
  let s1 := setTherm d (fun t => { t with
    shots := t.shots + 1, first := if t.shots = 0 then now s else t.first, last := now s
    satUp := t.satUp || a.2 || b.2, held := s.cal.held.getLsbD (d.num + 2) }) (setBytes (fun _ => b.1) s)
  postIf (!t.satUp && (a.2 || b.2)) evDtsSaturation (d.num + if a.2 then 0 else 2) s1

/-- RAMAN_SHOT: the two samples before the trace and the trace, codes as converted. While Strop has the lanes the clock goes
on (R19) and nothing is added (R362; log 107). -/
def execRamanShot (d : Side) (trace : List RamanSample) (s : State) : Out :=
  let c := cfgOf s d
  if !ramanReady s d then .next s else
  let tr := ramanWords c d ((s.lash.get d).settleLeft ≠ 0) (trace.take (thTrace c d + 2))
  let s1 := setLash d (fun l => { l with trigEnd := 10 * s.tb.mono + 4 * fld (sideGet c d 0x400A) 9 0 }) s
  .next (if s.cal.raman.getLsbD d.num then s1 else addTrace d tr (ramanRange d tr 1 (ramanRange d tr 0 s1)))

/-! ### Parking (R223, Table 16-3) -/

/-- The parking area of a route. -/
def parkAt (r : Nat) : Nat := 0x01000000 + r * 0x200000

/-- The sums, maps and shot count of the present accumulation go to their parking area. -/
def park (d : Side) (s : State) : State :=
  let t := s.therm.get d
  if t.shots = 0 then setTherm d (fun t => { t with transfer := false }) s else
  let a := parkAt t.route
  let s1 := dramBytes (fun m =>
    memPutWords (memMove (memMove (memMove m (sumsAt d 0) a 0x100000) (mapAt d 0) (a + 0x100000) 0x4000)
      (mapAt d 1) (a + 0x104000) 0x4000) (a + 0x108000) [BitVec.ofNat 64 t.shots]) s
  clearSums d (setTherm d (fun t => { t with
    parked := { route := t.route, shots := t.shots, first := t.first, last := t.last, satUp := t.satUp } ::
      t.parked.filter (·.route ≠ t.route)
    shots := 0, first := 0, last := 0, satUp := false, transfer := false }) s1)

/-- The parked accumulation of a route returns. -/
def unpark (d : Side) (p : Parked) (s : State) : State :=
  let a := parkAt p.route
  let s1 := dramBytes (fun m => memMove (memMove (memMove m a (sumsAt d 0) 0x100000) (a + 0x100000) (mapAt d 0) 0x4000)
      (a + 0x104000) (mapAt d 1) 0x4000) s
  setTherm d (fun t => { t with
    route := p.route, shots := p.shots, first := p.first, last := p.last, satUp := p.satUp, transfer := false
    parked := t.parked.filter (·.route ≠ p.route) }) s1

/-- Step 1 of Table 07-9: the clock stops; an accumulation in progress is to be parked. -/
def thermalLeave (d : Side) (s : State) : State :=
  setTherm d (fun t => { t with running := false, transfer := t.shots ≠ 0 && t.shots < thShots (cfgOf s d) d }) s

/-- A route is entered: its parked accumulation is read back, or the accumulators start from zero. A computation still
running keeps them until it releases them. -/
def thermalEnter (d : Side) (r : Nat) (s : State) : State :=
  let t := s.therm.get d
  if t.computing then s
  else if t.parked.any (·.route = r) then setTherm d (fun t => { t with route := r, transfer := true }) s
  else clearSums d (setTherm d (fun t => { t with route := r, shots := 0, first := 0, last := 0, satUp := false }) s)

/-- The Raman shot clock starts where nothing keeps it (R219). -/
def ramanStart (d : Side) (s : State) : State :=
  let l := s.lash.get d
  let t := s.therm.get d
  if acquiring s d && !(s.girth.side d).stopping && scans s d && thEnable (cfgOf s d) d && l.seq == .none && l.settleLeft = 0 &&
      !t.transfer && !t.computing then
    setTherm d (fun t => { t with running := true }) s
  else s

/-- The read-back of a parked accumulation meets an uncorrectable word, or none; every word in error is counted (R342). Whether
others were corrected, and by which port it was read, is open (log 94). -/
def parkingRead (r : Nat) (bad : Bool) (s : State) : State :=
  let acc := if !s.mem.ecc then .ok else if bad then .ecc else if Config.freeBit 342 (s.drawn + 1) then .corrected else .ok
  blockRead (Config.free 342 s.drawn % 4) acc (parkAt r) 0x21001 { s with drawn := s.drawn + 2 }

/-- THERMAL_PARKING_DONE: the transfer into the parking area, or the read-back, is complete; a read-back with an
uncorrectable word discards the accumulation (Table 16-5). -/
def execThermalParkingDone (d : Side) (eccBad : Bool) (s : State) : Out :=
  let t := s.therm.get d
  .next (if !t.transfer then s
  else if (s.lash.get d).seq == .draining then park d s
  else match t.parked.find? (·.route = t.route) with
    | some p =>
      let s1 := parkingRead p.route eccBad s
      if eccBad && s.mem.ecc then
        ramanStart d (clearSums d (setTherm d (fun t => { t with transfer := false, shots := 0 }) (discardParked d p.route s1)))
      else ramanStart d (unpark d p s1)
    | none => ramanStart d (setTherm d (fun t => { t with transfer := false }) s))

/-! ### Completion and computation (R224 to R232) -/

/-- The age of the reference exceeds DTS.REF_MAXAGE (R230). -/
def refStale (s : State) (d : Side) : Bool :=
  decide (fld (rwGet s (sid d 0xA005)) 11 0 < refAge s d) && (s.therm.get d).tref ≠ 0

/-- Positions of a trace by a predicate on three times N times their distance in mm over c: (m − ZERO) · c. -/
def positions (c : Cfg) (d : Side) (p : Int → Bool) : List Nat :=
  (List.range (thTrace c d)).filter fun i => thZero c d ≤ i && p (((i : Int) - thZero c d) * cLight)

/-- Neither lane's map marks a position. -/
def clearPos (m : List Host.Cell) (d : Side) (i : Nat) : Bool := !marked m d 0 i && !marked m d 1 i

/-- The background positions, the reference positions, and the positions of a cell that are not reference positions. -/
def bgPositions (c : Cfg) (d : Side) (r : Nat) : List Nat :=
  let far : Int := 3000 * routeIndex c r * routeLen c r
  positions c d fun x => decide (far < x ∧ x ≤ far + cdiv (routeGuard c r) 8 * cLight)
def refPosition (c : Cfg) (r : Nat) (x : Int) : Bool :=
  decide (3000 * routeIndex c r * refStart c r ≤ x ∧ x < 3000 * routeIndex c r * (refStart c r + refLen c r))
def cellPositions (c : Cfg) (d : Side) (r lo hi : Nat) : List Nat :=
  positions c d fun x => decide (3 * routeIndex c r * lo ≤ x ∧ x < 3 * routeIndex c r * hi) && !refPosition c r x

/-- What a completion computes with: the mean background sums, and the reference ratio if it stands. -/
structure Basis where
  bgAs  : Rat
  bgSt  : Rat
  bgOff : Bool
  ratio : Option Rat

/-- A net sum over positions. -/
def netSum (m : List Host.Cell) (d : Side) (lane : Nat) (bg : Rat) (ps : List Nat) : Rat :=
  (ps.map fun i => (sumOf m d lane i : Rat) - bg).sum

/-- R225 and R226. -/
def basisOf (m : List Host.Cell) (c : Cfg) (d : Side) (r : Nat) : Basis :=
  let bg := (bgPositions c d r).filter (clearPos m d)
  let off := decide (bg.length < 16)
  let mean := fun lane => if off then 0 else ((bg.map fun i => (sumOf m d lane i : Rat)).sum) / bg.length
  let rf := (positions c d (refPosition c r)).filter (clearPos m d)
  let sa := netSum m d 0 (mean 0) rf
  let st := netSum m d 1 (mean 1) rf
  { bgAs := mean 0, bgSt := mean 1, bgOff := off
    ratio := if 16 ≤ rf.length ∧ 0 < sa ∧ 0 < st then some (sa / st) else none }

/-- 1 / T of R227 in 1/K: Tref in 0.001 K, the ratio of ratios, DIFF_LOSS, GAMMA, and z − zref in mm. -/
def inverseKelvin (tref : Nat) (q : Rat) (loss : Int) (gamma : Nat) (z : Rat) : Rat :=
  let u : Rat := (lnQ q.num.toNat q.den : Rat) / 2 ^ 40 + loss * (ln10 : Rat) / 2 ^ 60 * z / 10 ^ 10
  1000 / tref - u * 100 / gamma

/-- The temperature of a channel, where nothing voids it, in 0.01 K (R227); beyond 655.35 K there is none (R228). -/
def channelKelvin (m : List Host.Cell) (c : Cfg) (d : Side) (r : Nat) (b : Basis) (tref lo hi : Nat) : Option Int :=
  let ps := (cellPositions c d r lo hi).filter (clearPos m d)
  let sa := netSum m d 0 b.bgAs ps
  let st := netSum m d 1 b.bgSt ps
  let co := sideGet c d 0xA004
  match b.ratio with
  | none => none
  | some q =>
    if ps = [] ∨ sa ≤ 0 ∨ st ≤ 0 ∨ tref = 0 then none else
    let z : Rat := ((lo + hi : Nat) : Rat) / 2 - 1000 * (refStart c r + (refLen c r : Rat) / 2)
    let inv := inverseKelvin tref (sa / (st * q)) (sfld co 31 16) (fld co 15 0) z
    if 20 ≤ 13107 * inv then some (Config.ratQ 227 (100 / inv)) else none

/-- Side ordinal of the first thermal channel of a zone (R231). -/
def firstOrdinal (c : Cfg) (d : Side) (z : Nat) : Nat := (((thSide c d).filter (· < z)).map (thChans c)).sum

/-- A channel's value and code (R228). -/
def thermalSample (m : List Host.Cell) (d : Side) (ord : Nat) (held stale : Bool) (t : Option Int) : Nat × Nat :=
  if held then (mem32 m (tableAt d + 4 * ord) % 65536, 3)
  else match t with
    | some x => (x.toNat, if stale then 3 else 0)
    | none => (0, if stale then 3 else 2)

/-- The channels of every thermal zone of the route that an accumulation leaves (R226 to R228); a route the side no longer
scans has none (R231). -/
def formChannels (d : Side) (held stale : Bool) (s : State) : List (Nat × List (Nat × Nat)) :=
  let c := cfgOf s d
  let m := s.mem.bytes
  let r := (s.therm.get d).route
  let b := basisOf m c d r
  let sp := fld (sideGet c d 0xA003) 15 0
  ((thZones c r).filter (· ∈ thSide c d)).map fun z => (z, (List.range (thChans c z)).map fun i =>
    let lo := zoneStart c z + i * sp
    thermalSample m d (firstOrdinal c d z + i) held stale (channelKelvin m c d r b (s.therm.get d).tref lo (lo + sp)))

/-- ACCUMULATION_COMPLETE: the clock pauses; Tref and its age are latched (R229), with what else the completion rests on. -/
def execAccumulationComplete (d : Side) (s : State) : Out :=
  let t := s.therm.get d
  let stale := refStale s d
  .next (if thShots (cfgOf s d) d ≤ t.shots && !t.computing then
    postIf (stale && !t.staleUp) evDtsRefStale d.num (post evDtsAccumDone t.route (setTherm d (fun t => { t with
      running := false, transfer := false, shots := 0, first := 0, last := 0, satUp := false
      staleUp := t.staleUp || stale, completed := (t.completed + 1) % 2 ^ 32
      comp := some { route := t.route, first := t.first, last := t.last, done := now s, tref := t.tref, age := refAge s d
                     cfg := cfgOf s d, held := t.held, stale := stale, chans := formChannels d t.held stale s, gone := [] } }) s))
  else s)

/-! ### Histograms, persistence, alarms (R234 to R236) -/

/-- The bin of a temperature in 0.01 K. -/
def histBin (c : Cfg) (d : Side) (t : Nat) : Nat :=
  let w := fld (sideGet c d 0xA006) 15 0
  let b0 := fld (sideGet c d 0xA006) 31 16
  if t < b0 then 0 else if b0 + 254 * w ≤ t then 255 else 1 + (t - b0) / w

def histAdd (c : Cfg) (d : Side) (z t : Nat) (m : List Host.Cell) : List Host.Cell :=
  let a := histAt z + 4 * histBin c d t
  setMem32 m a (sat 32 (mem32 m a + 1))

/-- Is a value in alarm condition (R235)? `old`: the channel's last good value with its time tag; the time between is taken
without its sign (DEDUCED, log 119). -/
def alarmAt (c : Cfg) (d : Side) (t ns : Nat) (old : Option LastTemp) : Bool :=
  let w := sideGet c d 0xA007
  let hi := fld w 15 0
  let lo := fld w 31 16
  let rate := fld w 47 32
  (hi ≠ 0 && decide (hi < t)) || (lo ≠ 0 && decide (t < lo)) ||
    (rate ≠ 0 && match old with
      | some p => decide (rate * ((ns : Int) - nsOfTag p.tag).natAbs < ((t : Int) - p.t16).natAbs * 60000000000)
      | none => false)

/-- Side ordinal of channel i of a zone now; none where a commit has changed the zone's channels since the completion, which
then has no part in what is kept of the new ones (R236; log 108). -/
def ordinalNow (s : State) (d : Side) (gone : List Nat) (z i : Nat) : Option Nat :=
  let k := firstOrdinal (cfgOf s d) d z + i
  if gone.contains z || decide (0x20000 ≤ k) then none else some k

/-- What is kept of one channel: its table entry, persistence and last good value. -/
def keepChannel (c : Cfg) (d : Side) (z ord : Nat) (tag : Word) (x : Nat × Nat) (s : State) : State :=
  let r := zoneRoute c z
  let s1 := setBytes (fun m => setMem32 m (tableAt d + 4 * ord) (x.1 + 65536 * x.2)) s
  if x.2 ≠ 0 then s1 else
  let t := s.therm.get d
  let old := t.prev.find? fun p => p.ord = ord && p.route = r
  let a := persistAt d + ord
  let n := (memGet s.mem.bytes a).toNat
  let n' := if alarmAt c d x.1 (nsOfTag tag) old then min 255 (n + 1) else 0
  setTherm d (fun t => { t with
      prev := { ord := ord, route := r, t16 := x.1, tag := tag } :: t.prev.filter fun p => p.ord ≠ ord || p.route ≠ r })
    (setBytes (fun m => memSet m a (BitVec.ofNat 8 n')) s1)

/-- One channel of a completion: what is kept of it, its histogram and its part of the digest. -/
def thermalChannel (c : Cfg) (d : Side) (z : Nat) (ord : Option Nat) (tag : Word) (x : Nat × Nat) (s : State) : State :=
  let s1 := match ord with | some k => keepChannel c d z k tag x s | none => s
  if x.2 ≠ 0 then s1 else
  setDigZone (digKey d z) (fun l => upd (upd l 5 (max · x.1)) 6 fun y => if y = 0 then x.1 else min y x.1)
    (setBytes (histAdd c d z x.1) s1)

/-- The zone's alarm after a completion, with the THERMAL trigger at its onset. -/
def zoneAlarm (c : Cfg) (d : Side) (z : Nat) (tag : Word) (s : State) : State :=
  let a := persistAt d + firstOrdinal (cfgOf s d) d z
  let p := fld (sideGet c d 0xA007) 55 48
  let now := (List.range (thChans c z)).any fun i => p ≤ (memGet s.mem.bytes (a + i)).toNat
  let up := (s.therm.get d).alarms.contains z
  if now && !up then
    sideTrigger (Trigger.own 1 0 (nsOfTag tag) 0) d (fun c y => trigThermal c y && y = z)
      (post evThermalAlarm z (setTherm d (fun t => { t with alarms := z :: t.alarms }) s))
  else if !now && up then
    post evThermalAlarm (z + 0x8000) (setTherm d (fun t => { t with alarms := t.alarms.filter (· ≠ z) }) s)
  else s

/-- THERMAL frames of a zone: values and codes of its channels (R232). -/
def thermalFrames (c : Cfg) (z : Nat) (tag : Word) (chans : List (Nat × Nat)) : List Frame :=
  (splitFrames chans.length 1792).map fun x =>
    let l := (chans.drop x.1).take x.2
    zoneFrame 2 z (zoneRoute c z) x.1 x.2 tag (packed 16 (l.map (·.1)) ++ packed 2 (l.map (·.2)))

/-- The HISTOGRAM frame of a zone; it is cleared as it is sent. -/
def sendHistogram (c : Cfg) (z : Nat) (tag : Word) (s : State) : State :=
  let l := (List.range 256).map fun i => mem32 s.mem.bytes (histAt z + 4 * i)
  setBytes (fun m => memClear m (histAt z) 0x400) (enqueue (zoneFrame 7 z (zoneRoute c z) 0 256 tag (packed 32 l)) s)

/-- One zone of a completion. -/
def thermalZone (d : Side) (x : Completion) (tag : Word) (z : Nat) (chans : List (Nat × Nat)) (s : State) : State :=
  let c := x.cfg
  let s1 := chans.zipIdx.foldl (fun s y => thermalChannel c d z (ordinalNow s d x.gone z y.2) tag y.1 s) s
  let s2 := if x.gone.contains z then s1 else zoneAlarm c d z tag s1
  if thStream c d then enqueueAll (thermalFrames c z tag chans) s2 else s2

/-- Histograms leave after every EVERY completions of the route, with the completion's time tag (Table 15-6). -/
def histograms (c : Cfg) (d : Side) (r : Nat) (tag : Word) (s : State) : State :=
  let every := fld (sideGet c d 0xA006) 47 32
  let n := kvGet 0 (s.therm.get d).histDone r + 1
  let due := every ≠ 0 && every ≤ n
  let s1 := setTherm d (fun t => { t with histDone := kvSet 0 t.histDone r (if due then 0 else n) }) s
  if due && thStream c d then (thZones c r).foldl (fun s z => sendHistogram c z tag s) s1 else s1

/-- The time tag of an accumulation: the midpoint of its first and last triggers (R220). -/
def accumTag (x : Completion) : Word :=
  tagOfNs (Config.quot 220 (nsOfTag x.first + nsOfTag x.last : Nat) 2).toNat

/-- Channels, alarms, histograms and frames of a completion are formed, under the configuration it completed in (R14). -/
def computeThermal (d : Side) (x : Completion) (s : State) : State :=
  let b := basisOf s.mem.bytes x.cfg d x.route
  let tag := accumTag x
  let s1 := setTherm d (fun t => { t with bgOff := b.bgOff, refOff := b.ratio.isNone }) s
  histograms x.cfg d x.route x.done (x.chans.foldl (fun s y => thermalZone d x tag y.1 y.2 s) s1)

/-- THERMAL_COMPUTATION_DONE: the channels are formed, and the accumulators released: the clock restarts. -/
def execThermalComputationDone (d : Side) (s : State) : Out :=
  .next (match (s.therm.get d).comp with
    | none => s
    | some x =>
      let s1 := clearSums d (setTherm d (fun t => { t with comp := none }) (computeThermal d x s))
      ramanStart d (if presentRoute s1 d = (s1.therm.get d).route then s1 else thermalEnter d (presentRoute s1 d) s1))

/-! ### Commits (Table 11-1, R236) -/

/-- A commit that changes ENABLE stops the Raman shot clock, or starts it where the side is on a route (R219). -/
def clockCommit (d : Side) (old new : Cfg) (s : State) : State :=
  if thEnable old d = thEnable new d then s
  else ramanStart d (setTherm d (fun t => { t with running := false }) s)

/-- What a commit's change means for the thermal path of a side: the accumulations discarded and the counts cleared.
`all`: the commit restarts every zone of the side. What is kept by side ordinal goes with its channel; of a channel that is
not any more, or not yet, nothing is kept. A route that leaves the scan takes its accumulation with it, parked or about to be
(Table 11-1). -/
def thermalCommit (d : Side) (all : Bool) (old new : Cfg) (s : State) : State :=
  let differs := fun id => sideGet old d id ≠ sideGet new d id
  let s1 := if all || bit (sideGet old d 0xA000) 0 ≠ bit (sideGet new d 0xA000) 0 || differs 0xA001 || differs 0xA002 then
      discardSide d s
    else (sideRoutes d).foldl (fun s r =>
      let shape := fun c => [routeIndex c r, routeLen c r, routeGuard c r, refStart c r, refLen c r]
      let s' := if shape old ≠ shape new then discardRoute d r s else s
      if (scanRoutes old d).contains r && !(scanRoutes new d).contains r then discardRoute d r s' else s') s
  let s1 := clockCommit d old new s1
  let zone := fun c z => [zoneStart c z, zoneEnd c z, b2n (zoneThermal c z)]
  let changed := ((thSide old d ++ thSide new d).filter fun z => differs 0xA003 || zone old z ≠ zone new z)
  if thSide old d = thSide new d && changed = [] then s1 else
  let kept := (thSide new d).filter fun z => !changed.contains z && (thSide old d).contains z
  let moved := (kept.flatMap fun z => (List.range (thChans new z)).map fun i =>
    (firstOrdinal old d z + i, firstOrdinal new d z + i)).filter fun x => x.1 < 0x20000 && x.2 < 0x20000
  let m := s1.mem.bytes
  let s2 := setBytes (fun m' => moved.foldl (fun a x =>
      setMem32 (memSet a (persistAt d + x.2) (memGet m (persistAt d + x.1))) (tableAt d + 4 * x.2) (mem32 m (tableAt d + 4 * x.1)))
    (memClear (memClear m' (persistAt d) 0x20000) (tableAt d) 0x80000)) s1
  setTherm d (fun t => { t with
    comp := t.comp.map fun x => { x with gone := x.gone ++ (thSide old d).filter fun z => !kept.contains z }
    prev := moved.flatMap fun x => (t.prev.filter fun p => p.ord = x.1).map fun p => { p with ord := x.2 }
    alarms := t.alarms.filter fun z => kept.contains z }) s2

/-! ### DTS_REF_SET (R229) -/

/-- DTS_REF_SET. -/
def hDtsRefSet : Handler :=
  { Handler.plain 0x55 1 (fun _ p s =>
      let w := wd p 0
      (okReply [], setTherm (sideOf (fld w 0 0)) (fun t => { t with tref := fld w 63 32, refAt := s.tb.mono, staleUp := false }) s)) with
    value := fun _ p => if within 0xFFFFFFFF00000001 (wd p 0) && rng (fld (wd p 0) 63 32) 200000 400000 then none else some 0 }
/-- DTS_REF_SET. -/
def execDtsRefSet (o : Origin) (p : List Word) (s : State) : Out := .next (request hDtsRefSet o p s)

end Sys2Proof.Machine
end

