-- ==== Sys2Proof/Machine/Calib.lean ====
section
/-!
DEFINITION. Strop (chapter 17): calibration groups, foreground steps and CAL_RUN, background steps, quality figures,
calibration records, and the stale line (R19).
-/
namespace Sys2Proof.Machine

/-! ### The stale line (R19); paths: bit 0 side, bit 1 thermal -/

/-- A bit of a path. -/
def pathBit (p : Nat) : BitVec 4 := (1 : BitVec 4) <<< p

/-- A path is acquiring, or accumulating. -/
def pathLive (s : State) (p : Nat) : Bool := if p < 2 then acquiring s (sideOf p) else accumulating s (sideOf p)

/-- Strop raises a request. -/
def holdStrop (p : Nat) (s : State) : State :=
  { s with cal := { s.cal with strop := s.cal.strop ||| pathBit p
                               marked := if pathLive s p then s.cal.marked ||| pathBit p else s.cal.marked } }

/-- Cantle raises a request. -/
def holdCantle (p : Nat) (s : State) : State :=
  { s with cal := { s.cal with cantle := s.cal.cantle ||| pathBit p
                               marked := if pathLive s p then s.cal.marked ||| pathBit p else s.cal.marked } }

/-- Strop releases its request; Cantle its. -/
def freeStrop (p : Nat) (s : State) : State :=
  { s with cal := { s.cal with strop := s.cal.strop &&& ~~~ pathBit p } }
def freeCantle (p : Nat) (s : State) : State :=
  { s with cal := { s.cal with cantle := s.cal.cantle &&& ~~~ pathBit p } }

/-- A shot-group boundary of the path's side: a request raised takes hold, one released ends; a thermal accumulation in
progress at the end of a hold is discarded (Table 11-1). -/
def holdPath (p : Nat) (s : State) : State :=
  let want := s.cal.strop.getLsbD p || s.cal.cantle.getLsbD p
  let has := s.cal.held.getLsbD p
  let told := s.cal.marked.getLsbD p
  if want && !has then postIf told evCalStaleBegin p { s with cal := { s.cal with held := s.cal.held ||| pathBit p } }
  else if !want && has then
    let s1 := { s with cal := { s.cal with held := s.cal.held &&& ~~~ pathBit p, marked := s.cal.marked &&& ~~~ pathBit p } }
    postIf told evCalStaleEnd p (if 2 ≤ p then discardSide (sideOf p) s1 else s1)
  else if !want && told then { s with cal := { s.cal with marked := s.cal.marked &&& ~~~ pathBit p } }
  else s

def holdBoundary (d : Side) (s : State) : State := holdPath (d.num + 2) (holdPath d.num s)

/-! ### Quality figures (R367, Table 17-2) -/

/-- A figure code of a group lies outside its threshold (log 37 on the signs of spurs). -/
def figureLow (s : State) (g : Nat) (f : List Nat) (code : Nat) : Bool :=
  let t := rwGet s 0x8001
  let x := fun i => f.getD i 0
  let low := fun lim v => lim ≠ 0 && decide (v < lim)
  let high := fun lim v => lim ≠ 0 && decide (lim < v)
  match code with
  | 0 => g < 8 && low (10 * fld t 7 0) (x 0)
  | 1 => (g < 8 && low (fld t 15 8) (x 1)) || (g = 8 && low (fld t 15 8) (x 0)) ||
      ((g = 9 || g = 10) && low (fld t 23 16) (min (x 0) (x 1)))
  | 2 => g = 15 && high (100 * fld t 31 24) (x 0)
  | 3 => (g = 11 || g = 12) && low (10 * fld t 39 32) (min (x 0) (x 1))
  | 4 => g = 16 && high (fld t 55 40) (max (x 0) (x 1))
  | 5 => (g = 13 || g = 14) && high (fld t 63 56) (x 0)
  | _ => false

/-- Set a figure code of a group; EV_CAL_QUALITY_LOW when it changes. -/
def setFigure (g code : Nat) (low : Bool) (s : State) : State :=
  let old := (calGroup s g).low.getLsbD code
  if old == low then s else
  post evCalQualityLow (g + 256 * code + if low then 0 else 0x8000) (setCal g (fun c => { c with
    low := if low then c.low ||| (1 <<< code) else c.low &&& ~~~ ((1 : BitVec 8) <<< code) }) s)

/-- The figures of a group are judged. -/
def judge (g : Nat) (s : State) : State :=
  (List.range 6).foldl (fun s k => setFigure g k (figureLow s g (calGroup s g).figures k) s) s

/-- CAL.THRESH has new values: every figure that has been formed is held against them. -/
def judgeAll (s : State) : State :=
  (List.range 17).foldl (fun s g => if (calGroup s g).figures = [] then s else judge g s) s

/-- Every figure of a group is within its threshold (R363). -/
def passes (s : State) (g : Nat) : Bool := (calGroup s g).low &&& 0x3F == 0

/-- CAL_DRIFT_CHECK: the present temperature near each group in 0.1 °C, each second. A breach stands until the group's
next foreground run. -/
def execCalDriftCheck (temps : List Int) (s : State) : Out :=
  let k := fld (rwGet s 0x8000) 31 24
  .next (if k = 0 then s else
    (List.range 17).foldl (fun s g => match temps[g]? with
      | some t => if 10 * k < (t - (calGroup s g).temp).natAbs then setFigure g 6 true s else s
      | none => s) s)

/-! ### Foreground steps (R359 to R364) -/

/-- The groups that run as one step with a group. -/
def pairOf (g : Nat) : List Nat := if g < 8 then [g / 2 * 2, g / 2 * 2 + 1] else [g]

/-- A mask of groups. -/
def groupMask (l : List Nat) : BitVec 17 := BitVec.ofNat 17 (l.map fun g => 2 ^ g).sum

/-- A mask with both lanes of every pair it names. -/
def pairMask (m : BitVec 17) : BitVec 17 :=
  BitVec.ofNat 17 ((List.range 17).map fun g => b2n ((pairOf g).any fun h => m.getLsbD h) * 2 ^ g).sum

/-- The side of a group; 8, 15 and 16 serve both. -/
def groupSide (g : Nat) : Option Side :=
  if g < 4 then some .a else if g < 8 then some .b
  else if g = 9 || g = 11 || g = 13 then some .a else if g = 10 || g = 12 || g = 14 then some .b else none

/-- The next step of one side's groups, or of those of both. -/
def firstStep (m : BitVec 17) (d : Option Side) : List Nat :=
  match (List.range 17).find? fun g => m.getLsbD g && groupSide g == d with
  | some g => pairOf g
  | none => []

/-- The groups of a command that are under way: the lowest step of each side, and of those that serve both. -/
def underWay (m : BitVec 17) : BitVec 17 :=
  groupMask (firstStep m (some .a) ++ firstStep m (some .b) ++ firstStep m none)

/-- Polarisation bit of a lane's pair in `taken`. -/
def pairBit2 (g : Nat) : BitVec 4 := (1 : BitVec 4) <<< (g / 2)

/-- The background step on a lane is abandoned, its spare keeping its trims, and the shadow converter returned (R366). -/
def abandonSlice (g : Nat) (s : State) : State :=
  let s1 := setLane g (fun l => { l with out := none, outTrims := [], outFigures := [] }) s
  if (lane s g).out.isSome then giveBack s1 else s1

/-- A step of a group begins: the aux sequencer pauses, the lanes of an idle side are taken; those of an acquiring side wait
for B1 + τ, or follow the pair before them at once; Raman lanes wait for B1 on a side that accumulates. -/
def beginStep (next : Bool) (g : Nat) (s : State) : State :=
  if g < 8 then
    if next || !acquiring s (laneSide g) then takePols (pairBit2 g) s else s
  else if g = 9 || g = 10 then
    if accumulating s (sideOf (g - 9)) then s else { s with cal := { s.cal with raman := s.cal.raman ||| (1 <<< (g - 9)) } }
  else if g = 16 then auxPause s
  else s

/-- Groups of `running` as the commands have them; those that are new begin. -/
def refreshRunning (next : Bool) (s : State) : State :=
  let m := s.cal.runs.foldl (fun a r => a ||| underWay r.left) (0 : BitVec 17)
  let new := (List.range 17).filter fun g => m.getLsbD g && !s.cal.running.getLsbD g
  fixLane (new.foldl (fun s g => beginStep next g s) { s with cal := { s.cal with running := m } })

/-- The seconds of the present time tag, 0 while it is unset. -/
def tagSeconds (s : State) : BitVec 32 := if s.tb.set then BitVec.ofNat 32 (fld (now s) 63 30) else 0

/-- How far a converter's ΔTcal stands from the last EV_TDC_CAL_DONE, in fs. -/
def AwlInput.moved (a : AwlInput) (delta : Nat) : Nat := (delta - a.told) + (a.told - delta)

/-- EV_TDC_CAL_DONE: the converter with the largest change, the lowest of equal ones, and whether a pair was refused. -/
def tellAwl (deltas : List Nat) (refused : Bool) (s : State) : State :=
  let by' := fun i => (awlIn s i).moved (deltas.getD i 0)
  let best := (List.range 11).foldl (fun b i => if by' b < by' i then i else b) 0
  post evTdcCalDone (best + if refused then 0x8000 else 0)
    { s with awl := s.awl.zipIdx.map fun a => { a.1 with told := deltas.getD a.2 0 } }

/-- ΔTcal that a round leaves in service. -/
def AwlInput.after (a : AwlInput) (x : Nat × Nat) : Nat :=
  if !deltaOk x.1 then a.delta else if deltaOk x.2 then x.2 else x.1

/-- A round of every converter's pairs enters; one it says nothing of keeps its pairs. -/
def ringRound (rings : List (Nat × Nat)) (s : State) : State :=
  { s with awl := s.awl.zipIdx.map fun a => match rings[a.2]? with | some x => a.1.round x | none => a.1 }

/-- ΔTcal that a round leaves in service, by converter. -/
def ringsAfter (rings : List (Nat × Nat)) (s : State) : List Nat :=
  s.awl.zipIdx.map fun a => match rings[a.2]? with | some x => a.1.after x | none => a.1.delta

/-- How many pairs a round refuses. -/
def ringsRefused (rings : List (Nat × Nat)) : Nat :=
  rings.countP (fun x => !deltaOk x.1) + rings.countP (fun x => !deltaOk x.2)

/-- The foreground calibration of every pair ends. -/
def awlForeground (rings : List (Nat × Nat)) (s : State) : State :=
  tellAwl (ringsAfter rings s) (ringsRefused rings ≠ 0) (ringRound rings s)

/-- The figures that a foreground step leaves: of Awl, with the pairs that the limits refuse (Table 17-3). -/
def figuresOf (r : StepResult) : List Nat :=
  if r.group = 15 then [r.figures.getD 0 0, ringsRefused r.rings] else r.figures

/-- The results of a foreground step of a group enter, and what a pass of groups 8, 11 and 12 ends (R363). -/
def takeResult (r : StepResult) (s : State) : State :=
  let g := r.group
  let s1 := setCal g (fun c => { c with
    trims := r.trims, formed := r.temp, temp := r.temp, seconds := tagSeconds s, figures := figuresOf r, kept := false
    noise := Config.free 179 s.drawn }) { s with drawn := s.drawn + 1 }
  let s2 := if g < 8 then
      setLane g (fun l => { l with trimmed := List.replicate 10 s.tb.mono }) (takeSlices g r.slices s1) else s1
  let s3 := setFigure g 6 false (judge g s2)
  if g = 8 && passes s3 8 then setRecv (fun r => { r with suspect := false }) s3
  else if g = 15 then awlForeground r.rings s3
  else if (g = 11 || g = 12) && passes s3 g then setLash (if g = 11 then .a else .b) (fun l => { l with dacFault := false }) s3
  else s3

/-- A group that timed out keeps its values. The run has ended, so its figures, temperature and time are those of this run
(R367, R368); what it measured no row gives: the figures and the temperature are free (log 17). -/
def keepValues (g : Nat) (s : State) : State :=
  let s1 := setCal g (fun c => { c with
    kept := true, seconds := tagSeconds s, temp := (BitVec.ofNat 16 (Config.free 368 s.drawn)).toInt
    figures := (List.range 4).map fun i => Config.free 367 (s.drawn + i) % 65536 }) { s with drawn := s.drawn + 4 }
  setFigure g 6 false (judge g (post evCalTimeout g s1))

/-- A dwell that a foreground step of its lane, or of the shadow converter, interrupted is repeated (R161). -/
def repeatDwell (g : Nat) (s : State) : State := if g = 8 || g = s.recv.lane then restartDwell s else s

/-- A group has ended: what it held is returned. -/
def endGroup (g : Nat) (s : State) : State :=
  if g < 8 then repeatDwell g (watchExcl (freePols (pairBit2 g)) s)
  else if g = 8 then repeatDwell 8 s
  else if g = 9 || g = 10 then
    freeStrop (g - 9 + 2) { s with cal := { s.cal with raman := s.cal.raman &&& ~~~ ((1 : BitVec 2) <<< (g - 9)) } }
  else if g = 16 then auxResume s
  else s

/-- Groups leave the commands that run them; the acoustic request of a side ends with its last pair. -/
def leaveGroups (gs : List Nat) (late : Bool) (s : State) : State :=
  let m := groupMask gs
  let low := groupMask (gs.filter fun g => (calGroup s g).low != 0)
  let s1 := { s with cal := { s.cal with runs := s.cal.runs.map fun r =>
    { r with left := r.left &&& ~~~ m, late := if late then r.late ||| (r.mask &&& m) else r.late
             low := r.low ||| (r.mask &&& low) } } }
  let still := fun (d : Side) => s1.cal.runs.any fun r => (r.left >>> (4 * d.num)) &&& 0xF != 0
  let s2 := bothSides (fun d s => if still d then s else freeStrop d.num s) s1
  refreshRunning true s2

/-- A foreground step ends during operation. -/
def operationStep (results : List StepResult) (s : State) : State :=
  let rs := results.filter fun r => r.group < 17 && s.cal.running.getLsbD r.group
  planes (fun s => leaveGroups (rs.map (·.group)) false (rs.foldl (fun s r => endGroup r.group (takeResult r s)) s)) s

/-- A foreground step times out during operation. -/
def operationTimeout (g : Nat) (s : State) : State :=
  if !s.cal.running.getLsbD g then s else
  planes (fun s => leaveGroups (pairOf g) true ((pairOf g).foldl (fun s h => endGroup h (keepValues h s)) s)) s

/-- The foreground calibrations of commands end at once, groups keeping their values (R364); those of a start-up go on. -/
def dropRuns (s : State) : State :=
  if s.cal.phase ≠ 0 then s else
  let aux := s.cal.running.getLsbD 16
  let s0 := if s.cal.running.getLsbD 8 || s.cal.running.getLsbD s.recv.lane then restartDwell s else s
  let s1 := fixLane (watchExcl (fun s => freePols 15 { s with cal := { s.cal with runs := [], running := 0, raman := 0, strop := 0 } }) s0)
  if aux then auxResume s1 else s1

/-! ### CAL_RUN (R360) -/

/-- The mask of a CAL_RUN with its pairs. -/
def runMask (p : List Word) : BitVec 17 := pairMask (BitVec.ofNat 17 (fld (wd p 0) 16 0))

/-- CONFLICT: a pair named while the other polarisation of its side is excluded. -/
def runConflict (s : State) (p : List Word) : Bool :=
  !bit (wd p 0) 24 && (List.range 4).any fun k =>
    (runMask p).getLsbD (2 * k) && (polExcl s (if k < 2 then .a else .b)).testBit (1 - k % 2)

/-- A background round of Awl is abandoned: spares that wait to take over keep their previous trims, and the round leaves
neither record nor figures (R366). -/
def abandonAwl (s : State) : State :=
  { s with awl := s.awl.map AwlInput.abandon, cal := { s.cal with awlRound := none } }

/-- The background steps on some groups are abandoned (R366). -/
def abandonBackground (m : BitVec 17) (s : State) : State :=
  let s1 := (List.range 8).foldl (fun s g => if m.getLsbD g then abandonSlice g s else s) s
  if m.getLsbD 15 then abandonAwl s1 else s1

/-- The work of a CAL_RUN starts: the background steps on its groups are abandoned (R366), the requests of the stale line
raised, and the first steps begun. -/
def startRun (p : List Word) (s : State) : State :=
  let m := runMask p
  if m = 0 then finish (.cal 0) stOk [0] s else
  let s := abandonBackground m s
  let ac := fun (d : Side) (s : State) =>
    if (m >>> (4 * d.num)) &&& 0xF != 0 && acquiring s d then holdStrop d.num s else s
  let th := fun (d : Side) (s : State) => if m.getLsbD (9 + d.num) && accumulating s d then holdStrop (d.num + 2) s else s
  let s1 := bothSides th (bothSides ac s)
  refreshRunning false { s1 with cal := { s1.cal with runs := s1.cal.runs ++ [{ mask := m, left := m, late := 0, low := 0 }] } }

/-- CAL_RUN. -/
def hCalRun : Handler :=
  { Handler.plain 0x90 1 (fun _ _ s => (reply stConflict 0 [], s)) with
    cantle := true
    value := fun _ p => maskFault [0x101FFFF] p
    bad := fun s _ p =>
      let m := runMask p
      (acquiring s .a && (m.getLsbD 11 || m.getLsbD 13)) || (acquiring s .b && (m.getLsbD 12 || m.getLsbD 14)) ||
        held s (.cal m)
    defers := fun s p => if runConflict s p then none else some (.cal (runMask p))
    start := fun _ p s => startRun p s }
/-- CAL_RUN. -/
def execCalRun (o : Origin) (p : List Word) (s : State) : Out := .next (request hCalRun o p s)

/-- CAL_RUN_DONE: a command whose groups have all ended completes. -/
def execCalRunDone (s : State) : Out :=
  let ended := s.cal.runs.filter fun r => r.left = 0
  .next (planes (fun s => ended.foldl (fun s r => finish (.cal r.mask) stOk [mk [(0, 17, r.late.toNat), (32, 17, r.low.toNat)]]
      (post evCalDone 1 s)) { s with cal := { s.cal with runs := s.cal.runs.filter fun r => r.left ≠ 0 } }) s)

/-! ### Background calibration (R365, R366) -/

/-- A foreground calibration holds a group: its step is under way, or a CAL_RUN names it. -/
def foreground (s : State) (g : Nat) : Bool := s.cal.running.getLsbD g || s.cal.runs.any fun r => r.mask.getLsbD g

/-- A background step has formed the trims of a group. The die temperature then, for the record's header, no row gives:
a free value (log 17). -/
def formTrims (g : Nat) (trims : List Word) (s : State) : State :=
  setCal g (fun c => { c with trims := trims, formed := Config.free 369 s.drawn }) { s with drawn := s.drawn + 1 }

def bgOn (s : State) : Bool := bit (rwGet s 0x8000) 0 && isReady s && s.can.running
def sliceMs (s : State) : Nat := fld (rwGet s 0x8000) 15 8
def ramanSecs (s : State) : Nat := fld (rwGet s 0x8000) 23 16

/-- The spares that may go out for trimming: a usable one stays. -/
def Lane.trimmable (l : Lane) : List Nat := l.loose.filter fun x => l.spares.any (· ≠ x)

/-- BACKGROUND_SLICE_TRIM: a spare of the lane, not its last usable one, is trimmed against the borrowed shadow
converter; which spare is not stated. The record's trims and the figures wait for the end of the step. -/
def execBackgroundSliceTrim (n : Nat) (trims : List Word) (figures : List Nat) (s : State) : Out :=
  let l := lane s n
  .next (if n < 8 && bgOn s && sliceMs s ≠ 0 && l.degraded = 0 && !foreground s n && !s.recv.suspect && !s.recv.borrowed &&
      l.out.isNone && l.trimmable ≠ [] then
    let x := l.trimmable.getD (Config.free 365 s.drawn % l.trimmable.length) 0
    let s1 := setLane n (fun l => { l with out := some x, outTrims := trims, outFigures := figures }) { s with drawn := s.drawn + 1 }
    setRecv (fun r => { r with borrowed := true }) s1
  else s)

/-- The position whose slice carries the oldest trim. -/
def oldestPos (l : Lane) : Nat :=
  (List.range 8).foldl (fun b p =>
    if l.trimmed.getD (l.pos.getD p 0) 0 < l.trimmed.getD (l.pos.getD b 0) 0 then p else b) 0

/-- SLICE_SWAP: the trimmed spare takes its position between two samples; the shadow converter is returned, and the step
ends with the record in force and the figures it formed (R367). -/
def execSliceSwap (n : Nat) (s : State) : Out :=
  let l := lane s n
  .next (match l.out with
    | some x =>
      let s1 := changeLane n (fun l => { (l.place (oldestPos l) x (mainNow s)) with trimmed := l.trimmed.set x s.tb.mono }) s
      let s2 := if l.outTrims = [] then freshTrims n s1 else formTrims n l.outTrims s1
      judge n (setCal n (fun c => { c with figures := l.outFigures.take 2 ++ c.figures.drop 2 }) (giveBack s2))
    | none => giveBack s)

/-- A background round of Awl that no pair waits in any more has ended: its record is in force, its figures are judged, and a
ΔTcal that has moved by 0.2 % is told (R286, R367). How the record's opaque words hold the new ΔTcal is not stated: they are
free (log 17). -/
def endAwlRound (s : State) : State :=
  match s.cal.awlRound with
  | none => s
  | some (nonlinearity, refused) =>
    if s.awl.any (·.takeover) then s else
    let words := (List.range 6).map fun i => BitVec.ofNat 64 (Config.free 369 (s.drawn + i))
    let s1 := formTrims 15 words { s with drawn := s.drawn + 6, cal := { s.cal with awlRound := none } }
    let new := s.awl.map (·.delta)
    planes (fun s =>
      let s2 := judge 15 (setCal 15 (fun c => { c with figures := [nonlinearity, refused] }) s)
      if s.awl.any fun a => decide (a.told ≤ 500 * a.moved a.delta) then tellAwl new (refused ≠ 0) s2 else s2) s1

/-- AWL_BACKGROUND_CAL: a round over every pair of every converter begins; the one before it must have ended. -/
def execAwlBackgroundCal (rings : List (Nat × Nat)) (nonlinearity : Nat) (s : State) : Out :=
  .next (if fld (rwGet s 0x6040) 15 0 = 0 || !bgOn s || foreground s 15 || s.cal.awlRound.isSome then s else
    endAwlRound (ringRound rings { s with cal := { s.cal with awlRound := some (nonlinearity, ringsRefused rings) } }))

/-- AWL_PAIR_TAKEOVER: the calibrated pair takes over between conversions (R286). -/
def execAwlPairTakeover (n : Nat) (s : State) : Out :=
  let a := awlIn s n
  .next (if a.takeover && a.conv.isNone then endAwlRound (setAwl n AwlInput.swap s) else s)

/-- BACKGROUND_RAMAN_OFFSET: the offsets of a side's Raman lanes between traces. -/
def execBackgroundRamanOffset (d : Side) (trims : List Word) (s : State) : Out :=
  .next (if bgOn s && ramanSecs s ≠ 0 && !foreground s (9 + d.num) then formTrims (9 + d.num) trims s else s)

/-! ### Records (R369 to R372) -/

/-- CAL_READ. -/
def hCalRead : Handler :=
  { Handler.plain 0x91 1 (fun _ p s => (okReply (calRecord s (fld (wd p 0) 4 0)), s)) with
    value := fun _ p => if within 0x1F (wd p 0) && fld (wd p 0) 4 0 ≤ 16 then none else some 0 }
/-- CAL_READ. -/
def execCalRead (o : Origin) (p : List Word) (s : State) : Out := .next (request hCalRead o p s)

/-- The word of a record at fault: group, version, reserved bits and length in its header, CRC in its last word. -/
def recordFault (p : List Word) : Option Nat :=
  let h := wd p 0
  let g := fld h 4 0
  let last := p.length - 1
  if !(g ≤ 16 && within 0xFFFFFFFF00FFFF1F h && fld h 15 8 = calWords g && fld h 23 16 = Config.calVersion.toNat) then some 0
  else if wd p last ≠ mk [(0, 32, (crcWords p.dropLast).toNat)] then some last else none

/-- CONFLICT of a record: another die's, or one that places a retired slice. -/
def recordConflict (s : State) (p : List Word) : Bool :=
  let g := fld (wd p 0) 4 0
  fld (wd p 0) 47 32 ≠ Config.dieId.toNat % 65536 ||
    (g < 8 && (Config.recordSlices ((p.drop 1).dropLast)).any fun x => (lane s g).retired.getLsbD x)

/-- A record is accepted: applied now, or at its boundary; one of Awl pair by pair, as a round of calibration is (R371,
R286). -/
def acceptRecord (p : List Word) (s : State) : State :=
  let g := fld (wd p 0) 4 0
  let s1 := if g < 8 then abandonSlice g s else if g = 15 then abandonAwl s else s
  let wait := (match groupSide g with | some d => acquiring s d | none => false) || (g = 16 && s.aux.phase == .converting)
  let s2 := { s1 with cal := { s1.cal with writes := s1.cal.writes.filter (·.1 ≠ g) ++ [(g, p)] } }
  if wait then s2 else if g = 16 then applyAux s2
  else if g = 15 then ringRound (Config.recordRings (p.drop 1).dropLast) (applyRecords (· = 15) s2)
  else applyRecords (· = g) s2

/-- CAL_WRITE. -/
def hCalWrite : Handler :=
  { Handler.plain 0x92 0 (fun _ p s => if recordConflict s p then (reply stConflict 0 [], s) else (okReply [], acceptRecord p s)) with
    lenOk := fun p => p ≠ [] && let g := fld (wd p 0) 4 0
      if g ≤ 16 then p.length = calWords g else p.length ≤ 32
    value := fun _ p => recordFault p
    bad := fun s _ p => held s (.cal (groupMask (pairOf (fld (wd p 0) 4 0)))) }
/-- CAL_WRITE. -/
def execCalWrite (o : Origin) (p : List Word) (s : State) : Out := .next (request hCalWrite o p s)

/-- A record of a Tack snapshot (R372): skipped with figure code 7 where CAL_WRITE would refuse it. -/
def loadRecord (g : Nat) (p : List Word) (s : State) : State :=
  if recordFault p = none ∧ fld (wd p 0) 4 0 = g ∧ !recordConflict s p ∧ !held s (.cal (groupMask (pairOf g))) then
    acceptRecord p s
  else post evCalQualityLow (g + 0x700) s

/-- CAL_QUALITY (Table 17-3). -/
def hCalQuality : Handler :=
  { Handler.plain 0x93 1 (fun _ p s =>
      let g := fld (wd p 0) 4 0
      let c := calGroup s g
      let l := lane s g
      let n := if g < 8 then 4 else if g = 11 || g = 12 then 3 else if g = 13 || g = 14 then 1 else 2
      (okReply [mk [(0, 5, g), (8, 1, b2n (c.low != 0)), (9, 1, b2n c.kept), (16, 16, sbits 16 c.temp), (32, 32, c.seconds.toNat)],
        mk ((List.range n).map fun i => (16 * i, 16, sat 16 (c.figures.getD i 0))),
        if g < 8 then mk ((List.range 8).map fun p => (2 * p, 2, l.verdicts.getD p 0)) else 0], s)) with
    value := fun _ p => if within 0x1F (wd p 0) && fld (wd p 0) 4 0 ≤ 16 then none else some 0 }
/-- CAL_QUALITY. -/
def execCalQuality (o : Origin) (p : List Word) (s : State) : Out := .next (request hCalQuality o p s)

end Sys2Proof.Machine
end

