-- ==== Sys2Proof/Machine/Products.lean ====
section
/-!
DEFINITION. Girth's products beside records: delta traces and fibre breaks (R259 to R261), the history ring with
HISTORY_DUMP (R263 to R265), and digests (R266).
-/
namespace Sys2Proof.Machine

/-! ### Baselines in DRAM (R215, Table 16-3) -/

/-- Where the baseline of a route lies. -/
def baselineAt (r : Nat) : Nat := 0x02000000 + r * 0x100000

/-- The baseline power of a gate in 2^−48: its 32-bit word holds it in 2^−32 (log 88). -/
def basePower (s : State) (r g : Nat) : Nat :=
  let w := memWord s.mem.bytes (baselineAt r + 8 * (g / 2))
  2 ^ 16 * if g % 2 = 0 then fld w 31 0 else fld w 63 32

/-- Gates of a route: those from 0 up to its length. -/
def routeGates (c : Cfg) (r : Nat) : Nat :=
  cdiv (24 * routeIndex c r * routeLen c r * 1000) (decim c (routeSide r) * cLight)

/-- The distance of gate g in mm. -/
def gateMm (c : Cfg) (r g : Nat) : Nat := sampleMm (routeIndex c r) (g * decim c (routeSide r))

/-- A power exceeds a noise power by 3 dB: 10 log10 of their quotient exceeds 3. -/
def above3 (p noise : Nat) : Bool := 1000 * noise ^ 10 < p ^ 10

/-- FIBRE_END of a route's baseline: the distance of the last gate 3 dB above the noise, 0 if none. -/
def fibreEnd (s : State) (c : Cfg) (r : Nat) : Nat :=
  match ((List.range (routeGates c r)).filter fun g => above3 (basePower s r g) (baseline s r).noise).getLast? with
  | some g => gateMm c r g
  | none => 0

/-! ### Delta traces (R259, R260) -/

def deltaGroups (c : Cfg) (d : Side) : Nat := fld (sideGet c d 0x3003) 15 0
def segExp (c : Cfg) (d : Side) : Nat := fld (sideGet c d 0x3003) 19 16
/-- DELTA_DB and STEP_DB in 0.01 dB. -/
def deltaDb (c : Cfg) (d : Side) : Nat := fld (sideGet c d 0x3003) 27 20 * 10
def stepDb (c : Cfg) (d : Side) : Nat := fld (sideGet c d 0x3003) 35 28 * 10

/-- Segments of a route. -/
def segments (c : Cfg) (r : Nat) : Nat := cdiv (routeGates c r) (2 ^ segExp c (routeSide r))

/-- The main sample at which segment i begins. -/
def segSample (c : Cfg) (r i : Nat) : Nat := i * 2 ^ segExp c (routeSide r) * decim c (routeSide r)

/-- Gates of segment i: the last segment ends with the route. -/
def segGates (c : Cfg) (r i : Nat) : Nat :=
  let n := 2 ^ segExp c (routeSide r)
  min n (routeGates c r - i * n)

/-- A sum over the gates of a segment. -/
def segSum (c : Cfg) (r i : Nat) (f : Nat → Nat) : Nat :=
  ((List.range (segGates c r i)).map fun g => f (i * 2 ^ segExp c (routeSide r) + g)).sum

/-- Δ of every segment in 0.01 dB. -/
def deltas (s : State) (c : Cfg) (r : Nat) : List Int :=
  let x := deltaOf s r
  (List.range (segments c r)).map fun i =>
    centibel 259 (segSum c r i fun g => kvGet 0 x.sums g) (x.done * segSum c r i fun g => basePower s r g)

/-- The mean of a list; 0 when it is empty. -/
def meanQ (l : List Int) : Rat := if l = [] then 0 else (l.sum : Rat) / l.length

/-- The greatest drop of a trace and its segment: the mean from there on less the mean before. -/
def largestDrop (l : List Int) : Option (Nat × Rat) :=
  ((List.range l.length).drop 1).foldl (fun b i =>
    let x := meanQ (l.drop i) - meanQ (l.take i)
    match b with
    | some y => if x < y.2 then some (i, x) else some y
    | none => some (i, x)) none

/-- One entry of a DELTA_TRACE frame. -/
def deltaEntry (c : Cfg) (r sample : Nat) (delta change : Int) (step brk : Bool) : List Word :=
  [mk [(0, 32, sample), (32, 32, sampleMm (routeIndex c r) sample)],
   mk [(0, 16, sbits 16 delta), (16, 16, sbits 16 change), (32, 1, b2n step), (33, 1, b2n brk)]]

/-- DELTA_TRACE frames of at most 255 entries; the layout of the header word and the instant of the trace's time tag are
not stated (log 33). -/
def deltaFrames (r drawn : Nat) (es : List (List Word)) : List Frame :=
  let tag := BitVec.ofNat 64 (Config.free 259 drawn)
  (splitFrames es.length 255).map fun x =>
    zoneFrame 6 0 r 0 x.2 tag (Config.deltaHeader r x.2 tag :: ((es.drop x.1).take x.2).flatten)

/-- The zones of a route that hold a position in mm. -/
def zoneHolds (c : Cfg) (z mm : Nat) : Bool := zoneStart c z ≤ mm && mm < zoneEnd c z

/-- A DELTA trigger at a position of a route. -/
def deltaTrigger (d : Side) (r mm : Nat) (at' : Word) (s : State) : State :=
  if presentRoute s d = r then
    sideTrigger (Trigger.own 2 0 (nsOfTag at') 0) d (fun c z => trigDelta c z && zoneHolds c z mm) s
  else s

/-- The segment of a new loss step, and whether one stays reported: at the largest drop, once until it recovers (R260). -/
def lossStep (s : State) (d : Side) (r : Nat) (ds : List Int) : Option Nat × Bool :=
  let c := cfgOf s d
  let x := deltaOf s r
  let drop := largestDrop ds
  let limit : Rat := (stepDb c d : Nat)
  let low := match drop with | some p => stepDb c d ≠ 0 && decide (p.2 ≤ -limit) | none => false
  let recovered := match drop with | some p => decide (-limit / 2 < p.2) | none => true
  let step := if low && !x.stepUp then drop.map (·.1) else none
  (step, if step.isSome then true else x.stepUp && !recovered)

/-- The segments a delta trace reports (R259). -/
def deltaPicks (s : State) (d : Side) (r : Nat) (ds : List Int) (step : Option Nat) : List Nat :=
  (List.range ds.length).filter fun i =>
    decide (deltaDb (cfgOf s d) d < (ds.getD i 0 - kvGet 0 (deltaOf s r).told i).natAbs) || step == some i

/-- Their entries. -/
def deltaEntries (s : State) (d : Side) (r : Nat) (ds : List Int) (step : Option Nat) : List (List Word) :=
  let c := cfgOf s d
  (deltaPicks s d r ds step).map fun i =>
    deltaEntry c r (segSample c r i) (ds.getD i 0) (ds.getD i 0 - kvGet 0 (deltaOf s r).told i) (step == some i) false

/-- A new loss step is reported, with the FIBRE trigger at its place (R260). -/
def tellStep (c : Cfg) (d : Side) (r : Nat) (tag : Word) (step : Option Nat) (s : State) : State :=
  match step with
  | some i => deltaTrigger d r (sampleMm (routeIndex c r) (segSample c r i)) tag (post evFibreLossStep r s)
  | none => s

/-- A delta trace of a route is formed, cut and judged by the SEG_EXP, DELTA_DB and STEP_DB in force when it is formed, be its
groups launched before a commit of them (DESIGN CHOICE, log 112). -/
def formDelta (d : Side) (r : Nat) (s : State) : State :=
  let x := deltaOf s r
  let ds := deltas s (cfgOf s d) r
  let l := lossStep s d r ds
  let es := deltaEntries s d r ds l.1
  let s1 := setDelta r (fun y => { y with
    done := 0, sums := [], stepUp := l.2
    told := (deltaPicks s d r ds l.1).foldl (fun t i => kvSet 0 t i (ds.getD i 0)) x.told }) s
  let s2 := enqueueAll (deltaFrames r s.drawn es) { s1 with drawn := s1.drawn + 1 }
  tellStep (cfgOf s d) d r x.lastAt l.1 (postIf (es ≠ []) evDeltaTrace r s2)

/-- A route's baseline is read, every word of it, by a port that is not stated (log 94); an uncorrectable word makes it NONE
(R342, Table 16-5). -/
def baselineRead (r : Nat) (acc : Access) (s : State) : State :=
  let n := cdiv (routeGates (cfgOf s (routeSide r)) r) 2
  let s1 := blockRead (Config.free 342 (s.drawn + 1) % 4) acc (baselineAt r) n { s with drawn := s.drawn + 2 }
  if acc == .ecc then setBase r (fun b => { b with state := 0 }) (setDelta r (fun _ => Delta.init) s1) else s1

/-- DELTA_TRACE_FORM: GROUPS clean shot groups of the present route are in. -/
def execDeltaTraceForm (d : Side) (s : State) : Out :=
  let r := presentRoute s d
  let n := deltaGroups (cfgOf s d) d
  .next (if n ≠ 0 && (baseline s r).state = 2 && n ≤ (deltaOf s r).done then
    let acc := readCondition s.mem.ecc s.drawn
    let s1 := baselineRead r acc s
    if acc = .ecc then s1 else formDelta d r s1
  else s)

/-! ### Fibre breaks (R261) -/

def breakOn (s : State) (d : Side) : Bool := bit (rwGet s (sid d 0x3004)) 0
def breakConfirm (s : State) (d : Side) : Nat := fld (rwGet s (sid d 0x3004)) 3 1
def breakMm (s : State) (d : Side) : Nat := fld (rwGet s (sid d 0x3004)) 31 16 * 1000

/-- The main sample at the end of the last segment 3 dB above the noise; 0 when there is none. -/
def litSample (c : Cfg) (r : Nat) (power : Nat → Nat) (noise : Nat) : Nat :=
  match ((List.range (segments c r)).filter fun i => above3 (segSum c r i power) (noise * segGates c r i)).getLast? with
  | some i => segSample c r (i + 1)
  | none => 0

/-- A fibre break is reported. -/
def reportBreak (c : Cfg) (d : Side) (r sample : Nat) (s : State) : State :=
  let mm := sampleMm (routeIndex c r) sample
  let s1 := post evFibreBreak r (digestAdd d 3 (setGirth d (fun g => { g with breakRoute := r, breakMm := mm }) s))
  let e := deltaEntry c r sample (Config.free 261 s.drawn) (Config.free 261 (s.drawn + 1)) false true
  let s2 := enqueueAll (deltaFrames r (s.drawn + 2) [e]) { s1 with drawn := s1.drawn + 3 }
  deltaTrigger d r mm (deltaOf s2 r).seenAt s2

/-- One checked shot group under the configuration of its launch (R14): the power by gate of its launch group 0, the noise,
and its boundary. The baseline is read for it (R342). -/
def checkBreak (c : Cfg) (d : Side) (r : Nat) (power : Nat → Nat) (noise : Nat) (boundary : Word) (s0 : State) : State :=
  if !breakOn s0 d || (baseline s0 r).state ≠ 2 then s0 else
  let s := baselineRead r (readCondition s0.mem.ecc s0.drawn) s0
  if (baseline s r).state ≠ 2 then s else
  let lit := litSample c r power noise
  let x := deltaOf s r
  if sampleMm (routeIndex c r) lit + breakMm s d < fibreEnd s c r then
    let n := min (x.short + 1) 4
    let s1 := setDelta r (fun y => { y with short := n, back := 0, seenAt := if y.short = 0 then boundary else y.seenAt,
                                            broken := y.broken || decide (breakConfirm s d ≤ n) }) s
    if !x.broken && breakConfirm s d ≤ n then reportBreak c d r lit s1 else s1
  else
    let n := min (x.back + 1) 4
    setDelta r (fun y => { y with short := 0, back := n, broken := y.broken && !decide (breakConfirm s d ≤ n) }) s

/-! ### History ring (R263, R264) -/

/-- The newest closed record of a zone, unfetched, has this instant in its interval. -/
def unfetchedAt (s : State) (z ns : Nat) : Bool :=
  match (zoneRun s z).closed with
  | r :: _ => !r.fetched && decide (r.pre ≤ ns ∧ ns ≤ r.closedAt)
  | [] => false

/-- A dump whose next frame is overwritten stops early (R265). -/
def Dump.overtaken (d : Dump) (f : Frame) : Dump :=
  match d.left with
  | g :: _ => if g.time = f.time ∧ g.zone = f.zone ∧ g.first = f.first then { d with left := [], truncated := true, cut := true } else d
  | [] => d

/-- The oldest frame of the ring is overwritten; the first frame of an instant stands for it in R264. -/
def overwriteOldest (s : State) : State :=
  match s.girth.ring with
  | f :: r =>
    let s1 := { s with girth := { s.girth with
        ring := r, lostTo := some (nsOfTag f.time), dump := s.girth.dump.map fun d => d.overtaken f
        dumpQ := s.girth.dumpQ.map fun d => d.overtaken f } }
    postIf (f.first = 0 && unfetchedAt s f.zone (nsOfTag f.time)) evHistoryWrap f.zone s1
  | [] => s

/-- Make room in the ring for so many more bytes. -/
def makeRoom : Nat → Nat → State → State
  | 0, _, s => s
  | n + 1, need, s => if framesBytes s.girth.ring + need ≤ historySize s then s else makeRoom n need (overwriteOldest s)

/-- A frame is written to the ring; an instant that finds RT0's FIFO full but for its reserve is lost (R340). With HISTORY = 0
and without usable DRAM there is no ring. -/
def ringFrame (f : Frame) (s : State) : State :=
  if !s.mem.usable || historySize s = 0 then s
  else if rt0Full ≤ s.mem.rt0 then
    { s with mem := { s.mem with histLost := if f.first = 0 then sat 16 (s.mem.histLost + 1) else s.mem.histLost } }
  else
    let s1 := makeRoom s.girth.ring.length f.bytes s
    if framesBytes s1.girth.ring + f.bytes ≤ historySize s1 then
      wakeMem { s1 with girth := { s1.girth with ring := s1.girth.ring ++ [{ f with history := true }] } }
    else s1

/-! ### HISTORY_DUMP (R265) -/

/-- The interval that a dump asks for, in ns, with its channels: by record, or by words 2 and 3. -/
def dumpRange (s : State) (p : List Word) : Option (Nat × Nat × Nat × Nat) :=
  let w := wd p 0
  let z := fld w 8 0
  if bit w 9 then
    ((zoneRun s z).closed.find? fun r => r.id = fld w 63 32).map fun r =>
      if bit w 11 then (r.pre, r.closedAt, r.first, r.last + 1 - r.first)
      else (r.pre, r.closedAt, fld (wd p 1) 16 0, fld (wd p 1) 48 32)
  else some (nsOfTag (wd p 2), nsOfTag (wd p 3), fld (wd p 1) 16 0, fld (wd p 1) 48 32)

/-- The named record is still open. -/
def dumpsOpen (s : State) (p : List Word) : Bool :=
  bit (wd p 0) 9 && match (zoneRun s (fld (wd p 0) 8 0)).record with
    | some r => r.id = fld (wd p 0) 63 32
    | none => false

/-- The payload word at fault. -/
def dumpFault (s : State) (p : List Word) : Option Nat :=
  let w := wd p 0
  let z := fld w 8 0
  let c := cfgOf s (zoneSide (cfgFree s) z)
  let known := (zoneRun s z).closed.any fun r => r.id = fld w 63 32
  if !within 0xFFFFFFFF00000FFF w || (bit w 9 && !known && !dumpsOpen s p) then some 0
  else if !within 0x1FFFF0001FFFF (wd p 1) ||
      (!(bit w 9 && bit w 11) && zoneChans c z < fld (wd p 1) 16 0 + fld (wd p 1) 48 32) then some 1
  else if !bit w 9 && !tagOk (wd p 2) then some 2
  else if !bit w 9 && (!tagOk (wd p 3) || nsOfTag (wd p 3) ≤ nsOfTag (wd p 2)) then some 3
  else none

/-- Does a held frame belong to a dump? Instants from START to END, both included (log 34). -/
def dumpTakes (z a b first count : Nat) (f : Frame) : Bool :=
  f.zone = z && a ≤ nsOfTag f.time && nsOfTag f.time ≤ b && f.first < first + count && first < f.first + f.count

/-- The result of a dump; tags of a dump without frames are not stated. -/
def dumpResult (d : Dump) (drawn : Nat) : List Word :=
  [mk [(0, 32, d.frames), (32, 1, b2n d.truncated)],
   if d.frames = 0 then BitVec.ofNat 64 (Config.free 265 drawn) else d.firstTag,
   if d.frames = 0 then BitVec.ofNat 64 (Config.free 265 (drawn + 1)) else d.lastTag]

/-- The dump covered the whole interval of a record (R264): it asked for it, nothing of it was overwritten before, and it
did not stop early. A dump of some channels covers the interval (log 34). -/
def Dump.covers (d : Dump) (r : GRecord) : Bool :=
  !d.cut && d.count ≠ 0 && decide (d.start ≤ r.pre ∧ r.closedAt ≤ d.stop) &&
    match d.lostTo with | some t => decide (t < r.pre) | none => true

/-- The dump has ended: its record is fetched where its whole interval was covered (R264). -/
def endDump (d : Dump) (s : State) : State :=
  let s1 := setZone d.zone (fun x => { x with closed := match x.closed with
      | r :: t => { r with fetched := r.fetched || d.covers r } :: t
      | [] => [] }) s
  endsFor (s.girth.dumpQ ≠ []) (finish .history stOk (dumpResult d s.drawn))
    { s1 with girth := { s1.girth with dump := s.girth.dumpQ.head?, dumpQ := s.girth.dumpQ.tail }, drawn := s1.drawn + 2 }

/-- A dump starts: the held frames of the interval, TRUNCATED if START has been overwritten already. It waits for one that a
break-in has abandoned (R103, R420; log 64). -/
def startDump (p : List Word) (s : State) : State :=
  match dumpRange s p with
  | none => s
  | some (a, b, first, count) =>
    let z := fld (wd p 0) 8 0
    let lost := match s.girth.lostTo with | some t => decide (a ≤ t) | none => false
    let d : Dump :=
      { zone := z, start := a, stop := b, firstCh := first, count := count, toDram := bit (wd p 0) 10,
        left := s.girth.ring.filter (dumpTakes z a b first count), frames := 0, truncated := lost, cut := false,
        lostTo := s.girth.lostTo, firstTag := 0, lastTag := 0 }
    if count = 0 then
      let s1 := { s with girth := { s.girth with dump := none, dumpQ := [] } }
      let s2 := endDump { d with left := [], truncated := false } s1
      { s2 with girth := { s2.girth with dump := s.girth.dump, dumpQ := s.girth.dumpQ } }
    else { s with girth := { s.girth with
      dump := some (s.girth.dump.getD d), dumpQ := if s.girth.dump.isSome then s.girth.dumpQ ++ [d] else s.girth.dumpQ } }

/-- HISTORY_DUMP. -/
def hHistoryDump : Handler :=
  { Handler.work 0x37 4 (fun _ => .history) (fun _ p s => startDump p s) with
    dram := fun _ => true
    value := fun s p => dumpFault s p
    bad := fun s _ p =>
      let z := fld (wd p 0) 8 0
      let c := cfgOf s (zoneSide (cfgFree s) z)
      !(zoneDefined c z && zoneAcoustic c z && zoneHistory c z) || dumpsOpen s p }
/-- HISTORY_DUMP. -/
def execHistoryDump (o : Origin) (p : List Word) (s : State) : Out := .next (request hHistoryDump o p s)

/-- Copy frames into the dump area from its start while they fit; which of them have an uncorrectable word is open. -/
def dumpCopy : List Frame → Nat → Nat → Dump → State → Dump × State
  | [], _, _, d, s => (d, s)
  | f :: r, used, drawn, d, s =>
    let acc := readCondition s.mem.ecc s.drawn
    let g := { f.crop d.firstCh (d.firstCh + d.count) with bad := acc == Access.ecc }
    let ws := g.words (BitVec.ofNat 11 (Config.free 332 drawn))
    if used + 8 * ws.length ≤ dumpSize s then
      dumpCopy r (used + 8 * ws.length) (drawn + 1) (d.took f)
        (ringRead acc f
          (dramBytes (fun m => memPutWords m (usableCap s - historySize s - dumpSize s + used) ws) s))
    else ({ d with left := [], truncated := true, cut := true }, s)

/-- HISTORY_DUMP_DONE: the frames for the stream are gone, or those for the dump area are written. -/
def execHistoryDumpDone (s : State) : Out :=
  .next (match s.girth.dump with
    | none => s
    | some d =>
      if d.toDram then
        let x := dumpCopy d.left 0 s.drawn d s
        endDump x.1 { x.2 with drawn := x.2.drawn + d.left.length }
      else if d.left = [] then endDump d s else s)

/-! ### Digests (R266) -/

def digestSecs (s : State) : Nat := fld (rwGet s 0x3005) 15 0
def digestStream (s : State) : Bool := bit (rwGet s 0x3005) 16

/-- The zones of a side's digest: on a route of the scan, acoustic or thermal. -/
def digestZones (c : Cfg) (d : Side) : List Nat :=
  (zoneNums c).filter fun z => decide (zoneRoute c z ∈ scanRoutes c d) && (zoneAcoustic c z || zoneThermal c z)

/-- Two words of a zone; the percentage of no samples is not stated. -/
def digestEntry (s : State) (d : Side) (z : Nat) : List Word :=
  let l := digZone s (digKey d z)
  let n := fun i => l.getD i 0
  let pct := if n 1 = 0 then Config.free 266 s.drawn else (Config.quot 266 (100 * n 2 : Nat) (n 1)).toNat
  [mk [(0, 9, z), (16, 8, n 0), (24, 8, pct), (32, 32, n 3)],
   mk [(0, 32, sat 32 (Config.quot 266 (n 4 : Int) 256).toNat), (32, 16, n 5), (48, 16, n 6)]]

/-- The four header words. -/
def digestHeader (s : State) (d : Side) (id : BitVec 32) (n : Nat) : List Word :=
  let g := s.girth.side d
  [mk [(0, 32, id.toNat), (32, 1, d.num), (33, 10, n)], g.digStart, now s,
   mk [(0, 16, g.digest.getD 0 0), (16, 16, g.digest.getD 1 0), (32, 16, g.digest.getD 2 0),
     (48, 8, g.digest.getD 3 0)]]

/-- Where a digest lies in DRAM. -/
def digestAt (d : Side) (id : BitVec 32) : Nat := 0x02800000 + d.num * 0x400000 + id.toNat % 256 * 0x4000

/-- The DIGEST frames (R317). -/
def digestFrames (hd : List Word) (es : List (List Word)) (start : Word) : List Frame :=
  (if es = [] then [(0, 0)] else splitFrames es.length 254).map fun x =>
    zoneFrame 8 0 0 x.1 x.2 start (hd ++ ((es.drop x.1).take x.2).flatten)

/-- A digest of a side is formed. -/
def formDigest (d : Side) (s : State) : State :=
  let c := cfgOf s d
  let zs := digestZones c d
  let id := (s.girth.side d).digestId + 1
  let hd := digestHeader s d id zs.length
  let es := zs.map (digestEntry s d)
  let s1 := if s.mem.usable then
      dramBytes (fun m => memPutWords m (digestAt d id) (hd ++ es.flatten)) s else s
  let s2 := if digestStream s then enqueueAll (digestFrames hd es (s.girth.side d).digStart) s1 else s1
  setGirth d (fun g => { g with digestId := id, digStart := now s, digest := [0, 0, 0, 0] })
    { s2 with girth := { s2.girth with digZones := clearDigZones d s2.girth.digZones },
              drawn := s2.drawn + 1 }

/-- DIGEST_PERIOD. -/
def execDigestPeriod (d : Side) (s : State) : Out :=
  .next (if digestSecs s ≠ 0 && acquiring s d then formDigest d s else s)

end Sys2Proof.Machine
end

