-- ==== Sys2Proof/Machine/Checks.lean ====
section
/-!
DEFINITION. The commit checks of Table 06-6: each names the first record at fault. Conditions within a check are taken
in the order of their table (R122, R133; for Tables 10-3 and 11-2 log 27), records in ascending order.
-/
namespace Sys2Proof.Machine

/-- A failed check: its code, the sides as bit 0 A and bit 1 B, and the record index (R107). -/
structure Failure where
  code  : Nat
  sides : Nat
  index : Nat
deriving DecidableEq, Repr

/-- The failure of a check on a side. -/
def sideFault (code : Nat) (d : Side) (idx : Option Nat) : Option Failure :=
  idx.map fun i => ⟨code, 2 ^ d.num, i⟩

/-- A condition that fails gives its index. -/
def failIf (c : Bool) (i : Nat) : Option Nat := if c then some i else none

/-- Extents of two zones on one route meet (Table 10-3). -/
def zonesOverlap (c : Cfg) (y z : Nat) : Bool :=
  zoneRoute c y = zoneRoute c z && zoneStart c y < zoneEnd c z && zoneStart c z < zoneEnd c y

/-- Check 0x01: a zone that overlaps one of lower number (R5, R204). -/
def checkOverlap (c : Cfg) (d : Side) : Option Nat :=
  (sideZones c d).find? fun z => (sideZones c d).any fun y => y < z && zonesOverlap c y z

/-- The acoustic spacing lies below the gate pitch. -/
def belowPitch (c : Cfg) (z : Nat) : Bool :=
  zoneSpacing c z * 24 * routeIndex c (zoneRoute c z) < decim c (zoneSide c z) * cLight

/-- Check 0x02 (Table 10-3). -/
def checkLimits (c : Cfg) (d : Side) : Option Nat :=
  let zs := sideZones c d
  let rs := sideRoutes d
  zs.find? (fun z => !routeOk c (zoneRoute c z)) <|>
  zs.find? (fun z => 1000 * routeLen c (zoneRoute c z) < zoneEnd c z) <|>
  zs.find? (belowPitch c) <|>
  (rs.find? fun r => 256 < (zonesOn c r).length).map (0x100 + ·) <|>
  (rs.find? fun r => routeOk c r && routeLen c r < refStart c r + refLen c r).map (0x100 + ·) <|>
  failIf (98304 < sideChans c d) 0xFFFF

/-! ### Slot plan (Table 07-4) -/

def slotBand (c : Cfg) (d : Side) (i : Nat) : Nat := fld (wd (slotRec c d i) 0) 19 8
def slotDur (c : Cfg) (d : Side) (i : Nat) : Nat := fld (wd (slotRec c d i) 0) 38 24
def slotAmp (c : Cfg) (d : Side) (i : Nat) : Nat := fld (wd (slotRec c d i) 0) 51 40
def slotShape (c : Cfg) (d : Side) (i : Nat) : Nat := fld (wd (slotRec c d i) 0) 56 52
def slotGate (c : Cfg) (d : Side) (i : Nat) : Nat := fld (wd (slotRec c d i) 1) 11 0
def slotEnergy (c : Cfg) (d : Side) (i : Nat) : Nat := fld (wd (slotRec c d i) 1) 31 16

/-- Twice the offset of slot i in 0.1 MHz (R120). -/
def slotOffset2 (c : Cfg) (d : Side) (i : Nat) : Int :=
  let p := sideGet c d 0x4001
  2 * sfld p 31 16 + (2 * (i : Int) - (slotCount c d - 1)) * fld p 15 0

/-- The longest DURATION of some slots. -/
def longest (c : Cfg) (d : Side) (l : List Nat) : Nat := (l.map (slotDur c d)).foldl max 0

/-- A curve number names a defined curve, or none. -/
def curveOk (c : Cfg) (n : Nat) : Bool := n = 0 || rec c.curves n ≠ []

/-- Does a gate of these slots and the reset of its integrator outlast a launch step (Table 07-4)? -/
def gateLate (c : Cfg) (d : Side) (l : List Nat) : Bool :=
  let t := sideGet c d 0x4003
  5 * window c d < 6 * groupCount c d * (fld t 7 0 + longest c d l + fld t 15 8 + 220)

/-- Check 0x03 on a side whose scan is not empty (R122). -/
def checkPlan (c : Cfg) (d : Side) : Option Nat :=
  let k := groupCount c d
  let sl := List.range (slotCount c d)
  let gs := List.range k
  let one := fun i => i + 8 * d.num
  if scanOf c d = [] then none else
  failIf (slotCount c d % k ≠ 0) 0xFFFF <|>
  (sl.find? fun i => 9600 < slotBand c d i * decim c d).map one <|>
  (sl.find? fun i => 96000 < 8 * (slotOffset2 c d i).natAbs + 10 * slotBand c d i).map one <|>
  failIf (44000 < 5 * (sl.map (slotBand c d)).sum) 0xFFFF <|>
  (sl.find? fun i => i + 1 < slotCount c d &&
    8 * fld (sideGet c d 0x4001) 15 0 < 5 * (slotBand c d i + slotBand c d (i + 1))).map one <|>
  (gs.find? fun g => 4095 < ((groupSlots c d g).map (slotAmp c d)).sum).map (fun g => one (g * (slotCount c d / k))) <|>
  (gs.find? fun g => gateLate c d (groupSlots c d g)).map (fun g => one (g * (slotCount c d / k))) <|>
  (sl.find? fun i => !curveOk c (slotShape c d i)).map one <|>
  failIf (!(curveOk c (fld (sideGet c d 0x4005) 4 0) && curveOk c (fld (sideGet c d 0x4004) 4 0))) 0xFFFF <|>
  failIf (gs.any fun g => (groupSlots c d g).all fun i => fld (sideGet c d 0xB001) (2 * i + 1) (2 * i) = 0) 0xFFFF

/-! ### Window, scan, thermal -/

/-- Main samples that a route needs of the window (R133). -/
def windowNeed (c : Cfg) (d : Side) (r : Nat) : Nat :=
  cdiv (24000 * routeIndex c r * routeLen c r) cLight +
    cdiv (6 * longest c d (List.range (slotCount c d))) 5 + routeGuard c r + proofGuard c d

/-- Check 0x06; a route without a record is check 0x07's. -/
def checkWindow (c : Cfg) (d : Side) : Option Nat :=
  ((scanRoutes c d).find? fun r => routeOk c r && window c d < windowNeed c d r).map (0x100 + ·)

/-- Check 0x07 (R133). -/
def checkScan (c : Cfg) (d : Side) : Option Nat :=
  let on := activeScan c d
  let one := fun (e : Nat × Word) => e.1 + 16 * d.num
  (on.find? fun e => !routeOk c (entryRoute d e.2)).map one <|>
  failIf (scanOf c d ≠ [] && on = []) 0xFFFF <|>
  if 2 ≤ (scanRoutes c d).length then
    (on.find? fun e => fld e.2 31 16 ≤ fld (sideGet c d 0x5010) 3 0).map one
  else none

/-- Check 0x08 on a side with ENABLE = 1 (Table 11-2). -/
def checkThermal (c : Cfg) (d : Side) : Option Nat :=
  let rs := (scanRoutes c d).filter fun r => routeOk c r && thZones c r ≠ []
  if !thEnable c d then none else
  (rs.find? fun r => thTrace c d <
    thZero c d + cdiv (3000 * routeIndex c r * routeLen c r) cLight + cdiv (routeGuard c r) 8).map (0x100 + ·) <|>
  failIf (15 * thPeriod c d < 40 * thTrace c d + 6000) 0xFFFF <|>
  (rs.find? fun r => refLen c r * 3000 * routeIndex c r < 16 * cLight).map (0x100 + ·) <|>
  ((sideZones c d).find? fun z => zoneThermal c z &&
    decide (fld (sideGet c d 0xA003) 15 0 * 3 * routeIndex c (zoneRoute c z) < cLight)) <|>
  failIf (131072 < ((thSide c d).map (thChans c)).sum) 0xFFFF

/-! ### The whole -/

/-- A check made per side: side A before side B. -/
def perSide (code : Nat) (f : Side → Option Nat) : Option Failure :=
  sideFault code .a (f .a) <|> sideFault code .b (f .b)

/-- Check 0x05 (R214): the sides named are those with a stream rate. -/
def checkBudget (s : State) (c : Cfg) : Option Failure :=
  if (budgetMbps (fld (rwGet s 0x7000) 1 0) * 1000000 : Rat) < acTotal c + thTotal c then
    some ⟨5, b2n (acSide c .a + thRate c .a ≠ 0) + 2 * b2n (acSide c .b + thRate c .b ≠ 0), 0xFFFF⟩
  else none

/-- Check 0x04 (R192), on the acquiring sides. -/
def checkLoad (s : State) (c : Cfg) : Option Failure :=
  if overload s c c (acquiring s .a) (acquiring s .b) then
    some ⟨4, b2n (acquiring s .a) + 2 * b2n (acquiring s .b), 0xFFFF⟩
  else none

/-- The first failed check of a configuration, in ascending code order; a Tack set is judged without 0x04 (R111). -/
def validate (s : State) (c : Cfg) (load : Bool) : Option Failure :=
  perSide 1 (checkOverlap c) <|> perSide 2 (checkLimits c) <|> perSide 3 (checkPlan c) <|>
  (if load then checkLoad s c else none) <|> checkBudget s c <|> perSide 6 (checkWindow c) <|>
  perSide 7 (checkScan c) <|> perSide 8 (checkThermal c)

/-- The failure as the commit reports it: check code and sides (R107). -/
def Failure.code16 (f : Failure) : Nat := f.code + 256 * f.sides

end Sys2Proof.Machine
end

