-- ==== Sys2Proof/Machine/Wave.lean ====
section
/-!
DEFINITION. Waveforms: envelope curves (R123, R124), the chirp of a slot, the codes of the waveform DACs (chapter 07), and
the replica with its window that compression correlates with (chapter 09, stage 4).
-/
namespace Sys2Proof.Machine

/-! ### Envelope curves (R123, R124) -/

/-- The share of the way from Y0 to Y1 at entry j, as a quotient: LOG with a, GAMMA with γ in 1/256. -/
def curveShare (type shape j : Nat) : Int × Nat :=
  if type = 1 then (log2Q (1023 + shape * j) 1023, (log2Q (1 + shape) 1).toNat)
  else if j = 0 then (0, 1) else (exp2Q (log2Q j 1023 * shape / 256), 2 ^ 60)

/-- Entry j of the 1024-point table of a curve. -/
def curveEntry (p : List Word) (j : Nat) : Nat :=
  let h := wd p 0
  let y0 : Int := fld h 31 16
  let y1 : Int := fld h 47 32
  if fld h 7 5 = 0 then (Config.quot 124 (y0 * (1023 - j) + y1 * j) 1023).toNat
  else if fld h 7 5 = 3 then
    let n := fld h 15 8 - 1
    let pt := fun k => fld (wd p (1 + k / 4)) (16 * (k % 4) + 15) (16 * (k % 4))
    (Config.quot 124 (pt (j * n / 1023) * (1023 - j * n % 1023) + pt (j * n / 1023 + 1) * (j * n % 1023) : Nat) 1023).toNat
  else
    let x := curveShare (fld h 7 5) (fld h 63 48) j
    (Config.quot 124 (y0 * x.2 + (y1 - y0) * x.1) x.2).toNat

/-- The gain of curve n at x = a / b, in 1/65535; 0 names none. -/
def curveGain (c : Cfg) (n a b : Nat) : Nat :=
  if n = 0 then 65535 else curveEntry (rec c.curves n) (nearest 124 (1023 * a) b)

/-- The pre-compensation p(g) of launch group g, at x = g / (k − 1). -/
def precomp (c : Cfg) (d : Side) (g : Nat) : Nat :=
  curveGain c (fld (sideGet c d 0x4005) 4 0) (if groupCount c d ≤ 1 then 0 else g) (max 1 (groupCount c d - 1))

/-! ### Chirps and DAC codes (chapter 07, "Slots and chirps") -/

/-- A down-chirp. -/
def slotDown (c : Cfg) (d : Side) (i : Nat) : Bool := bit (wd (slotRec c d i) 0) 20

/-- The baseband phase of a slot's chirp, h half main samples after its start, in 2^−32 cycle: σ · B · (t² / 2T − t / 2). -/
def chirpPhase (c : Cfg) (d : Side) (i h : Nat) : Int :=
  let b : Int := slotBand c d i
  let t : Int := slotDur c d i
  (if slotDown c d i then -1 else 1) * (b * h * (5 * h - 12 * t) * 2 ^ 32 / (576000 * t))

/-- The phase of a slot's offset fi over h half main samples, in 2^−32 cycle (R120). -/
def offsetPhase (c : Cfg) (d : Side) (i : Nat) (h : Int) : Int := slotOffset2 c d i * h * 2 ^ 32 / 48000

/-- The term of slot i in s(t) at DAC sample h after the first, in 2^−60 of 4095 · 65535². -/
def slotTerm (c : Cfg) (d : Side) (g h i : Nat) : Cplx :=
  if 5 * h < 12 * slotDur c d i then
    Cplx.scale (slotAmp c d i * curveGain c (slotShape c d i) (5 * h) (12 * slotDur c d i) * precomp c d g)
      (cis (offsetPhase c d i h + chirpPhase c d i h))
  else (0, 0)

/-- The I and Q codes of launch group g at DAC sample h: full scale is code 8191, rounded to 14 bits (R124; log 87). -/
def dacCode (c : Cfg) (d : Side) (g h : Nat) : Cplx :=
  let x := Cplx.sum ((groupSlots c d g).map (slotTerm c d g h))
  (nearestInt 124 (x.1 * 8191) (4095 * 65535 ^ 2 * 2 ^ 60), nearestInt 124 (x.2 * 8191) (4095 * 65535 ^ 2 * 2 ^ 60))

/-! ### Replica and window (stage 4, R173) -/

/-- cos of n / m cycles, in 2^−60. -/
def cosTurn (n m : Nat) : Int := (cis ((n : Int) * 2 ^ 32 / m)).1

/-- The compression window of Table 09-3 at n of m, in 2^−60 (log 87). -/
def windowWeight (code n m : Nat) : Int :=
  let m := max m 1
  match code with
  | 0 => 2 ^ 60
  | 1 => 2 ^ 60 + 2 * (341897 * -cosTurn n m - 14996 * cosTurn (2 * n) m - 3729 * cosTurn (3 * n) m) / 1000000
  | 2 => (54 * 2 ^ 60 - 46 * cosTurn n m) / 100
  | _ => (42 * 2 ^ 60 - 50 * cosTurn n m + 8 * cosTurn (2 * n) m) / 100

/-- One point of a slot's replica before normalisation: window times envelope, the chirp conjugate, and window times
envelope squared, which E sums. -/
structure ReplicaPoint where
  gain : Int
  turn : Cplx
  unit : Int

/-- The replica of slot i: Lr points (stage 4). -/
def replicaPoints (c : Cfg) (d : Side) (i : Nat) : List ReplicaPoint :=
  let lr := replica c d i
  (List.range lr).map fun n =>
    let e := curveGain c (slotShape c d i) n lr
    let w := windowWeight (fld (sideGet c d 0xB000) 1 0) n (lr - 1)
    { gain := w * e, turn := (cis (chirpPhase c d i (2 * n * decim c d))).conj, unit := w * e * e }

/-- E of a replica, in 2^−60 / 65535². -/
def replicaNorm (l : List ReplicaPoint) : Nat := ((l.map ReplicaPoint.unit).sum).toNat

end Sys2Proof.Machine
end

