-- ==== Sys2Proof/Machine/Trace.lean ====
section
/-!
DEFINITION. From the samples of the main lanes to compressed gates: inversion and flags of lane samples (chapter 08), and
stages 1 to 4 of the Currier array with gate formation (chapter 09). Full scale is amplitude 1 (log 88); aligned and
branch samples are in 2^−43 of it, compressed ones in 2^−24.
-/
namespace Sys2Proof.Machine

/-! ### Lane samples (R22, R150, R151, R156) -/

/-- The number of a main sample that lies i after a shot's commanded launch instant. -/
def Shot.sample (sh : Shot) (i : Nat) : Nat := 3 * sh.cycle + i

/-- A lane's code, negated where INVERT asks for it; that of the most negative code is not stated (R150). -/
def inverted (on : Bool) (x : Int) : Int := if !on then x else if x = -8192 then Config.unstated 150 [x] else -x

/-- One lane over a shot's window, ready for use: codes, and both flags by sample after the commanded instant. -/
structure LaneTrace where
  codes  : Array Int
  ovr    : Array Bool
  settle : Array Bool

/-- Lane k (0 to 3: XI, XQ, YI, YQ) of a side over a shot. -/
def laneTrace (s : State) (d : Side) (sh : Shot) (data : ShotData) (k : Nat) : LaneTrace :=
  let all := (data.lanes.getD k []).toArray
  let raw := all.extract 4 all.size
  let on := bit (sideGet sh.cfg d 0x5000) k
  let l := lane s (4 * d.num + k)
  let n := List.range raw.size
  { codes := raw.map fun x => inverted on x.code
    ovr := (n.map fun i => overAt 4 all (i + 4)).toArray
    settle := (n.map fun i => sh.settle || sh.discard || l.settles (sh.sample i)).toArray }

/-- The four lanes of a side over a shot. -/
def sideTraces (s : State) (d : Side) (sh : Shot) (data : ShotData) : List LaneTrace :=
  (List.range 4).map (laneTrace s d sh data)

/-- The launch counts as estimated (R119). -/
def Shot.estimated (sh : Shot) : Bool := sh.est || sh.align.isNone

/-- The lane word of sample m of the window (Table 01-6). -/
def laneWord (c : Cfg) (d : Side) (sh : Shot) (l : LaneTrace) (m : Nat) : Nat :=
  let i := sh.start.1 + m
  (mk [(0, 1, b2n (l.settle.getD i false || guarded c d m)), (1, 1, b2n (l.ovr.getD i false)),
    (2, 14, sbits 14 (l.codes.getD i 0))]).toNat

/-- The hide word of sample m of the window (Table 01-5). -/
def sampleWord (c : Cfg) (d : Side) (sh : Shot) (ls : List LaneTrace) (m : Nat) : Word :=
  mk (ls.zipIdx.map fun l => (16 * l.2, 16, laneWord c d sh l.1 m))

/-! ### Stage 1: alignment (R169) -/

/-- Sample i of polarisation p as a complex number; an over-ranged code counts as 0 (R174). -/
def polSample (ls : List LaneTrace) (p : Nat) (i : Int) : Cplx :=
  let one := fun k => match ls[2 * p + k]? with
    | some l => if i < 0 || l.ovr.getD i.toNat false then 0 else l.codes.getD i.toNat 0
    | none => 0
  (one 0, one 1)

/-- Tap k of 128 of the interpolation at a fraction of a sample in 1/1280, in 2^−30: sin (πx) / (πx) under the Blackman
window, which errs by less than 4 · 10⁻⁴ within ±570 MHz, and beside it what the 50 dB of R169 leave open (log 10). -/
def resampleTap (frac k : Nat) : Int :=
  let n : Int := 1280 * ((k : Int) - 63) - frac
  (cis (n * 2 ^ 32 / 2560)).2 * windowWeight 3 (n + 81920).toNat 163840 * 1280 / (n * pi60 * 2 ^ 30) +
    Config.tapSlack 169 [frac] 23000 k

/-- The lane signal at a position in 1/1280 sample after the commanded instant, in 2^−43: exact on a sample, else
interpolated from 128 neighbours (log 10). -/
def resampled (ls : List LaneTrace) (p : Nat) (x : Int) : Cplx :=
  let i := x / 1280
  if x % 1280 = 0 then Cplx.scale (2 ^ 30) (polSample ls p i)
  else Cplx.sum ((List.range 128).map fun (k : Nat) =>
    Cplx.scale (resampleTap (x % 1280).toNat k) (polSample ls p (i + k - 63)))

/-- The aligned trace of polarisation p at a position in 1/1280 sample after the launch edge. -/
def alignedAt (sh : Shot) (ls : List LaneTrace) (p : Nat) (x : Int) : Cplx :=
  resampled ls p (1280 * sh.start.1 + 5 * sh.start.2 + x)

/-- Sample m of the aligned trace: xp(t0 + (m + μ) / fs) (R169). -/
def aligned (sh : Shot) (ls : List LaneTrace) (p m : Nat) : Cplx := alignedAt sh ls p (1280 * m)

/-! ### Stages 2 and 3: channeliser and decimation (R171) -/

/-- GATE_LEAD in fifths of a main sample: the first chirp sample leaves so long after the launch edge. -/
def lead5 (c : Cfg) (d : Side) : Nat := 6 * fld (sideGet c d 0x4003) 7 0

/-- Slot i shifted to zero frequency, m main samples after the first chirp sample. -/
def shifted (c : Cfg) (d : Side) (sh : Shot) (ls : List LaneTrace) (b : Nat) (m : Int) : Cplx :=
  let z := (alignedAt sh ls (b % 2) (1280 * m + 256 * lead5 c d)).mul (cis (-(offsetPhase c d (b / 2) (2 * m))))
  (z.1 / 2 ^ 60, z.2 / 2 ^ 60)

/-- Samples 0 to n − 1 of a branch: filtered over 12 decimated samples, every D-th kept. -/
def branchStream (c : Cfg) (d : Side) (sh : Shot) (ls : List LaneTrace) (b n : Nat) : Array Cplx :=
  let dd := decim c d
  let x := ((List.range ((n + 12) * dd)).map fun (j : Nat) => shifted c d sh ls b ((j : Int) - 6 * dd)).toArray
  let taps := ((List.range (12 * dd)).map fun k => Config.channelTap (slotBand c d (b / 2)) dd k).toArray
  ((List.range n).map fun g =>
    let z := Cplx.sum ((List.range (12 * dd)).map fun k => Cplx.scale (taps.getD k 0) (x.getD (g * dd + k) (0, 0)))
    (z.1 / 2 ^ 30, z.2 / 2 ^ 30)).toArray

/-! ### Stage 4: compression -/

/-- The compressed sample of gate g: Σ r[n] · u[g + n]; with an envelope of zeros it is not stated. -/
def compress (rs : List ReplicaPoint) (u : Array Cplx) (g : Nat) : Cplx :=
  let z := Cplx.sum (rs.zipIdx.map fun r => Cplx.scale r.1.gain (r.1.turn.mul (u.getD (g + r.2) (0, 0))))
  let e := replicaNorm rs
  if e = 0 then (Config.unstated 172 [z.1, z.2, 0], Config.unstated 172 [z.1, z.2, 1])
  else (Config.quot 172 (z.1 * 65535) (e * 2 ^ 79), Config.quot 172 (z.2 * 65535) (e * 2 ^ 79))

/-! ### Gate formation (R174, R175) -/

/-- The compressed sample of one valid gate in one branch, in 2^−24. -/
structure GateSample where
  branch : Nat
  gate   : Nat
  re     : Int
  im     : Int

/-- The gates of a slot whose support lies in the window and before the trace-end guard: the first, and one past the
last. -/
def gateSpan (c : Cfg) (d : Side) (i : Nat) : Nat × Nat :=
  let dd := decim c d
  (cdiv (30 * dd - lead5 c d) (5 * dd),
    (5 * (window c d - proofGuard c d) - lead5 c d) / (5 * dd) + 1 - (replica c d i + 6))

/-- How many samples in the support of gate g of a branch a flag marks, on either lane of the polarisation. -/
def inSupport (c : Cfg) (d : Side) (sh : Shot) (ls : List LaneTrace) (flag : LaneTrace → Array Bool) (b g : Nat) : Nat :=
  let dd := decim c d
  let start := sh.start.1 + (5 * sh.start.2 + 256 * lead5 c d) / 1280 + g * dd - 6 * dd
  (List.range ((replica c d (b / 2) + 12) * dd)).countP fun m =>
    [2 * (b % 2), 2 * (b % 2) + 1].any fun k => match ls[k]? with | some l => (flag l).getD (start + m) false | none => false

/-- The support of gate g carries no SETTLE, and OVERRANGE no more often than Lr · D / 16. -/
def supportOk (c : Cfg) (d : Side) (sh : Shot) (ls : List LaneTrace) (b g : Nat) : Bool :=
  inSupport c d sh ls (·.settle) b g = 0 &&
    16 * inSupport c d sh ls (·.ovr) b g ≤ replica c d (b / 2) * decim c d

/-- The valid gates of a branch. -/
def branchGates (c : Cfg) (d : Side) (sh : Shot) (ls : List LaneTrace) (b : Nat) : List GateSample :=
  let span := gateSpan c d (b / 2)
  let rs := replicaPoints c d (b / 2)
  let u := branchStream c d sh ls b (span.2 + rs.length)
  (((List.range span.2).drop span.1).filter (supportOk c d sh ls b)).map fun g =>
    let y := compress rs u g
    { branch := b, gate := g, re := y.1, im := y.2 }

/-- Nothing of the shot may be used: estimated launch, settling, discarded. -/
def Shot.void (sh : Shot) : Bool := sh.estimated || sh.settle || sh.discard || sh.late

/-- Every branch of a launch group. -/
def allBranches (c : Cfg) (d : Side) (group : Nat) : List Nat :=
  (groupSlots c d group).flatMap fun i => [2 * i, 2 * i + 1]

/-- The valid gates of a launch in every branch of its group; none with both polarisations excluded (R175). -/
def validGates (s : State) (d : Side) (sh : Shot) (data : ShotData) : List GateSample :=
  if sh.void || shotExcl s d sh = 3 then []
  else (allBranches sh.cfg d sh.group).flatMap (branchGates sh.cfg d sh (sideTraces s d sh data))

/-! ### Noise (R179, R199) -/

/-- Gate g of a route is a guard gate: beyond L and within L plus GUARD main samples. -/
def guardGate (c : Cfg) (r g : Nat) : Bool :=
  let x := g * decim c (routeSide r) * cLight
  let l := 24000 * routeIndex c r * routeLen c r
  l < x && x ≤ l + routeGuard c r * cLight

/-- The mean power of a branch over its noise gates: the last 1024 valid guard gates; none with fewer than 64. -/
def guardNoise (c : Cfg) (r b : Nat) (l : List GateSample) : Option Nat :=
  let xs := ((l.filter fun x => x.branch = b && guardGate c r x.gate).reverse).take 1024
  if xs.length < 64 then none
  else some (Config.quot 179 ((xs.map fun x => x.re * x.re + x.im * x.im).sum) xs.length).toNat

/-- The squared magnitudes of the response of stages 2 to 4 together, one for each main sample of a gate's support, summed:
channel filter and replica, before E divides. -/
def stagePower (c : Cfg) (d : Side) (i : Nat) : Nat :=
  let dd := decim c d
  let rs := (replicaPoints c d i).toArray
  let taps := ((List.range (12 * dd)).map fun k => Config.channelTap (slotBand c d i) dd k).toArray
  ((List.range ((rs.size + 12) * dd)).map fun m => Cplx.normSq (Cplx.sum ((List.range 12).map fun j =>
    match if j ≤ m / dd then rs[m / dd - j]? else none with
    | some r => Cplx.scale (r.gain * taps.getD (m % dd + j * dd) 0) r.turn
    | none => (0, 0)))).sum

/-- The noise power of a branch from the lane noise of the last foreground calibration, in 2^−16 squared codes, taken as white
(log 10), scaled through stages 2 to 4; with an envelope of zeros it is not stated. -/
def calNoise (s : State) (c : Cfg) (d : Side) (b : Nat) : Nat :=
  let k := 4 * d.num + 2 * (b % 2)
  let p := (calGroup s k).noise + (calGroup s (k + 1)).noise
  let e := replicaNorm (replicaPoints c d (b / 2))
  if e = 0 then (Config.unstated 179 [p]).toNat
  else (Config.quot 179 (p * stagePower c d (b / 2) * 65535 ^ 2 : Nat) (e ^ 2 * 2 ^ 174)).toNat

end Sys2Proof.Machine
end

