-- ==== Sys2Proof/Machine/Currier.lean ====
section
/-!
DEFINITION. The Currier array from stage 5 on (chapter 09) and zone decimation (chapter 10): combining, laser-phase
removal, unwrapping, channels, restarts, outputs with their frames, and baseline capture. Powers and products are in
2^−48 of full scale squared, phases and increments in 2^−32 cycle, trackers in 2^−16.
-/
namespace Sys2Proof.Machine

/-! ### Parameters -/

def alignShift (c : Cfg) (d : Side) : Nat := fld (sideGet c d 0xB002) 3 0
def slipLim (c : Cfg) (d : Side) : Nat := fld (sideGet c d 0xB003) 7 0
def gapGroups (c : Cfg) (d : Side) : Nat := fld (sideGet c d 0xB003) 15 8
def returnMs (c : Cfg) (d : Side) : Nat := fld (sideGet c d 0xB003) 31 16
def refSlip (c : Cfg) (d : Side) : Nat := fld (sideGet c d 0xB003) 39 32
def fadeMin (c : Cfg) (d : Side) : Nat := fld (sideGet c d 0xB004) 7 0
def zonePct (c : Cfg) (d : Side) : Nat := fld (sideGet c d 0xB004) 15 8

/-- The branches of a launch group that take part in combining (R175, R194). -/
def branchesOf (s : State) (c : Cfg) (d : Side) (sh : Shot) : List Nat :=
  ((groupSlots c d sh.group).flatMap fun i => [2 * i, 2 * i + 1]).filter fun b =>
    bit (sideGet c d 0xB001) b && !(shotExcl s d sh).testBit (b % 2)

/-! ### Stage 5: products (R176) -/

/-- The sample of a branch at a gate. -/
def sampleAt (l : List GateSample) (b g : Nat) : Option GateSample := l.find? fun x => x.branch = b && x.gate = g

/-- The conjugate product across the gauge. -/
def productAt (l : List GateSample) (gauge b g : Nat) : Option Cplx :=
  match sampleAt l b g, sampleAt l b (g + gauge) with
  | some x, some y => some (y.re * x.re + y.im * x.im, y.im * x.re - y.re * x.im)
  | _, _ => none

/-! ### Stage 6: combining (R177, R178) -/

/-- What a launch gives of one gate pair: its state afterwards, the combined phasor with its magnitude, the noise of the
branches summed, and the raw increment in 2^−32 cycle where one was measured. `fresh`: valid, and newly initialised. -/
structure GateOut where
  track : GateTrack
  c     : Cplx
  mag   : Nat
  noise : Nat
  delta : Option Int
  valid : Bool
  fresh : Bool

/-- A gate pair that nothing has initialised. -/
def GateTrack.empty (g : Nat) : GateTrack := { gate := g, psi := none, trk := [] }

/-- A tracker's phase. -/
def trkOf (t : GateTrack) (b : Nat) : Option Int := (t.trk.find? fun x => x.1 = b).map (·.2)

/-- A tracker after one more launch: unit(A + 2^−a · (unit(w) − A)); a w of 0 leaves it as it is. -/
def track (a : Nat) (p : Int) (w : Cplx) : Int :=
  if w = (0, 0) then p
  else argQ 177 16 (Cplx.add (Cplx.scale (2 ^ a - 1) (cis (p * 65536))) (cis (angle40 w / 256)))

/-- A tracker that is initialised: unit(v), or unit(v · cis(−ψ)) once the gate has a phase (R178). -/
def newTracker (psi : Option Int) (v : Cplx) : Int :=
  argQ 178 16 (match psi with | some q => turn 178 v (-q) | none => v)

/-- One launch at one gate pair: `vs` the products of its valid, enabled branches, `a` the tracker shift, `noise` by
branch. -/
def combine (a : Nat) (noise : List Nat) (t : GateTrack) (vs : List (Nat × Cplx)) : GateOut :=
  if vs = [] then { track := t, c := (0, 0), mag := 0, noise := 0, delta := none, valid := false, fresh := false } else
  let known := t.psi.isSome && vs.any fun v => (trkOf t v.1).isSome
  let phase := fun (v : Nat × Cplx) => (trkOf t v.1).getD (newTracker t.psi v.2)
  let c := Cplx.sum (vs.map fun v => turn 177 v.2 (-(phase v) * 65536))
  let next := vs.map fun v => (v.1, if t.psi.isNone then phase v else track a (phase v) (v.2.mul c.conj))
  { track := { gate := t.gate, psi := some (argQ 177 32 c),
               trk := (t.trk.filter fun x => !vs.any fun v => v.1 = x.1) ++ next }
    c := c, mag := magnitude 177 c, noise := (vs.map fun v => noise.getD v.1 0).sum
    delta := match t.psi with
      | some q => if known then some (argQ 177 32 (turn 177 c (-q))) else none
      | none => none
    valid := true, fresh := !known }

/-- A gate pair of a gauge in a launch. -/
def gateLaunch (a gauge : Nat) (noise : List Nat) (l : List GateSample) (bs : List Nat) (t : GateTrack) : GateOut :=
  combine a noise t (bs.filterMap fun b => (productAt l gauge b t.gate).map fun v => (b, v))

/-- The kept track of a gate. -/
def trackOf (ts : List GateTrack) (g : Nat) : GateTrack := (ts.find? fun t => t.gate = g).getD (GateTrack.empty g)

/-! ### Stage 7: the reference section (R181, R182) -/

/-- A phase in 2^−32 cycle brought into (−0.5, 0.5]. -/
def wrap (x : Int) : Int := (x + (2 ^ 31 - 1)) % 2 ^ 32 - (2 ^ 31 - 1)

/-- The weighted mean of increments; 0 of none, and not stated when all weights are 0. -/
def weighted (place : Nat) (l : List (Nat × Int)) : Int :=
  let w := (l.map (·.1)).sum
  if l = [] then 0 else if w = 0 then Config.unstated place (l.map (·.2))
  else Config.quot place ((l.map fun x => (x.1 : Int) * x.2).sum) w

/-- The increments of valid gates, with their magnitudes; a newly initialised gate yields 0 (R178). -/
def measured (l : List GateOut) : List (Nat × Int) := (l.filter (·.valid)).map fun g => (g.mag, g.delta.getD 0)

/-- The reference of a launch: increment, removal off, too few valid gates. -/
def reference (c : Cfg) (r : Nat) (l : List GateOut) : Int × Bool × Bool :=
  let n := (refGatesOf c r).length
  let miss := 4 * l.countP (·.valid) < n
  if n < 64 then (0, true, false) else (if miss then 0 else weighted 181 (measured l), false, miss)

/-! ### Fade margins (R179, R183) -/

/-- The fade margin of a magnitude against a noise power, 0.25 dB units; without either it is not stated. -/
def fadeMargin (m noise drawn : Nat) : Nat :=
  if m = 0 && noise = 0 then Config.free 179 drawn % 256
  else ((List.range 256).drop 1).countP fun n => 10 ^ (2 * n - 1) * noise ^ 80 ≤ m ^ 80

/-- A gate's own margin lies below FADE_MIN. -/
def gateFaded (fm m noise : Nat) : Bool := m ^ 40 < 10 ^ fm * noise ^ 40

/-! ### Stages 8 and 9: one channel in one launch group (R183 to R188) -/

/-- What a launch group brings to every channel of a zone: its valid gates, the branches that combine and the noise by
branch, the reference, and the flags that the shot carries: UNLOCKED, a hold in force, and settle groups, which count
toward no gap. -/
structure LaunchIn where
  cfg      : Cfg
  side     : Side
  gates    : List GateSample
  bs       : List Nat
  noise    : List Nat
  ref      : Int
  refMiss  : Bool
  unlocked : Bool
  held     : Bool
  settle   : Bool
  visit    : Nat
  count    : Nat
  drawn    : Nat

/-- A channel after a launch group, its gates, its sample, and what is to be reported: slipped, and restarted. -/
structure ChanOut where
  chan   : Channel
  gates  : List GateTrack
  slip   : Bool
  again  : Bool

/-- The channel's increment is measured over its gates, as they stand. A sample coded 0b10 has δch = 0 (R184, R208; log
89). Discarded settle groups do not count among the groups of R187 (DESIGN CHOICE, log 115). -/
def channelMeasure (x : LaunchIn) (gauge : Nat) (ch : Channel) (ts : List GateTrack) : ChanOut × Nat :=
  let outs := ts.map (gateLaunch (alignShift x.cfg x.side) gauge x.noise x.gates x.bs)
  let cor := outs.filterMap fun g => g.delta.map fun v => (g, wrap (v - Config.quot 181 (x.ref * gauge) 16))
  let slips := fun (g : GateOut × Int) => slipLim x.cfg x.side ≠ 0 && slipLim x.cfg x.side * 2 ^ 24 < g.2.natAbs &&
    gateFaded (fadeMin x.cfg x.side) g.1.mag g.1.noise
  let use := cor.filter fun g => !slips g
  let slip := cor.any slips
  let valid := outs.filter (·.valid)
  let fm := fadeMargin ((valid.map (·.mag)).sum) ((valid.map (·.noise)).sum) x.drawn
  let fresh := outs.any (·.fresh)
  let unfit := use = [] || ch.settle ≠ 0 || fresh
  let delta := if unfit then 0 else weighted 184 (use.map fun g => (g.1.mag, g.2))
  let low := (fadeMin x.cfg x.side ≠ 0 && fm < fadeMin x.cfg x.side) || x.refMiss || x.unlocked || slip
  let z := Cplx.sum (use.map (·.1.c))
  let smp : ChanSample :=
    { count := x.count, delta := delta, quality := if x.held then 3 else if unfit then 2 else b2n low, fade := fm,
      re := z.1, im := z.2 }
  let gap := if use ≠ [] || fresh then 0 else if x.settle then ch.gap else ch.gap + 1
  ({ chan := { ch with phi := ch.phi + delta, gap := gap, settle := if x.settle then ch.settle else ch.settle - 1,
                       hist := smp :: ch.hist },
     gates := outs.map (·.track), slip := slip, again := false }, if fresh then 1 else use.length)

/-- A channel after a restart (R187): Φ is kept. -/
def Channel.restart (a : Nat) (ch : Channel) : Channel := { ch with gap := 0, settle := 4 * 2 ^ a }

/-- One channel in one launch group; a gap beyond GAP_GROUPS restarts it at the first group after it (R188). -/
def channelStep (x : LaunchIn) (gauge : Nat) (ch : Channel) (ts : List GateTrack) : ChanOut :=
  let y := channelMeasure x gauge ch ts
  if gapGroups x.cfg x.side < ch.gap && y.2 ≠ 0 then
    let z := channelMeasure x gauge (ch.restart (alignShift x.cfg x.side)) (ts.map fun t => GateTrack.empty t.gate)
    { z.1 with again := true }
  else y.1

/-! ### Restarts of zones (R187, Table 09-5) -/

/-- K of Table 10-4. -/
def settleOutputs (c : Cfg) (z : Nat) : Nat :=
  let r := zoneRate c z
  if r = 0 then 0 else if zoneBoxcar c z then 1
  else if r = 1 then 11 else if r = 2 then 17 else if r = 3 then 20 else if r = 4 then 21 else 22

/-- The decimator of a zone is cleared (R208), its detectors with it (R246). -/
def clearDecimator (c : Cfg) (z : Nat) (s : State) : State :=
  setZone z (fun x => { x with settle := settleOutputs c z
                               chans := x.chans.map fun ch => { ch with hist := [], det := Detector.init } }) s

/-- The channels of a zone, as many as it has. -/
def fitChans (n : Nat) (l : List Channel) : List Channel := l.take n ++ List.replicate (n - l.length) Channel.init

/-- A zone restarts; its open record closes with cause RESTART. -/
def restartZone (d : Side) (c : Cfg) (z : Nat) (s : State) : State :=
  let s1 := closeRecord d z 5 (nsOfTag (now s)) s
  let s2 := setZone z (fun x => { x with gates := [], chans := (fitChans (zoneChans c z) x.chans).map (·.restart (alignShift c d)) }) s1
  setCur d (fun u => { u with restarts := sat 16 (u.restarts + 1) }) (clearDecimator c z s2)

/-- The acoustic zones of a side, or of a route. -/
def acousticOf (c : Cfg) (d : Side) : List Nat := (zoneNums c).filter fun z => zoneSide c z == d && zoneAcoustic c z
def acousticOn (c : Cfg) (r : Nat) : List Nat := (zonesOn c r).filter (zoneAcoustic c)

def restartSide (d : Side) (c : Cfg) (s : State) : State :=
  setCur d (fun u => { u with refGates := [] })
    ((acousticOf c d).foldl (fun s z => restartZone d c z s) s)

/-- Every zone of a route restarts, with EV_UNWRAP_SLIP (Table 09-5); with no zone on it nothing restarts (log 55). The gates of
its reference section go on (DESIGN CHOICE, log 115). -/
def restartRoute (d : Side) (c : Cfg) (r : Nat) (s : State) : State :=
  if acousticOn c r = [] then s else post evUnwrapSlip (r + 0x4000 + 0x8000) ((acousticOn c r).foldl (fun s z => restartZone d c z s) s)

/-- What a used slot's chirp is (Table 09-5). -/
def slotChirp (c : Cfg) (d : Side) (i : Nat) : List Nat :=
  let w := wd (slotRec c d i) 0
  [fld w 19 8, fld w 20 20, fld w 38 24, fld w 56 52]

/-- SLOT_PLAN and SLOT_SPACING of a side, and the chirps of its slots with the curves they name: new content of such a curve
is a change of the plan (R190, R216; DEDUCED, log 97). -/
def slotPlan (c : Cfg) (d : Side) : List (List Nat) :=
  [(sideGet c d 0x4000).toNat, (sideGet c d 0x4001).toNat] :: (List.range (slotCount c d)).flatMap fun i =>
      [slotChirp c d i, (rec c.curves (slotShape c d i)).map (·.toNat)]

/-- The side's slot use: its slot plan, in which the content of the curves that used slots name counts (DEDUCED, log 97),
WINDOW, COMPRESS and BRANCH_MASK. -/
def slotUse (c : Cfg) (d : Side) : List (List Nat) :=
  [(sideGet c d 0x4002).toNat, (sideGet c d 0xB000).toNat, (sideGet c d 0xB001).toNat] :: slotPlan c d

/-- Gauge, channel spacing and extent of a zone; its route and enable stand with its extent. -/
def zoneShape (c : Cfg) (z : Nat) : List Nat :=
  [zoneRoute c z, zoneGauge c z, zoneSpacing c z, zoneStart c z, zoneEnd c z, b2n (zoneAcoustic c z)]

/-- What R200 names of a route. -/
def routeShape (c : Cfg) (r : Nat) : List Nat := [routeIndex c r, routeLen c r, routeGuard c r, refStart c r, refLen c r]

/-- The routes of a side that a commit gives another shape (R200). -/
def routesMoved (d : Side) (old new : Cfg) : List Nat := (sideRoutes d).filter fun r => routeShape old r ≠ routeShape new r

/-- The zones of a side restart or clear as a launch on route r under a new configuration asks: what Table 09-5 names at the
configuration's first launch (R190, R208), the route's zones at the first launch on it (R200). Every commit since the last
launch counts, `via` holding the configurations that no launch had. Zones that the old configuration alone has lose their
record. -/
def changeOver (d : Side) (r : Nat) (moved : Bool) (old : Cfg) (via : List Cfg) (new : Cfg) (s : State) : State :=
  let differs := fun (f : Cfg → Cfg → Bool) => ((old :: via).zip (via ++ [new])).any fun p => f p.1 p.2
  let gone := (acousticOf old d).filter fun z => !(acousticOf new d).contains z
  let s1 := gone.foldl (fun s z => closeRecord d z 5 (nsOfTag (now s)) s) s
  let s2 := setCur d (fun u => { u with
    refGates := if moved then kvSet [] u.refGates r [] else u.refGates }) s1
  if differs (fun a b => slotUse a d ≠ slotUse b d) then restartSide d new s2 else
  (acousticOf new d).foldl (fun s z =>
    if differs (fun a b => zoneShape a z ≠ zoneShape b z) || (moved && zoneRoute new z = r) then restartZone d new z s
    else if differs (fun a b => zoneRate a z ≠ zoneRate b z || zoneBoxcar a z ≠ zoneBoxcar b z) then clearDecimator new z s
    else s) s2

/-! ### Outputs (R206 to R212) -/

/-- Channel samples in the filter support, newest first. -/
def supportOf (r : Nat) (boxcar : Bool) (count : Nat) (l : List ChanSample) : List ChanSample :=
  let n := if r = 0 then 1 else if boxcar then 2 ^ r else 22 * (2 ^ r - 1) + 1
  l.filter fun x => count < x.count + n

/-- The increment of launch group j; 0 where the channel has none. -/
def deltaAt (l : List ChanSample) (j : Nat) : Int := ((l.find? fun x => x.count = j).map (·.delta)).getD 0

/-- Tap k of the 23 of a half-band stage, in 2^−30: a half in the centre, 0 at the other even places, and even around the
centre. -/
def halfbandTap (k : Nat) : Int :=
  if k = 11 then 2 ^ 29 else if k % 2 = 1 then 0 else Config.halfTap ((max k 11 - min k 11) / 2)

/-- One half-band stage: every second sample of the filtered row, newest first. -/
def halfStage (l : List Int) : List Int :=
  (List.range (l.length / 2 + 1)).map fun m => ((List.range 23).map fun k => halfbandTap k * l.getD (2 * m + k) 0).sum

/-- The cascade of r identical stages (R207): its newest output, in 2^(−30 r) of the increments' unit. -/
def halfCascade : Nat → List Int → Int
  | 0, l => l.headD 0
  | r + 1, l => halfCascade r (halfStage l)

/-- v of an output sample at launch group `count`, in 2^−32 cycle. -/
def outputV (r : Nat) (boxcar : Bool) (count : Nat) (l : List ChanSample) : Int :=
  if r = 0 || boxcar then (l.map (·.delta)).sum
  else Config.quot 207 (2 ^ r * halfCascade r ((List.range (22 * (2 ^ r - 1) + 1)).map fun i =>
    if i ≤ count then deltaAt l (count - i) else 0)) (2 ^ (30 * r))

/-- A value in the zone's format (R210 to R212), and whether it was clamped. -/
def formatValue (f k : Nat) (v sum re im : Int) : Int × Bool :=
  if f = 0 then let x := prRound k v; (clampS 16 x, x ≠ clampS 16 x)
  else if f = 1 then let x := prRound (k - 4) v; (clampS 12 x, x ≠ clampS 12 x)
  else if f = 2 then ((BitVec.ofInt 32 (Config.quot 211 sum 65536)).toInt, false)
  else
    let c := fun x : Int => max (-32767) (min 32767 x)
    let a := Config.quot 212 re (2 ^ 36)
    let b := Config.quot 212 im (2 ^ 36)
    ((sbits 16 (c a) + 65536 * sbits 16 (c b) : Nat), a ≠ c a || b ≠ c b)

/-- One channel's output at an output instant: the channel, the sample, and whether it was clamped. -/
def channelOutput (c : Cfg) (z count : Nat) (flagged : Bool) (ch : Channel) : Channel × OutSample × Bool :=
  let l := supportOf (zoneRate c z) (zoneBoxcar c z) count ch.hist
  let v := outputV (zoneRate c z) (zoneBoxcar c z) count l
  let sum := if zoneBoxcar c z || zoneRate c z = 0 then ch.phi else ch.sum + v
  let newest := l.head?
  let x := formatValue (zoneFormat c z) (zoneK c z) v sum (newest.elim 0 (·.re)) (newest.elim 0 (·.im))
  let worst : Nat := (l.map (·.quality)).foldl max (if flagged then 2 else 0)
  let held := decide (worst = 3)
  let val := if held then ch.value else x.1
  ({ ch with sum := sum, value := val },
   { value := val, v := v, quality := if held then 3 else if x.2 then max worst 2 else worst,
     fade := newest.elim 0 (·.fade) }, x.2 && !held)

/-- The instant of an output in ns, and in quarters of a ns of the monotonic count: `tags` the launch groups' tags with their
core cycles, newest first (R209); of one before the first launch group none is stated. -/
def outputAt (c : Cfg) (z : Nat) (tags : List (Nat × Nat)) (drawn : Nat) : Nat × Int :=
  let r := zoneRate c z
  let at' := fun i => tags.getD i (Config.free 209 drawn, Config.free 209 (drawn + 1))
  if zoneBoxcar c z && r ≠ 0 then
    let x := at' 0
    let y := at' (2 ^ r - 1)
    ((Config.quot 209 (x.1 + y.1 : Nat) 2).toNat, 5 * (x.2 + y.2))
  else
    let x := at' (if r = 0 then 0 else 11 * (2 ^ r - 1))
    (x.1, 10 * x.2)

/-- The ACOUSTIC frames of an output instant (R213, R316). -/
def acousticFrames (c : Cfg) (z : Nat) (tag : Word) (xs : List OutSample) : List Frame :=
  let f := zoneFormat c z
  (splitFrames xs.length (acFull f (zoneFade c z))).map fun x =>
    let ys := (xs.drop x.1).take x.2
    { zoneFrame 1 z (zoneRoute c z) x.1 x.2 tag
        (packed (formatBits f) (ys.map fun y => sbits (formatBits f) y.value) ++ packed 2 (ys.map (·.quality)) ++
          if zoneFade c z then packed 8 (ys.map (·.fade)) else []) with
      fade := zoneFade c z, format := f, prk := zoneK c z - 8, bad := false }

/-- An output instant of a zone is formed and delivered to the stream, the history ring and Girth (R21). -/
def zoneOutput (d : Side) (c : Cfg) (z count : Nat) (s : State) : State :=
  let zr := zoneRun s z
  let outs := zr.chans.map (channelOutput c z count (zr.settle ≠ 0))
  let x := outputAt c z (s.cur.get d).tags s.drawn
  let tag := tagOfNs x.1
  let xs := outs.map (·.2.1)
  let clamped := outs.countP (·.2.2)
  let fs := acousticFrames c z tag xs
  let s1 := setZone z (fun x => { x with chans := outs.map (·.1), settle := x.settle - 1 }) { s with drawn := s.drawn + 2 }
  let s2 := setCur d (fun u => { u with satCount := sat 32 (u.satCount + clamped) }) s1
  let s3 := if zoneStream c z then enqueueAll fs s2 else s2
  let s4 := if zoneHistory c z then fs.foldl (fun s f => ringFrame f s) s3 else s3
  let out : ZoneOut := { side := d, zone := z, tag := tag, at' := x.2, visit := zr.visit, cfg := c, samples := xs }
  { s4 with girth := { s4.girth with waiting := s4.girth.waiting ++ [out] } }

/-! ### One launch group of a zone -/

/-- History of a channel as long as its filter needs it. -/
def Channel.trim (n : Nat) (ch : Channel) : Channel := { ch with hist := ch.hist.take n }

/-- A second has passed since the last such event, if any. -/
def aSecond (s : State) (t : Option Nat) : Bool := match t with
  | some x => decide (x + sCycles ≤ s.tb.mono)
  | none => true

/-- One launch group of a zone: its channels, the counts, and the slip and restart events. -/
def zoneLaunch (d : Side) (x : LaunchIn) (z : Nat) (s : State) : State :=
  let c := x.cfg
  let refs := refGatesOf c (zoneRoute c z)
  let zr := zoneRun s z
  let keep := 22 * 2 ^ zoneRate c z + 1
  let outs := (fitChans (zoneChans c z) zr.chans).zipIdx.map fun ch =>
    channelStep { x with drawn := x.drawn + ch.2 } (zoneGauge c z)
      (if zr.visit = x.visit then ch.1 else { ch.1 with gap := 0 })
      (((chanGates c z ch.2).filter fun g => !refs.contains g).map (trackOf zr.gates))
  let slips := outs.countP (·.slip)
  let again := outs.any (·.again)
  let slipNow := slips ≠ 0 && aSecond s zr.slipAt
  let restNow := again && aSecond s zr.restAt
  let s1 := setZone z (fun y => { y with
      chans := outs.map fun o => o.chan.trim keep, gates := outs.flatMap (·.gates), visit := x.visit
      samples := y.samples + outs.length
      faded := y.faded + outs.countP fun o => match o.chan.hist with | h :: _ => h.quality = 1 | [] => false
      slipAt := if slipNow then some s.tb.mono else y.slipAt
      restAt := if restNow then some s.tb.mono else y.restAt }) s
  let s2 := setCur d (fun u => { u with slips := sat 16 (u.slips + slips) }) { s1 with drawn := s1.drawn + outs.length }
  postIf restNow evUnwrapSlip (z + 0x8000) (postIf slipNow evUnwrapSlip z s2)

/-- The output instants of a launch group: zones of the route whose block ends with it (R206). -/
def zoneOutputs (d : Side) (c : Cfg) (r count : Nat) (s : State) : State :=
  ((acousticOn c r).filter fun z => count % 2 ^ zoneRate c z = 2 ^ zoneRate c z - 1).foldl
    (fun s z => zoneOutput d c z count s) s

/-! ### Fading over a second (R180) -/

/-- The share of a zone in the interval that ends; one without a sample leaves the zone as it was (DESIGN CHOICE, log 116). -/
def fadeZone (pct z : Nat) (s : State) : State :=
  let x := zoneRun s z
  let low := pct ≠ 0 && pct * x.samples < 100 * x.faded
  postIf (low && !x.fadeUp) evFadeLow z
    (setZone z (fun y => { y with samples := 0, faded := 0, fadeUp := if y.samples = 0 then y.fadeUp else low }) s)

/-- A 1 s interval, counted from ACQ_START, has ended. -/
def fadeSecond (d : Side) (s : State) : State :=
  let t := (s.cur.get d).second
  if s.tb.mono < t + sCycles then s else
  let c := cfgOf s d
  (acousticOf c d).foldl (fun s z => fadeZone (zonePct c d) z s)
    (setCur d (fun u => { u with second := t + (s.tb.mono - t) / sCycles * sCycles }) s)

/-- The intervals of both sides, where they run. -/
def fadeSeconds (s : State) : State := bothSides (fun d s => if acquiring s d then fadeSecond d s else s) s

/-! ### Baselines, delta traces and breaks -/

/-- Add powers. -/
def addPowers (p q : List (Nat × Nat)) : List (Nat × Nat) := q.foldl (fun p x => bump p x.1 x.2) p

/-- Backscatter power of the gates of a route in a branch of a shot: |yb[g]|², whether the gate is valid or not (R215). -/
def branchPowers (c : Cfg) (d : Side) (sh : Shot) (ls : List LaneTrace) (b : Nat) : List (Nat × Nat) :=
  let n := routeGates c sh.route
  let rs := replicaPoints c d (b / 2)
  let u := branchStream c d sh ls b (n + rs.length)
  (List.range n).map fun g => (g, (compress rs u g).normSq)

/-- The same summed over the branches of a shot. -/
def powers (c : Cfg) (d : Side) (sh : Shot) (ls : List LaneTrace) : List (Nat × Nat) :=
  (allBranches c d sh.group).foldl (fun p b => addPowers p (branchPowers c d sh ls b)) []

/-- A complete shot group of a route with no SETTLE sample, the last of it launched at a core cycle: the capture takes it
where it was launched since the capture started, and the delta trace. -/
def cleanGroup (c : Cfg) (d : Side) (r cycle : Nat) (s : State) : State :=
  let u := s.cur.get d
  let b := baseline s r
  let s1 := if b.state = 1 && u.unheld && b.done < b.want && b.since ≤ cycle then
      setBase r (fun x => { x with done := x.done + 1, sums := addPowers x.sums u.power }) s else s
  let n := deltaGroups c d
  if n ≠ 0 && b.state = 2 && (deltaOf s r).done < n then
    setDelta r (fun x => { x with done := x.done + 1, sums := addPowers x.sums u.power }) s1
  else s1

/-- No sample of a shot's lanes carries SETTLE, the trace-end guard apart, and the launch is measured (log 90). -/
def cleanShot (sh : Shot) (ls : List LaneTrace) : Bool := !(sh.void) && ls.all fun l => l.settle.all (! ·)

/-- The launch group enters the shot group's power p; the last one completes it. Every shot group is checked for a break
but settle groups and those whose gates are not used (R170, R261, R262). -/
def groupPower (d : Side) (c : Cfg) (sh : Shot) (p : List (Nat × Nat)) (ok : Bool) (noise : Nat) (s : State) : State :=
  let s1 := setCur d (fun u =>
    if sh.group = 0 then { u with power := p, clean := ok, unheld := !sh.held }
    else { u with power := addPowers u.power p, clean := u.clean && ok, unheld := u.unheld && !sh.held }) s
  let s2 := if sh.group = 0 then
      let s' := setDelta sh.route (fun x => { x with lastAt := sh.tag }) s1
      if sh.void then s' else checkBreak c d sh.route (kvGet 0 p) noise sh.tag s'
    else s1
  if sh.group + 1 = groupCount c d && (s2.cur.get d).clean then cleanGroup c d sh.route sh.cycle s2 else s2

/-! ### A shot's output -/

/-- A guard estimate averaged with a weight of 1/64 (R179; log 35). -/
def averaged (old new : Nat) : Nat := if old = 0 then new else (old + Config.quot 179 ((new : Int) - old) 64).toNat

/-- The noise of one branch of a launch: the averaged guard estimate, or the lane noise of calibration as it is (R179). The
average is one for a branch of the side, over routes and starts of acquisition (DESIGN CHOICE, log 116). -/
def branchNoise (s : State) (d : Side) (sh : Shot) (l : List GateSample) (b : Nat) (u : Currier) : Currier :=
  match guardNoise sh.cfg sh.route b l with
  | some x =>
    let n := averaged (u.guard.getD b 0) x
    { u with guard := u.guard.set b n, noise := u.noise.set b n }
  | none => { u with noise := u.noise.set b (calNoise s sh.cfg d b), noiseCal := true }

/-- The noise of a launch group's branches (R179). -/
def takeNoise (d : Side) (sh : Shot) (l : List GateSample) (s : State) : State :=
  setCur d (fun u => (allBranches sh.cfg d sh.group).foldl (fun u b => branchNoise s d sh l b u)
    { u with noiseCal := sh.group ≠ 0 && u.noiseCal }) s

/-- The reference section takes the launch; a jump restarts the route's zones from it on (R182). -/
def takeReference (d : Side) (c : Cfg) (sh : Shot) (l : List GateSample) (bs : List Nat) (s : State) : (Int × Bool) × State :=
  let r := sh.route
  let kept := kvGet [] (s.cur.get d).refGates r
  let outs := (refGatesOf c r).map fun g => gateLaunch (alignShift c d) 16 (s.cur.get d).noise l bs (trackOf kept g)
  let x := reference c r outs
  let s1 := setCur d (fun u => { u with
    refGates := if x.2.1 then u.refGates else kvSet [] u.refGates r (outs.map (·.track))
    refMiss := if x.2.2 then sat 16 (u.refMiss + 1) else u.refMiss }) s
  let jump := refSlip c d ≠ 0 && refSlip c d * 2 ^ 24 < x.1.natAbs
  ((x.1, x.2.2), if jump then restartRoute d c r s1 else s1)

/-- The first valid launch group after a return judges the absence (R189). -/
def judgeReturn (d : Side) (c : Cfg) (sh : Shot) (s : State) : State :=
  let u := s.cur.get d
  if sh.void then s else
  let late := match (u.lastValid.find? fun x => x.1 = sh.route) with
    | some x => decide (returnMs c d = 0 ∨ x.2 + returnMs c d * msCycles < sh.cycle)
    | none => false
  let s1 := setCur d (fun v => { v with returned := v.returned.filter (· ≠ sh.route)
                                        lastValid := (sh.route, sh.cycle) :: v.lastValid.filter (·.1 ≠ sh.route) }) s
  if u.returned.contains sh.route && late then restartRoute d c sh.route s1 else s1

/-- Samples of a raw trace, none beyond the window. -/
def rawCount (s : State) (d : Side) (sh : Shot) : Nat :=
  let w := rwGet s (0x7001 + d.num)
  let every := fld w 55 40
  if !bit w 0 || sh.group ≠ 0 || every = 0 || sh.number % every ≠ 0 then 0
  else min (fld w 39 24) (window sh.cfg d - fld w 23 4)

/-- The time tag of a shot's launch edge; of one that no edge was found for, 50 ns after the commanded instant (R119). -/
def Shot.edgeTag (sh : Shot) : Word := if sh.estimated then tagOfNs (nsOfTag sh.tag + 50) else sh.edge.getD sh.tag

/-- RAW_TRACE frames of a shot group (R22, R318). -/
def rawFrames (s : State) (d : Side) (sh : Shot) (ls : List LaneTrace) : List Frame :=
  let lead := fld (sideGet sh.cfg d 0x4003) 7 0
  (splitFrames (rawCount s d sh) 510).map fun x =>
    let i := fld (rwGet s (0x7001 + d.num)) 23 4 + x.1
    let mm := Config.quot 318 ((5 * i - 6 * lead : Int) * cLight) (120 * routeIndex sh.cfg sh.route)
    zoneFrame 9 0 sh.route 0 x.2 sh.edgeTag
      (mk [(0, 32, i), (32, 32, sbits 32 mm)] :: BitVec.ofNat 64 sh.number ::
        (List.range x.2).map fun j => sampleWord sh.cfg d sh ls (i + j))

/-- Over-ranged samples of a lane over the shot group of a shot: those from its boundary to the next (R152). -/
def groupOvers (c : Cfg) (d : Side) (l : LaneTrace) : Nat := (l.ovr.toList.take (window c d)).count true

/-- One shot of a side reaches the zone decimators (R21). -/
def shotOutput (d : Side) (sh : Shot) (data : ShotData) (s : State) : State :=
  let c := sh.cfg
  let s0 := fadeSeconds s
  let u := s0.cur.get d
  let count := u.groups
  let ls := sideTraces s d sh data
  let s1 := if u.cfg = c && sh.via = [] && !sh.moved then s0 else changeOver d sh.route sh.moved u.cfg sh.via c s0
  let s2 := setCur d (fun v => { v with
    cfg := c, groups := count + 1, tags := (nsOfTag sh.tag, sh.cycle) :: v.tags.take (11 * 1023)
    launchEst := if sh.estimated then sat 16 (v.launchEst + 1) else v.launchEst }) s1
  let l := validGates s2 d sh data
  let bs := branchesOf s2 c d sh
  let s4 := if sh.void then s2 else takeNoise d sh l s2
  let noise := (s4.cur.get d).noise
  let s5 := judgeReturn d c sh s4
  let x := takeReference d c sh l bs s5
  let s6 := (acousticOn c sh.route).foldl (fun s z => zoneLaunch d
    { cfg := c, side := d, gates := l, bs := bs, noise := noise, ref := x.1.1, refMiss := x.1.2, unlocked := sh.unlocked,
      held := sh.held, settle := sh.settle || sh.discard, visit := sh.visit, count := count, drawn := s.drawn } z s) x.2
  let s7 := zoneOutputs d c sh.route count s6
  let s8 := enqueueAll (rawFrames s7 d sh ls) s7
  let s9 := if sh.group = 0 then sideOvers d (ls.map (groupOvers c d)) s8 else s8
  groupPower d c sh (powers c d sh ls) (cleanShot sh ls) ((allBranches c d sh.group).map fun b => noise.getD b 0).sum s9

end Sys2Proof.Machine
end

