-- ==== Sys2Proof/Machine/Staging.lean ====
section
/-!
DEFINITION. The commit gate (chapters 01 and 06): record commands into the draft copy, COMMIT with its validation and
its application on each side, DISCARD, and the Tack sets.
-/
namespace Sys2Proof.Machine

/-! ### Writes to the draft copy (R27) -/

def setDraft (f : Cfg → Cfg) (s : State) : State := { s with draft := f s.draft }

/-- An RWS value enters a copy. -/
def putParam (id : Nat) (v : Word) (c : Cfg) : Cfg := { c with params := kvSet (pReset id) c.params id v }

/-- A handler that writes the draft copy: refused while it is locked (R16, R107). -/
def Handler.draft (op n : Nat) (f : List Word → Cfg → Cfg) : Handler :=
  { Handler.plain op n (Handler.ok fun p s => setDraft (f p) s) with bad := fun s _ _ => draftLocked s }

/-- Records of k words: the lowest word at fault; a key repeated is the fault of word 0 of its second record (R201,
R417). -/
def recordsFault (k : Nat) (key : Word → Nat) (bad : List Word → Option Nat) (p : List Word) : Option Nat :=
  (List.range (p.length / k)).findSome? fun i =>
    if (List.range i).any fun j => key (wd p (k * j)) = key (wd p (k * i)) then some (k * i)
    else (bad ((p.drop (k * i)).take k)).map (k * i + ·)

/-- Enter records of k words by key; a record equal to its default is kept as undefined. -/
def putRecords (k : Nat) (key : Word → Nat) (dflt : Nat → List Word) (p : List Word) (t : Table) : Table :=
  (List.range (p.length / k)).foldl (fun t i =>
    let r := (p.drop (k * i)).take k
    let n := key (wd r 0)
    kvSet [] t n (if r = dflt n then [] else r)) t

/-- LENGTH is k times a count from 1 to n. -/
def lenTimes (k n : Nat) (p : List Word) : Bool := p.length % k = 0 && rng (p.length / k) 1 n

/-- The record of no number. -/
def noDefault (_ : Nat) : List Word := []

/-! ### Reading either copy -/

/-- The copy a read selects by DRAFT in bit 16; the live one is its side's. -/
def readCopy (s : State) (w : Word) (d : Side) : Cfg := if bit w 16 then s.draft else cfgOf s d

/-- A side that uses a zone, in either copy, and still waits for its boundary (R437). -/
def zoneWaits (s : State) (z : Nat) : Bool :=
  [s.live, s.draft].any fun c => zoneDefined c z && cfgOf s (zoneSide c z) == s.live

/-- The copy in force for a zone and its trigger record. -/
def zoneCopy (s : State) (w : Word) (z : Nat) : Cfg :=
  if bit w 16 then s.draft else if zoneWaits s z then s.live else cfgFree s

/-! ### ROUTE, SCAN, ZONE -/

/-- ROUTE_SET (R197). -/
def hRouteSet : Handler :=
  { Handler.draft 0x20 2 (fun p c =>
      let r := fld (wd p 0) 2 0
      { c with routes := kvSet [] c.routes r (if fld (wd p 0) 24 8 = 0 then [] else p) }) with
    value := fun _ p => routeBad (wd p 0) (wd p 1) }
/-- ROUTE_SET. -/
def execRouteSet (o : Origin) (p : List Word) (s : State) : Out := .next (request hRouteSet o p s)

/-- ROUTE_GET (R197). -/
def hRouteGet : Handler :=
  { Handler.plain 0x21 1 (fun _ p s =>
      let r := fld (wd p 0) 2 0
      (okReply (routeRec (readCopy s (wd p 0) (routeSide r)) r), s)) with
    value := fun _ p => maskFault [0x10007] p }
/-- ROUTE_GET. -/
def execRouteGet (o : Origin) (p : List Word) (s : State) : Out := .next (request hRouteGet o p s)

/-- SCAN_SET (R132). -/
def hScanSet : Handler :=
  { Handler.draft 0x22 0 (fun p c => { c with scans := kvSet [] c.scans (fld (wd p 0) 0 0) (p.drop 1) }) with
    lenOk := fun p => p.length = 1 + fld (wd p 0) 12 8
    value := fun _ p =>
      if !(within 0x1F01 (wd p 0) && fld (wd p 0) 12 8 ≤ 16) then some 0
      else ((p.drop 1).findIdx? scanBad).map (1 + ·) }
/-- SCAN_SET. -/
def execScanSet (o : Origin) (p : List Word) (s : State) : Out := .next (request hScanSet o p s)

/-- SCAN_GET (R418). -/
def hScanGet : Handler :=
  { Handler.plain 0x23 1 (fun _ p s =>
      let d := sideOf (fld (wd p 0) 0 0)
      let l := scanOf (readCopy s (wd p 0) d) d
      (okReply (mk [(0, 1, d.num), (8, 5, l.length)] :: l), s)) with
    value := fun _ p => maskFault [0x10001] p }
/-- SCAN_GET. -/
def execScanGet (o : Origin) (p : List Word) (s : State) : Out := .next (request hScanGet o p s)

/-- The zone a record names. -/
def zoneKey (w : Word) : Nat := fld w 8 0

/-- ZONE_SET (R201). -/
def hZoneSet : Handler :=
  { Handler.draft 0x24 0 (fun p c => { c with zones := putRecords 3 zoneKey noDefault p c.zones }) with
    lenOk := lenTimes 3 10
    value := fun _ p => recordsFault 3 zoneKey (fun r => zoneBad (wd r 0) (wd r 1) (wd r 2)) p }
/-- ZONE_SET. -/
def execZoneSet (o : Origin) (p : List Word) (s : State) : Out := .next (request hZoneSet o p s)

/-- ZONE_GET (R201). -/
def hZoneGet : Handler :=
  { Handler.plain 0x25 1 (fun _ p s => let z := zoneKey (wd p 0); (okReply (zoneRec (zoneCopy s (wd p 0) z) z), s)) with
    value := fun _ p => maskFault [0x101FF] p }
/-- ZONE_GET. -/
def execZoneGet (o : Origin) (p : List Word) (s : State) : Out := .next (request hZoneGet o p s)

/-- FIRST and COUNT of ZONE_CLEAR. -/
def clearFirst (w : Word) : Nat := fld w 8 0
def clearCount (w : Word) : Nat := fld w 25 16

/-- ZONE_CLEAR (R202). -/
def hZoneClear : Handler :=
  { Handler.draft 0x26 1 (fun p c =>
      let w := wd p 0
      { c with zones := c.zones.filter fun z => z.1 < clearFirst w || clearFirst w + clearCount w ≤ z.1 }) with
    value := fun _ p =>
      if within 0x3FF01FF (wd p 0) && clearFirst (wd p 0) + clearCount (wd p 0) ≤ 512 then none else some 0 }
/-- ZONE_CLEAR. -/
def execZoneClear (o : Origin) (p : List Word) (s : State) : Out := .next (request hZoneClear o p s)

/-! ### TRIG -/

/-- TRIG_SET (R244). -/
def hTrigSet : Handler :=
  { Handler.draft 0x35 0 (fun p c => { c with trigs := putRecords 2 zoneKey trigDefault p c.trigs }) with
    lenOk := lenTimes 2 16
    value := fun _ p => recordsFault 2 zoneKey (fun r => trigBad (wd r 0) (wd r 1)) p }
/-- TRIG_SET. -/
def execTrigSet (o : Origin) (p : List Word) (s : State) : Out := .next (request hTrigSet o p s)

def ZoneState.code : ZoneState → Nat
  | .disarmed => 0
  | .armed => 1
  | .opened => 2
  | .post => 3
  | .holdoff => 4

/-- A detector or a THERMAL source on a defined zone where it never fires (R244). -/
def trigInert (c : Cfg) (z : Nat) : Bool := zoneDefined c z && (
  (trigDetector c z ≠ 0 && !zoneAcoustic c z) || (bit (wd (trigRec c z) 0) 24 && !zoneThermal c z))

/-- The live state word of TRIG_GET (R267). -/
def trigState (s : State) (z : Nat) : Word :=
  let r := zoneRun s z
  mk [(0, 3, r.state.code), (3, 1, b2n (trigInert (zoneCopy s 0 z) z)), (4, 1, b2n r.disarm),
    (32, 32, match r.record with | some x => x.id | none => 0)]

/-- TRIG_GET (R267). -/
def hTrigGet : Handler :=
  { Handler.plain 0x36 1 (fun _ p s =>
      let z := zoneKey (wd p 0)
      (okReply (trigRec (zoneCopy s (wd p 0) z) z ++ [trigState s z]), s)) with
    value := fun _ p => maskFault [0x101FF] p }
/-- TRIG_GET. -/
def execTrigGet (o : Origin) (p : List Word) (s : State) : Out := .next (request hTrigGet o p s)

/-! ### SLOT, CURVE -/

/-- The slot a record names, side B's from 8 on. -/
def slotKey (w : Word) : Nat := fld w 3 0

/-- SLOT_SET (R121, R417). -/
def hSlotSet : Handler :=
  { Handler.draft 0x40 0 (fun p c => { c with slots := putRecords 2 slotKey slotDefault p c.slots }) with
    lenOk := lenTimes 2 16
    value := fun _ p => recordsFault 2 slotKey (fun r => slotBad (wd r 0) (wd r 1)) p }
/-- SLOT_SET. -/
def execSlotSet (o : Origin) (p : List Word) (s : State) : Out := .next (request hSlotSet o p s)

/-- SLOT_GET (R417). -/
def hSlotGet : Handler :=
  { Handler.plain 0x41 1 (fun _ p s =>
      let d := sideOf (fld (wd p 0) 3 3)
      (okReply (slotRec (readCopy s (wd p 0) d) d (fld (wd p 0) 2 0)), s)) with
    value := fun _ p => maskFault [0x1000F] p }
/-- SLOT_GET. -/
def execSlotGet (o : Origin) (p : List Word) (s : State) : Out := .next (request hSlotGet o p s)

/-- Fields of a TABLE's last word that hold no point (R123). -/
def curveTail (p : List Word) : Nat :=
  let n := fld (wd p 0) 15 8
  let k := curveWords (wd p 0)
  if k = 0 then 0 else (wd p k).toNat / 2 ^ (16 * (n - 4 * (k - 1)))

/-- CURVE_LOAD (R123). -/
def hCurveLoad : Handler :=
  { Handler.draft 0x42 0 (fun p c => { c with curves := kvSet [] c.curves (fld (wd p 0) 4 0) p }) with
    lenOk := fun p => p.length = 1 + curveWords (wd p 0)
    value := fun _ p =>
      if curveBad (wd p 0) then some 0 else if curveTail p ≠ 0 then some (curveWords (wd p 0)) else none }
/-- CURVE_LOAD. -/
def execCurveLoad (o : Origin) (p : List Word) (s : State) : Out := .next (request hCurveLoad o p s)

/-! ### The aux commands that write the draft (R305) -/

/-- Enter parameters from an ID on. -/
def putParams (id : Nat) (l : List Word) (c : Cfg) : Cfg :=
  (List.range l.length).foldl (fun c i => putParam (id + i) (wd l i) c) c

/-- AUX_XPT_SET. -/
def hAuxXptSet : Handler :=
  { Handler.draft 0x50 0 (fun p c => putParams (0x5810 + fld (wd p 0) 3 0) (p.drop 1) c) with
    lenOk := fun p => p.length = 1 + fld (wd p 0) 8 4
    value := fun _ p =>
      if !(within 0x1FF (wd p 0) && fld (wd p 0) 3 0 + fld (wd p 0) 8 4 ≤ 16) then some 0
      else ((p.drop 1).findIdx? fun w => !xptOk w).map (1 + ·) }
/-- AUX_XPT_SET. -/
def execAuxXptSet (o : Origin) (p : List Word) (s : State) : Out := .next (request hAuxXptSet o p s)

/-- Enter sequencer entries from a number on; an entry of 0 is the reset one. -/
def putSeq (n : Nat) (l : List Word) (t : Table) : Table :=
  (List.range l.length).foldl (fun t i => kvSet [] t (n + i) (if wd l i = 0 then [] else [wd l i])) t

/-- AUX_SEQ_LOAD. -/
def hAuxSeqLoad : Handler :=
  { Handler.draft 0x51 0 (fun p c => { c with seq := putSeq (fld (wd p 0) 5 0) (p.drop 1) c.seq }) with
    lenOk := fun p => p.length = 1 + fld (wd p 0) 13 8
    value := fun _ p =>
      if !(within 0x3F3F (wd p 0) && fld (wd p 0) 5 0 + fld (wd p 0) 13 8 ≤ 64) then some 0
      else ((p.drop 1).findIdx? seqBad).map (1 + ·) }
/-- AUX_SEQ_LOAD. -/
def execAuxSeqLoad (o : Origin) (p : List Word) (s : State) : Out := .next (request hAuxSeqLoad o p s)

/-- COUNT of AUX_LIMIT_SET. -/
def limCount (p : List Word) : Nat := fld (wd p 0) 8 4

/-- AUX_LIMIT_SET. -/
def hAuxLimitSet : Handler :=
  { Handler.draft 0x53 0 (fun p c =>
      putParams 0x5860 (p.drop (1 + limCount p))
        (putParams (0x5840 + fld (wd p 0) 3 0) ((p.drop 1).take (limCount p)) c)) with
    lenOk := fun p => p.length = 1 + limCount p + 4 * fld (wd p 0) 16 16
    value := fun _ p =>
      if !(within 0x101FF (wd p 0) && fld (wd p 0) 3 0 + limCount p ≤ 16) then some 0
      else (((List.range p.length).drop 1).find? fun i =>
        !(if i ≤ limCount p then pOk 0x5840 (wd p i) else pOk 0x5860 (wd p i))) }
/-- AUX_LIMIT_SET. -/
def execAuxLimitSet (o : Origin) (p : List Word) (s : State) : Out := .next (request hAuxLimitSet o p s)

/-! ### Which sides a commit affects (R437) -/

/-- The side that owns a parameter. -/
def paramSide (id : Nat) : Option Side :=
  match pRow id with
  | some r => if r.sides then some (if r.id + r.count ≤ id then .b else .a) else none
  | none => none

/-- The staged parameters, slot records, scan table and routes of a side. -/
def ownParams (c : Cfg) (d : Side) : Store := c.params.filter fun e => paramSide e.1 == some d
def ownSlots (c : Cfg) (d : Side) : Table := c.slots.filter fun e => e.1 / 8 = d.num
def ownRoutes (c : Cfg) (d : Side) : Table := c.routes.filter fun e => routeSide e.1 == d

/-- The curves a side names. -/
def namedCurves (c : Cfg) (d : Side) : List Nat :=
  (fld (sideGet c d 0x4004) 4 0 :: fld (sideGet c d 0x4005) 4 0 :: (List.range 8).map (slotShape c d)).filter (· ≠ 0)

/-- The commit from one copy to another affects a side. -/
def affected (old new : Cfg) (d : Side) : Bool :=
  ownParams old d != ownParams new d || ownSlots old d != ownSlots new d || scanOf old d != scanOf new d ||
    ownRoutes old d != ownRoutes new d ||
    (sideZones old d ++ sideZones new d).any (fun z =>
      zoneRec old z != zoneRec new z || trigRec old z != trigRec new z) ||
    (namedCurves old d ++ namedCurves new d).any fun k => rec old.curves k != rec new.curves k

/-! ### Applying a commit on a side (R14, R15, R437) -/

/-- The side still waits for its boundary. -/
def waits (s : State) (d : Side) : Bool :=
  match s.brg.gate with
  | .frozen _ _ _ wa wb => match d with | .a => wa | .b => wb
  | _ => false

/-- The side has the snapshot in force. -/
def passGate (d : Side) (s : State) : State :=
  match s.brg.gate with
  | .frozen t a b wa wb =>
    { s with brg := { s.brg with gate := match d with
        | .a => .frozen t a b false wb
        | .b => .frozen t a b wa false } }
  | _ => s

/-- What the Tack status says after a commit has been applied (Table 06-11). -/
def Tacks.applied (t : Tacks) (load : Option TackLoad) (changed : Bool) : Tacks :=
  match load with
  | some l => { t with loaded := l.set, defaults := false, fallback := false, modified := false }
  | none => { t with modified := t.modified || changed }

/-- The last side has applied: the live copy is the snapshot, the event is posted, the command completes. -/
def commitDone (s : State) : State :=
  match s.brg.gate with
  | .frozen t a b _ _ =>
    finish .draft stOk [] (post evCommitApplied (256 * b2n a + 512 * b2n b)
      { s with live := s.draft, brg := { s.brg with gate := .idle }, tacks := s.tacks.applied t true })
  | _ => s

/-- Zones whose trigger record the commit changes: their record closes with cause COMMIT and their detectors are cleared
(R246, Table 12-5). -/
def trigCommit (d : Side) (old new : Cfg) (s : State) : State :=
  ((keptZones s d).filter fun z => trigRec old z ≠ trigRec new z).foldl (fun s z =>
    setZone z (fun x => { x with chans := x.chans.map fun ch => { ch with det := Detector.init } })
      (closeRecord d z 4 (nsOfTag (now s)) s)) s

/-- A baseline becomes NONE, a capture starts again from zero with the shots launched from a core cycle on (R216). -/
def Baseline.drop (cycle : Nat) (b : Baseline) : Baseline :=
  if b.state = 1 then { b with prior := 0, since := cycle, done := 0, sums := [] } else Baseline.none

/-- A capture of a route ends without a baseline: the state it found stands. -/
def Baseline.stop (b : Baseline) : Baseline :=
  if b.state = 1 then { b with state := b.prior, want := 0, done := 0, sums := [], later := [] } else b

/-- R216 for one route of a side. -/
def baselineRoute (d : Side) (old new : Cfg) (r : Nat) (s : State) : State :=
  let changed := slotPlan old d ≠ slotPlan new d ∨ routeIndex old r ≠ routeIndex new r
  let gone := (baseline s r).state = 1 ∧ !(scanRoutes new d).contains r
  let s1 := if gone then finish (.baseline r) stConflict [] (setBase r Baseline.stop s) else s
  if routeOk old r && !routeOk new r then setBase r (fun _ => Baseline.none) s1
  else if changed then setBase r (Baseline.drop s.tb.mono) s1 else s1

/-- CUR.STATUS.OVERLOAD of a side clears when the load is back within the tiles in service, or the side does not acquire any
more (R193); the load falls for both sides, whichever brought it down (DESIGN CHOICE, log 117). -/
def clearOverload (s : State) : State :=
  let still := overload s (cfgOf s .a) (cfgOf s .b) (acquiring s .a) (acquiring s .b)
  bothSides (fun d s => setCur d (fun u => { u with overload := u.overload && still && acquiring s d }) s) s

/-- The energy target of a launch group (R128). -/
def energyTarget (c : Cfg) (d : Side) (g : Nat) : Nat := ((groupSlots c d g).map (slotEnergy c d)).sum

/-- The trim of a launch group without an energy target stays at 1.000 (R128). -/
def energyCommit (d : Side) (c : Cfg) (s : State) : State :=
  setLash d (fun l => { l with
    trims := l.trims.zipIdx.map fun x => if energyTarget c d x.2 = 0 then 1024 else x.1
    atLimit := l.atLimit.zipIdx.map fun x => energyTarget c d x.2 ≠ 0 && x.1 }) s

/-- The side takes the frozen commit. -/
def takeCommit (d : Side) (s : State) : State :=
  if !waits s d then s else
  let s0 := setLash d (fun l => { l with moved := (l.moved ++ routesMoved d s.live s.draft).dedup, taken := l.taken ++ [s.live] }) s
  let s1 := passGate d (trigCommit d s0.live s0.draft (energyCommit d s0.draft s0))
  let s2 := (sideRoutes d).foldl (fun s' r => baselineRoute d s.live s.draft r s') s1
  let s3 := clearOverload (thermalCommit d (decide (slotUse s.live d ≠ slotUse s.draft d)) s.live s.draft s2)
  if waits s3 .a || waits s3 .b then s3 else commitDone s3

/-! ### A Tack set's image in MRAM (Table 06-9) -/

/-- A record in its share of k hide words, filled up with 0. -/
def padTo (k : Nat) (r : List Word) : List Word := r.take k ++ List.replicate (k - r.length) 0

/-- An area of n records, in order, of k hide words each; an undefined record is 0. -/
def tackArea (n k : Nat) (t : Table) : List Word := (List.range n).flatMap fun i => padTo k (kvGet [] t i)

/-- Every RWS parameter in ascending order of ID. -/
def tackParams (c : Cfg) : List Word :=
  (pTable.filter fun r => r.acc == .rws).flatMap fun r =>
    (List.range (r.count * if r.sides then 2 else 1)).map fun i => cfgGet c (r.id + i)

/-- The header: FORMAT, member code, content flags, save count and time; its places are the model's (log 39). -/
def tackHeader (x : TackSet) : List Word :=
  [mk [(0, 8, x.format), (16, 16, x.member), (32, 1, b2n x.cal.isSome), (48, 16, x.saves)], mk [(0, 32, x.seconds.toNat)]]

/-- The hide words from offset 0x0000 up to the word that ends in the CRC, whose lower half is reserved. Inside an area the
records stand in order with an equal share each, parameters, curves and snapshot records one after another (DESIGN CHOICE,
log 39). -/
def tackImage (x : TackSet) : List Word :=
  let c := x.cfg
  padTo 8191 (padTo 8 (tackHeader x) ++ padTo 1024 (tackParams c) ++ tackArea 512 8 c.zones ++ tackArea 512 2 c.trigs ++
    tackArea 8 16 c.routes ++ tackArea 16 8 c.slots ++ tackArea 2 64 c.scans ++ padTo 512 (c.curves.flatMap (·.2)) ++
    tackArea 64 1 c.seq ++ padTo 1024 (match x.cal with | some t => t.flatMap (·.2) | none => []))

/-- The CRC-32C over offsets 0x0000 to 0xFFFB (R110). -/
def tackCrc (x : TackSet) : BitVec 32 := crc32c ((tackImage x).flatMap wordBytes ++ List.replicate 4 0)

/-- The set as it reads when it is whole. -/
def TackSet.seal (x : TackSet) : TackSet := { x with crc := tackCrc x }

/-- Words of the set are written or lost, and its CRC no longer matches (R113). -/
def TackSet.spoil (x : TackSet) : TackSet := { x with crc := ~~~ tackCrc x }

/-- STATE of Table 06-10: 0 EMPTY, 1 VALID, 2 CRC_BAD, 3 UNSUPPORTED. -/
def TackSet.state (x : TackSet) : Nat :=
  if x.erased then 0 else if x.crc ≠ tackCrc x then 2
  else if x.format ≠ Config.tackFormat.toNat ∨ x.member ≠ 0x4880 then 3 else 1

/-! ### COMMIT and DISCARD -/

/-- COMMIT (R107). -/
def hCommit : Handler :=
  { Handler.work 0x06 0 (fun _ => .draft)
      (fun _ _ s => { s with brg := { s.brg with gate := .validating none } }) with
    bad := fun s _ _ => draftLocked s }
/-- COMMIT. -/
def execCommit (o : Origin) (p : List Word) (s : State) : Out := .next (request hCommit o p s)

/-- The calibration snapshot of a set that is loaded WITH_CAL (R112, R372). -/
def loadSnapshot (t : Option TackLoad) (s : State) : State :=
  match t with
  | none => s
  | some l =>
    if l.withCal then
      match (s.tacks.sets.getD l.set TackSet.empty).cal with
      | some recs => recs.foldl (fun s r => loadRecord r.1 r.2 s) s
      | none => s
    else s

/-- A commit without a failure: nothing changes, or the snapshot freezes and every idle affected side takes it. -/
def freeze (t : Option TackLoad) (s : State) : State :=
  if s.draft = s.live then
    finish .draft stOk [] (post evCommitApplied 0
      (loadSnapshot t { s with brg := { s.brg with gate := .idle }, tacks := s.tacks.applied t false }))
  else
    let a := affected s.live s.draft .a
    let b := affected s.live s.draft .b
    let s1 := auxCommit s.live s.draft { s with brg := { s.brg with gate := .frozen t a b a b } }
    let s2 := loadSnapshot t s1
    if !(a || b) then commitDone s2
    else bothSides (fun d s => if acquiring s d then s else takeCommit d s) s2

/-- Validation of the draft (R107). -/
def judgeDraft (t : Option TackLoad) (s : State) : State :=
  match if s.draft = s.live then none else validate s s.draft true with
  | some f =>
    finish .draft stConflict [mk [(0, 10, f.code16), (16, 16, f.index)]]
      (post evCommitFailed f.code16 { s with brg := { s.brg with gate := .idle } })
  | none => planes (freeze t) s

/-- COMMIT_VALIDATION_DONE; a TACK_LOAD's set enters the draft here, if its CRC, format and member code are good: when in the
command it does is not stated (DESIGN CHOICE, log 39). -/
def execCommitValidationDone (s : State) : Out :=
  .next (match s.brg.gate with
    | .validating none => judgeDraft none s
    | .validating (some l) =>
      let x := s.tacks.sets.getD l.set TackSet.empty
      if x.state = 1 then judgeDraft (some l) { s with draft := x.cfg }
      else finish .draft stBadState [] { s with brg := { s.brg with gate := .idle } }
    | _ => s)

/-- DISCARD (R108). -/
def hDiscard : Handler :=
  { Handler.plain 0x07 0 (Handler.ok fun _ s => { s with draft := s.live }) with bad := fun s _ _ => draftLocked s }
/-- DISCARD. -/
def execDiscard (o : Origin) (p : List Word) (s : State) : Out := .next (request hDiscard o p s)

/-! ### Tack sets (R110 to R113) -/

/-- SET, WITH_CAL and FROM_DRAFT of a Tack command. -/
def tackSet (p : List Word) : Nat := fld (wd p 0) 1 0
def tackCal (p : List Word) : Bool := bit (wd p 0) 8
def tackFromDraft (p : List Word) : Bool := bit (wd p 0) 9

/-- The set is write-protected. -/
def tackProtected (s : State) (n : Nat) : Bool := bit (nvGet s 0x0031) n

def setTack (n : Nat) (f : TackSet → TackSet) (s : State) : State :=
  { s with tacks := { s.tacks with sets := upd s.tacks.sets n f } }

/-- TACK_LOAD. -/
def hTackLoad : Handler :=
  { Handler.work 0x10 1 (fun _ => .draft) (fun _ p s =>
      { s with brg := { s.brg with gate := .validating (some { set := tackSet p, withCal := tackCal p }) } }) with
    cantle := true
    value := fun _ p => maskFault [0x103] p
    bad := fun s _ _ => draftLocked s }
/-- TACK_LOAD. -/
def execTackLoad (o : Origin) (p : List Word) (s : State) : Out := .next (request hTackLoad o p s)

/-! ### The live copy as a whole (R27) -/

/-- A table whose entries come from one copy or the other: `pick` says which keys have the new copy's. -/
def mixTable (pick : Nat → Bool) (old new : Table) : Table :=
  (new.filter fun e => pick e.1).foldl (fun t e => kvSet [] t e.1 e.2) (old.filter fun e => !pick e.1)

/-- The live copy: each side's part as the side runs it, the rest as it is in force (R14, R437). -/
def liveCopy (s : State) : Cfg :=
  let c := cfgFree s
  let got := fun d => cfgOf s d == c
  let zone := fun z => [s.live, c].all fun x => !zoneDefined x z || got (zoneSide x z)
  let curve := fun k => [Side.a, .b].all fun d => got d || !(namedCurves s.live d).contains k
  let p := fun (e : Nat × Word) => match paramSide e.1 with | some d => got d | none => true
  { params := (c.params.filter p).foldl (fun t e => kvSet (pReset e.1) t e.1 e.2) (s.live.params.filter fun e => !p e)
    zones := mixTable zone s.live.zones c.zones, trigs := mixTable zone s.live.trigs c.trigs
    routes := mixTable (fun r => got (routeSide r)) s.live.routes c.routes
    slots := mixTable (fun k => got (sideOf (k / 8))) s.live.slots c.slots
    scans := mixTable (fun k => got (sideOf k)) s.live.scans c.scans
    curves := mixTable curve s.live.curves c.curves, seq := c.seq }

/-- A save begins: the set takes the copy and its CRC does not match yet. -/
def startSave (p : List Word) (s : State) : State :=
  let n := tackSet p
  let records : Table := (List.range 17).map fun g => (g, calRecord s g)
  setTack n (fun x => TackSet.spoil { x with
      erased := false, format := Config.tackFormat.toNat, member := 0x4880, cfg := if tackFromDraft p then s.draft else liveCopy s
      cal := if tackCal p then some records else none })
    { s with tacks := { s.tacks with op := some (.save n (tackFromDraft p) (tackCal p)) } }

/-- TACK_SAVE. -/
def hTackSave : Handler :=
  { Handler.work 0x11 1 (fun _ => .tack) (fun _ p s => startSave p s) with
    cantle := true
    value := fun _ p => maskFault [0x303] p
    bad := fun s _ p => tackFromDraft p && draftLocked s
    denied := fun s p => tackProtected s (tackSet p) }
/-- TACK_SAVE. -/
def execTackSave (o : Origin) (p : List Word) (s : State) : Out := .next (request hTackSave o p s)

/-- TACK_SAVE_DONE: the set reads back, or does not. -/
def execTackSaveDone (readBackOk : Bool) (s : State) : Out :=
  .next (match s.tacks.op with
    | some (.save n _ _) =>
      let s1 := { s with tacks := { s.tacks with op := none } }
      if readBackOk then
        finish .tack stOk [] (setTack n (fun x => TackSet.seal { x with saves := sat 16 (x.saves + 1), seconds := tagSeconds s }) s1)
      else finish .tack stInternal [] s1
    | _ => s)

/-- An erase begins: the set is not valid from here on. -/
def startErase (p : List Word) (s : State) : State :=
  let n := tackSet p
  setTack n TackSet.spoil
    { s with tacks := { s.tacks with op := some (.erase n) } }

/-- TACK_ERASE. -/
def hTackErase : Handler :=
  { Handler.work 0x13 1 (fun _ => .tack) (fun _ p s => startErase p s) with
    cantle := true
    value := fun _ p => maskFault [0x3] p
    denied := fun s p => tackProtected s (tackSet p) }
/-- TACK_ERASE. -/
def execTackErase (o : Origin) (p : List Word) (s : State) : Out := .next (request hTackErase o p s)

/-- TACK_ERASE_DONE: the set is EMPTY; its counts of the device's life stand. -/
def execTackEraseDone (s : State) : Out :=
  .next (match s.tacks.op with
    | some (.erase n) =>
      finish .tack stOk [] (setTack n (fun x => { TackSet.empty with saves := x.saves, seconds := x.seconds })
        { s with tacks := { s.tacks with op := none } })
    | _ => s)

/-- A save or erase under way stops: its set stays not valid (R113). -/
def dropTackOp (s : State) : State := { s with tacks := { s.tacks with op := none } }

/-- Table 06-10. -/
def tackWord (s : State) (n : Nat) : Word :=
  let x := s.tacks.sets.getD n TackSet.empty
  mk [(0, 2, x.state), (2, 1, b2n x.cal.isSome), (3, 1, b2n (tackProtected s n)), (8, 8, x.format), (16, 16, x.saves),
    (32, 32, x.seconds.toNat)]

/-- TACK_INFO. -/
def hTackInfo : Handler := Handler.plain 0x12 0 (fun _ _ s => (okReply ((List.range 4).map (tackWord s)), s))
/-- TACK_INFO. -/
def execTackInfo (o : Origin) (p : List Word) (s : State) : Out := .next (request hTackInfo o p s)

end Sys2Proof.Machine
end

