-- ==== Sys2Proof/Machine/Lash.lean ====
section
/-!
DEFINITION. The probe emitter (chapter 07): gate pulses and their verification, the energy loop, the route scan with its
switch sequence, wavelength lock, the causes that stop light, and EMIT_ENABLE, LOCK_SET and EMIT_DIAG.
-/
namespace Sys2Proof.Machine

/-! ### Parameters -/

def rampGroups (c : Cfg) (d : Side) : Nat := fld (sideGet c d 0x4004) 31 16
def proofEvery (c : Cfg) (d : Side) : Nat := fld (sideGet c d 0x4006) 31 16
def proofWidth (c : Cfg) (d : Side) : Nat := fld (sideGet c d 0x4006) 41 32
/-- SETTLE and STB_WIDTH in µs, and LIFE. -/
def switchSettle (c : Cfg) (d : Side) : Nat := fld (sideGet c d 0x4007) 15 0
def strobeWidth (c : Cfg) (d : Side) : Nat := fld (sideGet c d 0x4007) 25 16
def switchLife (c : Cfg) (d : Side) : Nat := fld (sideGet c d 0x4007) 63 32
def loopShift (c : Cfg) (d : Side) : Nat := fld (sideGet c d 0x4008) 3 0
def settleGroups (c : Cfg) (d : Side) : Nat := fld (sideGet c d 0x5010) 3 0
def settleExtra (c : Cfg) (d : Side) : Nat := fld (sideGet c d 0x5010) 11 8
def settleTol (c : Cfg) (d : Side) : Nat := fld (sideGet c d 0x5010) 27 16

/-- The lowest code of a checkable current: 20 mA (R125). -/
abbrev proofCode : Nat := 546

/-! ### Gate pulses (R124, R126) -/

/-- The highest GATE_CURRENT of some slots. -/
def topCurrent (c : Cfg) (d : Side) (l : List Nat) : Nat := (l.map (slotGate c d)).foldl max 0

/-- The set current of a launch group: GATE_CURRENT times ramp and trim, to 12 bits; the group's slots share one gate,
set by the highest of them (log 42). Where a commit changes RAMP.GROUPS during a ramp, the ramp keeps its shot groups and m
is counted back from the new end (log 42). -/
def pulseCode (c : Cfg) (d : Side) (l : Lash) (g : Nat) : Nat :=
  let gain := if l.rampLeft = 0 then 65535
    else curveGain c (fld (sideGet c d 0x4004) 4 0) (rampGroups c d - l.rampLeft) (rampGroups c d)
  min 4095 (nearest 124 (topCurrent c d (groupSlots c d g) * gain * l.trims.getD g 1024) (65535 * 1024))

/-- The current of a proof pulse. -/
def proofCurrent (c : Cfg) (d : Side) : Nat := max proofCode (topCurrent c d (List.range (slotCount c d)))

/-- A proof pulse begins. -/
def beginProof (d : Side) (s : State) : State :=
  setLash d (fun l => { l with pulse := some (proofCurrent (cfgOf s d) d), pulseAt := s.tb.mono, proof := true, cut := false, proofOff := false, proofDue := false }) s

/-- A proof of EMIT_DIAG is issued at once where the side is not acquiring and its gate is free; one that waited when
acquisition ended then starts too (R145; log 103). -/
def startProof (d : Side) (s : State) : State :=
  let l := s.lash.get d
  if l.proofDue && l.enabled && s.pwr.laserEn && l.pulse.isNone && !acquiring s d then beginProof d s else s

/-- A wanted proof ends with the gate state (R145). -/
def proofDone (d : Side) (s : State) : State := finish (.proof d) stOk [mk [(0, 2, (s.lash.get d).gate.code)]] s

/-- The shot of a launch now, with the flags of R119, R131 and R156. -/
def newShot (d : Side) (g : Nat) (s : State) : Shot :=
  let l := s.lash.get d
  { group := g, number := if g = 0 then l.number else l.number - 1, route := presentRoute s d, cycle := s.tb.mono,
    tag := now s, est := false, unlocked := l.wl != .locked, settle := l.settleLeft ≠ 0, discard := false,
    held := s.cal.held.getLsbD d.num, late := false
    visit := l.visit, moved := l.moved.contains (presentRoute s d), via := l.taken, align := none, edge := none, cfg := cfgOf s d }

/-- The last launch of a shot group that begins at B1 comes at B1 + τ. -/
def launchTakes (d : Side) (g : Nat) (s : State) : State := if g + 1 = groupCount (cfgOf s d) d then takeDue d s else s

/-- A launch group is launched: its pulse, and its shot. -/
def launchGroup (d : Side) (g : Nat) (s : State) : State :=
  launchTakes d g <| setLash d (fun l => { l with
    running := true, launched := g + 1, pulse := some (pulseCode (cfgOf s d) d l g), pulseAt := s.tb.mono, proof := false
    cut := false, proofOff := false, groupAt := if g = 0 then s.tb.mono else l.groupAt
    number := if g = 0 then l.number + 1 else l.number, shots := l.shots ++ [newShot d g s]
    moved := l.moved.filter (· ≠ presentRoute s d), taken := [] }) s

/-- The shots in flight are discarded and their samples flagged settling (R143). -/
def discardShots (d : Side) (s : State) : State :=
  setLash d (fun l => { l with shots := l.shots.map fun x => { x with discard := true } }) s

/-- The pulse in progress is cut short. -/
def cutPulse (d : Side) (s : State) : State := setLash d (fun l => { l with cut := l.cut || l.pulse.isSome }) s

/-! ### Causes that stop light (Table 07-10, R243) -/

/-- A cause of Table 07-10 comes: the proof of a proof pulse in progress is abandoned (R143). -/
def abandonProof (d : Side) (s : State) : State := setLash d (fun l => { l with proofOff := l.proofOff || l.proof }) s

/-- Emission is disabled with a cause; one other than EMIT_ENABLE cuts the pulse, be it the last one of a side disabled
already. A wanted proof that has not begun cannot run any more. -/
def emitOff (d : Side) (cause : Nat) (s : State) : State :=
  let s1 := setLash d (fun l => { l with enabled := false, proofDue := false })
    (abandonProof d (if cause = 0 then s else cutPulse d s))
  let s2 := postIf (s.lash.get d).enabled evEmitDisabled (d.num + 256 * cause) s1
  if (s2.lash.get d).pulse.isSome && (s2.lash.get d).proof then s2 else proofDone d s2

/-- The accepted records of a side's groups take effect (R371). -/
def applySide (d : Side) (s : State) : State := applyRecords (fun g => groupSide g == some d) s

/-- Nothing of a side's scan runs any more; the windows of shots that settle or are discarded keep their flag. -/
def Lash.halt (d : Side) (l : Lash) : Lash :=
  { l with running := false, seq := .none, settleLeft := 0, rampLeft := 0, launched := 0, shots := []
           void := (l.settling d).take 64 }

/-- The settle period ends: an extension is told, once (R157). -/
def endSettle (d : Side) (dwellEnd failing : Bool) (s : State) : State :=
  let n := (s.lash.get d).extra
  postIf (n ≠ 0) evRxSettleLong (d.num + 16 * n + 0x4000 * b2n dwellEnd + 0x8000 * b2n failing)
    (setLash d (fun l => { l with extra := 0 }) s)

/-- Acquisition on a side ends with a cause: the shots in flight are discarded unless ACQ_STOP let them end (R143), records
close with STOP, a waiting commit is taken. A baseline capture stays, with its sums, and goes on with the next acquisition
(DESIGN CHOICE, log 118). -/
def endAcq (d : Side) (cause : Nat) (s : State) : State :=
  if !acquiring s d then s else
  let s1 := stopRecords d (setLash d (Lash.halt d) (endSettle d false false (if cause = 0 then s else discardShots d s)))
  let s2 := post evAcqStopped (d.num + 256 * cause) (setGirth d (fun g => { g with acquiring := false, stopping := false }) s1)
  let s3 := discardSide d (setTherm d (fun t => { t with running := false, transfer := false }) (takeCommit d s2))
  startProof d (fixLane (takeIdle d (clearOverload (applySide d s3))))

/-- Light stops on both sides, and acquisition with it; within a plane side A's events go before side B's (log 52). -/
def allDark (emit acq : Nat) (s : State) : State :=
  planes (bothSides fun d s => endAcq d acq (emitOff d emit s)) s

/-- GATE_LOAD_FAULT: found in the check interval of a checkable pulse. -/
def execGateLoadFault (d : Side) (short : Bool) (s : State) : Out :=
  let l := s.lash.get d
  .next (match l.pulse with
    | none => s
    | some code =>
      if code < proofCode then s else
      let detail := d.num + if l.proof then 128 else 16 * (l.launched - 1)
      let s1 := setLash d (fun l => { l with gate := if short then .short else .openLoad, pulse := none, proof := false }) s
      planes (fun s => endAcq d (if short then 3 else 2) (emitOff d (if short then 3 else 2)
        (post (if short then evGateShort else evGateOpenLoad) detail s))) s1)

/-- DAC_FAULT, of I or of Q; each is told, be both found at one launch. -/
def execDacFault (d : Side) (q : Bool) (s : State) : Out :=
  .next (planes (fun s => endAcq d 4 (emitOff d 4 (post evDacFault (d.num + 2 * b2n q)
    (setLash d (fun l => { l with dacFault := true }) s)))) s)

/-- LASER_EN_FALL, through the 50 ns glitch filter: all light stops, LBIAS goes to 0 V (R139). That
WL reads OFF until a LOCK_SET is the model's choice (DESIGN CHOICE, log 101). -/
def execLaserEnFall (widthNs : Nat) (s : State) : Out :=
  .next (if widthNs < 50 || !s.pwr.laserEn then s else
    let s1 := { s with pwr := { s.pwr with laserEn := false } }
    if !answers s then s1 else
    let s2 := allDark 1 1 (post evLaserInterlock 0 s1)
    bothSides (fun d s => setLash d (fun l => { l with wl := .off, lbias := 0, trigEnd := 0 }) s) s2)

/-- LASER_EN_RISE. -/
def execLaserEnRise (s : State) : Out :=
  .next (if s.pwr.laserEn then s else
    postIf (answers s) evLaserInterlock 1 { s with pwr := { s.pwr with laserEn := true } })

/-! ### The end of a pulse (R125, R128, R129, R143) -/

/-- The set current and how long it was held decide the verdict. -/
def gateVerdict (d : Side) (code heldNs : Nat) (cut : Bool) (s : State) : State :=
  let l := s.lash.get d
  let weak := decide (code < proofCode)
  let brief := decide (heldNs < 48) || (cut && weak)
  if !weak && !brief && !cut then
    setLash d (fun l => { l with
      gate := if l.gate == .unverified && !(l.proof && l.proofOff) then .verified else l.gate }) s
  else if l.gate == .verified then
    post evGateUnverified (d.num + 256 * b2n weak + 512 * b2n brief) (setLash d (fun l => { l with gate := .unverified }) s)
  else s

/-- One update of the energy loop of a launch group. -/
def energyLoop (d : Side) (g e : Nat) (s : State) : State :=
  let c := cfgOf s d
  let l := s.lash.get d
  let t := energyTarget c d g
  let k := loopShift c d
  if t = 0 || k = 0 || l.rampLeft ≠ 0 || l.settleLeft ≠ 0 || l.seq != .none then s else
  let new := (max 512 (min 1536 ((l.trims.getD g 1024 : Int) + Config.quot 128 (1024 * ((t : Int) - e)) (2 ^ k * t)))).toNat
  let limit := new = 512 || new = 1536 || 4095 ≤ nearest 124 (topCurrent c d (groupSlots c d g) * new) 1024
  let far := decide (t < 10 * (((t : Int) - e).natAbs))
  let b := if far then min 64 (l.beyond.getD g 0 + 1) else 0
  let w := if far then 0 else min 64 (l.within.getD g 0 + 1)
  let was := l.unlocked.getD g false
  let s1 := setLash d (fun l => { l with
    trims := l.trims.set g new, atLimit := l.atLimit.set g limit, beyond := l.beyond.set g b, within := l.within.set g w
    unlocked := l.unlocked.set g (if b = 64 then true else if w = 64 then false else was) }) s
  postIf (b = 64 && !was) evPowerLoopUnlock (d.num + 16 * g)
    (postIf (limit && !l.atLimit.getD g false) evPowerLoopLimit (d.num + 16 * g) s1)

/-- GATE_PULSE_END: how long the pulse held its set current, and the energy measured. -/
def execGatePulseEnd (d : Side) (heldNs energy : Nat) (s : State) : Out :=
  let l := s.lash.get d
  .next (match l.pulse with
    | none => s
    | some code =>
      let g := l.launched - 1
      let s1 := gateVerdict d code heldNs l.cut s
      let s2 := setLash d (fun l => { l with pulse := none, proof := false, cut := false, proofOff := false }) s1
      startProof d (if l.proof then (if l.proofDue then s2 else proofDone d s2)
        else if l.cut then s2
        else energyLoop d g energy (setLash d (fun l => { l with energies := l.energies.set g energy }) s2)))

/-- No proof pulse runs in a scan of one route with GUARD or EVERY at 0, be it in blanking (R126). -/
def proofsRun (c : Cfg) (d : Side) : Bool := (scanRoutes c d).length ≠ 1 || (proofGuard c d ≠ 0 && proofEvery c d ≠ 0)

/-- An opportunity of R126; after ACQ_STOP no light begins (Table 07-10). -/
def proofTime (s : State) (d : Side) : Bool :=
  let c := cfgOf s d
  let l := s.lash.get d
  !(s.girth.side d).stopping && proofsRun c d && match l.seq with
  | .blanking true => decide (proofWidth c d + 2500 ≤ 1000 * switchSettle c d)
  | .none => acquiring s d && (scanRoutes c d).length = 1 && l.number ≠ 0 && (l.number - 1) % proofEvery c d = 0
  | _ => false

/-- PROOF_PULSE: of an unverified gate, or that of an EMIT_DIAG, abandoned or not (R103, R126). -/
def execProofPulse (d : Side) (s : State) : Out :=
  let l := s.lash.get d
  .next (if l.enabled && s.pwr.laserEn && l.pulse.isNone && proofTime s d && (l.gate == .unverified || l.proofDue) then
    beginProof d s else s)

/-! ### The route scan (R134 to R136) -/

/-- Step 1 of Table 07-9 from a route: Raman triggers stop, records close, the dwell's envelope ends. -/
def leaveRoute (d : Side) (s : State) : State := thermalLeave d (envelopes d true (closeAll d 2 s))

/-- Step 1 towards an entry. -/
def switchTo (d : Side) (e : Nat) (s : State) : State :=
  setLash d (fun l => { l with entry := e, seq := .draining, running := false }) (leaveRoute d (endSettle d false false s))

/-- Step 2: blanking, and the select lines change. -/
def beginBlanking (d : Side) (e : Nat × Word) (s : State) : State :=
  thermalEnter d (entryRoute d e.2)
    (setLash d (fun l => { l with entry := e.1, position := fld e.2 1 0, seq := .blanking false, running := false }) s)

/-- A dwell on the present route begins at an entry. -/
def beginDwell (d : Side) (e : Nat × Word) (s : State) : State :=
  setLash d (fun l => { l with entry := e.1, dwellLeft := fld e.2 31 16 }) s

/-- What every shot-group boundary does first: records of non-acoustic zones, a waiting commit, the stale line, and the
calibration records of the side. -/
def boundary (d : Side) (s : State) : State := applySide d (pairsDue d (holdBoundary d (takeCommit d (boundaryDue d s))))

/-- The commit at this boundary changed the scan table (R136). -/
def scanChanged (d : Side) (old new : State) : Bool := scanOf (cfgOf old d) d != scanOf (cfgOf new d) d

/-- A settle group has passed; at the last the Raman clock may start. -/
def settlePassed (d : Side) (s : State) : State :=
  if (s.lash.get d).settleLeft = 0 then s else
  let s1 := setLash d (fun l => { l with settleLeft := l.settleLeft - 1 }) s
  if (s1.lash.get d).settleLeft = 0 then ramanStart d (endSettle d false false s1) else s1

/-- Emission on the present route starts anew after an empty table: the soft ramp, and the Raman clock (R135). -/
def emitAgain (d : Side) (s : State) : State :=
  ramanStart d (setLash d (fun l => { l with rampLeft := rampGroups (cfgOf s d) d }) s)

/-- Go to an entry at a boundary: the same route goes on with a new dwell and a launch, another is switched to. With an
empty table nothing is launched and the Raman clock stops (R132; log 41); with every route blocked acquisition stops. -/
def goTo (d : Side) (e : Option (Nat × Word)) (s : State) : State :=
  match e with
  | some e => if entryRoute d e.2 = presentRoute s d then launchGroup d 0 (beginDwell d e s) else switchTo d e.1 s
  | none =>
    if activeScan (cfgOf s d) d = [] then
      setTherm d (fun t => { t with running := false })
        (setLash d (fun l => { l with entry := 0, dwellLeft := 0, running := false }) (takeDue d s))
    else endAcq d 7 s

/-- A shot-group boundary of the scan. With an empty table no shot group has passed. -/
def groupBoundary (d : Side) (s : State) : State :=
  let s1 := boundary d s
  let s2 := if activeScan (cfgOf s d) d = [] then emitAgain d s1 else
    settlePassed d (setLash d (fun l => { l with rampLeft := l.rampLeft - 1, dwellLeft := l.dwellLeft - 1 }) s1)
  if scanChanged d s s1 then goTo d (entryFrom s2 d 0) s2
  else if (s2.lash.get d).dwellLeft = 0 then goTo d (entryFrom s2 d ((s2.lash.get d).entry + 1)) s2
  else launchGroup d 0 s2

/-- SHOT_GROUP_BOUNDARY. -/
def execShotGroupBoundary (d : Side) (s : State) : Out :=
  .next (if !(acquiring s d) || (s.girth.side d).stopping || (s.lash.get d).seq != .none then s
    else planes (groupBoundary d) s)

/-- LAUNCH_GROUP_LAUNCH: the next group of the present shot group. -/
def execLaunchGroupLaunch (d : Side) (s : State) : Out :=
  let l := s.lash.get d
  .next (if acquiring s d && !(s.girth.side d).stopping && l.seq == .none && l.running && l.launched ≠ 0 &&
      l.launched < groupCount (cfgOf s d) d then launchGroup d l.launched s else s)

/-- The edge of an ordinary launch: BLANK of the burst detector counts from it (R154). -/
def Lash.edge (l : Lash) (at' : Nat) : Lash :=
  if l.proof then l
  else { l with missing := false, edges := at' :: l.edges.filter fun e => decide (at' < e + 65536) }

/-- LAUNCH_EDGE: to Awl (R118). -/
def execLaunchEdge (d : Side) (s : State) : Out :=
  .next (awlEdge (8 + d.num) false (setLash d (fun l => l.edge (mainNow s)) s))

/-- LAUNCH_MISSING: the last shot is processed against an estimated instant (R119). -/
def execLaunchMissing (d : Side) (s : State) : Out :=
  let l := s.lash.get d
  .next (match l.shots.getLast? with
    | some x =>
      postIf (!l.missing) evLaunchMissing (d.num + 16 * x.group)
        (setLash d (fun l => { l with missing := true, shots := l.shots.dropLast ++ [{ x with est := true }] }) s)
    | none => s)

/-- ROUTE_BLANKING_START: step 2 of Table 07-9, after any parking transfer. -/
def execRouteBlankingStart (d : Side) (s : State) : Out :=
  let l := s.lash.get d
  .next (if acquiring s d && l.seq == .draining && !(s.therm.get d).transfer then
    match entryFrom s d l.entry with
    | some e => beginBlanking d e (takeDue d s)
    | none => planes (endAcq d 7) s
  else s)

/-- SWITCH_STROBE: step 3; the actuation is counted (R137). -/
def execSwitchStrobe (d : Side) (s : State) : Out :=
  let l := s.lash.get d
  .next (if l.seq != .blanking false then s else
    let n := sat 32 (l.count + 1)
    let life := switchLife (cfgOf s d) d
    let up := life ≠ 0 && decide (life < n) && !s.can.endured.getLsbD d.num
    let can := { s.can with endured := if up then s.can.endured ||| (1 <<< d.num) else s.can.endured }
    postIf up evSwitchEndurance d.num
      (setLash d (fun l => { l with seq := .blanking true, count := n, strobeEnd := 10 * s.tb.mono + 4000 * strobeWidth (cfgOf s d) d })
        { s with can := can }))

/-- Step 5: a boundary on the new route, at which the Raman clock does not start; ramp and settle groups start. -/
def blankingEnd (d : Side) (s : State) : State :=
  let r := presentRoute s d
  let s1 := post evRouteSwitched r (setLash d (fun l => { l with visit := l.visit + 1 }) s)
  if (s.girth.side d).stopping then setLash d (fun l => { l with seq := .none }) s1 else
  let s2 := boundary d s1
  let c := cfgOf s2 d
  let s3 := setCur d (fun u => { u with returned := r :: u.returned.filter (· ≠ r) })
    (setLash d (fun l => { l with seq := .none, rampLeft := rampGroups c d, settleLeft := settleGroups c d, extra := 0 }) s2)
  let s4 := if settleGroups c d = 0 then ramanStart d s3 else s3
  goTo d (if scanChanged d s s2 then entryFrom s4 d 0 else entryFrom s4 d (s4.lash.get d).entry) s4

/-- ROUTE_BLANKING_END. -/
def execRouteBlankingEnd (d : Side) (s : State) : Out :=
  .next (if !acquiring s d || (s.lash.get d).seq != .blanking true then s else planes (blankingEnd d) s)

/-- Main sample i of a shot group lies in the trace-end guard of one of its windows (R127). -/
def groupGuarded (c : Cfg) (d : Side) (i : Nat) : Bool :=
  let w := window c d
  let k := groupCount c d
  (List.range k).any fun g => guarded c d ((i + w - g * w / k) % w)

/-- The mean code of a main lane of a side outside the guard differs from its offset reference by more than TOL. -/
def laneOff (s : State) (d : Side) (k : Nat) (codes : List Int) : Bool :=
  let c := cfgOf s d
  let l := (codes.zipIdx.filter fun x => !groupGuarded c d x.2).map fun x => inverted (bit (sideGet c d 0x5000) k) x.1
  decide (settleTol c d * l.length < (l.sum - Config.laneOffset (calTrims s (4 * d.num + k)) * l.length).natAbs)

/-- SETTLE_PERIOD_END: the baseline check at the end of the last settle group, over the codes of the side's lanes in that
group (R157). -/
def execSettlePeriodEnd (d : Side) (lanes : List (List Int)) (s : State) : Out :=
  let c := cfgOf s d
  let l := s.lash.get d
  .next (if !acquiring s d || l.seq != .none || l.settleLeft ≠ 1 then s else
    let fail := settleTol c d ≠ 0 && lanes.zipIdx.any fun x => laneOff s d x.2 x.1
    if fail && l.extra < settleExtra c d && decide (1 < l.dwellLeft) then
      setLash d (fun l => { l with settleLeft := 2, extra := l.extra + 1 }) s
    else endSettle d (decide (l.dwellLeft ≤ 1)) (fail && decide (settleExtra c d ≤ l.extra)) s)

/-! ### Automatic power reduction (R140) -/

/-- The light into the present route stops, and the shots in flight are discarded. -/
def darkRoute (d : Side) (s : State) : State := cutPulse d (discardShots d s)

/-- Step 2 of the sequence at once, to the first open entry from one on. -/
def blankNow (d : Side) (e : Nat) (s : State) : State :=
  let s1 := setTherm d (fun t => { t with transfer := false }) s
  match entryFrom s1 d e with
  | some e => beginBlanking d e s1
  | none => endAcq d 7 s1

/-- The present route is blocked: the sequence to the next open entry starts from step 2. One that drains goes on to the
entry it was to enter; after ACQ_STOP none follows. With no open entry left acquisition ends, and its records with it
(Table 12-11). -/
def leaveBlocked (d : Side) (s : State) : State :=
  let l := s.lash.get d
  let e := if l.seq == .draining then l.entry else l.entry + 1
  if (s.girth.side d).stopping then darkRoute d s
  else if (entryFrom s d e).isNone then endAcq d 7 (darkRoute d s)
  else if l.seq == .draining then blankNow d e (darkRoute d s)
  else blankNow d e (leaveRoute d (darkRoute d (endSettle d false false s)))

/-- APR_ACTIVATION: the route of the side's last fibre break is blocked. -/
def execAprActivation (d : Side) (s : State) : Out :=
  let r := (s.girth.side d).breakRoute
  let l := s.lash.get d
  .next (if routeSide r != d || !bit (rwGet s (sid d 0x4009)) 0 || !(deltaOf s r).broken || l.blocked.getLsbD (r % 4) then s else
    let s1 := discardRoute d r (post evAprActive r
      (setLash d (fun l => { l with blocked := l.blocked ||| ((1 : BitVec 4) <<< (r % 4)) }) s))
    if acquiring s d && presentRoute s d = r then planes (leaveBlocked d) s1 else s1)

/-! ### Wavelength lock (R130, R131) -/

def lbiasLimits (s : State) (d : Side) : Nat × Nat :=
  let w := rwGet s (sid d 0x4021)
  (fld w 15 0, fld w 31 16)
def tecLimits (s : State) (d : Side) : Nat × Nat :=
  let w := rwGet s (sid d 0x4021)
  (fld w 47 32, fld w 63 48)

/-- A code brought within limits. -/
def clampTo (l : Nat × Nat) (x : BitVec 16) : BitVec 16 := BitVec.ofNat 16 (max l.1 (min l.2 x.toNat))

/-- Outputs are always clamped to LASH.WL_LIMITS; without LASER_EN the bias stays at 0 V. -/
def clampOutputs (d : Side) (s : State) : State :=
  setLash d (fun l => { l with lbias := if s.pwr.laserEn then clampTo (lbiasLimits s d) l.lbias else 0
                               tec := clampTo (tecLimits s d) l.tec }) s

/-- The lock runs: Table 07-7 applies. -/
def lockOn (l : Lash) : Bool := l.wl == .acquiring || l.wl == .locked

/-- WAVELOCK_ACQUIRED. -/
def execWavelockAcquired (d : Side) (s : State) : Out :=
  .next (if (s.lash.get d).wl == .acquiring then
    post evWavelockAcquired d.num (setLash d (fun l => { l with wl := .locked }) s) else s)

/-- WAVELOCK_LOST. -/
def execWavelockLost (d : Side) (s : State) : Out :=
  .next (if (s.lash.get d).wl == .locked then
    post evWavelockLost d.num (setLash d (fun l => { l with wl := .acquiring }) s) else s)

/-- LBIAS_LIMIT_REACHED; while LASER_EN is low the output is at 0 V and reaches none (R139). -/
def execLbiasLimitReached (d : Side) (upper : Bool) (s : State) : Out :=
  let m := lbiasLimits s d
  .next (if lockOn (s.lash.get d) && s.pwr.laserEn then
    post evLbiasLimit (d.num + 2 * b2n upper)
      (setLash d (fun l => { l with lbias := BitVec.ofNat 16 (if upper then m.2 else m.1) }) s) else s)

/-- TEC_LIMIT_REACHED. -/
def execTecLimitReached (d : Side) (upper : Bool) (s : State) : Out :=
  let m := tecLimits s d
  .next (if lockOn (s.lash.get d) then
    post evTecLimit (d.num + 2 * b2n upper)
      (setLash d (fun l => { l with tec := BitVec.ofNat 16 (if upper then m.2 else m.1) }) s) else s)

/-- The side that bit 0 of a payload word names. -/
def wordSide (w : Word) : Side := sideOf (fld w 0 0)

/-- What LOCK_SET does. ON puts a side that is LOCKED back to ACQUIRING (DESIGN CHOICE, log 101). -/
def lockAct (w : Word) (s : State) : State :=
  let d := wordSide w
  let s1 := setLash d (fun l => { l with tecDriven := true }) s
  clampOutputs d (match fld w 2 1 with
  | 0 => setLash d (fun l => { l with wl := .off }) s1
  | 1 => setLash d (fun l => { l with wl := .acquiring }) s1
  | _ => setLash d (fun l => { l with
      wl := .manual, lbias := BitVec.ofNat 16 (fld w 31 16), tec := BitVec.ofNat 16 (fld w 47 32) }) s1)

/-- LOCK_SET. -/
def hLockSet : Handler :=
  { Handler.plain 0x44 1 (Handler.ok fun p s => lockAct (wd p 0) s) with
    value := fun _ p => if within 0xFFFFFFFF0007 (wd p 0) && fld (wd p 0) 2 1 ≠ 3 then none else some 0 }

/-- A payload word with its ACTION in bits [2:1] given. -/
def withAct2 (a : Nat) (w : Word) : Word := (w &&& ~~~ 6) ||| BitVec.ofNat 64 (2 * a)

/-- LOCK_SET, OFF. -/
def execLockSetOff (o : Origin) (w : Word) (s : State) : Out := .next (request hLockSet o [withAct2 0 w] s)
/-- LOCK_SET, ON. -/
def execLockSetOn (o : Origin) (w : Word) (s : State) : Out := .next (request hLockSet o [withAct2 1 w] s)
/-- LOCK_SET, MANUAL. -/
def execLockSetManual (o : Origin) (w : Word) (s : State) : Out := .next (request hLockSet o [withAct2 2 w] s)

/-! ### EMIT_ENABLE, EMIT_DIAG (R138, R145) -/

/-- APR_CLEAR releases blocked routes. -/
def aprClear (d : Side) (bits : Nat) (s : State) : State :=
  (List.range 4).foldl (fun s i =>
    if bits.testBit i && (s.lash.get d).blocked.getLsbD i then
      post evAprActive (4 * d.num + i + 0x8000)
        (setLash d (fun l => { l with blocked := l.blocked &&& ~~~ ((1 : BitVec 4) <<< i) }) s)
    else s) s

/-- Emission becomes enabled: the gate is to be proved, the trims start at 1.000. -/
def emitOn (d : Side) (s : State) : State :=
  if (s.lash.get d).enabled then s else
  post evEmitEnabled d.num (setLash d (fun l => { l with
    enabled := true, gate := .unverified, trims := List.replicate 8 1024, atLimit := List.replicate 8 false
    beyond := List.replicate 8 0, within := List.replicate 8 0, unlocked := List.replicate 8 false }) s)

/-- EMIT_ENABLE. -/
def hEmitEnable : Handler :=
  { Handler.plain 0x43 1 (Handler.ok fun p s =>
      let w := wd p 0
      let s1 := aprClear (wordSide w) (fld w 11 8) s
      if bit w 1 then emitOn (wordSide w) s1 else emitOff (wordSide w) 0 s1) with
    value := fun _ p => maskFault [0xF03] p
    bad := fun s _ p =>
      let d := wordSide (wd p 0)
      if bit (wd p 0) 1 then !s.pwr.laserEn || (s.lash.get d).dacFault else acquiring s d }
/-- EMIT_ENABLE. -/
def execEmitEnable (o : Origin) (p : List Word) (s : State) : Out := .next (request hEmitEnable o p s)

/-- Four 16-bit fields of a list. -/
def four (l : List Nat) (i : Nat) : Word := mk ((List.range 4).map fun j => (16 * j, 16, sat 16 (l.getD (i + j) 0)))

/-- EMIT_DIAG. -/
def hEmitDiag : Handler :=
  { Handler.plain 0x45 1 (fun _ p s =>
      let d := wordSide (wd p 0)
      let l := s.lash.get d
      (okReply [emitStatus s d, four l.energies 0, four l.energies 4, four l.trims 0, four l.trims 4], s)) with
    value := fun _ p => if within 7 (wd p 0) && fld (wd p 0) 2 1 ≤ 1 then none else some 0
    bad := fun s _ p => fld (wd p 0) 2 1 = 1 && !(s.lash.get (wordSide (wd p 0))).enabled
    defers := fun _ p => if fld (wd p 0) 2 1 = 1 then some (.proof (wordSide (wd p 0))) else none
    start := fun _ p s =>
      let d := wordSide (wd p 0)
      startProof d (setLash d (fun l => { l with proofDue := true }) s) }
/-- EMIT_DIAG, ACTION 0. -/
def execEmitDiagRead (o : Origin) (w : Word) (s : State) : Out := .next (request hEmitDiag o [withAct2 0 w] s)
/-- EMIT_DIAG, ACTION 1. -/
def execEmitDiagProof (o : Origin) (w : Word) (s : State) : Out := .next (request hEmitDiag o [withAct2 1 w] s)

end Sys2Proof.Machine
end

