-- ==== Sys2Proof/Machine/Acquire.lean ====
section
/-!
DEFINITION. Acquisition (chapters 10 and 12): ACQ_START and ACQ_STOP, a shot's way to the Currier array, and
BASELINE_CAPTURE.
-/
namespace Sys2Proof.Machine

/-! ### ACQ_START, ACQ_STOP (R241, R242) -/

/-- What the zones of a side keep is theirs from the start on. -/
def freshZones (d : Side) (s : State) : State :=
  (keptZones s d).foldl (fun s z => setZone z (fun r => { r with past := [], samples := 0, faded := 0, fadeUp := false }) s) s

/-- The Currier array of a side at the start of acquisition: no launch group yet. -/
def Currier.start (u : Currier) (c : Cfg) (cycle : Nat) : Currier :=
  { u with groups := 0, refGates := [], lastValid := [], returned := [], cfg := c, tags := [], power := [], clean := false,
           unheld := false, second := cycle }

/-- A side's envelopes start again with its dwell (R258). -/
def freshEnvelopes (d : Side) (c : Cfg) (s : State) : State :=
  setGirth d (fun g => { g with envStart := none })
    { s with girth := { s.girth with env := s.girth.env.filter fun e => zoneSide c e.1 != d } }

/-- The scan of a side starts at its first open entry with the full switch sequence (R135). -/
def startScan (d : Side) (s : State) : State :=
  match entryFrom s d 0 with
  | some e => setLash d (fun l => { l with
      entry := e.1, seq := .draining, running := false, number := 0, launched := 0, rampLeft := 0, settleLeft := 0
      dwellLeft := 0, shots := [], void := (l.settling d).take 64, moved := [], taken := [] }) s
  | none => endAcq d 7 s

/-- Acquisition starts on a side. -/
def startAcq (d : Side) (s : State) : State :=
  let c := cfgOf s d
  let s1 := setCur d (fun u => u.start c s.tb.mono) (freshZones d (restartSide d c s))
  let s2 := setGirth d (fun g => { g with acquiring := true, stopping := false, autoAt := s.tb.mono, digStart := now s, digest := [0, 0, 0, 0] }) s1
  let s3 := useTiles (freshEnvelopes d c { s2 with girth := { s2.girth with digZones := clearDigZones d s2.girth.digZones } })
  fixLane (startScan d (post evAcqStarted d.num (discardSide d s3)))

/-- ACQ_START. -/
def hAcqStart : Handler :=
  { Handler.plain 0x30 1 (fun _ p s =>
      let a := namesSide (wd p 0) .a || acquiring s .a
      let b := namesSide (wd p 0) .b || acquiring s .b
      if overload s (cfgOf s .a) (cfgOf s .b) a b then (reply stConflict 0 [], s)
      else (okReply [], planes (onSides (wd p 0) startAcq) s)) with
    dram := fun _ => true
    value := fun _ p => sidesFault 3 p
    bad := fun s _ p => !pllLocked s || [Side.a, .b].any fun d => namesSide (wd p 0) d &&
      (acquiring s d || !(s.lash.get d).enabled || scanOf (cfgOf s d) d == []) }
/-- ACQ_START. -/
def execAcqStart (o : Origin) (p : List Word) (s : State) : Out := .next (request hAcqStart o p s)

/-- No launch follows; the Raman clock stops with the last launch. -/
def stopSide (d : Side) (s : State) : State :=
  if !acquiring s d then s else
  setTherm d (fun t => { t with running := false })
    (abandonProof d (setLash d (fun l => { l with running := false }) (setGirth d (fun g => { g with stopping := true }) s)))

/-- ACQ_STOP. -/
def hAcqStop : Handler :=
  { Handler.plain 0x31 1 (Handler.ok fun p s => onSides (wd p 0) stopSide s) with value := fun _ p => sidesFault 3 p }
/-- ACQ_STOP. -/
def execAcqStop (o : Origin) (p : List Word) (s : State) : Out := .next (request hAcqStop o p s)

/-- ACQ_STOPPED: the last output sample of the side has been delivered. -/
def execAcqStopped (d : Side) (s : State) : Out :=
  .next (if acquiring s d && (s.girth.side d).stopping && (s.lash.get d).shots = [] &&
      !(s.girth.waiting.any fun o => o.side == d) then planes (endAcq d 0) s else s)

/-! ### Shots reach the array (R21, R193) -/

/-- CURRIER_SHOT_OUTPUT: the oldest shot in flight. Under overload, whether it finishes in time is open. -/
def execCurrierShotOutput (d : Side) (data : ShotData) (s : State) : Out :=
  .next (match (s.lash.get d).shots with
    | [] => s
    | x :: r =>
      let late := (s.cur.get d).overload && Config.freeBit 193 s.drawn
      planes (shotOutput d { x with late := late } data) (setLash d (fun l => { l with shots := r }) { s with drawn := s.drawn + 1 }))

/-! ### BASELINE_CAPTURE (R215) -/

/-- ROUTE and GROUPS. -/
def captureRoute (p : List Word) : Nat := fld (wd p 0) 2 0
def captureGroups (p : List Word) : Nat := fld (wd p 0) 31 16

/-- A capture of so many groups starts at a core cycle, or waits for an abandoned one of its route (R103, R420; log 64). -/
def Baseline.begin (b : Baseline) (cycle groups : Nat) : Baseline :=
  if b.state = 1 then { b with later := b.later ++ [groups] }
  else { b with prior := b.state, state := 1, since := cycle, want := groups, done := 0, sums := [] }

/-- A capture has its groups: the route's baseline is VALID; one that waits begins. -/
def Baseline.captured (b : Baseline) (cycle noise : Nat) : Baseline :=
  let x := { b with state := 2, prior := 0, want := 0, done := 0, sums := [], noise := noise, later := b.later.tail }
  match b.later with
  | [] => x
  | n :: _ => { x with prior := 2, state := 1, since := cycle, want := n }

/-- BASELINE_CAPTURE. -/
def hBaselineCapture : Handler :=
  { Handler.work 0x27 1 (fun p => .baseline (captureRoute p)) (fun _ p s =>
      setBase (captureRoute p) (fun b => b.begin s.tb.mono (captureGroups p)) s) with
    dram := fun _ => true
    value := fun _ p => if within 0xFFFF0007 (wd p 0) && captureGroups p ≠ 0 then none else some 0
    bad := fun s _ p =>
      let r := captureRoute p
      let d := routeSide r
      !acquiring s d || !(scanRoutes (cfgOf s d) d).contains r || held s (.baseline r) }
/-- BASELINE_CAPTURE. -/
def execBaselineCapture (o : Origin) (p : List Word) (s : State) : Out := .next (request hBaselineCapture o p s)

/-- The average power of a gate, in 2^−32 of full scale (log 88); the sums are in 2^−48. -/
def averagePower (b : Baseline) (g : Nat) : Nat :=
  sat 32 (Config.quot 215 (Int.ofNat (kvGet 0 b.sums g)) (b.want * 2 ^ 16)).toNat

/-- The averages as 32-bit values, two a hide word. -/
def averageWords (b : Baseline) (n : Nat) : List Word :=
  (List.range (cdiv n 2)).map fun i =>
    mk [(0, 32, averagePower b (2 * i)), (32, 32, if 2 * i + 1 < n then averagePower b (2 * i + 1) else 0)]

/-- The points of the straight-line fit: gates that lie in a zone of the route. -/
def lossPoints (c : Cfg) (r n : Nat) (b : Baseline) : List (Nat × Nat) :=
  ((List.range n).filter fun g => (zonesOn c r).any fun z => zoneHolds c z (gateMm c r g)).map fun g =>
    (gateMm c r g, averagePower b g)

/-- The straight line of the logarithmic baseline: Σ over the points of n, x, L, x², x L, with L = log2 of the power in
2^−40 and x in mm. -/
def lossSums (l : List (Nat × Nat)) : Int × Int × Int × Int × Int :=
  l.foldl (fun a p =>
    let x : Int := p.1
    let y := log2Q p.2 1
    (a.1 + 1, a.2.1 + x, a.2.2.1 + y, a.2.2.2.1 + x * x, a.2.2.2.2 + x * y)) (0, 0, 0, 0, 0)

/-- LOSS: backscatter falls by twice the one-way attenuation, so it is −5 · lg 2 · slope, here in 0.001 dB/km. It is not
stated of fewer than two places, of a gate without power, or outside the field. -/
def lossOf (l : List (Nat × Nat)) : Nat :=
  let (n, x, y, xx, xy) := lossSums l
  let den := n * xx - x * x
  let out := Config.quot 215 (-(n * xy - x * y) * lg2 * 5000000000) (den.toNat * 2 ^ 100)
  if den = 0 ∨ l.any (·.2 = 0) ∨ out < 0 ∨ 65535 < out then (Config.unstated 215 (l.map fun p => (p.2 : Int))).toNat % 65536
  else out.toNat

/-- The noise-gate power of a whole shot group. -/
def groupNoise (s : State) (c : Cfg) (d : Side) : Nat :=
  (((List.range (groupCount c d)).flatMap (allBranches c d)).map fun b => (s.cur.get d).noise.getD b 0).sum

/-- The two result words. -/
def captureResult (s : State) (c : Cfg) (r n : Nat) (b : Baseline) : List Word :=
  [mk [(0, 32, fibreEnd s c r), (32, 32, n)], mk [(0, 16, lossOf (lossPoints c r n b))]]

/-- BASELINE_CAPTURE_DONE: GROUPS shot groups are in. -/
def execBaselineCaptureDone (r : Nat) (s : State) : Out :=
  let b := baseline s r
  .next (if b.state = 1 && b.want ≤ b.done then
    let d := routeSide r
    let c := cfgOf s d
    let n := routeGates c r
    let s1 := dramBytes (fun m => memPutWords m (baselineAt r) (averageWords b n)) s
    let s2 := setBase r (fun x => x.captured s.tb.mono (groupNoise s c d)) s1
    endsFor (b.later ≠ []) (finish (.baseline r) stOk (captureResult s2 c r n b)) (setDelta r (fun _ => Delta.init) s2)
  else s)

end Sys2Proof.Machine
end

