-- ==== Sys2Proof/Machine/Crypto.lean ====
section
/-!
DEFINITION. The hardware SHA-256 engine and ECDSA P-256 verifier of Cantle (chapter 18, R390): SHA-256 over bytes, and
the verification of a signature over the curve P-256. The two standards are named by the spec and written out here
(log 11).
-/
namespace Sys2Proof.Machine

/-! ### SHA-256 -/

/-- A word of the digest engine. -/
abbrev W32 := BitVec 32

/-- The largest x with x^k at most n, from the highest of its bits down: bit b is kept where the power still fits. -/
def rootBits (k n : Nat) : Nat → Nat → Nat
  | 0, x => x
  | b + 1, x => rootBits k n b (if (x + 2 ^ b) ^ k ≤ n then x + 2 ^ b else x)

/-- The first 32 bits of the fraction of the k-th root of p. -/
def rootFraction (k p : Nat) : W32 := BitVec.ofNat 32 (rootBits k (p * 2 ^ (32 * k)) 40 0)

/-- The 64 primes below 312. -/
def shaPrimes : List Nat := (List.range 312).filter fun p => 2 ≤ p && (List.range p).all fun q => q < 2 || p % q != 0

/-- The round constants, and the initial digest: the cube roots of all 64, and the square roots of the first eight. -/
def shaK : List W32 := shaPrimes.map (rootFraction 3)
def shaInit : List W32 := (shaPrimes.take 8).map (rootFraction 2)

/-- The next word of the message schedule, from those before it, newest first. -/
def shaNext (r : List W32) : W32 :=
  let x := r.getD 1 0
  let y := r.getD 14 0
  (x.rotateRight 17 ^^^ x.rotateRight 19 ^^^ (x >>> 10)) + r.getD 6 0 +
    (y.rotateRight 7 ^^^ y.rotateRight 18 ^^^ (y >>> 3)) + r.getD 15 0

/-- The 64 schedule words of a block. -/
def shaSchedule (block : List W32) : List W32 :=
  (Nat.repeat (fun r => shaNext r :: r) 48 block.reverse).reverse

/-- One round over the eight working words. -/
def shaRound (s : List W32) (k w : W32) : List W32 :=
  let a := s.getD 0 0
  let e := s.getD 4 0
  let ch := (e &&& s.getD 5 0) ^^^ (~~~ e &&& s.getD 6 0)
  let maj := (a &&& s.getD 1 0) ^^^ (a &&& s.getD 2 0) ^^^ (s.getD 1 0 &&& s.getD 2 0)
  let t := s.getD 7 0 + (e.rotateRight 6 ^^^ e.rotateRight 11 ^^^ e.rotateRight 25) + ch + k + w
  let u := (a.rotateRight 2 ^^^ a.rotateRight 13 ^^^ a.rotateRight 22) + maj
  [t + u, a, s.getD 1 0, s.getD 2 0, s.getD 3 0 + t, e, s.getD 5 0, s.getD 6 0]

/-- One block into the digest. -/
def shaBlock (h block : List W32) : List W32 :=
  List.zipWith (· + ·) h ((List.zip shaK (shaSchedule block)).foldl (fun s x => shaRound s x.1 x.2) h)

/-- A number from bytes, the first one highest; and the first one lowest. -/
def bigEndian (l : List Byte) : Nat := l.foldl (fun a b => 256 * a + b.toNat) 0
def littleEndian (l : List Byte) : Nat := l.foldr (fun b a => b.toNat + 256 * a) 0

/-- The message with its padding to whole blocks of 64 bytes. -/
def shaPad (l : List Byte) : List Byte :=
  l ++ [0x80] ++ List.replicate ((119 - l.length % 64) % 64) 0 ++
    (List.range 8).map fun i => BitVec.ofNat 8 (8 * l.length / 256 ^ (7 - i))

/-- The 16 words of a block. -/
def shaWords (l : List Byte) : List W32 :=
  (List.range 16).map fun i => BitVec.ofNat 32 (bigEndian ((l.drop (4 * i)).take 4))

/-- The digest of so many padded blocks. -/
def shaRun : Nat → List W32 → List Byte → List W32
  | 0, h, _ => h
  | n + 1, h, l => shaRun n (shaBlock h (shaWords l)) (l.drop 64)

/-- The SHA-256 digest in its output order. -/
def sha256 (l : List Byte) : List Byte :=
  let m := shaPad l
  (shaRun (m.length / 64) shaInit m).flatMap fun (w : W32) =>
    (List.range 4).map fun i => BitVec.setWidth 8 (w >>> (8 * (3 - i)))

/-! ### P-256 -/

/-- The field, the order of the group, the curve's b, and the base point. -/
abbrev ecP : Nat := 0xffffffff00000001000000000000000000000000ffffffffffffffffffffffff
abbrev ecN : Nat := 0xffffffff00000000ffffffffffffffffbce6faada7179e84f3b9cac2fc632551
abbrev ecB : Nat := 0x5ac635d8aa3a93e7b3ebbd55769886bc651d06b0cc53b0f63bce3c3e27d2604b
abbrev ecG : Nat × Nat := (0x6b17d1f2e12c4247f8bce6e563a440f277037d812deb33a0f4a13945d898c296,
  0x4fe342e2fe1a7f9b8ee7eb4a7c0f9e162bce33576b315ececbb6406837bf51f5)

/-- b^e mod m over the low n bits of e. -/
def powMod (m : Nat) : Nat → Nat → Nat → Nat
  | 0, _, _ => 1
  | n + 1, b, e => (if e % 2 = 1 then b else 1) * powMod m n (b * b % m) (e / 2) % m

/-- The inverse modulo a 256-bit prime. -/
def invMod (m x : Nat) : Nat := powMod m 256 (x % m) (m - 2)

/-- x − y in the field. -/
def subP (x y : Nat) : Nat := (x + (ecP - y % ecP)) % ecP

/-- The third point of the line of slope k through (x1, y1) and a point of abscissa x2, mirrored. -/
def ecLine (k x1 y1 x2 : Nat) : Nat × Nat :=
  let x := subP (subP (k * k) x1) x2
  (x, subP (k * subP x1 x) y1)

/-- The sum of two points; none is the point at infinity. -/
def ecAdd : Option (Nat × Nat) → Option (Nat × Nat) → Option (Nat × Nat)
  | none, q => q
  | p, none => p
  | some (x1, y1), some (x2, y2) =>
    if x1 = x2 then
      if (y1 + y2) % ecP = 0 then none
      else some (ecLine ((3 * x1 * x1 + (ecP - 3)) * invMod ecP (2 * y1) % ecP) x1 y1 x2)
    else some (ecLine (subP y2 y1 * invMod ecP (subP x2 x1) % ecP) x1 y1 x2)

/-- k times a point, over the low n bits of k. -/
def ecMul : Nat → Nat → Option (Nat × Nat) → Option (Nat × Nat)
  | 0, _, _ => none
  | n + 1, k, q => ecAdd (if k % 2 = 1 then q else none) (ecMul n (k / 2) (ecAdd q q))

/-- A public key is a point of the curve. -/
def ecKeyOk (q : Nat × Nat) : Bool :=
  q.1 < ecP && q.2 < ecP && q.2 * q.2 % ecP == (q.1 * q.1 * q.1 + (ecP - 3) * q.1 + ecB) % ecP

/-- The signature (r, s) of a digest verifies under a public key. -/
def ecdsaOk (digest : Nat) (q : Nat × Nat) (r s : Nat) : Bool :=
  let w := invMod ecN s
  let ok := 0 < r && r < ecN && 0 < s && s < ecN && ecKeyOk q
  ok && match ecAdd (ecMul 256 (digest * w % ecN) (some ecG)) (ecMul 256 (r * w % ecN) (some q)) with
    | some p => p.1 % ecN == r
    | none => false

end Sys2Proof.Machine
end

