-- ==== Sys2Proof/Machine/Chain.lean ====
section
/-!
DEFINITION. The harness (chapter 05): link states, forwarding, replies from below, addresses, the timing symbols and the
hop-delay measurement.
-/
namespace Sys2Proof.Machine

def setHarn (f : Harness → Harness) (s : State) : State := { s with harn := f s.harn }

/-! ### Links (R74, R76) -/

def linkOf (s : State) (p : HPort) : LinkState := match p with | .up => s.harn.up | .down => s.harn.down

def setLink (p : HPort) (x : LinkState) (s : State) : State :=
  match p with
  | .up => setHarn (fun h => { h with up := x }) s
  | .down => setHarn (fun h => { h with down := x, downEver := h.downEver || x == .locked }) s

/-- HARNESS_COMMA_RECEIVED. -/
def execHarnessCommaReceived (p : HPort) (s : State) : Out :=
  .next (if answers s && linkOf s p == .noLink then setLink p .align s else s)

/-- HARNESS_LINK_LOCK: 64 consecutive valid symbols. -/
def execHarnessLinkLock (p : HPort) (s : State) : Out :=
  .next (if answers s && linkOf s p == .align then
    post (match p with | .up => evChainUpLock | .down => evChainDownLock) 0 (setLink p .locked s) else s)

/-- A packet still leaving is cut off. -/
def cutPacket (busy cycle : Nat) (x : Option Packet) : Option Packet :=
  if cycle < busy then x.map fun k => { k with cut := true } else x

/-- It is ended on its pair by a K28.7, and idle follows (R76). -/
def cutLine (busy cycle : Nat) (l : LineOut) : LineOut := if cycle < busy then l.cut cycle [.k 28 7] else l

/-- HARNESS_LINK_LOSS: what came from that port is cut off. -/
def execHarnessLinkLoss (p : HPort) (s : State) : Out :=
  .next (if linkOf s p != .locked then s else
    let s1 := setLink p .noLink s
    match p with
    | .up => post evChainUpLoss 0
        (setHarn (fun h => { h with 
          outDown := cutPacket h.downBusy s.tb.mono h.outDown, downBusy := min h.downBusy s.tb.mono
          lineDown := cutLine h.downBusy s.tb.mono h.lineDown }) s1)
    | .down => post evChainDownLoss 0
        (setHarn (fun h => { h with 
          outUp := cutPacket h.upBusy s.tb.mono h.outUp, upBusy := min h.upBusy s.tb.mono
          lineUp := cutLine h.upBusy s.tb.mono h.lineUp }) s1))

/-! ### Packets (R75, R77, R93, R94) -/

/-- The header of a packet as a hide word (Table 06-1). -/
def packetHeader (k : Packet) : Word :=
  mk [(0, 6, k.addr.toNat), (6, 1, b2n k.isReply), (7, 1, b2n k.retry), (8, 8, k.seq.toNat), (16, 8, k.opcode.toNat),
    (24, 8, k.length.toNat), (32, 8, k.status.toNat), (40, 8, k.detail.toNat), (48, 16, k.reserved.toNat)]

/-- The CRC that a packet ought to carry. -/
def packetCrc (k : Packet) : BitVec 32 := crcWords (packetHeader k :: k.payload)

/-- A packet with its CRC recomputed. -/
def reseal (k : Packet) : Packet := { k with crc := packetCrc k }

/-- The packet is whole: LENGTH fits, nothing cut it, the CRC matches (R94, R95). -/
def packetOk (k : Packet) : Bool :=
  !k.cut && k.length.toNat ≤ 32 && k.payload.length = k.length.toNat && k.crc == packetCrc k

/-- Core cycles until a forwarded packet has left: 3 symbols, then 13 + 8 · L of 16 cycles each. -/
def packetCycles (k : Packet) : Nat := 48 + 16 * (13 + 8 * k.payload.length)

/-- Packets from a port pass: its data pair is LOCKED, and no break-in has the link logic in reset. That a break-in stops
the upward direction too is the model's reading of that reset (log 85). -/
def forwards (s : State) (p : HPort) : Bool := answers s && !s.harn.breakIn && linkOf s p == .locked

def downBlock (s : State) : Bool := bit (rwGet s 0x1001) 0
def timingBlock (s : State) : Bool := bit (rwGet s 0x1001) 1

/-- The symbols of a packet on a data pair (R93, R94); one that came cut ends with K28.7 (R76). -/
def packetSymbols (k : Packet) : List Symbol :=
  .k 28 5 :: ((packetHeader k :: k.payload).flatMap wordBytes ++ (wordBytes (k.crc.setWidth 64)).take 4).map .d ++
    if k.cut then [.k 28 7] else []

/-- A packet is forwarded: its symbols leave three symbols after they came (R75). -/
def sendUp (k : Packet) (s : State) : State :=
  setHarn (fun h => { h with
    outUp := some k, upBusy := s.tb.mono + packetCycles k, lineUp := h.lineUp.send s.tb.mono 3 (packetSymbols k) }) s
def sendDown (k : Packet) (s : State) : State :=
  setHarn (fun h => { h with
    outDown := some k, downBusy := s.tb.mono + packetCycles k, lineDown := h.lineDown.send s.tb.mono 3 (packetSymbols k) }) s

/-! ### Replies from below (R79, R82, R89) -/

/-- A unit adds itself to the word of Table 05-5. -/
def enumAdd (a : BitVec 6) (w : Word) : Word :=
  let units := fld w 36 32
  mk [(0, 32, (BitVec.ofNat 32 w.toNat ||| ((1 : BitVec 32) <<< a.toNat)).toNat), (32, 5, min 31 (units + 1)),
    (37, 1, b2n (bit w 37 || (a ≠ 0 && bit w a.toNat))), (38, 1, b2n (bit w 38 || 31 ≤ units))]

/-- This unit's own answer is to the same broadcast as a packet's: opcode and SEQ. -/
def OwnReply.fits (x : OwnReply) (k : Packet) : Bool :=
  x.op == k.opcode && match x.seq with | some q => q == k.seq | none => true

/-- The reply to a broadcast takes up this unit's own status, and an enumeration this unit; a unit that refused the
enumeration does not add itself, and the word passes on under any status (log 86). -/
def accumulate (s : State) (k : Packet) : Packet :=
  match s.harn.own with
  | none => k
  | some x =>
    if !x.fits k then k else
    let k1 := if k.status < x.status then { k with status := x.status, detail := x.detail } else k
    let k2 := if x.op = 0x18 && x.status = 0 then { k1 with payload := k1.payload.map (enumAdd s.pwr.address) } else k1
    reseal k2

def setAddress (a : Nat) (s : State) : State := { s with pwr := { s.pwr with address := BitVec.ofNat 6 a } }

/-- The unit has contributed to the reply of an enumeration: with CLEAR it loses its address now (R82), also where the reply
carries no word that it could add itself to (DESIGN CHOICE, log 104). -/
def contributed (k : Packet) (s : State) : State :=
  match s.harn.own with
  | some x => if x.fits k && x.op = 0x18 && x.status = 0 && s.harn.clearDue then setAddress 0 s else s
  | none => s

/-- REPLY_PASSING_UP. -/
def execReplyPassingUp (k : Packet) (s : State) : Out :=
  .next (if !forwards s .down || downBlock s then s else
    let s1 := if packetOk k then contributed k (sendUp (accumulate s k) s)
      else post evChainCrc 1 (setHarn (fun h => { h with downCrc := sat 16 (h.downCrc + 1) }) (sendUp k s))
    setHarn (fun h => { h with own := none, clearDue := false }) s1)

/-! ### CHAIN_ENUMERATE, CHAIN_ADDR_SET (R81, R82, R414, R415) -/

/-- CHAIN_ENUMERATE: with CLEAR, the last unit loses its address with its reply, every other once it has added itself to
the reply from below. -/
def hChainEnumerate : Handler :=
  { Handler.plain 0x18 1 (fun _ p s =>
      (okReply [enumAdd s.pwr.address 0],
        if isLast s then (if bit (wd p 0) 0 then setAddress 0 s else s)
        else setHarn (fun h => { h with clearDue := bit (wd p 0) 0 }) s)) with
    bcast := .only
    value := fun _ p => maskFault [1] p
    bad := fun _ o _ => o.port == .uart }
/-- CHAIN_ENUMERATE. -/
def execChainEnumerate (o : Origin) (p : List Word) (s : State) : Out := .next (request hChainEnumerate o p s)

/-- CHAIN_ADDR_SET: a unit that has the address already changes nothing, and raises no event on either port; R415 says so of
the harness alone (DESIGN CHOICE, log 104). -/
def hChainAddrSet : Handler :=
  { Handler.plain 0x19 1 (fun o p s =>
      let a := fld (wd p 0) 5 0
      let s1 := if s.pwr.address.toNat = a then s else post evAddrAssigned a (setAddress a s)
      (okReply (identity s1 (o.port == .uart)), s1)) with
    bcast := .no
    value := fun _ p => if within 0x3F (wd p 0) && rng (fld (wd p 0) 5 0) 1 31 then none else some 0 }
/-- CHAIN_ADDR_SET. -/
def execChainAddrSet (o : Origin) (p : List Word) (s : State) : Out := .next (request hChainAddrSet o p s)

/-! ### Hop delays (R87) -/

/-- The measurement is over. -/
def delayDone (d : BitVec 32) (s : State) : State :=
  let s1 := setHarn (fun h => { h with hopDown := d, measuring := false }) s
  finish .delay stOk [hopDelay s1] s1

/-- The 256 PROBE characters go to HDN_TOUT and leave as it is free (R87). -/
def sendProbes (s : State) : State :=
  let w : TimWait := { kind := .probe, sym := { origin := 0, code := 0, acc := 0 }, arrived := s.tb.mono }
  let o := s.harn.timDown
  { s with
    harn := { s.harn with timDown := TimOut.advance { o with waiting := o.waiting ++ List.replicate 256 w } s.tb.mono s.drawn }
    drawn := s.drawn + 1 }

/-- CHAIN_DELAY_MEASURE: without a locked DOWN link it completes with DOWN = 0. -/
def hChainDelayMeasure : Handler :=
  { Handler.work 0x1A 0 (fun _ => .delay) (fun _ _ s =>
      if s.harn.down == .locked then sendProbes (setHarn (fun h => { h with measuring := true }) s) else delayDone 0 s) with
    bad := fun _ o _ => o.port == .uart }
/-- CHAIN_DELAY_MEASURE. -/
def execChainDelayMeasure (o : Origin) (p : List Word) (s : State) : Out := .next (request hChainDelayMeasure o p s)

/-- Half the mean round trip, in 1/256 ns. -/
def halfTrip (mean : Nat) : BitVec 32 := BitVec.ofInt 32 (Config.quot 87 (mean : Int) 2)

/-- CHAIN_DELAY_MEASURE_DONE: the result is kept and sent to the neighbour below: what was sent is in State, and no pair shows
it, as its pair and its symbols are not stated (DESIGN CHOICE, log 114). -/
def execChainDelayMeasureDone (meanRoundTrip : Nat) (s : State) : Out :=
  .next (if s.harn.measuring then
    delayDone (halfTrip meanRoundTrip) (setHarn (fun h => { h with sentDelay := some (halfTrip meanRoundTrip) }) s) else s)

/-- DELAY_PROBE_RECEIVED: the ECHO leaves on HUP_TOUT. -/
def execDelayProbeReceived (s : State) : Out :=
  .next (if answers s then timSend .up .echo { origin := 0, code := 0, acc := 0 } s else s)

/-- HOP_DELAY_UP_RECEIVED. -/
def execHopDelayUpReceived (delay : BitVec 32) (s : State) : Out :=
  .next (if answers s then setHarn (fun h => { h with hopUp := delay }) s else s)

/-! ### Timing symbols (R84 to R86) -/

/-- A symbol passes on, its port's hop delay added to ACC. -/
def passSymbol (from' : HPort) (k : TimKind) (t : TimingSym) (s : State) : State :=
  let t' := TimingSym.plus t (hopFor s from') s.drawn
  let s1 := { s with drawn := s.drawn + 1 }
  match from' with
  | .up => timSend .down k t' s1
  | .down => if timingBlock s then s1 else timSend .up k t' s1

/-- The time tag of a symbol's origin instant, in 1/256 ns. -/
def originAt (s : State) (p : HPort) (t : TimingSym) : Nat := backBy s (sinceOrigin s p t)

/-- An ARM symbol with a side's code arms it. -/
def lineArm (code : Nat) (s : State) : State :=
  bothSides (fun d s => if bit (girthCtrl s d) 1 && fld (girthCtrl s d) 15 8 = code then armSide d s else s) s

/-- ARM_SYMBOL_RECEIVED; one from the DOWN port is discarded. -/
def execArmSymbolReceived (p : HPort) (t : TimingSym) (s : State) : Out :=
  .next (if !answers s || p = .down then s else
    let s1 := passSymbol .up .arm t s
    lineArm t.code.toNat (postAt evArmReceived t.code.toNat (tagOfNs (originAt s p t / 256)) s1))

/-- FIRE_SYMBOL_RECEIVED: the data plane's postings go before the control plane's (R17). -/
def execFireSymbolReceived (p : HPort) (t : TimingSym) (s : State) : Out :=
  .next (if !answers s then s else
    let s1 := passSymbol p .fire t s
    let x := originAt s p t
    let tag := tagOfNs (x / 256)
    postAt evFireReceived t.origin.toNat tag (sourceTrigger
      { cause := 4, code := t.code.toNat, ns := x / 256, frac := x % 256, origin := t.origin.toNat, fire := tag } trigFire s1))

/-- A pending CHAIN_SYNC load takes a recognised SYNC: the counter reads its value at the origin instant (R279). -/
def loadAtSync (p : HPort) (t : TimingSym) (s : State) : State :=
  match s.tb.loader with
  | some (.chainSync tag) =>
    planes (fun s => finish .loader stOk [] (post evChainTimeSet t.origin.toNat
      (stepTo (nsOfTag tag * 2 ^ 32 + sinceOrigin s p t * 2 ^ 24) true (setTb (fun t => { t with loader := none }) s)))) s
  | _ => s

/-- The first core cycle at or after the origin instant + 30 µs (R86); a core cycle is 640 of 1/256 ns. -/
def syncDue (s : State) (p : HPort) (t : TimingSym) : Nat := s.tb.mono + cdiv (7680000 - sinceOrigin s p t) 640

/-- SYNC_SYMBOL_RECEIVED; one from the DOWN port is discarded. -/
def execSyncSymbolReceived (p : HPort) (t : TimingSym) (s : State) : Out :=
  .next (if !answers s || p = .down then s else
    let s1 := passSymbol .up .sync t s
    if !lineSyncOn s then s1 else
    loadAtSync p t { s1 with pll := { s1.pll with syncWait := s1.pll.syncWait ++ [{ line := true, due := syncDue s p t }] } })

/-- TIMING_SYMBOL_DISCARD: counted, and a possible FIRE where SUSPECT_FIRE says so (R250). -/
def execTimingSymbolDiscard (p : HPort) (s : State) : Out :=
  .next (if !answers s then s else
    let s1 := setHarn (fun h => { h with timErr := sat 16 (h.timErr + 1) }) s
    let x := backBy s (hopOf s p)
    post evTimingSymErr (match p with | .up => 0 | .down => 1) (bothSides (fun d s =>
      if bit (girthCtrl s d) 3 then sideTrigger (Trigger.own 7 0 (x / 256) 0) d trigFire s else s) s1))

end Sys2Proof.Machine
end

