-- ==== Sys2Proof/Machine/Pll.lean ====
section
/-!
DEFINITION. The root PLL (chapter 04): the reference choice, the loop states of Table 04-6, a change of N or REF_MULT, and
SYNC with the divider phases.
-/
namespace Sys2Proof.Machine

def setPll (f : Pll → Pll) (s : State) : State := { s with pll := f s.pll }

/-! ### CLK.PLL_CFG (R65 to R68) -/

/-- fREF of a FREQ_CODE in 0.1 MHz (Table 04-2). -/
def refFreq (code : Nat) : Nat := [100, 128, 160, 200, 250, 300, 400, 500, 600, 800, 1000, 1200].getD code 250

/-- The reset value of CLK.PLL_CFG for a reference: ×1, N = 4800 MHz / fREF, and the table's ICP. -/
def pllReset (code : Nat) : Word := mk [(0, 10, 48000 / refFreq code), (12, 6, if code ≤ 2 then 32 else 16)]

def pllN (v : Word) : Nat := fld v 9 0
def pllMult (v : Word) : Nat := fld v 11 10
def pllIcp (v : Word) : Nat := fld v 17 12

/-- Twice fPFD in 0.1 MHz. -/
def pfd2 (code : Nat) (v : Word) : Nat :=
  refFreq code * (if pllMult v = 0 then 2 else if pllMult v = 1 then 4 else 1)

/-- The value a write of CLK.PLL_CFG may carry (R67). -/
def pllOk (s : State) (v : Word) : Bool :=
  within 0x3FFFF v && pllMult v ≠ 3 && rng (pfd2 s.pll.freqCode v) 160 2400 &&
    pfd2 s.pll.freqCode v * pllN v = 96000 && rng (pllN v) 40 600 && rng (pllIcp v) 1 32

/-- The write changes N or REF_MULT. -/
def pllMoves (s : State) (v : Word) : Bool := pllN v ≠ pllN s.pll.cfg || pllMult v ≠ pllMult s.pll.cfg

/-- The states in which a write of CLK.PLL_CFG is rejected (R67, R69). -/
def pllBusy (s : State) (v : Word) : Bool :=
  !pllLocked s || s.pll.change.isSome || (pllMoves s v && (anyAcquiring s || anyAccumulating s))

/-- The charge pump is held and the dividers are switched; no SYNC counts any more. -/
def startChange (v : Word) (s : State) : State :=
  setPll (fun p => { p with change := some { old := p.cfg, restoring := false }, cfg := v, synced := false, phaseKnown := false }) s

/-- The settings before a change in progress come back; it can end only with INTERNAL. -/
def restoreCfg (s : State) : State :=
  match s.pll.change with
  | some c => setPll (fun p => { p with cfg := c.old, change := some { c with restoring := true } }) s
  | none => s

/-- PLL_CHANGE_TIMEOUT: 2 ms without lock. -/
def execPllChangeTimeout (s : State) : Out :=
  .next (match s.pll.change with
    | some c => if c.restoring || !pllLocked s then s else restoreCfg s
    | none => s)

/-! ### Reference choice and first lock (R65, R69) -/

/-- REF_CHOICE: at the end of step 1 of Table 03-2. An XO is one of codes 3 to 7 (R66). -/
def execRefChoice (refclkSeen : Bool) (freqCode : Nat) (s : State) : Out :=
  .next (if s.pwr.dev == .starting 1 && freqCode ≤ 11 && (refclkSeen || rng freqCode 3 7) then
    { s with
      pwr := { s.pwr with dev := .starting 2 }
      pll := { s.pll with state := .start, refclk := refclkSeen, freqCode := freqCode, refPresent := true, cfg := pllReset freqCode } }
  else s)

/-! ### Loss and return of lock (Table 04-6) -/

/-- Loss of lock: light and acquisition stop, the loop is held, a change in progress ends. -/
def loseLock (refLost : Bool) (s : State) : State :=
  let s1 := duringSurge (fun r => { r with unlocks := r.unlocks + 1 }) <| setPll (fun p => { p with
    state := .hold, refPresent := !refLost, refLost := refLost, synced := false, phaseKnown := false
    unlockCount := sat 16 (p.unlockCount + 1) }) (restoreCfg s)
  postIf refLost evClockLoss (b2n s.pll.refclk) (post evPllUnlock 0 (allDark 5 5 s1))

/-- PLL_PHASE_ERROR_LOSS. -/
def execPllPhaseErrorLoss (s : State) : Out := .next (if pllLocked s then loseLock false s else s)

/-- PLL_REF_EDGES_MISSING; in HOLD and RELOCK the presence wait starts again. -/
def execPllRefEdgesMissing (s : State) : Out :=
  .next (match s.pll.state with
    | .locked => loseLock true s
    | .off => s
    | .start => setPll (fun p => { p with refPresent := false }) s
    | _ => setPll (fun p => { p with state := .hold, refPresent := false }) s)

/-- PLL_REF_PRESENT: present for 1 ms; only HOLD waits for it. -/
def execPllRefPresent (s : State) : Out :=
  .next (match s.pll.state with
    | .hold => setPll (fun p => { p with state := .relock, refPresent := true }) s
    | .off => s
    | _ => setPll (fun p => { p with refPresent := true }) s)

/-- PLL_RELOCK_TIMEOUT: 10 ms without lock. -/
def execPllRelockTimeout (s : State) : Out :=
  .next (if s.pll.state == .relock then setPll (fun p => { p with state := .hold }) s else s)

/-- A change ends: with OK, or after a restore with INTERNAL. -/
def endChange (s : State) : State :=
  match s.pll.change with
  | some c => finish .pll (if c.restoring then stInternal else stOk) [] (setPll (fun p => { p with change := none }) s)
  | none => s

/-- Forwarding is live: the pairs drive their idle symbols, the disparity negative (R72, Table 02-5). -/
def driveLines (cycle : Nat) (h : Harness) : Harness :=
  { h with
    lineUp := LineOut.idleFrom cycle dataIdle, lineDown := LineOut.idleFrom cycle dataIdle
    timUp := { h.timUp with line := LineOut.idleFrom cycle timingIdle }
    timDown := { h.timDown with line := LineOut.idleFrom cycle timingIdle } }

/-- PLL_LOCK_DECLARED: the first lock of a start-up makes forwarding live (step 2 of Table 03-2), a relock tells what
came back, and a change completes. A reference that went missing only after a phase-error loss raised no EV_CLOCK_LOSS,
and its return raises none (log 84). -/
def execPllLockDeclared (s : State) : Out :=
  .next (match s.pll.state with
    | .start =>
      let s1 := setPll (fun p => { p with state := .locked, refPresent := true }) s
      if s.pwr.dev == .starting 2 then
        { s1 with pwr := { s1.pwr with dev := .starting 3 }, harn := driveLines s.tb.mono s1.harn } else s1
    | .relock =>
      let s1 := setPll (fun p => { p with state := .locked, refPresent := true, refLost := false }) s
      endChange (postIf s.pll.refLost evClockLoss (0x8000 + b2n s.pll.refclk) (post evPllUnlock 1 s1))
    | .locked => endChange s
    | _ => s)

/-! ### SYNC (R70, R71) -/

/-- SYNC_IN_EN and APPLY_WHILE_ACQ of CLK.SYNC_CTRL. -/
def syncInOn (s : State) : Bool := bit (rwGet s 0x0022) 0
def syncWhileAcq (s : State) : Bool := bit (rwGet s 0x0022) 2

/-- SYNC_IN_EDGE: recognised where the source is enabled. -/
def execSyncInEdge (s : State) : Out :=
  .next (if answers s && syncInOn s then 
    setPll (fun p => { p with syncWait := p.syncWait ++ [{ line := false, due := s.tb.mono }] }) s else s)

/-- The SYNC whose PFD edge this is: the oldest that an edge at this cycle may apply, as the instant of R86 has come; one
of SYNC_IN waits for no instant. -/
def nextSync (cycle : Nat) (l : List SyncWait) : Option (SyncWait × List SyncWait) :=
  (l.findIdx? (·.due ≤ cycle)).bind fun i => (l[i]?).map fun x => (x, l.eraseIdx i)

/-- The dividers a SYNC moves, DAC 0, ADC 1, core 2, Cantle 3: those whose period does not divide the root cycles since
the last one applied, N to a PFD edge; open after a lock (log 19). -/
def movedDividers (s : State) (pfdEdges : Nat) : Nat :=
  if s.pll.phaseKnown then
    let n := pfdEdges * pllN s.pll.cfg
    b2n (n % 2 ≠ 0) + 2 * b2n (n % 4 ≠ 0) + 4 * b2n (n % 12 ≠ 0) + 8 * b2n (n % 24 ≠ 0)
  else Config.free 70 s.drawn % 16

/-- A SYNC that moved the DAC, ADC or core divider restarts an acquiring side. -/
def syncRestart (d : Side) (s : State) : State :=
  if acquiring s d then discardSide d (restartSide d (cfgOf s d) (discardShots d s)) else s

/-- A SYNC is applied. -/
def applySync (pfdEdges : Nat) (s : State) : State :=
  let m := movedDividers s pfdEdges
  let s1 := setPll (fun p => { p with synced := true, phaseKnown := true }) { s with drawn := s.drawn + 1 }
  let s2 := postIf (m ≠ 0) evDividerResync m s1
  if m % 8 ≠ 0 then bothSides syncRestart s2 else s2

/-- SYNC_APPLY: the PFD edge of a recognised SYNC, so many PFD edges after the last one applied. -/
def execSyncApply (pfdEdges : Nat) (s : State) : Out :=
  .next (match nextSync s.tb.mono s.pll.syncWait with
    | none => s
    | some (x, r) =>
      let s1 := setPll (fun p => { p with syncWait := r }) s
      if !pllLocked s || s.pll.change.isSome || ((anyAcquiring s || anyAccumulating s) && !syncWhileAcq s) then
        post evSyncReceived (b2n x.line + 0x8000) (setPll (fun p => { p with syncHeld := sat 16 (p.syncHeld + 1) }) s1)
      else
        let apply := fun s => applySync pfdEdges (post evSyncReceived (b2n x.line) s)
        if movedDividers s1 pfdEdges % 8 = 0 then apply s1 else planes apply s1)

end Sys2Proof.Machine
end

