-- ==== Sys2Proof/Machine/Mem.lean ====
section
/-!
DEFINITION. The external memory (chapter 16): initialisation, the plan, refresh and panic, self-refresh, ECC, and
MEM_READ, MEM_WRITE and MEM_FILL over the map of Table 01-10.
-/
namespace Sys2Proof.Machine

def setMem (f : Mem → Mem) (s : State) : State := { s with mem := f s.mem }

/-! ### The map (Table 01-10, Table 16-3) -/

abbrev hostBase : Nat := 0x04000000
abbrev tileBase : Nat := 0x1000000000

/-- The parts of the host memory map. -/
inductive Zone where | dram | tiles | thermal | hole
deriving DecidableEq, Repr

/-- Where an address lies. -/
def zoneOf (a : Nat) : Zone :=
  if a < 0x400000000 then .dram
  else if tileBase ≤ a && a < tileBase + 0x1800000 then .tiles
  else if thermalBase ≤ a && a < thermalBase + 0x400000 then .thermal else .hole

/-- A run of n bytes lies in one part of the map, and in DRAM below Cu (R25, R328). -/
def mapped (s : State) (a n : Nat) : Bool :=
  zoneOf a ≠ .hole && zoneOf (a + (n - 1)) == zoneOf a &&
    (zoneOf a != .dram || a + max n 1 ≤ usableCap s)

/-- A run lies in the host area. -/
def inHost (s : State) (a n : Nat) : Bool := hostBase ≤ a && a + n ≤ hostEnd s

/-- A read may have the run: not Cantle staging, not the reserved region (R333). -/
def readable (a n : Nat) : Bool := n = 0 || hostBase ≤ a || a + n ≤ 0x03000000

/-- A write may have the run: in DRAM only the host area (R333). -/
def writable (s : State) (a n : Nat) : Bool := n = 0 || zoneOf a != .dram || inHost s a n

/-- R26: a write to an SRAM that its owner is using. -/
def sramBusy (s : State) (a : Nat) : Bool :=
  (zoneOf a == .tiles && anyAcquiring s) || (zoneOf a == .thermal && anyAccumulating s)

/-- The word at an address of the mark area, if a frame lies there: slots of 128 bytes, filled in turn from `markAt` on,
each from its start with its frame as Table 15-5 lays it out. The SEQ of a frame not yet sent is open (log 109). -/
def markWord (s : State) (a : Nat) : Option Word :=
  let k := (a / 128 + markSlots - s.strm.markAt) % markSlots
  (s.strm.marks[k]?).bind fun f => (({ f with bad := false } : Frame).words (BitVec.ofNat 11 (Config.free 332 a)))[a % 128 / 8]?

/-- What the device keeps at an address in an order of its own: the elastic buffer and the history ring (R332), what no
frame fills of the mark area, and the tile SRAM while the Currier array uses it. -/
def openWord (s : State) (a : Nat) : Bool :=
  match zoneOf a with
  | .dram => (a < 0x01000000 && (markWord s a).isNone) || (hostEnd s ≤ a && a < usableCap s - historySize s - dumpSize s) ||
      (usableCap s - historySize s ≤ a && a < usableCap s)
  | .tiles => s.mem.tilesUsed.isSome && anyAcquiring s
  | _ => false

/-- A tile word that the last use by the array has left; no one has written it since. -/
def tileLeft (s : State) (a : Nat) : Option Nat :=
  if zoneOf a == .tiles && !s.mem.tileOwn.contains a then s.mem.tilesUsed else none

/-- The hide word at an address. What the array has left in the tile SRAM is open, and stays as it is (R26, R344). -/
def hostWord (s : State) (a i : Nat) : Word :=
  if openWord s a then BitVec.ofNat 64 (Config.free 332 (s.drawn + i))
  else match tileLeft s a with
    | some e => BitVec.ofInt 64 (Config.unstated 344 [e, a])
    | none => if a < 0x01000000 then (markWord s a).getD 0 else memWord s.mem.bytes a

/-- n hide words from an address on; the caller advances `drawn` by n. -/
def hostWords (s : State) (a n : Nat) : List Word := (List.range n).map fun i => hostWord s (a + 8 * i) i

/-- A request of the host's or of Lace's reaches the map. -/
def wakeAt (a : Nat) (s : State) : State := if zoneOf a == .dram then wakeMem s else s

/-- Words of the tile SRAM hold what was written. -/
def ownTiles (a n : Nat) (s : State) : State :=
  let l := (List.range n).map fun i => a + 8 * i
  if zoneOf a == .tiles then setMem (fun m => { m with tileOwn := l ++ m.tileOwn.filter fun x => !l.contains x }) s else s

/-- Hide words are written from an address on. -/
def hostPut (a : Nat) (ws : List Word) (s : State) : State :=
  wakeAt a (ownTiles a ws.length (setBytes (fun m => memPutWords m a ws) s))

/-- A terminated burst leaves n undefined words (R337). -/
def scramble (a n : Nat) (s : State) : State :=
  let ws := (List.range n).map fun i => BitVec.ofNat 64 (Config.free 337 (s.drawn + i))
  hostPut a ws { s with drawn := s.drawn + n }

/-! ### Initialisation (R329, R330) -/

/-- DRAM below the map's end loses what it held; a byte lost reads as one never written (log 7). -/
def dramLost (s : State) : State :=
  setBytes (fun m => m.filter fun c => 0x400000000 ≤ c.1) s

/-- Both channels have been trained, or training has failed. -/
def initDram (fail : Option (Nat × Nat)) (s : State) : State :=
  let w := nvGet s 0x7100
  setMem (fun m => { m with
    usable := fail.isNone, driven := true, map := BitVec.ofNat 2 (fld w 1 0), ecc := bit w 2, panic := false, panicWho := 0, panicTold := false
    rt0 := 0, mostPost := 0, postponed := 0, refHalf := 0, zqWaits := none, dqsWaits := none, selfRefresh := false }) (dramLost s)

/-- Source detail of EV_DRAM_TRAIN_FAIL: channel and step of Table 16-2. -/
def trainDetail (f : Nat × Nat) : Nat := f.1 % 2 + 16 * (f.2 % 16)

/-! ### Refresh, panic, self-refresh (R331, R338 to R341) -/

def panicHi (s : State) : Nat := fld (rwGet s 0x7101) 3 0
def panicLo (s : State) : Nat := fld (rwGet s 0x7101) 7 4
def scrubHours (s : State) : Nat := fld (rwGet s 0x7101) 15 8
def srIdle (s : State) : Nat := fld (rwGet s 0x7101) 47 16

/-- The refresh interval tREFI in ns (R331). -/
def refreshInterval (s : State) : Nat := 3904 / 2 ^ s.mem.refHalf

/-- MR4 is read out: what the parts report at an instant is open (log 110). -/
def readMr4 (s : State) : State := setMem (fun m => { m with refHalf := Config.free 331 s.tb.mono % 3 }) s

/-- A refresh interval passes for postponed work: at the eighth it is done, in panic or not (R338; log 110). -/
def ages (w : Option Nat) : Option Nat := w.bind fun n => if n < 7 then some (n + 1) else none

/-- Panic postpones what is due at one refresh interval: the refresh up to eight times, ZQ and DQS work up to eight
intervals. -/
def Mem.postpone (m : Mem) : Mem :=
  { m with
    postponed := if m.postponed < 8 then m.postponed + 1 else m.postponed
    mostPost := if m.postponed < 8 then max m.mostPost (m.postponed + 1) else m.mostPost
    zqWaits := ages m.zqWaits, dqsWaits := ages m.dqsWaits }

/-- DRAM_REFRESH_DUE: issued, or in panic postponed. -/
def execDramRefreshDue (s : State) : Out :=
  .next (if !s.mem.usable then s else if s.mem.panic then setMem Mem.postpone (readMr4 s) else readMr4 s)

/-- ZQ_CALIBRATION_DUE: in panic it waits. -/
def execZqCalibrationDue (s : State) : Out :=
  .next (if s.mem.usable && s.mem.panic then setMem (fun m => { m with zqWaits := some (m.zqWaits.getD 0) }) s else s)

/-- DQS_TRACKING_DUE: in panic it waits. -/
def execDqsTrackingDue (s : State) : Out :=
  .next (if s.mem.usable && s.mem.panic then setMem (fun m => { m with dqsWaits := some (m.dqsWaits.getD 0) }) s else s)

/-- The ports whose need has reached PANIC_HI. -/
def inNeed (s : State) (need0 need1 : Nat) : BitVec 2 :=
  BitVec.ofNat 2 (b2n (panicHi s ≤ need0) + 2 * b2n (panicHi s ≤ need1))

/-- DRAM_PANIC_BEGIN: the needs of RT0 and RT1 in sixteenths; in a panic, a need that reaches PANIC_HI joins it. -/
def execDramPanicBegin (need0 need1 : Nat) (s : State) : Out :=
  let w := inNeed s need0 need1
  let s1 := setMem (fun m => { m with rt0 := min 16 need0 }) s
  .next (if !s.mem.usable || panicHi s = 0 || w = 0 then s1
  else if s.mem.panic then setMem (fun m => { m with panicWho := m.panicWho ||| w }) s1
  else setMem (fun m => { m with
    panic := true, panicWho := w, panicTold := false, mostPost := m.postponed, panics := sat 16 (m.panics + 1)
    selfRefresh := false }) s1)

/-- DRAM_PANIC_END: postponed work is issued before any other request. -/
def execDramPanicEnd (need0 need1 : Nat) (s : State) : Out :=
  let s1 := setMem (fun m => { m with rt0 := min 16 need0 }) s
  .next (if s.mem.panic && need0 ≤ panicLo s && need1 ≤ panicLo s then
    setMem (fun m => { m with panic := false, postponed := 0, zqWaits := none, dqsWaits := none }) s1 else s1)

/-- DRAM_LONG_PANIC: beyond 50 µs, once per panic. -/
def execDramLongPanic (s : State) : Out :=
  .next (if s.mem.panic && !s.mem.panicTold then
    post evDramPanic (s.mem.panicWho.toNat + 256 * s.mem.mostPost)
      (setMem (fun m => { m with panicTold := true, longPanics := sat 16 (m.longPanics + 1) }) s) else s)

/-- SELF_REFRESH_ENTRY: the event at most once in any 60 s. -/
def execSelfRefreshEntry (s : State) : Out :=
  .next (if s.mem.usable && srIdle s ≠ 0 && !s.mem.panic && !s.mem.selfRefresh then
    let give := rested s.mem.srAt s.tb.mono (60 * sCycles)
    postIf give evDramSelfRefresh 0
      (setMem (fun m => { m with selfRefresh := true, srAt := if give then some s.tb.mono else m.srAt }) s)
  else s)

/-- PATROL_SCRUB: the words in error, each with whether it is uncorrectable; the port bits of its events are not stated. At the
lowest rank, it waits for the end of panic (R338). -/
def execPatrolScrub (errors : List (Nat × Bool)) (s : State) : Out :=
  .next (if s.mem.usable && s.mem.ecc && scrubHours s ≠ 0 && !s.mem.panic then
    (errors.filter fun e => e.1 < usableCap s).foldl (fun s e =>
      let port := Config.free 342 s.drawn % 4
      let s1 := { s with drawn := s.drawn + 1 }
      if e.2 then eccUncorr port e.1 true s1 else eccCorr port e.1 true s1) (wakeMem s)
  else s)

/-! ### The ports (R336, R338) -/

/-- The ports of the controller in their rank order (Table 01-3). -/
inductive MemPort where | rt0 | rt1 | bulk | cantle
deriving DecidableEq, Repr

/-- The port that the next 256-byte burst is granted to, of those that wait, after so many consecutive RT grants while bulk
waited and so many consecutive bulk grants while Cantle waited. The ports' requests are no state: their instants are the
rows' (log 110). -/
def nextPort (panic rt0 rt1 bulk cantle : Bool) (rtRun bulkRun : Nat) : Option MemPort :=
  if panic then if rt0 then some .rt0 else if rt1 then some .rt1 else none
  else
    let rt := rt0 || rt1
    if rt && !(bulk && 16 ≤ rtRun) then some (if rt0 then .rt0 else .rt1)
    else if cantle && !rt && (!bulk || 64 ≤ bulkRun) then some .cantle
    else if bulk then some .bulk else none

/-- A bulk request at an address waits: DRAM is in panic (R338). -/
def stalled (s : State) (a : Nat) : Bool := s.mem.panic && zoneOf a == .dram

/-- A MEM_READ of DRAM waits for its data: the bulk port serves it before Lace and MEM_FILL. -/
def hostWaits (s : State) : Bool :=
  s.brg.slots.any fun x => match x with | .running (.memRead a _) => zoneOf a == .dram | _ => false

/-- A request of Lace's or of the fill engine's at an address waits, for panic or for the host (R336, R338). -/
def bulkWaits (s : State) (a : Nat) : Bool := (s.mem.panic || hostWaits s) && zoneOf a == .dram

/-! ### What an access found (R337, R342) -/

/-- A termination is counted. -/
def countTimeout (s : State) : State := setMem (fun m => { m with timeouts := sat 16 (m.timeouts + 1) }) s

/-- What an access at an address can have met: only DRAM with inline ECC on has errors to find. -/
def found (s : State) (a : Nat) (acc : Access) : Access :=
  if acc = .timeout || (s.mem.ecc && zoneOf a == .dram) then acc else .ok

/-- A bulk access to n words from an address on has been served, with what it met. -/
def accessDone (acc : Access) (a n : Nat) (s : State) : State :=
  match acc with
  | .ok => wakeAt a s
  | .timeout => wakeAt a (countTimeout s)
  | x => wordsFound 2 x a n (wakeAt a s)

/-- The access delivered its data. -/
def accessGood : Access → Bool
  | .ok => true
  | .corrected => true
  | _ => false

/-- BULK_TIMEOUT: a transaction of Cantle's (what Cantle makes of the failed access is not stated, log 110), or a queued MEM_WRITE that failed at the memory (R344). The words of a
terminated burst are undefined; those of a failed check update are not stated either. -/
def execBulkTimeout (fail : BusFail) (addr words : Nat) (s : State) : Out :=
  let n := min words 32
  let hit := fun (s : State) => if inHost s addr (8 * n) then scramble addr n s else s
  .next (if !s.mem.usable then s else match fail with
    | .cantle => wakeMem (countTimeout s)
    | .write => post evDmaDescBad (0xFF + 256 * 6) (hit (countTimeout s))
    | .writeEcc => post evDmaDescBad (0xFF + 256 * 7) (hit (if found s addr .ecc = .ecc then eccUncorr 2 addr false s else s)))

/-! ### MEM_READ (R343) -/

/-- ADDRESS and COUNT, or BYTES. -/
def memAddr (p : List Word) : Nat := (wd p 0).toNat
def memSize (p : List Word) : Nat := (wd p 1).toNat

/-- A payload whose address lies in DRAM (mark M). -/
def memDram (p : List Word) : Bool := zoneOf (memAddr p) == .dram

/-- The word at fault: an address that is unaligned or not mapped is word 0, an extent that leaves its range word 1. -/
def readFault (s : State) (p : List Word) : Option Nat :=
  let a := memAddr p
  if a % 8 ≠ 0 || !mapped s a 0 || (memSize p ≠ 0 && !readable a 8) then some 0
  else if 32 < memSize p || !mapped s a (8 * memSize p) || !readable a (8 * memSize p) then some 1 else none

/-- What an immediate read meets. -/
def readMeets (s : State) (p : List Word) : Access :=
  readCondition (s.mem.ecc && memDram p && memSize p ≠ 0) s.drawn

/-- MEM_READ whose data is there in time: its words, or INTERNAL for an uncorrectable one (Table 16-5). -/
def readNow (p : List Word) (s : State) : Reply × State :=
  let acc := readMeets s p
  let s1 := accessDone acc (memAddr p) (memSize p) s
  if acc = .ecc then (reply stInternal 0 [], s1)
  else (okReply (hostWords s1 (memAddr p) (memSize p)), { s1 with drawn := s1.drawn + memSize p })

/-- MEM_READ; whether the data is late (1.5 µs) depends on the other ports' traffic, which is open; in panic it is. -/
def hMemRead : Handler :=
  { Handler.plain 0x80 2 (fun _ p s => readNow p s) with
    dram := memDram
    value := readFault
    defers := fun s p =>
      if memSize p ≠ 0 && (Config.freeBit 343 s.drawn || stalled s (memAddr p)) then some (.memRead (memAddr p) (memSize p))
      else none
    start := fun _ p s => wakeAt (memAddr p) s }
/-- MEM_READ: each draws afresh whether its data is late. -/
def execMemRead (o : Origin) (p : List Word) (s : State) : Out :=
  .next (request hMemRead o p { s with drawn := s.drawn + 1 })

/-- A deferred read of a slot ends. -/
def readDone (k a n : Nat) (acc : Access) (s : State) : State :=
  let s1 := accessDone acc a n s
  if accessGood acc then slotDone k stOk (hostWords s1 a n) { s1 with drawn := s1.drawn + n }
  else slotDone k stInternal [] s1

/-- MEM_READ_DONE: the data of a slot's command arrives, or it fails; in panic it waits (R338). -/
def execMemReadDone (slot : Nat) (acc : Access) (s : State) : Out :=
  .next (match s.brg.slots[slot]? with
    | some (.running (.memRead a n)) => if stalled s a then s else readDone slot a n (found s a acc) s
    | _ => s)

/-! ### MEM_WRITE, MEM_FILL (R333, R343, R344) -/

/-- MEM_WRITE; LENGTH 1 writes nothing. -/
def hMemWrite : Handler :=
  { Handler.plain 0x81 1 (Handler.ok fun p s => hostPut (memAddr p) (p.drop 1) s) with
    dram := memDram
    lenOk := fun p => rng p.length 1 32
    value := fun s p =>
      let n := 8 * (p.length - 1)
      if memAddr p % 8 = 0 && mapped s (memAddr p) n && writable s (memAddr p) n then none else some 0
    bad := fun s _ p => 1 < p.length && sramBusy s (memAddr p) }
/-- MEM_WRITE. -/
def execMemWrite (o : Origin) (p : List Word) (s : State) : Out := .next (request hMemWrite o p s)

/-- A fill for the engine: it waits where one goes on whose slot a break-in has freed (R420; log 64). -/
def Mem.addFill (m : Mem) (x : Nat × Nat × Word) : Mem :=
  { m with fill := some (m.fill.getD x), fillQ := if m.fill.isSome then m.fillQ ++ [x] else m.fillQ }

/-- The fill under way has ended: its slot is told, if it still has one, and one that waits follows. -/
def endOfFill (st : Nat) (s : State) : State :=
  let s1 := if s.mem.fillQ = [] then finish .fill st [] s else s
  setMem (fun m => { m with fill := m.fillQ.head?, fillQ := m.fillQ.tail }) s1

/-- MEM_FILL: BYTES = 0 is done at once, else the fill engine starts. -/
def hMemFill : Handler :=
  { Handler.plain 0x82 3 (fun _ _ s => (okReply [], s)) with
    dram := memDram
    value := fun s p =>
      let a := memAddr p
      if a % 8 ≠ 0 || !mapped s a 0 || (memSize p ≠ 0 && !writable s a 8) then some 0
      else if memSize p % 8 ≠ 0 || !mapped s a (memSize p) || !writable s a (memSize p) then some 1 else none
    bad := fun s _ p => memSize p ≠ 0 && sramBusy s (memAddr p)
    defers := fun _ p => if memSize p = 0 then none else some .fill
    start := fun _ p s => setMem (fun m => m.addFill (memAddr p, memSize p, wd p 2)) s }
/-- MEM_FILL. -/
def execMemFill (o : Origin) (p : List Word) (s : State) : Out := .next (request hMemFill o p s)

/-- One burst of the fill: up to the next multiple of 256 bytes. -/
def fillBurst (a left : Nat) : Nat := min left (256 - a % 256)

/-- The fill ends; a failing burst leaves its words undefined. -/
def fillFails (acc : Access) (a left : Nat) (s : State) : State :=
  let n := fillBurst a left / 8
  let s1 := accessDone acc a n s
  endOfFill stInternal (if acc = .timeout then scramble a n s1 else s1)

/-! ### MEM.PLAN (R334) -/

/-- The plan of sizes, in 64 MiB, exceeds Cu. -/
def planOver (s : State) (elastic history dump : Nat) : Bool :=
  decide (usableCap s < 0x4000000 * (1 + elastic + history + dump))

/-- The states in which a write of MEM.PLAN is rejected. -/
def planBusy (s : State) : Bool := anyAcquiring s || streamOn s

/-- A write of MEM.PLAN that the capacity refuses. -/
def planConflict (s : State) (v : Word) : Bool := planOver s (fld (rwGet s 0x7000) 14 8) (fld v 7 0) (fld v 15 8)

/-- A dump whose frames are lost, if it has any left, stops early. -/
def Dump.overrun (d : Dump) : Dump := if d.left = [] then d else { d with left := [], truncated := true }

/-- The history ring is emptied; a dump that still reads it stops early. -/
def emptyRing (s : State) : State :=
  { s with girth := { s.girth with
    ring := [], lostTo := match s.girth.ring.getLast? with | some f => some (nsOfTag f.time) | none => s.girth.lostTo
    dump := s.girth.dump.map Dump.overrun, dumpQ := s.girth.dumpQ.map Dump.overrun } }

/-- The elastic buffer is emptied, its frames counted as dropped; what follows the fall of its fill follows (R321, R322). -/
def emptyElastic (s : State) : State :=
  drain (setStrm (fun t => { t with elastic := [], dropCount := sat 32 (t.dropCount + t.elastic.length) }) s)

/-- Memory from an address up to another lies in regions that have moved: what it held is lost (log 7). -/
def moveRegions (lo hi : Nat) (s : State) : State := setBytes (fun m => memClear m lo (hi - lo)) s

/-- MEM.PLAN takes a value: the regions whose start or size it changes are emptied. -/
def planWrite (v : Word) (s : State) : State :=
  let old := rwGet s 0x7102
  if v = old then s else
  let s1 := putRw 0x7102 v s
  let ring := fld v 7 0 ≠ fld old 7 0
  let elastic := hostEnd s ≠ hostEnd s1
  let top := if ring then usableCap s else usableCap s - historySize s
  let low := if elastic then min (hostEnd s) (hostEnd s1) else usableCap s - historySize s - dumpSize s
  let s2 := if s.mem.usable then moveRegions low top s1 else s1
  let s3 := if ring then emptyRing s2 else s2
  if elastic then emptyElastic s3 else s3

/-- STREAM.CFG.ELASTIC takes a value. -/
def elasticMove (s new : State) : State :=
  let s1 := if s.mem.usable then
      moveRegions (min (hostEnd s) (hostEnd new)) (usableCap s - historySize s - dumpSize s) new else new
  emptyElastic s1

end Sys2Proof.Machine
end

