-- ==== Sys2Proof/Machine/Lace.lean ====
section
/-!
DEFINITION. Lace (chapter 16): descriptors, bursts and their arbitration, channel states, and the DMA_ commands.
-/
namespace Sys2Proof.Machine

/-! ### Descriptors (Table 16-6) -/

def descLength (w : List Word) : Nat := fld (wd w 0) 31 0
def descMode (w : List Word) : Nat := fld (wd w 0) 34 32
def descCrcEn (w : List Word) : Bool := bit (wd w 0) 35 || descMode w = 4
def descCont (w : List Word) : Bool := bit (wd w 0) 36
def descEvent (w : List Word) : Bool := bit (wd w 0) 37
def descSource (w : List Word) : Nat := (wd w 2).toNat
def descDest (w : List Word) : Nat := (wd w 3).toNat
def descIndex (w : List Word) : Nat := (wd w 5).toNat
def descCount (w : List Word) : Nat := fld (wd w 6) 31 0
def descElement (w : List Word) : Nat := fld (wd w 6) 47 32

/-- GATHER or SCATTER. -/
def descIndexed (w : List Word) : Bool := descMode w = 1 || descMode w = 2

/-- Counts that agree, with elements of 8 to 4,096 bytes (R347). -/
def countsAgree (w : List Word) : Bool :=
  descCount w ≠ 0 && rng (descElement w) 8 4096 && descElement w % 8 = 0 && descLength w = descCount w * descElement w

/-- The cause found in a descriptor before anything is transferred, 0 for none: FORMAT, then ALIGN (Table 16-7). -/
def descCause (w : List Word) : Nat :=
  if !(within 0x3FFFFFFFFF (wd w 0) && descMode w ≤ 4 && fld (wd w 4) 5 2 = 0 && within 0xFFFFFFFFFFFF (wd w 6)) then 5
  else if descLength w = 0 then 0
  else if descIndexed w && !countsAgree w then 5
  else if descLength w % 8 ≠ 0 || (!(descMode w = 1 || descMode w = 3) && descSource w % 8 ≠ 0) ||
      (!(descMode w = 2 || descMode w = 4) && descDest w % 8 ≠ 0) || (descIndexed w && descIndex w % 8 ≠ 0) then 2
  else 0

/-- A descriptor may lie at an address (R353). -/
def descPlace (s : State) (a : Nat) : Bool := a % 64 = 0 && inHost s a 64

/-! ### The next burst of a descriptor (R345, R347) -/

/-- Where a burst reads and writes, how many bytes, a cause found already, and the index entry in force. -/
structure Burst where
  src   : Option Nat
  dst   : Option Nat
  bytes : Nat
  cause : Nat
  entry : Nat
deriving DecidableEq, Repr

/-- The cause of a read, and of a write, of n bytes at an address: RANGE, PROTECT, STATE. -/
def readCause (s : State) (a n : Nat) : Nat := if !mapped s a n then 1 else if !readable a n then 3 else 0
def writeCause (s : State) (a n : Nat) : Nat :=
  if !mapped s a n then 1 else if !writable s a n then 3 else if sramBusy s a then 4 else 0

/-- The entry of the index table for an element, or a cause: INDEX for a table that cannot be read and for an entry that
would give causes 1 to 3. -/
def indexEntry (s : State) (w : List Word) (k : Nat) : Nat × Nat :=
  let at' := descIndex w + 8 * k
  let e := (hostWord s at' 0).toNat
  if readCause s at' 8 ≠ 0 then (0, 8)
  else if e % 8 ≠ 0 then (e, 8)
  else if descMode w = 1 then (e, if readCause s e (descElement w) ≠ 0 then 8 else 0)
  else (e, if !mapped s e (descElement w) || !writable s e (descElement w) then 8 else 0)

/-- Up to 256 bytes, within a 256-byte block of each address. -/
def burstBytes (left : Nat) (src dst : Option Nat) : Nat :=
  let room := fun (x : Option Nat) => match x with | some a => 256 - a % 256 | none => 256
  min left (min (room src) (room dst))

/-- Where the next burst reads its index table: at the first burst of an element, whose entry then holds for the others. -/
def indexAt (c : DmaChan) : Option Nat :=
  if descIndexed c.words && c.entry.isNone then some (descIndex c.words + 8 * (c.done / descElement c.words)) else none

/-- The next burst, its causes in order: of the index, of the read, of the write. -/
def nextBurst (s : State) (c : DmaChan) : Burst :=
  let w := c.words
  let mode := descMode w
  let k := c.done / descElement w
  let off := c.done % descElement w
  let e := if descIndexed w then (match c.entry with | some a => (a, 0) | none => indexEntry s w k) else (0, 0)
  let src := if mode = 3 then none else if mode = 1 then some (e.1 + off) else some (descSource w + c.done)
  let dst := if mode = 4 then none else if mode = 2 then some (e.1 + off) else some (descDest w + c.done)
  let left := if descIndexed w then descElement w - off else descLength w - c.done
  let n := burstBytes left src dst
  let rc := match src with | some a => readCause s a n | none => 0
  let wc := match dst with | some a => writeCause s a n | none => 0
  { src := src, dst := dst, bytes := n, cause := if e.2 ≠ 0 then e.2 else if rc ≠ 0 then rc else wc, entry := e.1 }

/-- The words a burst moves. -/
def burstWords (s : State) (c : DmaChan) (b : Burst) : List Word :=
  match b.src with
  | some a => hostWords s a (b.bytes / 8)
  | none => List.replicate (b.bytes / 8) (wd c.words 2)

/-! ### Arbitration (R345) -/

def chanPrio (s : State) (n : Nat) : Nat := if n < 16 then fld (rwGet s 0x7201) (4 * n + 1) (4 * n) else 0
def chanWeight (s : State) (n : Nat) : Nat := if n < 16 then fld (rwGet s 0x7201) (4 * n + 3) (4 * n + 2) + 1 else 1

/-- A channel has a burst pending; 16 is MEM_FILL. -/
def burstPending (s : State) (n : Nat) : Bool :=
  if n = 16 then s.mem.fill.any fun f => f.2.1 != 0
  else let c := chan s n; c.state == .running && c.phase == .burst && !c.abort

/-- The channels of a level with a burst pending. -/
def levelChans (s : State) (p : Nat) : List Nat := (List.range 17).filter fun n => burstPending s n && chanPrio s n = p

/-- The channel served at a level, and the turn after it: a channel keeps its turn while it has had fewer bursts than its
weight now is. -/
def serveLevel (s : State) (p : Nat) : Option (Nat × Nat × Nat) :=
  let l := levelChans s p
  let t := s.dma.turns.getD p (0, 0)
  if l.contains t.1 && t.2 < chanWeight s t.1 then some (t.1, t.1, t.2 + 1)
  else match (l.find? fun n => t.1 < n) <|> l.head? with
    | some n => some (n, n, 1)
    | none => none

/-- The addresses that the next burst of a channel goes to: its index table, its source, its destination. -/
def burstPlaces (s : State) (n : Nat) : List Nat :=
  if n = 16 then (s.mem.fill.map (·.1)).toList
  else let b := nextBurst s (chan s n); (indexAt (chan s n)).toList ++ b.src.toList ++ b.dst.toList

/-- The highest level with a pending burst, the channel it serves, and the turn that leaves; what goes to DRAM waits for
panic and for the host's MEM_READ (R336, R338): one between the two SRAMs does not use the bulk port (R345). -/
def serve (s : State) : Option (Nat × Nat × Nat × Nat) :=
  ([3, 2, 1, 0].findSome? fun p => (serveLevel s p).map fun x => (p, x)).filter fun x =>
    !(burstPlaces s x.2.1).any (bulkWaits s)

/-! ### Bursts (R337, R345, R353) -/

/-- A cause makes the descriptor BAD. -/
def badDesc (n cause : Nat) (s : State) : State :=
  post evDmaDescBad (n + 256 * cause) (setChan n (fun c => { c with phase := .ending, cause := cause }) s)

/-- A good burst: its data move, BYTES_DONE and the CRC follow. -/
def moveBurst (n : Nat) (b : Burst) (s : State) : State :=
  let c := chan s n
  let ws := burstWords s c b
  let done := c.done + b.bytes
  let s1 := match b.src with
    | some _ => { s with drawn := s.drawn + ws.length }
    | none => s
  let s2 := match b.dst with
    | some a => hostPut a ws s1
    | none => s1
  setChan n (fun c => { c with
    done := done, entry := if descIndexed c.words && done % descElement c.words ≠ 0 then some b.entry else none, crc := if descCrcEn c.words then crcRun c.crc (ws.flatMap wordBytes) else c.crc
    phase := if descLength c.words ≤ done then .ending else .burst }) s2

/-- What a word beside the access that met acc may have met: a single-bit error, or none (log 94). -/
def beside (place : Nat) (s : State) (a : Nat) (acc : Access) : Access :=
  if acc != .ok && Config.freeBit place s.drawn then found s a .corrected else .ok

/-- Was it the write of a burst that was terminated? Of one that reads and writes it is open which (log 95). -/
def inWrite (b : Burst) (drawn : Nat) : Bool := b.dst.isSome && (b.src.isNone || Config.freeBit 345 drawn)

/-- The data of a burst are moved, having met acc: with the cause that ends the descriptor, 0 for none. A terminated write
leaves its words undefined (R337); the address that met an uncorrectable word is in the read. -/
def dataBurst (n : Nat) (b : Burst) (acc : Access) (s : State) : Nat × State :=
  let put := if acc = .timeout then inWrite b s.drawn else b.src.isNone
  let at' := (if put then b.dst else b.src).getD 0
  let acc := found s at' acc
  let s1 := accessDone acc at' (b.bytes / 8) s
  match acc with
  | .timeout => (6, if put then scramble at' (b.bytes / 8) s1 else s1)
  | .ecc => (7, s1)
  | _ => (0, moveBurst n b s1)

/-- Where the data of a burst are checked. -/
def dataAt (b : Burst) : Nat := b.src.getD (b.dst.getD 0)

/-- Was it the index table's word at an address that met acc, rather than the data? The one that can have, else open
(log 95). -/
def indexMet (s : State) (a : Nat) (b : Burst) (acc : Access) : Bool :=
  acc != .ok && found s a acc = acc && (b.cause ≠ 0 || found s (dataAt b) acc != acc || Config.freeBit 353 s.drawn)

/-- A burst of a channel, and the cause that ends its descriptor, 0 for none: the read of its index entry, then its data
(R342, R345, R353). -/
def runBurst (n : Nat) (acc : Access) (s : State) : Nat × State :=
  let b := nextBurst s (chan s n)
  let data := fun (acc : Access) (s : State) => if b.cause ≠ 0 then (b.cause, s) else dataBurst n b acc s
  match indexAt (chan s n) with
  | none => data acc s
  | some a =>
    if readCause s a 8 ≠ 0 then (8, s)
    else
      let met := indexMet s a b acc
      let x := if met then acc else beside 347 s a acc
      let s1 := accessDone x a 1 s
      if !accessGood x then (8, s1) else data (if met then beside 346 s (dataAt b) acc else acc) s1

/-- A burst of a channel; a cause makes its descriptor BAD. -/
def chanBurst (n : Nat) (acc : Access) (s : State) : State :=
  let x := runBurst n acc (if acc = .ok then s else { s with drawn := s.drawn + 1 })
  if x.1 ≠ 0 then badDesc n x.1 x.2 else x.2

/-- A burst of the fill engine. -/
def engineBurst (acc : Access) (s : State) : State :=
  match s.mem.fill with
  | none => s
  | some (a, left, v) =>
    let n := fillBurst a left
    let acc := found s a acc
    if left = 0 then s
    else if accessGood acc then
      setMem (fun m => { m with fill := some (a + n, left - n, v) }) (accessDone acc a (n / 8) (hostPut a (List.replicate (n / 8) v) s))
    else fillFails acc a left s

/-- A turn is taken at a level. -/
def setTurn (p : Nat) (turn : Nat × Nat) (s : State) : State := { s with dma := { s.dma with turns := s.dma.turns.set p turn } }

/-- DMA_BURST: one bulk grant. -/
def execDmaBurst (acc : Access) (s : State) : Out :=
  .next (match serve s with
    | none => s
    | some (p, n, turn) => if n = 16 then engineBurst acc (setTurn p turn s) else chanBurst n acc (setTurn p turn s))

/-- The bursts of the fill that its channel is granted, one after another while it has the turn; at the last the fill ends. -/
def fillOn : Nat → State → State
  | 0, s => s
  | k + 1, s =>
    match s.mem.fill, serve s with
    | some (_, 0, _), _ => endOfFill stOk s
    | some _, some (p, 16, turn) => fillOn k (engineBurst .ok (setTurn p turn s))
    | _, _ => s

/-- MEM_FILL_DONE: the bursts that are left, as Lace's arbitration grants them to channel 16 (R345), the first having met acc:
where it failed the fill ends with it. -/
def execMemFillDone (acc : Access) (s : State) : Out :=
  .next (match s.mem.fill with
    | none => s
    | some (a, left, _) =>
      if left = 0 then endOfFill stOk s else
      match serve s with
      | some (p, 16, turn) =>
        let s1 := engineBurst acc (setTurn p turn s)
        if accessGood (found s a acc) then fillOn (left / 8 + 1) s1 else s1
      | _ => s)

/-! ### Fetch and end (R349, R350, R353) -/

/-- A channel halts in a state with its event. -/
def haltChan (n : Nat) (x : DmaState) (event : Nat) (s : State) : State :=
  post event n (setChan n (fun c => { c with state := x, kick := false, abort := false }) s)

/-- A fetch begins. -/
def fetchAt (n a : Nat) (s : State) : State := setChan n (fun c => { c with state := .running, phase := .fetch, desc := a }) s

/-- DMA_DESCRIPTOR_FETCH_DONE; the read waits for panic and the host (R336, R338). -/
def execDmaDescriptorFetchDone (n : Nat) (acc : Access) (s : State) : Out :=
  let c := chan s n
  .next (if !(n < 16 && c.state == .running && c.phase == .fetch && !c.abort) then s
  else if !descPlace s c.desc then haltChan n .fetchErr evDmaFetchErr s
  else if bulkWaits s c.desc then s
  else
    let acc := found s c.desc acc
    let s1 := accessDone acc c.desc 8 s
    if !accessGood acc then haltChan n .fetchErr evDmaFetchErr s1 else
    let w := hostWords s1 c.desc 8
    let cause := descCause w
    let s2 := setChan n (fun c => { c with
      words := w, count := c.count + 1, done := 0, entry := none, cause := cause, crc := if descCont w then c.crc else 0xFFFFFFFF
      phase := if cause ≠ 0 || descLength w = 0 then .ending else .burst }) { s1 with drawn := s1.drawn + 8 }
    postIf (cause ≠ 0) evDmaDescBad (n + 256 * cause) s2)

/-- The successor that a LINK word names. -/
def successor (link : Word) (desc : Nat) : Option Nat :=
  if bit link 0 then none else if bit link 1 then some (fld link 63 6 * 64) else some (desc + 64)

/-- CHAIN_LIMIT. -/
def chainLimit (s : State) : Nat := fld (rwGet s 0x7200) 15 0

/-- Words 7 and 1 are written. -/
def writeBack (n result : Nat) (s : State) : State :=
  let c := chan s n
  let st := mk [(0, 2, result), (4, 4, if result = 2 then c.cause else 0), (32, 32, c.done)]
  hostPut (c.desc + 8) [st] (hostPut (c.desc + 56) [mk [(0, 32, (~~~ c.crc).toNat)]] s)

/-- The chain is at its end: the channel parks, with its event if it was RUNNING. -/
def parkChan (n : Nat) (s : State) : State :=
  postIf ((chan s n).state == .running) evDmaIdleAtEnd n (setChan n (fun c => { c with state := .idleAtEnd, phase := .ending }) s)

/-- The LINK word decides (Table 16-8): at the end of the chain with a kick pending it is read once more. -/
def followLink (n : Nat) (s : State) : State :=
  let c := chan s n
  match successor (hostWord s (c.desc + 32) 0) c.desc with
  | some a => if chainLimit s ≤ c.count then haltChan n .loop evDmaLoop s else fetchAt n a s
  | none => if c.kick then setChan n (fun c => { c with kick := false, count := 0, phase := .link }) s else parkChan n s

/-- The LINK word read once more, or for a parked channel again, decides. A kick pending by now is met as at the first. -/
def relink (n : Nat) (s : State) : State :=
  let c := chan s n
  match successor (hostWord s (c.desc + 32) 0) c.desc with
  | some a => fetchAt n a (setChan n (fun c => { c with crc := if c.state == .running then c.crc else 0xFFFFFFFF }) s)
  | none => if c.kick then setChan n (fun c => { c with kick := false, count := 0 }) s else parkChan n s

/-- A LINK read of a channel is served: what follows, or FETCH_ERR (R353). -/
def linkRead (n : Nat) (acc : Access) (f : Nat → State → State) (s : State) : State :=
  let a := (chan s n).desc + 32
  let x := found s a acc
  let s1 := accessDone x a 1 s
  if accessGood x then f n s1 else haltChan n .fetchErr evDmaFetchErr s1

/-- A channel has a descriptor to end, and a LINK word to read once more or again. -/
def endsDesc (c : DmaChan) : Bool := c.state == .running && c.phase == .ending && !c.abort
def readsLink (c : DmaChan) : Bool := (c.state == .running || c.state == .idleAtEnd) && c.phase == .link && !c.abort

/-- DMA_DESCRIPTOR_END: the write-back, its event, and the LINK read; or the LINK read alone where a kick asks for it. They
wait for panic and the host (R336, R338). -/
def execDmaDescriptorEnd (n : Nat) (acc : Access) (s : State) : Out :=
  let c := chan s n
  .next (if 16 ≤ n || bulkWaits s c.desc then s
  else if endsDesc c then
    linkRead n acc followLink
      (postIf (c.cause = 0 && descEvent c.words) evDmaDone n (writeBack n (if c.cause = 0 then 1 else 2) s))
  else if readsLink c then linkRead n acc relink s else s)

/-! ### DMA_KICK (R351) -/

def kickChan (p : List Word) : Nat := fld (wd p 0) 3 0
def kickStart (p : List Word) : Bool := bit (wd p 0) 8

/-- A kick without START: it waits at a running channel and asks for nothing; a parked one has its LINK read again, which
DMA_DESCRIPTOR_END tells (log 110). -/
def resume (n : Nat) (s : State) : State :=
  if (chan s n).state == .running then setChan n (fun c => { c with kick := true }) s
  else wakeMem (setChan n (fun c => { c with count := 0, phase := .link }) s)

/-- DMA_KICK. -/
def hDmaKick : Handler :=
  { Handler.plain 0x72 1 (Handler.ok fun p s =>
      let n := kickChan p
      if kickStart p then
        wakeMem (fetchAt n (wd p 1).toNat (setChan n (fun c => { c with
          kick := false, abort := false, count := 0, crc := 0xFFFFFFFF, done := 0, entry := none, words := [] }) s))
      else resume n s) with
    dram := fun _ => true
    lenOk := fun p => p.length = if kickStart p then 2 else 1
    value := fun s p =>
      if !within 0x10F (wd p 0) then some 0
      else if kickStart p && !descPlace s (wd p 1).toNat then some 1 else none
    bad := fun s _ p =>
      let st := (chan s (kickChan p)).state
      (st == .running || st == .idleAtEnd) == kickStart p }
/-- DMA_KICK with START. -/
def execDmaKickStart (o : Origin) (w first : Word) (s : State) : Out := .next (request hDmaKick o [w ||| 0x100, first] s)
/-- DMA_KICK without START. -/
def execDmaKickResume (o : Origin) (w : Word) (s : State) : Out := .next (request hDmaKick o [w &&& ~~~ (0x100 : Word)] s)

/-! ### DMA_ABORT, DMA_STATUS (R352) -/

/-- DMA_ABORT. -/
def hDmaAbort : Handler :=
  { Handler.plain 0x73 1 (Handler.ok fun p s =>
      let n := fld (wd p 0) 3 0
      if (chan s n).state == .idleAtEnd then setChan n (fun c => { c with state := .aborted }) s else s) with
    value := fun _ p => maskFault [0xF] p
    defers := fun s p =>
      let n := fld (wd p 0) 3 0
      if (chan s n).state == .running then some (.dmaAbort n) else none
    start := fun _ p s => setChan (fld (wd p 0) 3 0) (fun c => { c with abort := true }) s }
/-- DMA_ABORT. -/
def execDmaAbort (o : Origin) (p : List Word) (s : State) : Out := .next (request hDmaAbort o p s)

/-- Every slot that waits for a resource becomes DONE, in ascending order (R420). -/
def finishAll (r : Res) (st : Nat) (res : List Word) (s : State) : State :=
  (List.range 16).foldl (fun s k => if s.brg.slots[k]? = some (.running r) then slotDone k st res s else s) s

/-- The burst that was in flight at an abort, if there was one, completes or is terminated without any action by the
channel; which of these is open (R352; log 110). -/
def lastBurst (n : Nat) (s : State) : State :=
  if (chan s n).phase != .burst then s else
  let x := Config.free 352 s.drawn % 5
  let s1 := { s with drawn := s.drawn + 1 }
  if x = 0 then s1 else (runBurst n (match x with | 1 => .corrected | 2 => .timeout | 3 => .ecc | _ => .ok) s1).2

/-- DMA_ABORT_DONE: the running descriptor is written back, which waits for panic and the host (R336, R338); one that was
never fetched where none can lie is not. -/
def execDmaAbortDone (n : Nat) (s0 : State) : Out :=
  let s := lastBurst n s0
  let c := chan s n
  .next (if !(n < 16 && (chan s0 n).state == .running && (chan s0 n).abort) ||
      (descPlace s0 (chan s0 n).desc && bulkWaits s0 (chan s0 n).desc) then s0 else
    let done := if c.phase == .fetch then 0 else c.done
    let s1 := if descPlace s c.desc then hostPut (c.desc + 8) [mk [(0, 2, 3), (32, 32, done)]] s else s
    finishAll (.dmaAbort n) stOk [BitVec.ofNat 64 c.desc, BitVec.ofNat 64 done]
      (setChan n (fun c => { c with state := .aborted, abort := false, kick := false }) s1))

/-- DMA_STATUS. -/
def hDmaStatus : Handler :=
  { Handler.plain 0x74 1 (fun _ p s =>
      (okReply ((List.range (fld (wd p 0) 8 4)).map fun i => dmaStatus s (fld (wd p 0) 3 0 + i)), s)) with
    value := fun _ p => if within 0x1FF (wd p 0) && fld (wd p 0) 3 0 + fld (wd p 0) 8 4 ≤ 16 then none else some 0 }
/-- DMA_STATUS. -/
def execDmaStatus (o : Origin) (p : List Word) (s : State) : Out := .next (request hDmaStatus o p s)

end Sys2Proof.Machine
end

