-- ==== Sys2Proof/Machine/Update.lean ====
section
/-!
DEFINITION. The signed update (R390 to R394): the checks of Table 18-8, the image slots of Table 18-9, sessions with
their chunks, and the rollback of a trial image.
-/
namespace Sys2Proof.Machine

def setCan (f : Cantle → Cantle) (s : State) : State := { s with can := f s.can }

/-- Count a lifetime counter up by one, saturating (R387). -/
def lifeUp (i : Nat) (s : State) : State := setCan (fun c => { c with life := upd c.life i fun x => sat 64 (x + 1) }) s

/-! ### Verification (Table 18-8) -/

/-- Bytes [o, o + n) of an image, and as a little-endian number. -/
def part (b : List Byte) (o n : Nat) : List Byte := (b.drop o).take n
def partNum (b : List Byte) (o n : Nat) : Nat := littleEndian (part b o n)

/-- Reserved bytes are 0. -/
def blank (l : List Byte) : Bool := l.all (· == 0)

/-- The public key of a header, its slot, and whether that slot holds its hash and is not revoked. -/
def headerKey (b : List Byte) : Nat × Nat := (partNum b 0x40 32, partNum b 0x60 32)
def keyOk (revoked : BitVec 4) (b : List Byte) : Bool :=
  let k := partNum b 0x0E 1
  k ≤ 3 && !revoked.getLsbD k && (Config.keyHash k).toNat == bigEndian (sha256 (part b 0x40 64))

/-- The signature of header bytes 0x00 to 0x7F. -/
def signatureOk (b : List Byte) : Bool :=
  ecdsaOk (bigEndian (sha256 (part b 0 0x80))) (headerKey b) (partNum b 0x80 32) (partNum b 0xA0 32)

/-- The code of the first check that an image fails, 0 when it passes all (R390; log 11 on the body's extent). -/
def imageCheck (revoked : BitVec 4) (floor : BitVec 16) (b : List Byte) : Nat :=
  let body := partNum b 0x10 4
  if !(partNum b 0 4 = 0x314B565A && partNum b 4 2 = 1 && blank (part b 0x14 12) && blank (part b 0xC0 64)) then 1
  else if partNum b 6 2 ≠ 0x4880 then 2
  else if !keyOk revoked b then 3
  else if !(body % 8 = 0 && body ≤ 2096896 && 256 + body ≤ b.length) then 4
  else if sha256 (part b 0x100 body) ≠ part b 0x20 32 then 5
  else if !signatureOk b then 6
  else if partNum b 0x0C 2 < floor.toNat then 7 else 0

/-- What the device keeps of an image in a slot. -/
def imageOf (b : List Byte) : Image :=
  { bytes := b, bad := false, version := BitVec.ofNat 32 (partNum b 8 4), svn := BitVec.ofNat 16 (partNum b 0x0C 2)
    revoke := BitVec.ofNat 4 (partNum b 0x0F 1) }

/-! ### Sessions and chunks (R392, R393) -/

/-- Chunks of an image of so many bytes, and the bytes of one. -/
def chunkCount (total : Nat) : Nat := cdiv total 248
def chunkBytes (total i : Nat) : Nat := min 248 (total - 248 * i)

def setSlot (b : Bool) (x : SlotState) (s : State) : State :=
  setCan (fun c => if b then { c with slotB := x } else { c with slotA := x }) s
def setImage (b : Bool) (x : Image) (s : State) : State :=
  setCan (fun c => if b then { c with imageBi := x } else { c with imageA := x }) s

/-- What a slot holds. -/
def imageIn (s : State) (b : Bool) : Image := if b then s.can.imageBi else s.can.imageA

/-- SLOT, RESUME, TOTAL and CRC of UPDATE_BEGIN. -/
def beginSlot (p : List Word) : Bool := bit (wd p 0) 0
def beginResume (p : List Word) : Bool := bit (wd p 0) 1
def beginTotal (p : List Word) : Nat := fld (wd p 0) 63 32
def beginCrc (p : List Word) : BitVec 32 := BitVec.ofNat 32 (fld (wd p 1) 31 0)

/-- The stored session is the one that a RESUME names. -/
def resumes (s : State) (p : List Word) : Bool :=
  match s.can.session with
  | some x => x.slotB == beginSlot p && x.total == beginTotal p && x.crc == beginCrc p
  | none => false

/-- The session is set up: the slot is invalid from this moment. -/
def startSession (p : List Word) (s : State) : State :=
  let data := if beginResume p then (match s.can.session with | some x => x.data | none => []) else []
  let new : Session := { slotB := beginSlot p, total := beginTotal p, crc := beginCrc p, data := data }
  setImage (beginSlot p) { Image.shipped with bad := beginResume p && (imageIn s (beginSlot p)).bad } (setSlot (beginSlot p) .part
    (setCan (fun c => { c with session := some new, buffer := if beginResume p then c.buffer else [] }) s))

/-- A work takes the update path, or waits for those that a break-in has abandoned (R103, R420; log 64); an UPDATE_BEGIN sets
its session up as it takes it, an UPDATE_END joins one under way. -/
def takePath (w : UpdWork) (s : State) : State :=
  match s.can.works, w with
  | [], .begins p => startSession p (setCan (fun c => { c with works := [w] }) s)
  | l, .ends => if l.getLast? == some .ends then s else setCan (fun c => { c with works := l ++ [w] }) s
  | l, _ => setCan (fun c => { c with works := l ++ [w] }) s

/-- The oldest work of the update path has ended as f says; the next one takes the path. -/
def leavePath (f : State → State) (s : State) : State :=
  let rest := s.can.works.tail
  let t := endsFor (rest ≠ []) f (setCan (fun c => { c with works := rest }) s)
  match rest with
  | .begins p :: _ => startSession p t
  | _ => t

/-- UPDATE_BEGIN. -/
def hUpdateBegin : Handler :=
  { Handler.work 0xA3 2 (fun _ => .update) (fun _ p s => takePath (.begins p) s) with
    recov := true
    cantle := true
    value := fun _ p =>
      if !(within 0xFFFFFFFF00000003 (wd p 0) && rng (beginTotal p) 256 2097152) then some 0
      else if !within 0xFFFFFFFF (wd p 1) then some 1 else none
    bad := fun s _ p =>
      (!beginSlot p && s.can.slotA == .trial) || (if beginSlot p then s.can.slotA else s.can.slotB) == .part ||
        (beginResume p && !resumes s p)
    denied := fun s p => !beginSlot p && s.can.slotB != .valid && !inRecovery s }
/-- UPDATE_BEGIN. -/
def execUpdateBegin (o : Origin) (p : List Word) (s : State) : Out := .next (request hUpdateBegin o p s)

/-- The lowest chunk that is not stored. -/
def firstMissing (x : Session) : Nat :=
  let n := chunkCount x.total
  ((List.range n).find? fun i => !x.data.any fun c => c.1 = i).getD n

/-- UPDATE_BEGIN_DONE. -/
def execUpdateBeginDone (s : State) : Out :=
  .next (match s.can.works, s.can.session with
    | .begins _ :: _, some x =>
      leavePath (finish .update stOk [mk [(0, 16, chunkCount x.total), (16, 16, x.data.length), (32, 16, firstMissing x)]]) s
    | _, _ => s)

/-- INDEX of a chunk, and its data bytes. -/
def chunkIndex (p : List Word) : Nat := fld (wd p 0) 15 0
def chunkData (total : Nat) (p : List Word) : List Byte :=
  ((p.drop 1).flatMap wordBytes).take (chunkBytes total (chunkIndex p))

/-- A chunk of the session: its index, its length and its CRC. -/
def chunkFits (x : Session) (p : List Word) : Bool :=
  chunkIndex p < chunkCount x.total && p.length = 1 + cdiv (chunkBytes x.total (chunkIndex p)) 8 &&
    fld (wd p 0) 63 32 = (crc32c (chunkData x.total p)).toNat

/-- The buffer holds 64 chunks. -/
abbrev chunkBuffer : Nat := 64

/-- UPDATE_CHUNK; while UPDATE_BEGIN or UPDATE_END holds the update path, no chunk is taken. -/
def hUpdateChunk : Handler :=
  { Handler.plain 0xA4 2 (Handler.ok fun p s => setCan (fun c => { c with buffer := c.buffer ++ [(chunkIndex p, p.drop 1)] }) s) with
    recov := true
    cantle := true
    lenOk := fun p => rng p.length 2 32
    value := fun s p =>
      let bad := match s.can.session with | some x => !chunkFits x p | none => false
      if !within 0xFFFFFFFF0000FFFF (wd p 0) || bad then some 0 else none
    bad := fun s _ _ => s.can.session.isNone || chunkBuffer ≤ s.can.buffer.length || s.can.works ≠ [] }
/-- UPDATE_CHUNK. -/
def execUpdateChunk (o : Origin) (p : List Word) (s : State) : Out := .next (request hUpdateChunk o p s)

/-- UPDATE_CHUNK_STORED: the oldest buffered chunk is written to MRAM. -/
def execUpdateChunkStored (s : State) : Out :=
  .next (match s.can.buffer, s.can.session with
    | c :: r, some x =>
      if s.can.running || inRecovery s then
        setCan (fun k => { k with buffer := r, session := some { x with data := kvSet [] x.data c.1 c.2 } }) s
      else s
    | _, _ => s)

/-- UPDATE_END. -/
def hUpdateEnd : Handler :=
  { Handler.work 0xA5 0 (fun _ => .update) (fun _ _ s => takePath .ends s) with
    recov := true
    cantle := true
    bad := fun s _ _ => s.can.buffer ≠ [] ||
      match s.can.session with | some x => decide (x.data.length < chunkCount x.total) | none => true }
/-- UPDATE_END. -/
def execUpdateEnd (o : Origin) (p : List Word) (s : State) : Out := .next (request hUpdateEnd o p s)

/-- The bytes of a session's image. -/
def sessionBytes (x : Session) : List Byte := x.data.flatMap fun c => (c.2.flatMap wordBytes).take (chunkBytes x.total c.1)

/-- An UPDATE record with the check code; its DATA is not stated (log 45). -/
def logUpdate (code : Nat) (s : State) : State :=
  logRecord 0x84 code (now s) [BitVec.ofNat 64 (Config.free 382 s.drawn % 2 ^ 32)] { s with drawn := s.drawn + 1 }

/-- Verification of a whole image ends. -/
def judgeImage (x : Session) (s : State) : State :=
  let b := sessionBytes x
  let code := imageCheck s.can.revoked s.can.svnFloor b
  let s1 := logUpdate code (setCan (fun c => { c with session := none }) s)
  if code = 0 then
    finish .update stOk [] (post evUpdateStored (b2n x.slotB)
      (setImage x.slotB (imageOf b) (setSlot x.slotB (if x.slotB then .valid else .stored) s1)))
  else finish .update stDenied [BitVec.ofNat 64 code] (post evUpdateBadSig code (setSlot x.slotB .empty s1))

/-- The stored chunks give the CRC of UPDATE_BEGIN; with a word that cannot be corrected among them they do not (R389; log
111). -/
def crcHolds (s : State) (x : Session) : Bool := crc32c (sessionBytes x) == x.crc && !(imageIn s x.slotB).bad

/-- The whole-image CRC fails: the bitmap is cleared, and the slot stays PARTIAL. -/
def failCrc (x : Session) (s : State) : State :=
  finish .update stConflict [] (setImage x.slotB { imageIn s x.slotB with bad := false }
    (setCan (fun c => { c with session := some { x with data := [] } }) s))

/-- UPDATE_END_DONE: the whole-image CRC first, then the checks. -/
def execUpdateEndDone (s : State) : Out :=
  .next (match s.can.works, s.can.session with
    | .ends :: _, some x =>
      leavePath (if crcHolds s x then planes (judgeImage x) else failCrc x) s
    | _, _ => s)

/-! ### Activation and rollback (R391, R394) -/

/-- Image A runs in TRIAL. -/
def onTrial (s : State) : Bool := s.can.slotA == .trial && s.can.running && !s.can.imageB && !inRecovery s

/-- A level 2 reset is to follow; one scheduled already stands. -/
def schedule (level : Nat) (s : State) : State :=
  if s.pwr.hard.isSome then s else { s with pwr := { s.pwr with hard := some level } }

/-- The trial image is rejected. -/
def rollback (cause : Nat) (s : State) : State :=
  schedule 2 (lifeUp 12 (setCan (fun c => { c with slotA := .rejected, rollback := some cause, trialAt := none }) s))

/-- The smaller SVN of the VALID slots, A included. -/
def validSvn (c : Cantle) : BitVec 16 :=
  if c.slotB == .valid && c.imageBi.svn < c.imageA.svn then c.imageBi.svn else c.imageA.svn

/-- The trial image is confirmed. -/
def confirm (s : State) : State :=
  lifeUp 13 (setCan (fun c => { c with
    slotA := .valid, trialAt := none, revoked := c.revoked ||| c.imageA.revoke
    svnFloor := if c.svnFloor < validSvn c then validSvn c else c.svnFloor }) s)

/-- What UPDATE_ACTIVATE does. -/
def activate (w : Word) (s : State) : State :=
  match fld w 1 0 with
  | 0 => schedule 2 (setCan (fun c => { c with slotA := .trial, attempts := 0 }) s)
  | 1 => confirm s
  | _ => rollback 1 s

/-- UPDATE_ACTIVATE. -/
def hUpdateActivate : Handler :=
  { Handler.plain 0xA6 1 (Handler.ok fun p s => activate (wd p 0) s) with
    recov := true
    cantle := true
    value := fun _ p => if within 3 (wd p 0) && fld (wd p 0) 1 0 ≠ 3 then none else some 0
    bad := fun s _ p => if fld (wd p 0) 1 0 = 0 then s.can.slotA != .stored else !onTrial s }

/-- Word 0 with its ACTION given. -/
def withAct (a : Nat) (w : Word) : Word := (w &&& ~~~ (3 : Word)) ||| BitVec.ofNat 64 a

/-- UPDATE_ACTIVATE, TRIAL. -/
def execUpdateActivateTrial (o : Origin) (w : Word) (s : State) : Out := .next (request hUpdateActivate o [withAct 0 w] s)
/-- UPDATE_ACTIVATE, CONFIRM. -/
def execUpdateActivateConfirm (o : Origin) (w : Word) (s : State) : Out := .next (request hUpdateActivate o [withAct 1 w] s)
/-- UPDATE_ACTIVATE, REJECT. -/
def execUpdateActivateReject (o : Origin) (w : Word) (s : State) : Out := .next (request hUpdateActivate o [withAct 2 w] s)

/-- TRIAL_TIMER_EXPIRY: TRIAL_S after READY. -/
def execTrialTimerExpiry (s : State) : Out := .next (if onTrial s && s.can.trialAt.isSome then rollback 0 s else s)

end Sys2Proof.Machine
end

