-- ==== Sys2Proof/Machine/Surge.lean ====
section
/-!
DEFINITION. Surge records and the post-surge self-test (R384 to R386).
-/
namespace Sys2Proof.Machine

/-! ### Surge records -/

/-- The surge domains that the model names by number (R384). -/
abbrev domOpticsA : Nat := 5
abbrev domOpticsB : Nat := 6
abbrev domSupply : Nat := 7

/-- SELFTEST_MASK of MGT.SURGE_CFG. -/
def selftestMask (s : State) : Nat := fld (nvGet s 0x9004) 7 0

/-- The code of a peak current in µA: round(8 · log2(I / 1 mA)) + 1, saturating (R385). -/
def peakCode (ua : Nat) : Nat :=
  1 + ((List.range 255).drop 1).countP fun n => 2 ^ (2 * n - 1) * 1000 ^ 16 ≤ ua ^ 16

/-- The links whose state a record keeps: UP, DOWN, stream. -/
def linksUp (s : State) : BitVec 3 :=
  BitVec.ofNat 3 (b2n (s.harn.up == .locked) + 2 * b2n (s.harn.down == .locked) + 4 * b2n (s.strm.state == .up))

/-- Record a detection of a domain. -/
def Surge.detect (r : Surge) (cycle dom code : Nat) : Surge :=
  { r with lastAt := cycle, domains := r.domains ||| ((1 : BitVec 8) <<< dom), count := r.count + 1,
           peaks := upd r.peaks dom (max code) }

/-- A record of no detection yet, opened now, with the bursts of the last 10 ms. -/
def newSurge (s : State) : Surge :=
  let bs := s.can.bursts.filter fun b => s.tb.mono ≤ b.1 + 10 * msCycles
  { openedAt := s.tb.mono, tag := now s, unset := !s.tb.set, lastAt := s.tb.mono, domains := 0, burst := bs ≠ [], brownout := false, stale := false,
    peaks := List.replicate 8 0, lanes := bs.foldl (fun a b => a ||| b.2.1) 0, raman := bs.any (·.2.2), count := 0,
    unlocks := 0, uncorr := 0, links := linksUp s }

/-- A record opens, and EV_SURGE names its domains. -/
def openSurge (r : Surge) (s : State) : State :=
  post evSurge r.domains.toNat (setCan (fun c => { c with surge := some r }) s)

/-- CLAMP_DETECTION: a clamp current above 1 mA, or SUPPLY's comparator. While Cantle does not run its flag latches. -/
def execClampDetection (domain peakUa : Nat) (s : State) : Out :=
  let d := domain % 8
  .next (if d ≠ domSupply && peakUa ≤ 1000 then s
  else if !s.can.running then setCan (fun c => { c with latched := c.latched ||| ((1 : BitVec 8) <<< d) }) s
  else
    let code := if d = domSupply then 1 else peakCode peakUa
    match s.can.surge with
    | some r => setCan (fun c => { c with surge := some (r.detect s.tb.mono d code) }) s
    | none => openSurge ((newSurge s).detect s.tb.mono d code) s)

/-- Flags that no record holds open one with FLAGS_STALE; of each only that it was detected is known (log 48). -/
def openStale (s : State) : State :=
  if s.can.latched = 0 then s else
  let doms := (List.range 8).filter fun d => s.can.latched.getLsbD d
  openSurge { doms.foldl (fun r d => r.detect s.tb.mono d 1) (newSurge s) with stale := true } (setCan (fun c => { c with latched := 0 }) s)

/-- Words of a SURGE record: DATA and the two continuations (R385). -/
def Surge.words (r : Surge) : List Word :=
  [Machine.mk [(0, 32, sat 32 (Config.quot 385 (Int.ofNat (r.lastAt - r.openedAt)) usCycles).toNat)],
   Machine.mk ((List.range 8).map fun d => (8 * d, 8, r.peaks.getD d 0)),
   Machine.mk [(0, 8, r.lanes.toNat), (8, 1, b2n r.raman), (12, 4, sat 4 r.count)]]
def Surge.detail (r : Surge) : Nat := r.domains.toNat + 256 * b2n r.burst + 512 * b2n r.brownout + 1024 * b2n r.stale

/-- A self-test for a record. -/
def testOf (r : Surge) : SelfTest :=
  { domains := r.domains, record := r, cycle := 0, tiles := 0, tileBad := false, laneBad := 0 }

/-- A close joins a self-test that has not begun. -/
def SelfTest.join (t : SelfTest) (r : Surge) : SelfTest :=
  { t with domains := t.domains ||| r.domains
           record := { t.record with unlocks := t.record.unlocks + r.unlocks, uncorr := t.record.uncorr + r.uncorr
                                     links := t.record.links ||| r.links } }

/-- The self-test of a closed record: due within 10 ms, or after the one in progress. -/
def requestTest (r : Surge) (c : Cantle) : Cantle :=
  if c.test.isSome then { c with queued := some (match c.queued with | some t => t.join r | none => testOf r) }
  else { c with due := some (match c.due with | some t => t.join r | none => testOf r) }

/-- SURGE_RECORD_CLOSE: QUIET has passed, or 2 s. -/
def execSurgeRecordClose (s : State) : Out :=
  .next (match s.can.surge with
    | none => s
    | some r =>
      let area := (r.tag :: Machine.mk [(0, 16, r.detail)] :: r.words)
      let s1 := setCan (fun c => { c with
        surge := none, surges := (area :: c.surges).take 16, acc := { c.acc with surges := sat 8 (c.acc.surges + 1) } }) s
      let s2 := lifeUp 10 (logRecordOf 0x82 r.detail r.tag r.unset r.words s1)
      if r.domains.toNat &&& selftestMask s ≠ 0 then setCan (requestTest r) s2
      else post evSurge (0x8000 + r.domains.toNat) s2)

/-! ### The self-test (R386, Table 18-4) -/

/-- The paths whose hold a set of domains requests. -/
def heldPaths (doms : BitVec 8) : List Nat :=
  (List.range 4).filter fun p => doms.getLsbD domSupply || doms.getLsbD (if p % 2 = 0 then domOpticsA else domOpticsB)

/-- SELFTEST_START: the holds are requested as far as the paths are live, and the aux sequencer pauses. -/
def execSelftestStart (s : State) : Out :=
  .next (match s.can.due with
    | some t =>
      if !s.can.running || s.can.test.isSome then s else
      let s1 := setCan (fun c => { c with due := none, test := some { t with cycle := s.tb.mono } }) s
      auxPause ((heldPaths t.domains).foldl (fun s p => if pathLive s p then holdCantle p s else s) (fixLane s1))
    | none => s)

/-- A tile leaves service, or returns. -/
def setTile (t : Nat) (pass : Bool) (s : State) : State :=
  { s with tiles := if pass then s.tiles ||| ((1 : BitVec 64) <<< t) else s.tiles &&& ~~~ ((1 : BitVec 64) <<< t) }

/-- The acquiring sides are overloaded by the loss of a tile. -/
def tileOverload (s : State) : State :=
  if overload s (cfgOf s .a) (cfgOf s .b) (acquiring s .a) (acquiring s .b) then
    bothSides (fun d s =>
      if acquiring s d then post evCurrierOverload d.num (setCur d (fun u => { u with overload := true }) s) else s) s
  else s

/-- A tile's test is over. -/
def tileTested (t : Nat) (pass : Bool) (s : State) : State :=
  let s1 := setTile t pass (useTiles s)
  if pass then s1 else
  let s2 := lifeUp 22 s1
  if s.tiles.getLsbD t then tileOverload s2 else s2

/-- CURRIER_TILE_TEST_SLOT_END: of the post-surge self-test, or of the one at start-up. -/
def execCurrierTileTestSlotEnd (pass : Bool) (s : State) : Out :=
  .next (if !s.can.running then s else match s.can.test with
    | some t =>
      if 64 ≤ t.tiles then s else
      tileTested t.tiles pass (setCan (fun c => { c with
        test := some { t with tiles := t.tiles + 1, tileBad := t.tileBad || !pass } }) s)
    | none =>
      if 64 ≤ s.can.tested then s else
      tileTested s.can.tested pass (setCan (fun c => { c with tested := c.tested + 1 }) s))

/-- The range of a voltage monitor in mV (Tables 03-1 and 18-1). -/
def voltRange (i : Nat) : Nat × Nat :=
  [(1710, 1890), (776, 824), (776, 824), (825, 875), (1746, 1854), (1746, 1854), (873, 927), (873, 927), (570, 650), (1060, 1170),
    (1710, 1890), (3135, 3465), (1710, 1890), (873, 927), (1176, 1224), (728, 772)].getD i (0, 65535)

/-- A voltage monitor stands within its range. -/
def voltIn (i v : Nat) : Bool := rng v (voltRange i).1 (voltRange i).2

/-- A whole image in a slot fails its verification as far as the model knows it (R389, R390). -/
def imageBad (c : Cantle) (slot : SlotState) (i : Image) : Bool :=
  slot.whole && (i.bad || (i.bytes ≠ [] && imageCheck c.revoked c.svnFloor i.bytes ≠ 0))

/-- Check 11: an image, or a Tack set that is not EMPTY and reads CRC_BAD, one whose save was cut off too (log 111). -/
def mramBad (s : State) : Bool :=
  imageBad s.can s.can.slotA s.can.imageA || imageBad s.can s.can.slotB s.can.imageBi ||
    s.tacks.sets.any fun x => x.state = 2

/-- The checks that the model decides itself; RAMAN, AWL and AUX come with the row, and so does an MRAM read that fails. -/
def ownChecks (s : State) (t : SelfTest) : Nat :=
  let bad := fun (l : Lash) => l.dacFault || l.gate == .openLoad || l.gate == .short
  let lost := t.record.links &&& ~~~ linksUp s
  b2n (s.can.temps.any (fun x => x < -400 || 1250 < x) || s.can.volts.zipIdx.any fun v => !voltIn v.2 v.1) +
    2 * b2n (!pllLocked s || t.record.unlocks ≠ 0) + 4 * b2n t.tileBad +
    8 * b2n (t.laneBad &&& 0x0F != 0) + 16 * b2n (t.laneBad &&& 0xF0 != 0) + 128 * b2n (bad s.lash.a || bad s.lash.b) +
    512 * b2n (lost &&& 3 != 0) + 1024 * b2n (!s.mem.usable || t.record.uncorr ≠ 0) + 2048 * b2n (mramBad s) + 4096 * b2n (lost &&& 4 != 0)

/-- Bits 5, 6, 8 and 11 of Table 18-4. -/
abbrev analogMask : BitVec 13 := 0x960

/-- Every hold that Cantle requested is released, and the aux sequencer goes on. -/
def endHolds (s : State) : State :=
  let s1 := { s with cal := { s.cal with cantle := 0 } }
  if s.cal.running.getLsbD 16 then s1 else auxResume s1

/-- SELFTEST_DONE. -/
def execSelftestDone (analogFails : BitVec 13) (s : State) : Out :=
  .next (match s.can.test with
    | none => s
    | some t => planes (fun s =>
      let f := BitVec.ofNat 13 (ownChecks s t) ||| (analogFails &&& analogMask)
      let time := sat 32 (Config.quot 386 (Int.ofNat (s.tb.mono - t.cycle)) usCycles).toNat
      let s1 := logRecord 0x83 f.toNat (now s) [BitVec.ofNat 64 time] s
      let s2 := setCan (fun c => { c with
        test := none, due := c.queued, queued := none, failed := f, domains := t.domains
        testedAt := BitVec.ofNat 32 (fld (now s) 63 30)
        acc := { c.acc with failed := sat 8 (c.acc.failed + b2n (f != 0)) } }) s1
      let s3 := if f = 0 then s2 else lifeUp 11 s2
      endHolds (post evSurge (0x8000 + 0x4000 * b2n (f != 0) + t.domains.toNat) (fixLane s3))) s)

end Sys2Proof.Machine
end

