-- ==== Sys2Proof/Machine/Log.lean ====
section
/-!
DEFINITION. The event log in MRAM (R382, R383) and the lifetime counters (R387, R388).
-/
namespace Sys2Proof.Machine

/-! ### Entries (Table 18-3) -/

/-- Entries that the log holds, and that Cantle writes in a second. -/
abbrev logSize : Nat := 131072
abbrev logPerSecond : Nat := 2000

def logWrap (s : State) : Bool := bit (nvGet s 0x9003) 0
def logNear (s : State) : Nat := fld (nvGet s 0x9003) 14 8

/-- The entries of something selected for the log: the first, and the continuations of a record. -/
def LogItem.entries (x : LogItem) : List LogEntry :=
  { word0 := x.tag, word1 := Machine.mk [(0, 8, x.code), (8, 1, b2n x.unset), (16, 16, x.detail.toNat), (32, 32, fld (wd x.data 0) 31 0)] } ::
    (x.data.drop 1).map fun w => { word0 := w, word1 := Machine.mk [(0, 8, x.code), (9, 1, 1)] }

/-- Entries that are not logged are counted (R375, R382). -/
def loseLog (n : Nat) (s : State) : State :=
  { s with evq := { s.evq with logLost := sat 16 (s.evq.logLost + n) } }

/-- EV_LOG_NEAR_FULL when occupancy first reaches NEAR %. -/
def nearFull (s : State) : State :=
  let up := logNear s ≠ 0 && logNear s * logSize ≤ 100 * s.can.log.length
  postIf (up && !s.can.nearUp) evLogNearFull 0 (setCan (fun c => { c with nearUp := up }) s)

/-- Entries enter the log whole; the oldest are overwritten. -/
def appendLog (es : List LogEntry) (s : State) : State :=
  setCan (fun c =>
    let l := c.log ++ es
    { c with log := l.drop (l.length - logSize), logNext := c.logNext + BitVec.ofNat 32 es.length
             logRate := c.logRate + es.length, life := upd c.life 20 fun x => sat 64 (x + es.length) }) s

/-- Write one item: within the rate, and, when the log is full and does not wrap, not at all. LOG_LOST then counts every
entry of it, as Table 18-10 has it (log 96). -/
def writeLog (x : LogItem) (s : State) : State :=
  let es := x.entries
  let s1 := if s.can.logSec + sCycles ≤ s.tb.mono then setCan (fun c => { c with logSec := s.tb.mono, logRate := 0 }) s else s
  if logPerSecond < s1.can.logRate + es.length || (!logWrap s && logSize < s1.can.log.length + es.length) then loseLog es.length s1
  else nearFull (appendLog es s1)

/-- Cantle writes what waits, so many items. -/
def drainLog : Nat → State → State
  | 0, s => s
  | n + 1, s =>
    match s.evq.logQ with
    | [] => s
    | x :: r => drainLog n (writeLog x { s with evq := { s.evq with logQ := r } })

/-- Cantle, or the recovery loader, writes MRAM. -/
def mramAlive (s : State) : Bool := s.can.running || inRecovery s

/-- LOG_ENTRY_WRITE. -/
def execLogEntryWrite (s : State) : Out := .next (if mramAlive s then drainLog 1 s else s)

/-! ### LOG_READ, LOG_CLEAR (R383) -/

/-- How far START lies from the oldest entry: what to skip, or nothing when it is newer than the newest. -/
def logSkip (s : State) (start : BitVec 32) : Option Nat :=
  let d := (start - logOldest s).toNat
  if d < s.can.log.length then some d
  else if (logOldest s - start).toNat < 2 ^ 31 then some 0 else none

/-- LOG_READ. -/
def hLogRead : Handler :=
  { Handler.plain 0xA1 1 (fun _ p s =>
      let n := fld (wd p 0) 35 32
      if n = 0 then (okReply [mk [(0, 32, (logOldest s).toNat)]], s) else
      match logSkip s (BitVec.ofNat 32 (fld (wd p 0) 31 0)) with
      | none => (okReply [mk [(0, 32, s.can.logNext.toNat)]], s)
      | some k =>
        let es := (s.can.log.drop k).take n
        (okReply (mk [(0, 32, (logOldest s + BitVec.ofNat 32 k).toNat), (32, 4, es.length)] ::
          es.flatMap fun e => [e.word0, e.word1]), s)) with
    recov := true
    value := fun _ p => maskFault [0xFFFFFFFFF] p }
/-- LOG_READ. -/
def execLogRead (o : Origin) (p : List Word) (s : State) : Out := .next (request hLogRead o p s)

/-- LOG_CLEAR. -/
def hLogClear : Handler :=
  { Handler.work 0xA2 1 (fun _ => .log) (fun _ p s =>
      setCan (fun c => { c with clear := c.clear ++ [BitVec.ofNat 32 (fld (wd p 0) 31 0)] }) s) with
    bcast := .no
    recov := true
    cantle := true
    value := fun _ p => maskFault [0xFFFFFFFF] p }
/-- LOG_CLEAR. -/
def execLogClear (o : Origin) (p : List Word) (s : State) : Out := .next (request hLogClear o p s)

/-- LOG_CLEAR_DONE: every entry older than UPTO is released. -/
def execLogClearDone (s : State) : Out :=
  .next (match s.can.clear with
    | [] => s
    | upto :: rest =>
      let n := (logSkip s upto).getD s.can.log.length
      planes (fun s => endsFor (rest ≠ []) (finish .log stOk []) (nearFull s))
        (setCan (fun c => { c with log := c.log.drop n, clear := rest }) s))

/-! ### Lifetime counters (R387, R388) -/

/-- Core cycles of an hour, and 10^−9 h of equivalent hours in 0.01 h. -/
abbrev hourCycles : Nat := 3600 * sCycles
abbrev equivUnit : Nat := 10000000

/-- The words counted in hours, by their place in `lifeFrac`. -/
def hourWords : List Nat := [0, 1, 3, 4, 18, 19]

/-- The hottest of the latest samples. -/
def hottest (s : State) : Int := s.can.temps.foldl max (-32768)

/-- Core cycles towards the hours of one word. -/
def addHours (i n : Nat) (s : State) : State :=
  let x := s.can.lifeFrac.getD i 0 + n
  setCan (fun c => { c with lifeFrac := c.lifeFrac.set i (x % hourCycles)
                            life := upd c.life (hourWords.getD i 0) fun w => sat 64 (w + x / hourCycles) }) s

/-- Which counters of hours run while the rails are good (log 47). -/
def hoursRun (s : State) (i : Nat) : Bool :=
  match i with
  | 0 => true
  | 2 => decide (950 < hottest s)
  | 3 => decide (1050 < hottest s)
  | 4 => s.lash.a.enabled
  | 5 => s.lash.b.enabled
  | _ => false

/-- The counters are brought up to now, and a copy of those before is kept (8 in all). -/
def updateLife (s : State) : State :=
  let n := s.tb.mono - s.can.lifeAt
  let s1 := setCan (fun c => { c with lifeOld := (c.life :: c.lifeOld).take 7, lifeAt := s.tb.mono }) s
  let s2 := (List.range 6).foldl (fun s i => if hoursRun s i then addHours i n s else s) s1
  setCan (fun c => { c with life := ((c.life.set 14 s.lash.a.count).set 15 s.lash.b.count).set 2 (sat 64 (c.equiv / equivUnit)) }) s2

/-- LIFETIME_UPDATE. -/
def execLifetimeUpdate (s : State) : Out := .next (if s.can.running then updateLife s else s)

/-- What a minute at a temperature in 0.1 °C adds to the equivalent hours, in 10^−9 h (R388); t is the kelvin in 0.01. -/
def equivMinute (hot : Int) : Nat :=
  let t := 10 * hot + 27315
  (Config.quot 388 (expQ (812350 * (t - 34315) * 2 ^ 40 / (34315 * t)) * 1000000000) (60 * 2 ^ 60)).toNat

/-- EQUIV_HOURS_MINUTE: the hottest sensor over the minute. -/
def execEquivHoursMinute (s : State) : Out :=
  .next (if s.can.running then
    setCan (fun c => { c with equiv := c.equiv + equivMinute (c.hot.getD (hottest s)), hot := none }) s else s)

/-- LIFETIME_READ. -/
def hLifetimeRead : Handler := Handler.plain 0xA8 0 (fun _ _ s => (okReply (s.can.life.map (BitVec.ofNat 64)), s))
/-- LIFETIME_READ. -/
def execLifetimeRead (o : Origin) (p : List Word) (s : State) : Out := .next (request hLifetimeRead o p s)

end Sys2Proof.Machine
end

