-- ==== Sys2Proof/Machine/Power.lean ====
section
/-!
DEFINITION. Power, resets, start-up and standby (chapter 03), with abandonment (Table 06-3) and break-in (R91).
-/
namespace Sys2Proof.Machine

def setPwr (f : Power → Power) (s : State) : State := { s with pwr := f s.pwr }

/-! ### Abandonment (Table 06-3, R103, R364, R420) -/

/-- Every deferred command is abandoned: it loses its reply and its completion event, and frees its resource (R103). The
works that a rule of their own ends stop: CAL_RUN (R364), a save or erase of a Tack set (R113), a pending time load (R279).
Every other goes on to its end without a slot. -/
def abandon (s : State) : State :=
  dropRuns (dropTackOp (setTb (fun t => { t with loader := none }) (freeSlots s)))

/-- Bridle and the link logic are reset (R91, steps 1 to 3): with the deferred commands, any pending reply and both stored
entries (R98) are lost. What becomes of a packet that is just leaving is not stated: the model lets it end whole and
counts its port as free (log 85). That a reset by Bridle's watchdog clears the stored entries too is the model's choice (DESIGN
CHOICE, log 104). -/
def resetBridle (s : State) : State :=
  setHarn (fun h => { h with own := none, clearDue := false, claim := none, upBusy := 0, downBusy := 0 })
    (clearStored (abandon s))

/-- BREAK_IN: K28.7 for 20 µs, which the unit drives on HDN_DOUT as long as it comes (R91). -/
def execBreakIn (s : State) : Out :=
  .next (if answers s && s.harn.up == .locked then
    setHarn (fun h => { h with breakIn := true, lineDown := h.lineDown.drive s.tb.mono (.k 28 7) }) (resetBridle s) else s)

/-- BREAK_IN_END: idle goes down again. The data pair aligns, and HARNESS_LINK_LOCK, 64 idle symbols later, makes it LOCKED
again with the event of Table 05-3 (log 85). -/
def execBreakInEnd (s : State) : Out :=
  .next (if s.harn.breakIn then
    post evChainBreakin 0 (setHarn (fun h => { h with
      breakIn := false, up := .align, lineDown := h.lineDown.drive s.tb.mono dataIdle }) s)
  else s)

/-! ### The reset of the switched domains (Table 03-4) -/

/-- The assignment a lane starts with: its lowest slices that are not retired; positions beyond them are degraded, and their
samples carry SETTLE (log 16). -/
def bootLane (retired : BitVec 10) (at' : Nat) : Lane :=
  let good := (List.range 10).filter fun x => !retired.getLsbD x
  let bad := (List.range 10).filter fun x => retired.getLsbD x
  let short := (List.range 8).filter fun p => good.length ≤ p
  { Lane.init with
    pos := (good ++ bad).take 8, retired := retired, marks := short.map fun p => { pos := p, start := at', upto := none }
    degraded := BitVec.ofNat 8 (short.foldl (fun a p => a + 2 ^ p) 0) }

/-- The retired slices of a lane as MRAM keeps them (R162). -/
def keptRetired (c : Cantle) (n : Nat) : BitVec 10 := BitVec.ofNat 10 (c.life.getD (16 + n / 4) 0 / 2 ^ (10 * (n % 4)))

/-- What MRAM keeps of Cantle's: log, lifetime, which switches have passed LIFE (log 78), surge area, images, session and
update state; and the clamp flags, which clear only when Cantle reads them, or with the power (R384; log 48). -/
def Cantle.boot (c : Cantle) : Cantle :=
  { Cantle.init with
    log := c.log, logNext := c.logNext, surges := c.surges, life := c.life, lifeOld := c.lifeOld, lifeAt := c.lifeAt
    lifeFrac := c.lifeFrac, equiv := c.equiv, slotA := c.slotA, slotB := c.slotB, imageA := c.imageA, imageBi := c.imageBi
    attempts := c.attempts, session := c.session, svnFloor := c.svnFloor, revoked := c.revoked, rollback := c.rollback
    nearUp := c.nearUp, endured := c.endured, latched := c.latched }

/-- Lash after a reset, its actuations as MRAM keeps them (R137). -/
def bootLash (c : Cantle) (d : Side) : Lash := { Lash.init with count := c.life.getD (14 + d.num) 0 }

/-- Everything outside the always-on island is reset; MRAM, the pins and the tiles' verdicts stay (R193). -/
def resetDomains (s : State) : State :=
  { State.reset with
    pwr := { s.pwr with startQ := [], soft := none, hard := none, powerKept := false, strap := 0 }
    nv := s.nv
    tacks := { Tacks.init with sets := s.tacks.sets }
    lash := { a := bootLash s.can .a, b := bootLash s.can .b }
    recv := { Recv.init with lanes := (List.range 8).map fun n => bootLane (keptRetired s.can n) (mainNow s) }
    tb := { TimeBase.init with mono := s.tb.mono }
    tiles := s.tiles
    mem := { Mem.init with fitted := s.mem.fitted }
    can := s.can.boot
    drawn := s.drawn
    pending := s.pending }

/-- A start-up begins in a state with its cause event. -/
def startUp (dev : DevState) (event detail : Nat) (s : State) : State :=
  setPwr (fun p => { p with dev := dev, startQ := [(event, detail)] }) s

def loseAddress (s : State) : State := setPwr (fun p => { p with address := 0 }) s

/-- The straps are sampled; TEST_MODE high is production test (R37, R38). -/
def sampleStraps (dev : DevState) (s : State) : State :=
  setPwr (fun p => { p with strap := p.psel, dev := if p.testMode then .prodTest else dev }) s

/-! ### RESET (R51 to R54, R411) -/

/-- Baseline captures end with INTERNAL. -/
def endCaptures (s : State) : State :=
  (List.range 8).foldl (fun s r =>
    if (baseline s r).state = 1 then finish (.baseline r) stInternal [] s else s) s

/-- A history dump ends with INTERNAL. -/
def endDumps (s : State) : State :=
  if s.girth.dump.isSome then finish .history stInternal [] { s with girth := { s.girth with dump := none, dumpQ := [] } } else s

/-- Every memory fill ends, that of a slot with INTERNAL. -/
def endFill (s : State) : State :=
  if s.mem.fill.isSome then finish .fill stInternal [] (setMem (fun m => { m with fill := none, fillQ := [] }) s) else s

/-- A deferred MEM_READ in a slot ends with INTERNAL. -/
def endRead (k : Nat) (s : State) : State :=
  match s.brg.slots[k]? with
  | some (.running (.memRead _ _)) => slotDone k stInternal [] s
  | _ => s

/-- The commands that run on DRAM end with INTERNAL: it has lost its contents (R51). -/
def endDramWork (s : State) : State :=
  let s1 := (List.range 16).foldl (fun s k => endRead k s) (endFill (endDumps (endCaptures s)))
  { (List.range 16).foldl (fun s n => finishAll (.dmaAbort n) stInternal [] s) s1 with base := [] }

/-- The stream port and its buffers are reset (R51); training ends with INTERNAL, and so does a
STREAM_TRAIN that waits for its frame. -/
def endStream (s : State) : State :=
  setStrm (fun t => { t with
    fifo := [], elastic := [], marks := [], overflow := false, shedding := false, markFull := false, highUp := false
    drops := Drops.none })
    (streamReset (if s.strm.state = .training || s.strm.trainWait then finish .stream stInternal [mk [(0, 9, trainWord s.strm)]] s else s))

/-- Level 1 begins: acquisition stops with cause 8, the stream goes down, Lace and the memory lose what they hold. -/
def beginLevel1 (s : State) : State :=
  let s1 := planes (fun s => endDramWork (endStream (bothSides (fun d s => endAcq d 8 s) s))) s
  setMem (fun m => { m with usable := false, driven := false }) (dramLost (emptyRing { s1 with dma := Dma.init }))

/-- Level 0 ends on a side: acquisition starts again as by ACQ_START, the restart being the boundary (R52, R53). -/
def restartAcq (d : Side) (s : State) : State :=
  if !acquiring s d then s
  else if (s.girth.side d).stopping then endAcq d 0 s
  else
    let s1 := boundary d (closeAll d 5 s)
    let c := cfgOf s1 d
    let s2 := setCur d (fun u => u.start c s1.tb.mono) (freshEnvelopes d c (freshZones d (discardSide d (restartSide d c s1))))
    startScan d (setTherm d (fun t => { t with running := false, transfer := false }) s2)

/-- LEVEL. -/
def resetLevel (p : List Word) : Nat := fld (wd p 0) 7 0

/-- A level 0 stops a side: no launch and no Raman shot until the restart. -/
def haltSide (d : Side) (s : State) : State :=
  setTherm d (fun t => { t with running := false })
    (setLash d (fun l => { l.halt d with seq := .halted }) (darkRoute d (endSettle d false false s)))

/-- A level 0 stops both sides at once; a level 1 begins. -/
def beginSoft (p : List Word) (s : State) : State :=
  let s1 := setPwr (fun x => { x with soft := some (resetLevel p) }) s
  if resetLevel p = 0 then
    bothSides (fun d s => if acquiring s d then haltSide d s else s) s1
  else beginLevel1 s1

/-- RESET. -/
def hReset : Handler :=
  { Handler.plain 0x03 1 (Handler.ok fun p s => schedule (resetLevel p) s) with
    recov := true
    value := fun _ p => if within 0xFF (wd p 0) && resetLevel p ≤ 3 then none else some 0
    bad := fun s _ p => s.pwr.soft.isSome || (inRecovery s && resetLevel p ≤ 1)
    defers := fun _ p => if resetLevel p ≤ 1 then some .reset else none
    start := fun _ p s => beginSoft p s }

/-- Word 0 with its LEVEL given. -/
def withLevel (n : Nat) (w : Word) : Word := (w &&& ~~~ (0xFF : Word)) ||| BitVec.ofNat 64 n

/-- RESET of level 0. -/
def execResetLevel0 (o : Origin) (w : Word) (s : State) : Out := .next (request hReset o [withLevel 0 w] s)
/-- RESET of level 1. -/
def execResetLevel1 (o : Origin) (w : Word) (s : State) : Out := .next (request hReset o [withLevel 1 w] s)
/-- RESET of level 2. -/
def execResetLevel2 (o : Origin) (w : Word) (s : State) : Out := .next (request hReset o [withLevel 2 w] s)
/-- RESET of level 3. -/
def execResetLevel3 (o : Origin) (w : Word) (s : State) : Out := .next (request hReset o [withLevel 3 w] s)

/-- RESET_SOFT_DONE: the restart of level 0, or the end of level 1 with what the training found. -/
def execResetSoftDone (trainFail : Option (Nat × Nat)) (s : State) : Out :=
  let s1 := setPwr (fun p => { p with soft := none }) s
  .next (match s.pwr.soft with
    | none => s
    | some 0 => planes (fun s => finish .reset stOk [] (bothSides restartAcq s)) s1
    | some _ =>
      let s2 := initDram trainFail s1
      match trainFail with
      | none => finish .reset stOk [] s2
      | some f => finish .reset stInternal [] (post evDramTrainFail (trainDetail f) s2))

/-- A level 2 reset keeps the address, the harness links with their hop delays, and the PLL (R65, R68). A SYNC that waits for
its PFD edge is dropped with Bridle and the timing logic, and gives no event (DESIGN CHOICE, log 103). -/
def hardReset2 (s : State) : State :=
  let t := resetDomains s
  let h := { s.harn with upCrc := 0, downCrc := 0, timErr := 0, replyDrop := 0, measuring := false, own := none, clearDue := false, claim := none }
  let p := { s.pll with unlockCount := 0, syncHeld := 0, syncWait := [] }
  sampleStraps (.starting 3) (startUp (.starting 3) evResetCmd 2 { t with harn := h, pll := p })

/-- A level 3 reset drives PWR_EN low for 20 ms. -/
def hardReset3 (s : State) : State :=
  setPwr (fun p => { p with pwrEn := false }) (startUp .offTime evResetCmd 3 (loseAddress (resetDomains s)))

/-- RESET_START: a reset that was scheduled begins; a standby entry goes before it (R59). -/
def execResetStart (s : State) : Out :=
  .next (match s.pwr.hard with
    | none => s
    | some n =>
      if s.pwr.stand.isSome then setPwr (fun p => { p with hard := none }) s
      else if n = 3 then hardReset3 s else hardReset2 s)

/-- RESET_OFF_TIME_EXPIRY: PWR_EN rises; a VCORE that never fell makes the reset that of a RESET_N pulse (R54). -/
def execResetOffTimeExpiry (vcoreFell : Bool) (s : State) : Out :=
  .next (if s.pwr.dev != .offTime then s else
    setPwr (fun p => { p with
      dev := if vcoreFell then .railsWait else .starting 0, pwrEn := true, powerKept := !vcoreFell, vcore := !vcoreFell }) s)

/-! ### VAON, rails, RESET_N (R43 to R45, R54 to R56) -/

/-- VAON_POWER_ON: the island resets. -/
def execVaonPowerOn (s : State) : Out :=
  .next (if s.pwr.dev == .off || s.pwr.dev == .vaonRise then
    setPwr (fun p => { p with dev := .vaonRise, wake := 8, scratchLo := 0, scratchHi := 0, address := 0, pwrEn := false }) s
  else s)

/-- VAON_GOOD: PWR_EN goes high. -/
def execVaonGood (s : State) : Out :=
  .next (if s.pwr.dev == .vaonRise then setPwr (fun p => { p with pwrEn := true }) (startUp .railsWait evPor 0 s) else s)

/-- VAON_LOSS: the state is OFF. -/
def execVaonLoss (s : State) : Out :=
  .next (
    let t := loseAddress (resetDomains s)
    { t with pwr := { Power.init with
      dev := .off, psel := s.pwr.psel, testMode := s.pwr.testMode, laserEn := s.pwr.laserEn, resetLow := s.pwr.resetLow } })

/-- RAILS_GOOD: the power-on reset of step 1 runs; no clamp flag has been held without power, and the test access port comes
up in Test-Logic-Reset, its TDO at high impedance (R30; log 81). -/
def execRailsGood (s : State) : Out :=
  .next (if s.pwr.dev == .railsWait then
    setCan (fun c => { c with lifeAt := s.tb.mono, latched := 0 })
      (setPwr (fun p => { p with dev := .starting 0, vcore := true, tap := Jtag.init }) s)
  else s)

/-- POR_RELEASE: the end of step 1, unless RESET_N holds the domains. -/
def execPorRelease (s : State) : Out :=
  .next (if s.pwr.dev == .starting 0 && !s.pwr.resetLow then sampleStraps (.starting 1) s else s)

/-- The switched domains are powered. -/
def powered (d : DevState) : Bool :=
  match d with
  | .starting _ => true
  | .ready => true
  | .recovery => true
  | .prodTest => true
  | _ => false

/-- A wake source is recorded (R60). -/
def wakeSource (b : BitVec 3) (s : State) : State :=
  setPwr (fun p => { p with stand := p.stand.map fun x => { x with sources := x.sources ||| b } }) s

/-- The state in which the start-up after a RESET_N pulse goes on: the domains held in reset, or rails not yet up; a device
without VAON starts with its power-on. In the off-time of a RESET of level 3 the off-time goes on, and the start-up after it has
the cause of the pulse (DESIGN CHOICE, log 103). -/
def pinReset (d : DevState) : Option DevState :=
  match d with
  | .off => none
  | .vaonRise => none
  | .railsWait => some .railsWait
  | .offTime => some .offTime
  | _ => some (.starting 0)

/-- What a low RESET_N does: a wake source from STANDBY_ENTER until PWR_EN rises again, else a reset (R55, R60). -/
def resetPin (s : State) : State :=
  let s1 := setPwr (fun p => { p with resetLow := true }) s
  if s.pwr.stand.isSome then wakeSource 4 s1
  else match pinReset s.pwr.dev with
    | some d => startUp d evPor 1 (loseAddress (resetDomains s1))
    | none => s1

/-- RESET_N_LOW: below 100 ns nothing, from 1 µs a reset or a wake source, between them a reset or not (R55; log 20), and
no wake source (R60). -/
def execResetNLow (widthNs : Nat) (s : State) : Out :=
  let s1 := { s with drawn := s.drawn + 1 }
  .next (if widthNs < 100 then s
    else if 1000 ≤ widthNs then resetPin s
    else if s.pwr.stand.isNone && Config.freeBit 55 s.drawn then resetPin s1 else s1)

/-- RESET_N_RISE: the reset is released. -/
def execResetNRise (s : State) : Out :=
  let s1 := setPwr (fun p => { p with resetLow := false }) s
  .next (if s.pwr.resetLow && s.pwr.dev == .starting 0 then sampleStraps (.starting 1) s1 else s1)

/-- BROWNOUT of the rail of a monitor; a standby entry under way goes on (R56, R59). -/
def execBrownout (monitor : Nat) (s : State) : Out :=
  .next (if !powered s.pwr.dev then s else
    setPwr (fun p => { p with vcore := monitor ≠ 1 && monitor ≠ 2 })
      (startUp .railsWait evBrownout monitor (loseAddress (resetDomains s))))

/-! ### Standby (R58 to R60) -/

/-- Steps 1 and 2 of Table 03-6 without the clearing of WAKE_REASON; the abandoned commands give no EV_CMD_DONE (Table
06-3). That a second STANDBY_ENTER during the entry is accepted, takes its own WAKE_SECONDS and keeps the wake sources
already recorded is the model's choice (log 62). -/
def enterStandby (seconds : Nat) (s : State) : State :=
  setPwr (fun p => { p with stand := some { seconds := seconds, sources := match p.stand with | some x => x.sources | none => 0 } })
    (allDark 5 6 (abandon s))

/-- STANDBY_ENTER. -/
def hStandbyEnter : Handler :=
  { Handler.plain 0xA7 1 (Handler.ok fun p s =>
      enterStandby (wd p 0).toNat (setPwr (fun x => { x with wake := 0, tripWake := false }) s)) with
    value := fun _ p => maskFault [0xFFFFFFFF] p
    bad := fun s _ p => wd p 0 ≠ 0 && s.pwr.xtFault.isSome }
/-- STANDBY_ENTER. -/
def execStandbyEnter (o : Origin) (p : List Word) (s : State) : Out := .next (request hStandbyEnter o p s)

/-- Step 3: without Cantle its record is lost (R375), else Cantle's pending writes, the standby entry and the lifetime counters reach MRAM. Update chunks still in the
buffer of 64 are not taken as pending MRAM writes, and are lost with Cantle's SRAM (DESIGN CHOICE, log 62). -/
def finishMram (seconds : Nat) (s : State) : State :=
  if !s.can.running then loseLog 1 s else
  let s1 := logRecord 0x81 0 (now s) [mk [(0, 32, seconds)], s.pwr.scratchLo, s.pwr.scratchHi] s
  updateLife (drainLog s1.evq.logQ.length s1)

/-- STANDBY_POWER_DOWN: PWR_EN goes low; the address stays in the island. -/
def execStandbyPowerDown (s : State) : Out :=
  .next (match s.pwr.stand with
    | none => s
    | some x =>
      if s.pwr.dev == .standby then s else
      let t := resetDomains (finishMram x.seconds s)
      setCan (fun c => { c with lifeAt := s.tb.mono })
        (setPwr (fun p => { p with dev := .standby, pwrEn := false, vcore := false, stand := some x }) t))

/-- WAKE_PIN_EDGE: high for at least 10 µs. -/
def execWakePinEdge (highUs : Nat) (s : State) : Out := .next (if 10 ≤ highUs then wakeSource 1 s else s)

/-- WAKE_TIMER_EXPIRY; with a faulty oscillator there is no wake timer (R288). -/
def execWakeTimerExpiry (s : State) : Out :=
  .next (match s.pwr.stand with
    | some x => if s.pwr.dev == .standby && x.seconds ≠ 0 && s.pwr.xtFault.isNone then wakeSource 2 s else s
    | none => s)

/-- STANDBY_WAKE: the off-time has passed and a source is recorded. The sources enter WAKE_REASON as PWR_EN rises, and not when
they are recorded (DESIGN CHOICE, log 113). -/
def execStandbyWake (s : State) : Out :=
  .next (match s.pwr.stand with
    | some x =>
      if s.pwr.dev != .standby || x.sources = 0 then s else
      let w := s.pwr.wake ||| x.sources.setWidth 4
      let s1 := addHours 1 (s.tb.mono - s.can.lifeAt) s
      setPwr (fun p => { p with wake := w, stand := none, pwrEn := true }) (startUp .railsWait evStandbyExit w.toNat s1)
    | none => s)

/-! ### Start-up (Table 03-2, R46 to R49) -/

/-- An event of this start-up waits for READY. -/
def queueStart (event detail : Nat) (s : State) : State := setPwr (fun p => { p with startQ := p.startQ ++ [(event, detail)] }) s

/-- Everything that a function posts waits for READY (R47, Table 03-2 step 7). -/
def atReady (f : State → State) (s : State) : State :=
  let t := f { s with evq := Events.init }
  setPwr (fun p => { p with startQ := p.startQ ++ t.evq.q.map fun e => (e.event, e.detail.toNat) }) { t with evq := s.evq }

/-- The events that R47 orders up to EV_CAL_TIMEOUT. -/
def listed (event : Nat) : Bool :=
  [evPor, evBrownout, evStandbyExit, evResetCmd, evBootImageB, evDramTrainFail, evTackFallback, evDefaultsLoaded,
    evCalTimeout].contains event

/-- The events of a start-up as READY posts them: those of R47 in its order, then the others of calibration, data before
management (R17; log 8). -/
def startEvents (q : List (Nat × Nat)) : List (Nat × Nat) :=
  q.filter (listed ·.1) ++ [(evCalDone, 0), (evTimeUnset, 0)] ++
    inPlanes (·.1) (·.2) (q.filter fun e => !listed e.1)

/-- The code of the first check that a stored image fails: slot state, then Table 18-8; an image of which the model holds
no bytes is judged by the row. One with an uncorrectable word fails (R389), at a check that the row names or that is open. -/
def bootCheck (c : Cantle) (slot : SlotState) (i : Image) (found : Nat) : Nat :=
  if !(slot == .valid || slot == .trial) then 8
  else if i.bad then if found = 0 then 1 + Config.free 389 i.version.toNat % 7 else found
  else if i.bytes ≠ [] ∧ imageCheck c.revoked c.svnFloor i.bytes ≠ 0 then imageCheck c.revoked c.svnFloor i.bytes
  else found

/-- The BOOT record, written when Cantle begins to run: image, power kept, cause event, VERSION (R375, R382). -/
def logBoot (s : State) : State :=
  let cause := match s.pwr.startQ with | x :: _ => x.1 | [] => evPor
  logRecord 0x80 (b2n s.can.imageB + 2 * b2n s.pwr.powerKept + 256 * cause) (now s) [s.can.version.setWidth 64] s

/-- An image runs: step 4 begins. Clamp flags latched before it open a surge record (R384). -/
def bootImage (b : Bool) (s : State) : State :=
  openStale <| logBoot <| setPwr (fun p => { p with dev := .starting 4 }) (setCan (fun c => { c with
    running := true, imageB := b, version := if b then c.imageBi.version else c.imageA.version
    attempts := if !b && c.slotA == .trial then c.attempts + 1 else c.attempts }) s)

/-- CANTLE_BOOT_VERIFY_DONE: the first check each image fails, 0 for none. -/
def execCantleBootVerifyDone (checkA checkB : Nat) (s : State) : Out :=
  let c := s.can
  .next (if s.pwr.dev != .starting 3 then s
  else if c.slotA == .trial && decide (2 ≤ c.attempts) then rollback 3 s
  else
    let a := bootCheck c c.slotA c.imageA checkA
    if a = 0 then bootImage false s
    else if bootCheck c c.slotB c.imageBi checkB = 0 then bootImage true (queueStart evBootImageB a s)
    else setPwr (fun p => { p with dev := .recovery, startQ := [] }) s)

/-- A Tack set is valid (R111). -/
def tackValid (s : State) (n : Nat) : Bool :=
  let x := s.tacks.sets.getD n TackSet.empty
  x.state = 1 && (validate s x.cfg false).isNone

/-- A set is loaded and committed, its snapshot the starting values of step 6. -/
def loadSet (n : Nat) (s : State) : State :=
  let x := s.tacks.sets.getD n TackSet.empty
  loadSnapshot (some { set := n, withCal := true })
    { s with live := x.cfg, draft := x.cfg, tacks := { s.tacks with loaded := n, defaults := false, modified := false } }

/-- Step 5: the strapped set, Tack 0, or factory defaults. -/
def loadStrapped (s : State) : State :=
  let n := s.pwr.strap.toNat
  let s1 := { s with live := Cfg.factory, draft := Cfg.factory }
  if tackValid s1 n then atReady (loadSet n) s1 else
  let s2 := if n = 0 then s1 else queueStart evTackFallback n { s1 with tacks := { s1.tacks with fallback := true } }
  if n ≠ 0 && tackValid s2 0 then atReady (loadSet 0) s2
  else queueStart evDefaultsLoaded 0 { s2 with tacks := { s2.tacks with loaded := 0, defaults := true } }

/-- Step 6: every group but 8. -/
abbrev phaseOne : BitVec 17 := 0x1FEFF

/-- DRAM_TRAINING_DONE: steps 4 and 5 end, and calibration starts. A capacity outside Table 16-1 is none that the device
supports (R327). -/
def execDramTrainingDone (fail : Option (Nat × Nat)) (fittedGib : Nat) (s : State) : Out :=
  .next (if s.pwr.dev != .starting 4 then s else
    let s1 := initDram fail (setMem (fun m => { m with fitted := if [2, 4, 8, 16].contains fittedGib then fittedGib else m.fitted }) s)
    let s2 := match fail with
      | some f => queueStart evDramTrainFail (trainDetail f) s1
      | none => s1
    let s3 := loadStrapped s2
    setPwr (fun p => { p with dev := .starting 6 }) { s3 with cal := { s3.cal with phase := 1, running := phaseOne } })

/-! ### READY (R47) -/

/-- After a rollback, its event follows those of R47. -/
def tellRollback (s : State) : State :=
  match s.can.rollback with
  | some k => post evUpdateRolledBack k (setCan (fun c => { c with rollback := none }) s)
  | none => s

/-- A start-up caused by a brownout opens a surge record (R384); one that a detection of steps 4 to 6 has opened takes it
in (log 48). -/
def brownoutSurge (cause : Nat) (s : State) : State :=
  if cause = evBrownout then
    match s.can.surge with
    | some r => setCan (fun c => { c with surge := some { r.detect s.tb.mono domSupply 1 with brownout := true } }) (lifeUp 7 s)
    | none => openSurge { (newSurge s).detect s.tb.mono domSupply 1 with brownout := true } (lifeUp 7 s)
  else s

/-- The device is READY. -/
def becomeReady (s : State) : State :=
  let cause := match s.pwr.startQ with | x :: _ => x.1 | [] => evPor
  let s1 := setPwr (fun p => { p with dev := .ready, startQ := [] }) { s with cal := { s.cal with phase := 0, running := 0 } }
  let s2 := tellRollback ((startEvents s.pwr.startQ).foldl (fun s e => post e.1 e.2 s) s1)
  let s3 := lifeUp 6 (setPwr (fun p => { p with powerKept := false }) s2)
  let s4 := if s3.can.slotA == .trial && !s3.can.imageB then setCan (fun c => { c with trialAt := some s3.tb.mono }) s3 else s3
  auxStart (brownoutSurge cause s4)

/-- A DAC group's step leaves its fault as R142 says. -/
def startDacFault (g : Nat) (bad : Bool) (s : State) : State :=
  if g = 11 || g = 12 then setLash (if g = 11 then .a else .b) (fun l => { l with dacFault := bad }) s else s

/-- The phase has ended: group 8 follows the others, READY follows group 8. -/
def phaseEnd (s : State) : State :=
  if s.cal.running ≠ 0 then s
  else if s.cal.phase = 1 then { s with cal := { s.cal with phase := 2, running := 0x100 } }
  else becomeReady s

/-- A group of step 6 has ended. -/
def leaveStart (g : Nat) (s : State) : State :=
  { s with cal := { s.cal with running := s.cal.running &&& ~~~ groupMask [g] } }

/-- Steps of step 6 end with their results. -/
def startSteps (results : List StepResult) (s : State) : State :=
  let rs := results.filter fun r => r.group < 17 && s.cal.running.getLsbD r.group
  phaseEnd (rs.foldl (fun s r =>
    let s1 := atReady (takeResult r) s
    leaveStart r.group (startDacFault r.group (!passes s1 r.group) s1)) s)

/-- CAL_STEP_DONE. -/
def execCalStepDone (results : List StepResult) (s : State) : Out :=
  .next (if s.cal.phase = 0 then operationStep results s else startSteps results s)

/-- CAL_STEP_TIMEOUT. -/
def execCalStepTimeout (group : Nat) (s : State) : Out :=
  .next (if s.cal.phase = 0 then operationTimeout group s
  else if !s.cal.running.getLsbD group then s
  else phaseEnd ((pairOf group).foldl (fun s g =>
      startDacFault g true (leaveStart g (atReady (keepValues g) s))) s))

end Sys2Proof.Machine
end

