-- ==== Sys2Proof/Machine/Cantle.lean ====
section
/-!
DEFINITION. Cantle (chapter 18): its monitors, the over-temperature trip, the health digest, its watchdogs and restart,
Bridle's watchdog, the MRAM scrub and the 32.768 kHz check.
-/
namespace Sys2Proof.Machine

/-! ### Settings of MGT.MON_CFG -/

def monWarn (s : State) : Int := sfld (nvGet s 0x9001) 15 0
def monTrip (s : State) : Int := sfld (nvGet s 0x9001) 31 16
def tripWake (s : State) : Nat := fld (nvGet s 0x9001) 47 32
def driftLim (s : State) : Nat := fld (nvGet s 0x9001) 55 48
def tempStep (s : State) : Nat := fld (nvGet s 0x9001) 61 56

/-! ### The over-temperature trip (R380) -/

/-- Standby is entered for a temperature: steps 2 to 5 of Table 03-6, WAKE_REASON kept. -/
def tripStandby (s : State) : State := enterStandby (tripWake s) (setPwr (fun p => { p with tripWake := true }) s)

/-- OVERTEMP_TRIP of a sensor. -/
def execOvertempTrip (sensor : Nat) (s : State) : Out :=
  .next (if !powered s.pwr.dev then s else
    planes (fun s =>
      let s1 := lifeUp 23 (post evOvertempTrip sensor s)
      if s.pwr.stand.isSome then s1 else tripStandby s1) s)

/-- The first samples after the wake from a trip: a sensor still hot sends the device back to standby. -/
def afterTrip (s : State) : State :=
  if !s.pwr.tripWake || s.pwr.stand.isSome then s
  else if monTrip s - 100 < hottest s then tripStandby s
  else setPwr (fun p => { p with tripWake := false }) s

/-! ### Samples (R57, R379) -/

/-- EV_TEMP_MON, against the last one reported in °C; the rounding is not stated (log 46). -/
def judgeStep (s : State) : State :=
  let h := hottest s
  if tempStep s = 0 || (h - s.can.tempTold).natAbs < 10 * tempStep s then s else
  let deg := Config.quot 379 h 10
  let n := (s.can.temps.findIdx? (· = h)).getD 0
  post evTempMon (n + 256 * sbits 8 deg) (setCan (fun c => { c with tempTold := 10 * deg }) s)

/-- EV_OVERTEMP_WARN and its return; the lowest of sensors that warn together (log 46). -/
def judgeWarn (s : State) : State :=
  let runs := (List.range 12).map fun i => if monWarn s < s.can.temps.getD i 0 then min 3 (s.can.warnRun.getD i 0 + 1) else 0
  let cool := if s.can.temps.all (· ≤ monWarn s - 50) then min 3 (s.can.coolRun + 1) else 0
  let s1 := setCan (fun c => { c with warnRun := runs, coolRun := cool }) s
  match s.can.warnUp, runs.findIdx? (· = 3) with
  | none, some n => post evOvertempWarn n (setCan (fun c => { c with warnUp := some n }) s1)
  | some n, _ => if cool = 3 then post evOvertempWarn (n + 0x8000) (setCan (fun c => { c with warnUp := none }) s1) else s1
  | none, none => s1

/-- Word 5 of the lifetime counters: the highest temperature ever, and the seconds of it. -/
def keepHighest (s : State) : State :=
  let h := hottest s
  if h ≤ (BitVec.ofNat 16 (s.can.life.getD 5 0)).toInt then s else
  setCan (fun c => { c with life := c.life.set 5 (sbits 16 h + 2 ^ 32 * (fld (now s) 63 30 % 2 ^ 32)) }) s

/-- The temperatures are judged. -/
def judgeTemps (s : State) : State :=
  let h := hottest s
  judgeWarn (judgeStep (keepHighest (setCan (fun c => { c with
    hot := some (max h (c.hot.getD h))
    acc := { c.acc with tjMax := max h c.acc.tjMax, tjSum := c.acc.tjSum + h, samples := c.acc.samples + 1 } }) s)))

/-- The event of a rail, or of an internal regulator. -/
def railEvent (i : Nat) (high : Bool) (s : State) : State :=
  if i ≤ 12 then post (if high then evRailHigh else evRailLow) i s else post evVoltMon (i + 256 * b2n high) s

/-- The monitors of each rail (Table 03-1), and the three internal ones. -/
def railMonitors : List (List Nat) :=
  [[0], [1, 2], [3], [4, 5], [6, 7], [8], [9], [10], [11], [12], [13], [14], [15]]

/-- The three-sample rule of R57 for a rail, whose counts stand at its first monitor. That a rail with two monitors is outside
where either is, and that the event names the lowest of those outside then, is the model's choice (DESIGN CHOICE, log 92). -/
def judgeRail (ms : List Nat) (s : State) : State :=
  let i := ms.headD 0
  let below := ms.filter fun m => s.can.volts.getD m 0 < (voltRange m).1
  let above := ms.filter fun m => (voltRange m).2 < s.can.volts.getD m 0
  let run := fun (c : Bool) (l : List Nat) => if c then min 3 (l.getD i 0 + 1) else 0
  let nl := run (!below.isEmpty) s.can.outLow
  let nh := run (!above.isEmpty) s.can.outHigh
  let ni := run (below.isEmpty && above.isEmpty) s.can.inside
  let tellLow := nl = 3 && !s.can.lowUp.getLsbD i
  let tellHigh := nh = 3 && !s.can.highUp.getLsbD i
  let one := (1 : BitVec 16) <<< i
  let ups := fun (tell : Bool) (w : BitVec 16) => if ni = 3 then w &&& ~~~ one else if tell then w ||| one else w
  let s1 := setCan (fun c => { c with
    outLow := c.outLow.set i nl, outHigh := c.outHigh.set i nh, inside := c.inside.set i ni
    lowUp := ups tellLow c.lowUp, highUp := ups tellHigh c.highUp
    acc := { c.acc with rails := (below ++ above).foldl (fun w m => w ||| ((1 : BitVec 16) <<< m)) c.acc.rails } }) s
  let s2 := if tellLow then railEvent (below.headD i) false s1 else s1
  if tellHigh then railEvent (above.headD i) true s2 else s2

/-- MONITOR_SAMPLE: T0 to T11 in 0.1 °C and monitors 0 to 15 in mV. -/
def execMonitorSample (temps : List Int) (volts : List Nat) (s : State) : Out :=
  .next (if !s.can.running || temps.length ≠ 12 || volts.length ≠ 16 then s else
    planes (fun s => afterTrip (railMonitors.foldl (fun s ms => judgeRail ms s) (judgeTemps s)))
      (setCan (fun c => { c with temps := temps, volts := volts }) s))

/-- PROCESS_MONITOR_SAMPLE: drifts in 0.1 %. -/
def execProcessMonitorSample (drifts : List Int) (s : State) : Out :=
  .next (if !s.can.running || drifts.length ≠ 8 then s else
    (List.range 8).foldl (fun s i =>
      if driftLim s ≠ 0 && decide (driftLim s < (drifts.getD i 0).natAbs) && !s.can.procUp.getLsbD i then
        post evProcMonDrift i (setCan (fun c => { c with procUp := c.procUp ||| ((1 : BitVec 8) <<< i) }) s)
      else s) (setCan (fun c => { c with procs := drifts }) s))

/-! ### The health digest (Table 18-2, R381) -/

/-- LIFE_USED in 0.01 % of 435,000 equivalent hours. -/
def lifeUsed (s : State) : Nat := sat 16 (Config.quot 388 (Int.ofNat s.can.equiv) 43500000000).toNat

/-- Lanes that satisfy a condition, a bit each. -/
def laneMap (s : State) (f : Lane → Bool) : Nat := ((List.range 8).map fun n => b2n (f (lane s n)) * 2 ^ n).sum

/-- The words of the digest. -/
def digestWords (s : State) : List Word :=
  let a := s.can.acc
  let top := if a.samples = 0 then hottest s else a.tjMax
  let mean := if a.samples = 0 then hottest s else Config.quot 381 a.tjSum a.samples
  [now s,
   mk [(0, 16, sbits 16 top), (16, 16, sbits 16 mean), (32, 16, sbits 16 (s.can.procs.foldl max (-32768))), (48, 16, lifeUsed s)],
   mk [(0, 16, a.rails.toNat), (16, 8, a.surges), (24, 8, a.failed), (32, 16, sat 16 a.mram),
     (48, 7, (Config.quot 382 (Int.ofNat (100 * s.can.log.length)) logSize).toNat), (55, 1, b2n s.can.imageB)],
   s.can.version.setWidth 64,
   mk [(0, 8, laneMap s fun l => l.spares.length < 2), (8, 8, laneMap s fun l => l.degraded != 0), (16, 7, liveTiles s)],
   mk [(0, 32, a.dram)]]

/-- HEALTH_DIGEST_FORM. -/
def execHealthDigestForm (s : State) : Out :=
  .next (if s.can.running then setCan (fun c => { c with digest := digestWords s, acc := DigestAcc.init }) s else s)

/-- HEALTH_DIGEST_EVENT_TIMER: every EVENT_MIN minutes. -/
def execHealthDigestEventTimer (s : State) : Out :=
  .next (postIf (s.can.running && fld (nvGet s 0x9002) 15 0 ≠ 0) evHealthDigest 0 s)

/-- 16-bit values, four a word. -/
def quads (l : List Nat) : List Word :=
  (List.range (cdiv l.length 4)).map fun k => mk ((List.range 4).map fun j => (16 * j, 16, l.getD (4 * k + j) 0))

/-- HEALTH_READ. -/
def hHealthRead : Handler :=
  { Handler.plain 0xA0 1 (fun _ p s =>
      (okReply (match fld (wd p 0) 1 0 with
        | 0 => s.can.digest
        | 1 => quads (s.can.temps.map (sbits 16))
        | 2 => quads s.can.volts
        | _ => quads (s.can.procs.map (sbits 16))), s)) with
    value := fun _ p => maskFault [3] p }
/-- HEALTH_READ. -/
def execHealthRead (o : Origin) (p : List Word) (s : State) : Out := .next (request hHealthRead o p s)

/-! ### Watchdogs (R375 to R378, R438) -/

/-- Records that the stop keeps from being written. -/
def lostRecords (s : State) : Nat :=
  let c := s.can
  b2n c.surge.isSome + b2n c.due.isSome + b2n c.test.isSome + b2n c.queued.isSome +
    s.evq.logQ.countP fun x => x.code = 0x81 || x.code = 0x82 || x.code = 0x83

/-- Cantle's SRAM is lost: runs of samples, what has been told, the digest under way, records and tests. -/
def Cantle.halt (c : Cantle) (cause : Nat) : Cantle :=
  let i := Cantle.init
  { c with
    running := false, restart := some cause, outLow := i.outLow, outHigh := i.outHigh, inside := i.inside, lowUp := 0, highUp := 0
    warnRun := i.warnRun, coolRun := 0, warnUp := none, tempTold := 0, hot := none, procUp := 0, acc := i.acc, clear := []
    surge := none, due := none, test := none, queued := none, buffer := [], works := []
    trialAt := c.trialAt }

/-- Deferred commands that need Cantle complete with INTERNAL (R375); a frozen snapshot is still applied at its boundaries
(R16). -/
def endCantleWork (s : State) : State :=
  let s1 := match s.brg.gate with
    | .validating (some _) => finish .draft stInternal [] { s with brg := { s.brg with gate := .idle } }
    | .frozen (some _) _ _ _ _ => finish .draft stInternal [] s
    | _ => s
  let s2 := finish .update stInternal [] (finish .log stInternal [] (finish .tack stInternal [] (dropTackOp s1)))
  s2.cal.runs.foldl (fun s r => finish (.cal r.mask) stInternal [] s) (dropRuns s2)

/-- Cantle alone is reset; its hold requests drop at this moment. -/
def stopCantle (cause : Nat) (s : State) : State :=
  let s1 := loseLog (lostRecords s) (if s.can.test.isSome then endHolds s else { s with cal := { s.cal with cantle := 0 } })
  let s2 := { s1 with evq := { s1.evq with logQ := s1.evq.logQ.filter fun x => !(x.code = 0x81 || x.code = 0x82 || x.code = 0x83) } }
  endCantleWork (setCan (fun c => c.halt cause) s2)

/-- CANTLE_WATCHDOG_EXPIRY. -/
def execCantleWatchdogExpiry (s : State) : Out := .next (if s.can.running then planes (stopCantle 0) s else s)

/-- MRAM_WRITE_TIMEOUT: the word keeps its old value, its disturbed bits are corrected. -/
def execMramWriteTimeout (s : State) : Out := .next (if s.can.running then planes (stopCantle 1) s else s)

/-- CANTLE_RESTART_DONE: the image that was running runs again; a trial image is rolled back. -/
def execCantleRestartDone (s : State) : Out :=
  .next (match s.can.restart with
    | none => s
    | some k =>
      let s1 := setCan (fun c => { c with running := true, restart := none }) s
      let s2 := logRecord 0x85 0 (now s) [0] (lifeUp 8 (post evWdtCantle k s1))
      let s3 := openStale s2
      if onTrial s3 then rollback 2 s3 else s3)

/-- BRIDLE_HANG_CHECK: a hung Bridle is reset as by steps 1 to 3 of R91. -/
def execBridleHangCheck (hung : Bool) (s : State) : Out :=
  .next (if s.can.running && hung then
    planes (fun s => logRecord 0x85 1 (now s) [0] (lifeUp 9 (post evWdtBridle 0 (resetBridle s)))) s else s)

/-! ### MRAM scrub (R389) -/

/-- What an uncorrectable word does in its region: an image fails its check, which the next start-up and the next self-test
find; a Tack set's CRC fails, a log entry reads BAD, a copy of the lifetime counters is skipped. -/
def scrubBad (region i : Nat) (s : State) : State :=
  match region with
  | 0 => setImage false { s.can.imageA with bad := true } s
  | 1 => setImage true { s.can.imageBi with bad := true } s
  | 2 => setTack i TackSet.spoil s
  | 3 => setCan (fun c => { c with log := upd c.log i fun _ => { word0 := 0, word1 := 0x400 } }) s
  | 4 =>
    if i = 0 then match s.can.lifeOld with
      | x :: r => setCan (fun c => { c with life := x, lifeOld := r }) s
      | [] => s
    else setCan (fun c => { c with lifeOld := c.lifeOld.eraseIdx (i - 1) }) s
  | _ => s

/-- MRAM_SCRUB of a region: words corrected, one uncorrectable, and whether a page has passed its wear limit. -/
def execMramScrub (region corrected : Nat) (bad : Option Nat) (worn : Bool) (s : State) : Out :=
  .next (if !s.can.running then s else
    let give := corrected ≠ 0 && rested (s.can.mramAt.getD region none) s.tb.mono hourCycles
    let s1 := setCan (fun c => { c with
      life := upd c.life 21 fun x => sat 64 (x + corrected), acc := { c.acc with mram := sat 16 (c.acc.mram + corrected) }
      mramAt := if give then c.mramAt.set region (some s.tb.mono) else c.mramAt }) s
    let s2 := postIf give evMramCorr region s1
    let s3 := match bad with | some i => scrubBad region i s2 | none => s2
    postIf worn evMramWear region s3)

/-! ### The 32.768 kHz oscillator (R288) -/

/-- XTAL_FAULT_CHECK: stopped, or outside ±500 ppm. -/
def execXtalFaultCheck (stopped outside : Bool) (s : State) : Out :=
  let new : Option Bool := if stopped then some false else if outside then some true else none
  .next (if !s.can.running || new = s.pwr.xtFault then s else
    let s1 := setPwr (fun p => { p with xtFault := new }) s
    match new, s.pwr.xtFault with
    | some k, _ => post evXtalFault (b2n k) s1
    | none, some k => post evXtalFault (0x8000 + b2n k) s1
    | none, none => s1)

end Sys2Proof.Machine
end

