-- ==== Sys2Proof/Machine/Params.lean ====
section
/-!
DEFINITION. PARAM_SET and STREAM_CFG (R67, R68, R104 to R106, R325, R334): the checks over the pairs of a request, the
one instant at which every value enters, and the writes that have rows of their own.
-/
namespace Sys2Proof.Machine

/-! ### The pairs of a request (R105) -/

/-- The (ID word, value word) pairs of a payload. -/
def pairs : List Word → List (Word × Word)
  | i :: v :: r => (i, v) :: pairs r
  | _ => []

/-- The ID of a pair. -/
def pairId (x : Word × Word) : Nat := fld x.1 15 0

/-- The value that an ID has after the request: its own value word, or what it holds. -/
def after (l : List (Word × Word)) (id : Nat) (old : Word) : Word :=
  match l.find? fun x => pairId x = id with
  | some x => x.2
  | none => old

/-- A parameter that a write may name. -/
def assignable (id : Nat) : Bool := match pRow id with | some r => r.acc ≠ .ro | none => false

/-- A value that a write may carry. -/
def valueOk (s : State) (id : Nat) (v : Word) : Bool := if id = 0x0021 then pllOk s v else pOk id v

/-- The lowest word at fault: an ID word with a reserved bit or DRAFT set, of no writable parameter, or repeated; a
deferred write in company; or a value word. -/
def pairFault (s : State) (l : List (Word × Word)) : Option Nat :=
  (List.range l.length).findSome? fun i =>
    let x := l.getD i (0, 0)
    if !within 0xFFFF x.1 || !assignable (pairId x) || ((l.take i).any fun y => pairId y = pairId x) ||
      (pairId x = 0x0021 && pllMoves s x.2 && l.length ≠ 1) then some (2 * i)
    else if valueOk s (pairId x) x.2 then none else some (2 * i + 1)

/-- The access of an ID. -/
def accessOf (id : Nat) : PAccess := match pRow id with | some r => r.acc | none => .ro

/-- STREAM.CFG's states (R325): RATE changes only while DOWN, ELASTIC only with ENABLE 0 before the write. -/
def streamBusy (s : State) (v : Word) : Bool :=
  let old := rwGet s 0x7000
  (fld v 1 0 ≠ fld old 1 0 && s.strm.state != .down) || (fld v 14 8 ≠ fld old 14 8 && streamOn s)

/-- One pair meets a state that forbids it. -/
def pairBusy (s : State) (x : Word × Word) : Bool :=
  (accessOf (pairId x) == .rws && draftLocked s) ||
  (pairId x = 0x0021 && pllBusy s x.2) || (pairId x = 0x7000 && streamBusy s x.2) || (pairId x = 0x7102 && planBusy s)

/-- The live stream rates exceed 95 % of a lane rate's budget (R214, R325). -/
def rateConflict (s : State) (v : Word) : Bool :=
  decide ((budgetMbps (fld v 1 0) * 1000000 : Rat) <
    acSide (cfgOf s .a) .a + acSide (cfgOf s .b) .b + (thRate (cfgOf s .a) .a + thRate (cfgOf s .b) .b))

/-- The combination that CONFLICT refuses: a RATE below the live rate, or sizes beyond the capacity (R325, R334). -/
def pairsConflict (s : State) (l : List (Word × Word)) : Bool :=
  let cfg := after l 0x7000 (rwGet s 0x7000)
  let plan := after l 0x7102 (rwGet s 0x7102)
  let has := fun n => l.any fun x => pairId x = n
  (has 0x7000 && rateConflict s cfg) ||
  ((has 0x7000 || has 0x7102) && planOver s (fld cfg 14 8) (fld plan 7 0) (fld plan 15 8))

/-! ### The values enter -/

/-- STREAM.CFG takes a value; a change of ELASTIC empties the region it moves. -/
def writeStreamCfg (v : Word) (s : State) : State :=
  let n := putRw 0x7000 v s
  if fld v 14 8 = fld (rwGet s 0x7000) 14 8 then n else elasticMove s n

/-- A volatile live parameter takes a value. -/
def writeRw (id : Nat) (v : Word) (s : State) : State :=
  match pBase id with
  | 0x4021 => clampOutputs (idSide id) (putRw id v s)
  | 0x5040 => writeCheck v s
  | 0x6000 => tbWritten (putRw id v s)
  | 0x6001 => tbWritten (putRw id v s)
  | 0x7000 => writeStreamCfg v s
  | 0x8001 => judgeAll (putRw id v s)
  | 0x7102 => planWrite v s
  | _ => putRw id v s

/-- A parameter with a home of its own takes a value: the scratch registers, or ICP in CLK.PLL_CFG. -/
def writeOwn (id : Nat) (v : Word) (s : State) : State :=
  if id = 0x0011 then { s with pwr := { s.pwr with scratchLo := v } }
  else if id = 0x0012 then { s with pwr := { s.pwr with scratchHi := v } }
  else setPll (fun p => { p with cfg := v }) s

/-- One value enters: RWS the draft copy, any other the live hardware (R105). -/
def writeParam (id : Nat) (v : Word) (s : State) : State :=
  match accessOf id with
  | .ro => s
  | .rw => writeRw id v s
  | .nv => { s with nv := kvSet (pReset id) s.nv id v }
  | .own => writeOwn id v s
  | .wo => auxKick v s
  | .rws => setDraft (putParam id v) s

/-- Every pair enters, at one instant. -/
def enterPairs (l : List (Word × Word)) (s : State) : State := l.foldl (fun s x => writeParam (pairId x) x.2 s) s

/-- The pairs enter; what they post goes in the order of the planes (R17). -/
def writePairs (l : List (Word × Word)) (s : State) : State := planes (enterPairs l) s

/-- The write of CLK.PLL_CFG that is deferred (R68). -/
def movesPll (s : State) (p : List Word) : Bool :=
  match pairs p with
  | [x] => pairId x = 0x0021 && pllMoves s x.2
  | _ => false

/-- What a request of pairs does when no check refuses it. -/
def runPairs (l : List (Word × Word)) (s : State) : Reply × State :=
  if pairsConflict s l then (reply stConflict 0 [], s) else (okReply [], writePairs l s)

/-- PARAM_SET. -/
def hParamSet : Handler :=
  { Handler.plain 0x05 0 (fun _ p s => runPairs (pairs p) s) with
    lenOk := fun p => p.length % 2 = 0 && p.length ≤ 32
    value := fun s p => pairFault s (pairs p)
    bad := fun s _ p => (pairs p).any (pairBusy s)
    defers := fun s p => if movesPll s p then some .pll else none
    start := fun _ p s => startChange (wd p 1) s }
/-- PARAM_SET. -/
def execParamSet (o : Origin) (p : List Word) (s : State) : Out := .next (request hParamSet o p s)

/-- STREAM_CFG: a PARAM_SET of STREAM.CFG whose value is word 0, with mark M (R325, Table 20-1). -/
def hStreamCfg : Handler :=
  { Handler.plain 0x70 1 (fun _ p s => runPairs [(0x7000, wd p 0)] s) with
    dram := fun _ => true
    value := fun _ p => if pOk 0x7000 (wd p 0) then none else some 0
    bad := fun s _ p => streamBusy s (wd p 0) }
/-- STREAM_CFG. -/
def execStreamCfg (o : Origin) (p : List Word) (s : State) : Out := .next (request hStreamCfg o p s)

/-! ### Writes with rows of their own -/

/-- SYS.TACK_PROTECT (R113). -/
def execTackProtectWrite (o : Origin) (v : Word) (s : State) : Out := .next (request hParamSet o [0x0031, v] s)
/-- Both words of EVT.MASK (R398). -/
def execEvtMaskWrite (o : Origin) (lo hi : Word) (s : State) : Out :=
  .next (request hParamSet o [0x0050, lo, 0x0051, hi] s)
/-- MGT.UART_CFG (R114). -/
def execUartCfgWrite (o : Origin) (v : Word) (s : State) : Out := .next (request hParamSet o [0x9000, v] s)
/-- MEM.INIT (R329). -/
def execMemInitWrite (o : Origin) (v : Word) (s : State) : Out := .next (request hParamSet o [0x7100, v] s)
/-- MEM.PLAN (R334). -/
def execMemPlanWrite (o : Origin) (v : Word) (s : State) : Out := .next (request hParamSet o [0x7102, v] s)
/-- ADC.CHECK (R158). -/
def execAdcCheckWrite (o : Origin) (v : Word) (s : State) : Out := .next (request hParamSet o [0x5040, v] s)
/-- AUX.SEQ_KICK (R295). -/
def execAuxSeqKick (o : Origin) (v : Word) (s : State) : Out := .next (request hParamSet o [0x5801, v] s)
/-- CLK.PLL_CFG with only ICP changed (R67). -/
def execPllCfgIcpWrite (o : Origin) (icp : BitVec 6) (s : State) : Out :=
  .next (request hParamSet o [0x0021,
    mk [(0, 10, pllN s.pll.cfg), (10, 2, pllMult s.pll.cfg), (12, 6, icp.toNat)]] s)
/-- CLK.PLL_CFG with N or REF_MULT changed (R68). -/
def execPllDividerChange (o : Origin) (v : Word) (s : State) : Out := .next (request hParamSet o [0x0021, v] s)

end Sys2Proof.Machine
end

