-- ==== Sys2Proof/Machine/Request.lean ====
section
/-!
DEFINITION. Requests as whole packets: the opcodes of Table 20-1, retries (R98, R99), replies with their headers (R93),
and the management UART's framing (R114, R115).
-/
namespace Sys2Proof.Machine

/-! ### The opcodes (Table 20-1) -/

/-- The handlers of opcodes 0x00 to 0x3F. -/
def handlerLow (op : Nat) : Option Handler :=
  match op with
  | 0x00 => some hNop
  | 0x01 => some hIdentify
  | 0x02 => some hStatus
  | 0x03 => some hReset
  | 0x04 => some hParamGet
  | 0x05 => some hParamSet
  | 0x06 => some hCommit
  | 0x07 => some hDiscard
  | 0x08 => some hEventRead
  | 0x09 => some hEventAck
  | 0x0A => some hResult
  | 0x10 => some hTackLoad
  | 0x11 => some hTackSave
  | 0x12 => some hTackInfo
  | 0x13 => some hTackErase
  | 0x18 => some hChainEnumerate
  | 0x19 => some hChainAddrSet
  | 0x1A => some hChainDelayMeasure
  | 0x1B => some hChainLoopback
  | 0x20 => some hRouteSet
  | 0x21 => some hRouteGet
  | 0x22 => some hScanSet
  | 0x23 => some hScanGet
  | 0x24 => some hZoneSet
  | 0x25 => some hZoneGet
  | 0x26 => some hZoneClear
  | 0x27 => some hBaselineCapture
  | 0x30 => some hAcqStart
  | 0x31 => some hAcqStop
  | 0x32 => some hArm
  | 0x33 => some hDisarm
  | 0x34 => some hForce
  | 0x35 => some hTrigSet
  | 0x36 => some hTrigGet
  | 0x37 => some hHistoryDump
  | _ => none

/-- The handlers of opcodes from 0x40. -/
def handlerHigh (op : Nat) : Option Handler :=
  match op with
  | 0x40 => some hSlotSet
  | 0x41 => some hSlotGet
  | 0x42 => some hCurveLoad
  | 0x43 => some hEmitEnable
  | 0x44 => some hLockSet
  | 0x45 => some hEmitDiag
  | 0x50 => some hAuxXptSet
  | 0x51 => some hAuxSeqLoad
  | 0x52 => some hAuxRead
  | 0x53 => some hAuxLimitSet
  | 0x54 => some hAdcCheckSet
  | 0x55 => some hDtsRefSet
  | 0x60 => some hTimeSet
  | 0x61 => some hTimeGet
  | 0x62 => some hTbSelect
  | 0x63 => some hTdcCfg
  | 0x64 => some hTdcRead
  | 0x70 => some hStreamCfg
  | 0x71 => some hStreamTrain
  | 0x72 => some hDmaKick
  | 0x73 => some hDmaAbort
  | 0x74 => some hDmaStatus
  | 0x80 => some hMemRead
  | 0x81 => some hMemWrite
  | 0x82 => some hMemFill
  | 0x90 => some hCalRun
  | 0x91 => some hCalRead
  | 0x92 => some hCalWrite
  | 0x93 => some hCalQuality
  | 0xA0 => some hHealthRead
  | 0xA1 => some hLogRead
  | 0xA2 => some hLogClear
  | 0xA3 => some hUpdateBegin
  | 0xA4 => some hUpdateChunk
  | 0xA5 => some hUpdateEnd
  | 0xA6 => some hUpdateActivate
  | 0xA7 => some hStandbyEnter
  | 0xA8 => some hLifetimeRead
  | _ => none

/-- The handler of an opcode; none: unassigned. -/
def handlerOf (op : Nat) : Option Handler := if op < 0x40 then handlerLow op else handlerHigh op

/-! ### Checking and answering (R96 to R99) -/

/-- A header field that a request must leave 0. -/
def headerBad (k : Packet) : Bool := k.status != 0 || k.detail != 0 || k.reserved != 0

/-- Where a packet came from. -/
def originOf (p : Port) (k : Packet) : Origin := { port := p, addr := k.addr.toNat }

/-- Steps 3 to 9 of R96, each request drawing afresh; an assigned last unit answers for the missing one (R80). -/
def respond (o : Origin) (k : Packet) (s : State) : Reply × State :=
  let op := k.opcode.toNat
  let s1 := { s with drawn := s.drawn + 1 }
  if o.port == .harness && noneLeft s o.addr then
    answerNone (match handlerOf op with | some h => h.recov | none => false) op s1
  else match handlerOf op with
    | some h => answer h (headerBad k) o k.payload s1
    | none => if isReady s then refuse op stBadOpcode 0 s1 else refuse op stNotReady 0 s1

/-- CRC-32C over header and payload with RETRY taken as 0 (R98). -/
def matchCrc (k : Packet) : BitVec 32 := packetCrc { k with retry := false }

/-- The stored entry of a port. -/
def storedOf (s : State) (p : Port) : Option Stored :=
  match p with | .harness => s.brg.storedH | .uart => s.brg.storedU

/-- The entry that a retry matches. -/
def retryOf (s : State) (p : Port) (k : Packet) : Option Stored :=
  match storedOf s p with
  | some e => if k.retry && e.seq = k.seq && e.op = k.opcode && e.crc = matchCrc k then some e else none
  | none => none

/-- Keep the answered request and its reply. -/
def store (p : Port) (e : Stored) (s : State) : State :=
  match p with
  | .harness => { s with brg := { s.brg with storedH := some e } }
  | .uart => { s with brg := { s.brg with storedU := some e } }

/-- The reply to a request as a packet (Table 06-1). -/
def replyPacket (k : Packet) (a : BitVec 6) (r : Reply) : Packet :=
  reseal { addr := a, isReply := true, retry := k.retry, seq := k.seq, opcode := k.opcode,
           length := BitVec.ofNat 8 r.payload.length, status := r.status, detail := r.detail, reserved := 0,
           payload := r.payload, crc := 0, cut := false }

/-- A byte as it goes on MGT_TX (R114). -/
def stuff (b : Byte) : List Byte := if b = 0x7E ∨ b = 0x7D then [0x7D, b ^^^ 0x20] else [b]

/-- A packet on MGT_TX: header, payload and CRC, stuffed, between two flags (R114). -/
def uartFrame (k : Packet) : List Byte :=
  0x7E :: ((packetHeader k :: k.payload).flatMap wordBytes ++ (wordBytes (k.crc.setWidth 64)).take 4).flatMap stuff ++ [0x7E]

/-- The reply leaves its port as a packet, where `deliver` sends one at all; MGT_TX carries none where its command has cleared
ENABLE (Table 06-13). -/
def sendReply (o : Origin) (k : Packet) (a : BitVec 6) (r : Reply) (s : State) : State :=
  let s1 := deliver o k.opcode.toNat r s
  match o.port with
  | .uart =>
    if bit (rwGet s 0x9000) 4 then
      { s1 with brg := { s1.brg with sentU := some (replyPacket k a r), lineU := uartFrame (replyPacket k a r) } }
    else { s1 with brg := { s1.brg with lineU := [] } }
  | .harness =>
    if o.addr = 62 && !isLast s then setHarn (fun h => { h with own := h.own.map fun x => { x with seq := some k.seq } }) s1
    else if s.tb.mono < s.harn.upBusy then s1
    else setHarn (fun h => { h with
      outUp := some (replyPacket k a r), lineUp := h.lineUp.send s.tb.mono 0 (packetSymbols (replyPacket k a r)) }) s1

/-- A retry of an accepted CHAIN_ENUMERATE with CLEAR: the unit contributes to the reply again, and clears its address then
(R82, R98). -/
def againDue (o : Origin) (k : Packet) (r : Reply) (s : State) : State :=
  if k.opcode = 0x18 ∧ r.status = 0 ∧ o.port = .harness ∧ isLast s = false then
    setHarn (fun h => { h with clearDue := bit (wd k.payload 0) 0 }) s
  else s

/-- A request whose CRC is good: a retry's stored reply, or the checks, the command and its reply. The reply carries the
unit's address, for CHAIN_ADDR_SET the new one (R80). -/
def serveRequest (o : Origin) (k : Packet) (s : State) : State :=
  match retryOf s o.port k with
  | some e => sendReply o k e.addr e.reply (againDue o k e.reply { s with drawn := s.drawn + 1 })
  | none =>
    let x := respond o k s
    let a := if k.opcode = 0x19 then x.2.pwr.address else s.pwr.address
    sendReply o k a x.1
      (store o.port { seq := k.seq, op := k.opcode, crc := matchCrc k, addr := a, reply := x.1 } x.2)

/-- A request by the harness is this unit's: addressed here, its own retry (R99), or the last unit's to answer. -/
def mine (s : State) (k : Packet) : Bool :=
  let a := k.addr.toNat
  addressed s a || noneLeft s a || (a = 63 && packetOk k && (retryOf s .harness k).isSome)

/-- The request to address 63 is this unit's: it is unassigned, or was when the packet came (R80). -/
def claims (s : State) (k : Packet) : Bool :=
  k.addr = 63 && !k.isReply && (s.pwr.address == 0 || s.harn.claim == some k)

/-- Of the two things a claimed request does, executing and passing on, one is done: the other finds its mark. -/
def markClaim (k : Packet) (s : State) : State :=
  setHarn (fun h => { h with claim := if h.claim = some k then none else some k }) s

/-- A request to address 63 that this unit claims has come: the mark tells its forwarding. -/
def arrived (k : Packet) (s : State) : State := if claims s k then markClaim k s else s

/-- REQUEST_RECEIVED: a packet arrives whole on HUP_DIN. -/
def execRequestReceived (k : Packet) (s : State) : Out :=
  let o := originOf .harness k
  .next (if k.isReply || !portLive s .harness || !mine s k then s
    else if packetOk k then serveRequest o k (arrived k s)
    else sendReply o k s.pwr.address (reply stCrcError 0 [])
      (post evChainCrc 0 (setHarn (fun h => { h with upCrc := sat 16 (h.upCrc + 1) }) (arrived k s))))

/-! ### Forwarding (R75, R80, R99) -/

/-- What leaves downward: a request to address 63 that is this unit's own goes on to address 0 (R80). -/
def readdress (s : State) (k : Packet) : Packet := if claims s k then reseal { k with addr := 0 } else k

/-- A retry to address 63 of this unit's own stored request goes no further (R99). -/
def keepsBack (s : State) (k : Packet) : Bool :=
  k.addr = 63 && !k.isReply && !claims s k && packetOk k && (retryOf s .harness k).isSome

/-- A later request, to one unit or another broadcast, ends the wait for the reply of an earlier broadcast (R77). -/
def dropOwn (k : Packet) (s : State) : State :=
  match s.harn.own with
  | some x => if k.isReply || (k.addr = 62 && x.fits k) then s else setHarn (fun h => { h with own := none, clearDue := false }) s
  | none => s

/-- HARNESS_PACKET_FORWARD. -/
def execHarnessPacketForward (p : HPort) (k : Packet) (s : State) : Out :=
  .next (if !forwards s p then s else match p with
    | .up =>
      if keepsBack s k then s
      else sendDown (readdress s k) (dropOwn k (arrived k s))
    | .down => if downBlock s then s else sendUp k s)

/-! ### The management UART (R114, R115) -/

/-- Remove the stuffing; a 0x7D at the very end has no byte to escape. -/
def unstuff : List Byte → Option (List Byte)
  | [] => some []
  | b :: r =>
    if b = 0x7D then
      match r with
      | c :: r' => (unstuff r').map ((c ^^^ 0x20) :: ·)
      | [] => none
    else (unstuff r).map (b :: ·)

/-- n hide words of a run of bytes. -/
def bytesWords : Nat → List Byte → List Word
  | 0, _ => []
  | n + 1, l => bytesWord (l.take 8) :: bytesWords n (l.drop 8)

/-- The packet between two flags: its header, payload and CRC; `whole`: it had no fault and the length that LENGTH
says. A header byte that never came reads as 0 (log 50). -/
def uartPacket (l : List Byte) (whole : Bool) : Packet :=
  let h := bytesWord (l.take 8)
  let n := fld h 31 24
  { addr := BitVec.ofNat 6 (fld h 5 0), isReply := bit h 6, retry := bit h 7, seq := BitVec.ofNat 8 (fld h 15 8)
    opcode := BitVec.ofNat 8 (fld h 23 16), length := BitVec.ofNat 8 n, status := BitVec.ofNat 8 (fld h 39 32)
    detail := BitVec.ofNat 8 (fld h 47 40), reserved := BitVec.ofNat 16 (fld h 63 48)
    payload := bytesWords (min n 32) (l.drop 8)
    crc := BitVec.ofNat 32 (bytesWord ((l.drop (8 + 8 * n)).take 4)).toNat
    cut := !whole || l.length ≠ 12 + 8 * n }

/-- The packet of the bytes as they came. -/
def uartParse (raw : List Byte) : Packet :=
  match unstuff raw with
  | some l => uartPacket l true
  | none => uartPacket raw false

/-- UART_PACKET_RECEIVED: the bytes between two flags. R95 speaks of a packet with REPLY = 1 on HUP_DIN alone; here one is
ignored in silence, a bad CRC included (DEDUCED, log 72). -/
def execUartPacketReceived (raw : List Byte) (s : State) : Out :=
  let k := uartParse raw
  let o := originOf .uart k
  .next (if raw = [] || k.isReply || !portLive s .uart then s
    else if packetOk k then serveRequest o k s
    else sendReply o k s.pwr.address (reply stCrcError 0 []) (post evMgtUartErr 2 s))

/-- UART_GAP_TIMEOUT. -/
def execUartGapTimeout (s : State) : Out := .next (if portLive s .uart then post evMgtUartErr 1 s else s)

/-- UART_FRAMING_ERROR. -/
def execUartFramingError (s : State) : Out := .next (if portLive s .uart then post evMgtUartErr 0 s else s)

end Sys2Proof.Machine
end

