-- ==== Sys2Proof/Machine/Dispatch.lean ====
section
/-!
DEFINITION. What each command does: one arm per command, one direct call of its meaning.
-/
namespace Sys2Proof.Machine

def exec (i : Instr) (s : State) : Host.Outcome State Fault Refusal :=
  match i with
  | .nop o p => Sys2Proof.Machine.execNop o p s
  | .identify o p => Sys2Proof.Machine.execIdentify o p s
  | .status o p => Sys2Proof.Machine.execStatus o p s
  | .resetLevel0 o w => Sys2Proof.Machine.execResetLevel0 o w s
  | .resetLevel1 o w => Sys2Proof.Machine.execResetLevel1 o w s
  | .resetLevel2 o w => Sys2Proof.Machine.execResetLevel2 o w s
  | .resetLevel3 o w => Sys2Proof.Machine.execResetLevel3 o w s
  | .resetStart => Sys2Proof.Machine.execResetStart s
  | .resetOffTimeExpiry vcoreFell => Sys2Proof.Machine.execResetOffTimeExpiry vcoreFell s
  | .resetSoftDone trainFail => Sys2Proof.Machine.execResetSoftDone trainFail s
  | .paramGet o p => Sys2Proof.Machine.execParamGet o p s
  | .paramSet o p => Sys2Proof.Machine.execParamSet o p s
  | .commit o p => Sys2Proof.Machine.execCommit o p s
  | .commitValidationDone => Sys2Proof.Machine.execCommitValidationDone s
  | .discard o p => Sys2Proof.Machine.execDiscard o p s
  | .eventRead o p => Sys2Proof.Machine.execEventRead o p s
  | .eventAck o p => Sys2Proof.Machine.execEventAck o p s
  | .result o p => Sys2Proof.Machine.execResult o p s
  | .tackLoad o p => Sys2Proof.Machine.execTackLoad o p s
  | .tackSave o p => Sys2Proof.Machine.execTackSave o p s
  | .tackSaveDone readBackOk => Sys2Proof.Machine.execTackSaveDone readBackOk s
  | .tackInfo o p => Sys2Proof.Machine.execTackInfo o p s
  | .tackErase o p => Sys2Proof.Machine.execTackErase o p s
  | .tackEraseDone => Sys2Proof.Machine.execTackEraseDone s
  | .tackProtectWrite o v => Sys2Proof.Machine.execTackProtectWrite o v s
  | .chainEnumerate o p => Sys2Proof.Machine.execChainEnumerate o p s
  | .chainAddrSet o p => Sys2Proof.Machine.execChainAddrSet o p s
  | .chainDelayMeasure o p => Sys2Proof.Machine.execChainDelayMeasure o p s
  | .chainDelayMeasureDone meanRoundTrip => Sys2Proof.Machine.execChainDelayMeasureDone meanRoundTrip s
  | .delayProbeReceived => Sys2Proof.Machine.execDelayProbeReceived s
  | .hopDelayUpReceived delay => Sys2Proof.Machine.execHopDelayUpReceived delay s
  | .chainLoopback o p => Sys2Proof.Machine.execChainLoopback o p s
  | .routeSet o p => Sys2Proof.Machine.execRouteSet o p s
  | .routeGet o p => Sys2Proof.Machine.execRouteGet o p s
  | .scanSet o p => Sys2Proof.Machine.execScanSet o p s
  | .scanGet o p => Sys2Proof.Machine.execScanGet o p s
  | .zoneSet o p => Sys2Proof.Machine.execZoneSet o p s
  | .zoneGet o p => Sys2Proof.Machine.execZoneGet o p s
  | .zoneClear o p => Sys2Proof.Machine.execZoneClear o p s
  | .baselineCapture o p => Sys2Proof.Machine.execBaselineCapture o p s
  | .baselineCaptureDone route => Sys2Proof.Machine.execBaselineCaptureDone route s
  | .acqStart o p => Sys2Proof.Machine.execAcqStart o p s
  | .acqStop o p => Sys2Proof.Machine.execAcqStop o p s
  | .acqStopped side => Sys2Proof.Machine.execAcqStopped side s
  | .arm o p => Sys2Proof.Machine.execArm o p s
  | .disarm o p => Sys2Proof.Machine.execDisarm o p s
  | .force o p => Sys2Proof.Machine.execForce o p s
  | .trigSet o p => Sys2Proof.Machine.execTrigSet o p s
  | .trigGet o p => Sys2Proof.Machine.execTrigGet o p s
  | .historyDump o p => Sys2Proof.Machine.execHistoryDump o p s
  | .historyDumpDone => Sys2Proof.Machine.execHistoryDumpDone s
  | .slotSet o p => Sys2Proof.Machine.execSlotSet o p s
  | .slotGet o p => Sys2Proof.Machine.execSlotGet o p s
  | .curveLoad o p => Sys2Proof.Machine.execCurveLoad o p s
  | .emitEnable o p => Sys2Proof.Machine.execEmitEnable o p s
  | .lockSetOff o w => Sys2Proof.Machine.execLockSetOff o w s
  | .lockSetOn o w => Sys2Proof.Machine.execLockSetOn o w s
  | .lockSetManual o w => Sys2Proof.Machine.execLockSetManual o w s
  | .emitDiagRead o w => Sys2Proof.Machine.execEmitDiagRead o w s
  | .emitDiagProof o w => Sys2Proof.Machine.execEmitDiagProof o w s
  | .auxXptSet o p => Sys2Proof.Machine.execAuxXptSet o p s
  | .auxSeqLoad o p => Sys2Proof.Machine.execAuxSeqLoad o p s
  | .auxRead o p => Sys2Proof.Machine.execAuxRead o p s
  | .auxLimitSet o p => Sys2Proof.Machine.execAuxLimitSet o p s
  | .auxSeqKick o v => Sys2Proof.Machine.execAuxSeqKick o v s
  | .adcCheckSet o check w1 => Sys2Proof.Machine.execAdcCheckSet o check w1 s
  | .adcCheckWrite o v => Sys2Proof.Machine.execAdcCheckWrite o v s
  | .adcCheckRetire o check w1 => Sys2Proof.Machine.execAdcCheckRetire o check w1 s
  | .adcCheckRestore o check w1 => Sys2Proof.Machine.execAdcCheckRestore o check w1 s
  | .adcCheckClear o check w1 => Sys2Proof.Machine.execAdcCheckClear o check w1 s
  | .dtsRefSet o p => Sys2Proof.Machine.execDtsRefSet o p s
  | .timeSetImmediate o tag w1 => Sys2Proof.Machine.execTimeSetImmediate o tag w1 s
  | .timeSetNextPps o tag w1 => Sys2Proof.Machine.execTimeSetNextPps o tag w1 s
  | .timeSetChainSync o tag w1 => Sys2Proof.Machine.execTimeSetChainSync o tag w1 s
  | .timeLoadTimeout => Sys2Proof.Machine.execTimeLoadTimeout s
  | .timeGet o p => Sys2Proof.Machine.execTimeGet o p s
  | .tbSelect o p => Sys2Proof.Machine.execTbSelect o p s
  | .tdcCfg o p => Sys2Proof.Machine.execTdcCfg o p s
  | .tdcRead o p => Sys2Proof.Machine.execTdcRead o p s
  | .streamCfg o p => Sys2Proof.Machine.execStreamCfg o p s
  | .streamTrain o p => Sys2Proof.Machine.execStreamTrain o p s
  | .dmaKickStart o w first => Sys2Proof.Machine.execDmaKickStart o w first s
  | .dmaKickResume o w => Sys2Proof.Machine.execDmaKickResume o w s
  | .dmaAbort o p => Sys2Proof.Machine.execDmaAbort o p s
  | .dmaAbortDone chan => Sys2Proof.Machine.execDmaAbortDone chan s
  | .dmaStatus o p => Sys2Proof.Machine.execDmaStatus o p s
  | .memRead o p => Sys2Proof.Machine.execMemRead o p s
  | .memReadDone slot acc => Sys2Proof.Machine.execMemReadDone slot acc s
  | .memWrite o p => Sys2Proof.Machine.execMemWrite o p s
  | .memFill o p => Sys2Proof.Machine.execMemFill o p s
  | .memFillDone acc => Sys2Proof.Machine.execMemFillDone acc s
  | .memInitWrite o v => Sys2Proof.Machine.execMemInitWrite o v s
  | .memPlanWrite o v => Sys2Proof.Machine.execMemPlanWrite o v s
  | .calRun o p => Sys2Proof.Machine.execCalRun o p s
  | .calRunDone => Sys2Proof.Machine.execCalRunDone s
  | .calRead o p => Sys2Proof.Machine.execCalRead o p s
  | .calWrite o p => Sys2Proof.Machine.execCalWrite o p s
  | .calQuality o p => Sys2Proof.Machine.execCalQuality o p s
  | .healthRead o p => Sys2Proof.Machine.execHealthRead o p s
  | .logRead o p => Sys2Proof.Machine.execLogRead o p s
  | .logClear o p => Sys2Proof.Machine.execLogClear o p s
  | .logClearDone => Sys2Proof.Machine.execLogClearDone s
  | .updateBegin o p => Sys2Proof.Machine.execUpdateBegin o p s
  | .updateBeginDone => Sys2Proof.Machine.execUpdateBeginDone s
  | .updateChunk o p => Sys2Proof.Machine.execUpdateChunk o p s
  | .updateChunkStored => Sys2Proof.Machine.execUpdateChunkStored s
  | .updateEnd o p => Sys2Proof.Machine.execUpdateEnd o p s
  | .updateEndDone => Sys2Proof.Machine.execUpdateEndDone s
  | .updateActivateTrial o w => Sys2Proof.Machine.execUpdateActivateTrial o w s
  | .updateActivateConfirm o w => Sys2Proof.Machine.execUpdateActivateConfirm o w s
  | .updateActivateReject o w => Sys2Proof.Machine.execUpdateActivateReject o w s
  | .trialTimerExpiry => Sys2Proof.Machine.execTrialTimerExpiry s
  | .standbyEnter o p => Sys2Proof.Machine.execStandbyEnter o p s
  | .standbyPowerDown => Sys2Proof.Machine.execStandbyPowerDown s
  | .lifetimeRead o p => Sys2Proof.Machine.execLifetimeRead o p s
  | .pllCfgIcpWrite o icp => Sys2Proof.Machine.execPllCfgIcpWrite o icp s
  | .pllDividerChange o v => Sys2Proof.Machine.execPllDividerChange o v s
  | .pllChangeTimeout => Sys2Proof.Machine.execPllChangeTimeout s
  | .uartCfgWrite o v => Sys2Proof.Machine.execUartCfgWrite o v s
  | .evtMaskWrite o lo hi => Sys2Proof.Machine.execEvtMaskWrite o lo hi s
  | .vaonPowerOn => Sys2Proof.Machine.execVaonPowerOn s
  | .vaonGood => Sys2Proof.Machine.execVaonGood s
  | .railsGood => Sys2Proof.Machine.execRailsGood s
  | .porRelease => Sys2Proof.Machine.execPorRelease s
  | .refChoice refclkSeen freqCode => Sys2Proof.Machine.execRefChoice refclkSeen freqCode s
  | .pllLockDeclared => Sys2Proof.Machine.execPllLockDeclared s
  | .cantleBootVerifyDone checkA checkB => Sys2Proof.Machine.execCantleBootVerifyDone checkA checkB s
  | .dramTrainingDone fail fittedGib => Sys2Proof.Machine.execDramTrainingDone fail fittedGib s
  | .calStepDone results => Sys2Proof.Machine.execCalStepDone results s
  | .calStepTimeout group => Sys2Proof.Machine.execCalStepTimeout group s
  | .resetNLow widthNs => Sys2Proof.Machine.execResetNLow widthNs s
  | .resetNRise => Sys2Proof.Machine.execResetNRise s
  | .brownout monitor => Sys2Proof.Machine.execBrownout monitor s
  | .wakePinEdge highUs => Sys2Proof.Machine.execWakePinEdge highUs s
  | .wakeTimerExpiry => Sys2Proof.Machine.execWakeTimerExpiry s
  | .standbyWake => Sys2Proof.Machine.execStandbyWake s
  | .laserEnFall widthNs => Sys2Proof.Machine.execLaserEnFall widthNs s
  | .laserEnRise => Sys2Proof.Machine.execLaserEnRise s
  | .pllPhaseErrorLoss => Sys2Proof.Machine.execPllPhaseErrorLoss s
  | .pllRefEdgesMissing => Sys2Proof.Machine.execPllRefEdgesMissing s
  | .pllRefPresent => Sys2Proof.Machine.execPllRefPresent s
  | .pllRelockTimeout => Sys2Proof.Machine.execPllRelockTimeout s
  | .syncInEdge => Sys2Proof.Machine.execSyncInEdge s
  | .syncApply pfdEdges => Sys2Proof.Machine.execSyncApply pfdEdges s
  | .ppsEdge falling => Sys2Proof.Machine.execPpsEdge falling s
  | .ppsAbsentTimeout => Sys2Proof.Machine.execPpsAbsentTimeout s
  | .ref10Present => Sys2Proof.Machine.execRef10Present s
  | .ref10Absent => Sys2Proof.Machine.execRef10Absent s
  | .ref10GateEnd error => Sys2Proof.Machine.execRef10GateEnd error s
  | .timeBaseSecond => Sys2Proof.Machine.execTimeBaseSecond s
  | .ageingDay => Sys2Proof.Machine.execAgeingDay s
  | .tinEdge input falling => Sys2Proof.Machine.execTinEdge input falling s
  | .awlConversionDone input count => Sys2Proof.Machine.execAwlConversionDone input count s
  | .awlBackgroundCal rings nonlinearity => Sys2Proof.Machine.execAwlBackgroundCal rings nonlinearity s
  | .awlPairTakeover input => Sys2Proof.Machine.execAwlPairTakeover input s
  | .xtalFaultCheck stopped outside => Sys2Proof.Machine.execXtalFaultCheck stopped outside s
  | .harnessCommaReceived port => Sys2Proof.Machine.execHarnessCommaReceived port s
  | .harnessLinkLock port => Sys2Proof.Machine.execHarnessLinkLock port s
  | .harnessLinkLoss port => Sys2Proof.Machine.execHarnessLinkLoss port s
  | .breakIn => Sys2Proof.Machine.execBreakIn s
  | .breakInEnd => Sys2Proof.Machine.execBreakInEnd s
  | .requestReceived pkt => Sys2Proof.Machine.execRequestReceived pkt s
  | .harnessPacketForward fromPort pkt => Sys2Proof.Machine.execHarnessPacketForward fromPort pkt s
  | .replyPassingUp pkt => Sys2Proof.Machine.execReplyPassingUp pkt s
  | .armSymbolReceived port sym => Sys2Proof.Machine.execArmSymbolReceived port sym s
  | .fireSymbolReceived port sym => Sys2Proof.Machine.execFireSymbolReceived port sym s
  | .syncSymbolReceived port sym => Sys2Proof.Machine.execSyncSymbolReceived port sym s
  | .timingSymbolDiscard port => Sys2Proof.Machine.execTimingSymbolDiscard port s
  | .uartPacketReceived raw => Sys2Proof.Machine.execUartPacketReceived raw s
  | .uartGapTimeout => Sys2Proof.Machine.execUartGapTimeout s
  | .uartFramingError => Sys2Proof.Machine.execUartFramingError s
  | .shotGroupBoundary side => Sys2Proof.Machine.execShotGroupBoundary side s
  | .launchGroupLaunch side => Sys2Proof.Machine.execLaunchGroupLaunch side s
  | .launchEdge side => Sys2Proof.Machine.execLaunchEdge side s
  | .launchMissing side => Sys2Proof.Machine.execLaunchMissing side s
  | .gateLoadFault side short => Sys2Proof.Machine.execGateLoadFault side short s
  | .gatePulseEnd side heldNs energy => Sys2Proof.Machine.execGatePulseEnd side heldNs energy s
  | .proofPulse side => Sys2Proof.Machine.execProofPulse side s
  | .wavelockAcquired side => Sys2Proof.Machine.execWavelockAcquired side s
  | .wavelockLost side => Sys2Proof.Machine.execWavelockLost side s
  | .lbiasLimitReached side upper => Sys2Proof.Machine.execLbiasLimitReached side upper s
  | .tecLimitReached side upper => Sys2Proof.Machine.execTecLimitReached side upper s
  | .dacFault side q => Sys2Proof.Machine.execDacFault side q s
  | .thermalParkingDone side eccBad => Sys2Proof.Machine.execThermalParkingDone side eccBad s
  | .routeBlankingStart side => Sys2Proof.Machine.execRouteBlankingStart side s
  | .switchStrobe side => Sys2Proof.Machine.execSwitchStrobe side s
  | .routeBlankingEnd side => Sys2Proof.Machine.execRouteBlankingEnd side s
  | .settlePeriodEnd side lanes => Sys2Proof.Machine.execSettlePeriodEnd side lanes s
  | .aprActivation side => Sys2Proof.Machine.execAprActivation side s
  | .currierShotOutput side data => Sys2Proof.Machine.execCurrierShotOutput side data s
  | .girthEvaluation => Sys2Proof.Machine.execGirthEvaluation s
  | .holdoffElapsed zone => Sys2Proof.Machine.execHoldoffElapsed zone s
  | .autoTimeout side => Sys2Proof.Machine.execAutoTimeout side s
  | .envelopeIntervalEnd side => Sys2Proof.Machine.execEnvelopeIntervalEnd side s
  | .deltaTraceForm side => Sys2Proof.Machine.execDeltaTraceForm side s
  | .digestPeriod side => Sys2Proof.Machine.execDigestPeriod side s
  | .overrangeBurst samples raman => Sys2Proof.Machine.execOverrangeBurst samples raman s
  | .shadowDwellEnd samples => Sys2Proof.Machine.execShadowDwellEnd samples s
  | .backgroundSliceTrim lane trims figures => Sys2Proof.Machine.execBackgroundSliceTrim lane trims figures s
  | .sliceSwap lane => Sys2Proof.Machine.execSliceSwap lane s
  | .backgroundRamanOffset side trims => Sys2Proof.Machine.execBackgroundRamanOffset side trims s
  | .calDriftCheck temps => Sys2Proof.Machine.execCalDriftCheck temps s
  | .ramanShot side trace => Sys2Proof.Machine.execRamanShot side trace s
  | .accumulationComplete side => Sys2Proof.Machine.execAccumulationComplete side s
  | .thermalComputationDone side => Sys2Proof.Machine.execThermalComputationDone side s
  | .auxSettleDelayEnd => Sys2Proof.Machine.execAuxSettleDelayEnd s
  | .auxConversionEnd smp => Sys2Proof.Machine.execAuxConversionEnd smp s
  | .auxTimerTrigger => Sys2Proof.Machine.execAuxTimerTrigger s
  | .latFcLock => Sys2Proof.Machine.execLatFcLock s
  | .latFcLoss => Sys2Proof.Machine.execLatFcLoss s
  | .latFcTrainingStatus laneOk => Sys2Proof.Machine.execLatFcTrainingStatus laneOk s
  | .streamTrainingTimeout => Sys2Proof.Machine.execStreamTrainingTimeout s
  | .creditGrant n => Sys2Proof.Machine.execCreditGrant n s
  | .creditStallTimeout => Sys2Proof.Machine.execCreditStallTimeout s
  | .frameSend => Sys2Proof.Machine.execFrameSend s
  | .idleFrameTimeout => Sys2Proof.Machine.execIdleFrameTimeout s
  | .statusFrameTimer => Sys2Proof.Machine.execStatusFrameTimer s
  | .dropFrameTimer => Sys2Proof.Machine.execDropFrameTimer s
  | .dramRefreshDue => Sys2Proof.Machine.execDramRefreshDue s
  | .zqCalibrationDue => Sys2Proof.Machine.execZqCalibrationDue s
  | .dqsTrackingDue => Sys2Proof.Machine.execDqsTrackingDue s
  | .dramPanicBegin need0 need1 => Sys2Proof.Machine.execDramPanicBegin need0 need1 s
  | .dramPanicEnd need0 need1 => Sys2Proof.Machine.execDramPanicEnd need0 need1 s
  | .dramLongPanic => Sys2Proof.Machine.execDramLongPanic s
  | .bulkTimeout fail addr words => Sys2Proof.Machine.execBulkTimeout fail addr words s
  | .selfRefreshEntry => Sys2Proof.Machine.execSelfRefreshEntry s
  | .patrolScrub errors => Sys2Proof.Machine.execPatrolScrub errors s
  | .dmaBurst acc => Sys2Proof.Machine.execDmaBurst acc s
  | .dmaDescriptorFetchDone chan acc => Sys2Proof.Machine.execDmaDescriptorFetchDone chan acc s
  | .dmaDescriptorEnd chan acc => Sys2Proof.Machine.execDmaDescriptorEnd chan acc s
  | .monitorSample temps volts => Sys2Proof.Machine.execMonitorSample temps volts s
  | .processMonitorSample drifts => Sys2Proof.Machine.execProcessMonitorSample drifts s
  | .overtempTrip sensor => Sys2Proof.Machine.execOvertempTrip sensor s
  | .clampDetection domain peakUa => Sys2Proof.Machine.execClampDetection domain peakUa s
  | .surgeRecordClose => Sys2Proof.Machine.execSurgeRecordClose s
  | .selftestStart => Sys2Proof.Machine.execSelftestStart s
  | .currierTileTestSlotEnd pass => Sys2Proof.Machine.execCurrierTileTestSlotEnd pass s
  | .selftestDone analogFails => Sys2Proof.Machine.execSelftestDone analogFails s
  | .cantleWatchdogExpiry => Sys2Proof.Machine.execCantleWatchdogExpiry s
  | .mramWriteTimeout => Sys2Proof.Machine.execMramWriteTimeout s
  | .cantleRestartDone => Sys2Proof.Machine.execCantleRestartDone s
  | .bridleHangCheck hung => Sys2Proof.Machine.execBridleHangCheck hung s
  | .healthDigestForm => Sys2Proof.Machine.execHealthDigestForm s
  | .healthDigestEventTimer => Sys2Proof.Machine.execHealthDigestEventTimer s
  | .lifetimeUpdate => Sys2Proof.Machine.execLifetimeUpdate s
  | .equivHoursMinute => Sys2Proof.Machine.execEquivHoursMinute s
  | .mramScrub region corrected bad worn => Sys2Proof.Machine.execMramScrub region corrected bad worn s
  | .logEntryWrite => Sys2Proof.Machine.execLogEntryWrite s
  | .vaonLoss => Sys2Proof.Machine.execVaonLoss s

end Sys2Proof.Machine
end

