-- ==== Sys2Proof/Machine/Idle.lean ====
section
/-!
DEFINITION. The passing of one core cycle, which is what a step does when no command waits (log 1).
-/
namespace Sys2Proof.Machine

/-- How far the time counter advances in a core cycle at its rate 1 + y (R270), in 10^−12 of 2^−32 ns. -/
def advance (y : Int) : Nat := (5 * 2 ^ 31 * (1000000000000 + y)).toNat

/-- The time counter a core cycle later, in 2^−32 ns, and what is left over below. -/
def laterNow (now part : Nat) (y : Int) : Nat :=
  (now + (part + advance y) / 1000000000000) % (2 ^ 34 * 1000000000 * 2 ^ 32)
def laterPart (part : Nat) (y : Int) : Nat := (part + advance y) % 1000000000000

/-- The monotonic count and, while the core clock runs, the time counter. -/
def tick (s : State) : State :=
  { s with tb := { s.tb with
    mono := s.tb.mono + 1
    now := if answers s then laterNow s.tb.now s.tb.part s.tb.y else s.tb.now
    part := if answers s then laterPart s.tb.part s.tb.y else s.tb.part } }

/-- Timing symbols that wait for their pair leave when it is free (R86). -/
def drainTiming (s : State) : State :=
  { s with
    harn := { s.harn with
      timUp := s.harn.timUp.advance s.tb.mono s.drawn
      timDown := s.harn.timDown.advance s.tb.mono (s.drawn + 1) }
    drawn := s.drawn + 2 }

/-- Training that waited for the frame in progress begins at its end, and the link is DOWN then (Table 15-4). -/
def drainTraining (s : State) : State :=
  if s.strm.trainWait && !inProgress s then beginTraining (post evStreamDown 2 s) else s

/-- One core cycle passes. -/
def idle (s : State) : State := fadeSeconds (drainTraining (drainTiming (tick s)))

end Sys2Proof.Machine
end

