-- ==== Sys2Proof/Machine/Pins.lean ====
section
/-!
DEFINITION. The output pins as the state has them (Tables 02-3 to 02-7, R30 to R33, R38), the symbols of the harness pairs
(R72, R84, R94), and the power of a mode of operation (R63, R425). Each level is that of a pin whose supply domain is good.
-/
namespace Sys2Proof.Machine

/-- A digital output. -/
inductive PinLevel where | low | high | hiZ
deriving DecidableEq, Repr

/-- A level driven. -/
def PinLevel.drive (b : Bool) : PinLevel := if b then .high else .low

/-- Driven, or high impedance. -/
def PinLevel.driveIf (on b : Bool) : PinLevel := if on then .drive b else .hiZ

/-- An open-drain output: asserted low, or released. -/
def PinLevel.pull (b : Bool) : PinLevel := if b then .low else .hiZ

/-! ### The optical side (Table 02-3) -/

/-- The waveform DACs of a side have their supply from step 6, which calibrates them; before it they are powered down. -/
def dacOn (s : State) : Bool := match s.pwr.dev with | .ready => true | .starting n => decide (6 ≤ n) | _ => false

/-- The DAC sample that leaves now, counted from the first chirp sample, which leaves GATE_LEAD after the launch edge: the one
that Awl timed, or 50 ns after the commanded instant, the typical figure of Table 07-2 (R118; log 93). -/
def dacSample (s : State) (d : Side) : Int :=
  let edge := (((s.lash.get d).shots.getLast?).map Shot.start).getD (60, 0)
  6 * ((s.tb.mono : Int) - (s.lash.get d).pulseAt) - (2 * edge.1 + edge.2 / 128 : Nat) -
    (12 * fld (sideGet (cfgOf s d) d 0x4003) 7 0 / 5 : Nat)

/-- WDAC_xI and WDAC_xQ: nothing while powered down; zero code but for the waveform of an ordinary launch (R124, R126, R139). -/
def pinDac (s : State) (d : Side) : Option Cplx :=
  let l := s.lash.get d
  if !dacOn s then none
  else if l.pulse.isNone || l.proof || l.cut || decide (dacSample s d < 0) then some (0, 0)
  else some (dacCode (cfgOf s d) d (l.launched - 1) (dacSample s d).toNat)

/-- GATE_x: the set current as a code, 0 with no pulse, after a cut, and while its calibration has the driver on the internal
load (R139, R143, R358). -/
def pinGate (s : State) (d : Side) : Nat :=
  let l := s.lash.get d
  if l.cut || s.cal.running.getLsbD (13 + d.num) then 0 else l.pulse.getD 0

/-- LBIAS_x, and TEC_SET_x: high impedance until LOCK_SET drives it (R130). -/
def pinLbias (s : State) (d : Side) : BitVec 16 := (s.lash.get d).lbias
def pinTec (s : State) (d : Side) : Option (BitVec 16) :=
  if (s.lash.get d).tecDriven then some (s.lash.get d).tec else none

/-- MPD_x: the integrator is held in reset but over a launch (Table 07-2). -/
def mpdReset (s : State) (d : Side) : Bool := (s.lash.get d).pulse.isNone

/-- SW_x0 and SW_x1: the position of the present route (R134). -/
def pinSw (s : State) (d : Side) (i : Nat) : PinLevel := .drive ((s.lash.get d).position.testBit i)

/-- SW_STB_x, and DTS_TRIG_x: high until the end of their pulse (R134, R144). -/
def pinStrobe (s : State) (d : Side) : PinLevel := .drive (decide (10 * s.tb.mono < (s.lash.get d).strobeEnd))
def pinDtsTrig (s : State) (d : Side) : PinLevel := .drive (decide (10 * s.tb.mono < (s.lash.get d).trigEnd))

/-! ### Clock, control and test (Table 02-4) -/

/-- The charge pump of PLL_LF runs. -/
def chargePump (s : State) : Bool := s.pll.state != .off

def pinLaserOk (s : State) : PinLevel := .drive (laserOk s)
def pinAttn (s : State) : PinLevel := .pull (attn s)
def pinPwrEn (s : State) : PinLevel := .drive s.pwr.pwrEn

/-- A byte on MGT_TX: the start bit, eight data bits from the least significant one, and the stop bit (R114). -/
def uartBits (b : Byte) : List Bool := false :: (List.range 8).map b.getLsbD ++ [true]

/-- MGT_TX bit n of the last packet sent; high before, after, while nothing has been sent (UART idle), and while
ENABLE is 0 (Table 06-13). -/
def pinMgtTx (s : State) (n : Nat) : PinLevel :=
  .drive (!bit (rwGet s 0x9000) 4 || (s.brg.lineU.flatMap uartBits).getD n true)

/-- TDO: driven in the two shift states alone, with the bit of the shift stage next to it (R38). -/
def tdoDriven (s : State) : Bool := s.pwr.tap.state == .shiftDr || s.pwr.tap.state == .shiftIr
def pinTdo (s : State) : PinLevel := .driveIf (tdoDriven s) (s.pwr.tap.shift.headD false)

/-- The test access port at a rising edge of TCK with TMS at a level (IEEE 1149.1, R38; log 81). -/
def Tap.next (t : Tap) (tms : Bool) : Tap :=
  match t, tms with
  | .testLogicReset, true => .testLogicReset
  | .testLogicReset, false => .runTestIdle
  | .runTestIdle, true => .selectDr
  | .runTestIdle, false => .runTestIdle
  | .selectDr, true => .selectIr
  | .selectDr, false => .captureDr
  | .captureDr, true => .exit1Dr
  | .captureDr, false => .shiftDr
  | .shiftDr, true => .exit1Dr
  | .shiftDr, false => .shiftDr
  | .exit1Dr, true => .updateDr
  | .exit1Dr, false => .pauseDr
  | .pauseDr, true => .exit2Dr
  | .pauseDr, false => .pauseDr
  | .exit2Dr, true => .updateDr
  | .exit2Dr, false => .shiftDr
  | .updateDr, true => .selectDr
  | .updateDr, false => .runTestIdle
  | .selectIr, true => .testLogicReset
  | .selectIr, false => .captureIr
  | .captureIr, true => .exit1Ir
  | .captureIr, false => .shiftIr
  | .shiftIr, true => .exit1Ir
  | .shiftIr, false => .shiftIr
  | .exit1Ir, true => .updateIr
  | .exit1Ir, false => .pauseIr
  | .pauseIr, true => .exit2Ir
  | .pauseIr, false => .pauseIr
  | .exit2Ir, true => .updateIr
  | .exit2Ir, false => .shiftIr
  | .updateIr, true => .selectDr
  | .updateIr, false => .runTestIdle

/-- BYPASS: the instruction of all ones. -/
def bypass (i : Option (List Bool)) : Bool := match i with | some l => l.all id | none => false

/-- One period of TCK with TRST_N, TMS and TDI at their levels: the capture or shift of the present state and the next one at
the rising edge, the update at the falling edge; the BYPASS register is one bit that captures 0. TRST_N low, or
Test-Logic-Reset, puts the first instruction back. No row of the table carries TCK: what the port does is a function of the
state beside the commands, in normal operation and in production test alike (IEEE 1149.1, R38; log 81). -/
def tckPeriod (trstN tms tdi : Bool) (s : State) : State :=
  let t := s.pwr.tap
  let shift := match t.state with
    | .captureIr => true :: false :: Config.jtagIrExtra
    | .captureDr => if bypass t.instr then [false] else Config.jtagCapture t.instr s.drawn
    | .shiftIr => t.shift.tail ++ [tdi]
    | .shiftDr => t.shift.tail ++ [tdi]
    | _ => t.shift
  let next := if trstN then t.state.next tms else .testLogicReset
  let instr := match next with
    | .testLogicReset => none
    | .updateIr => some shift
    | _ => t.instr
  { s with pwr := { s.pwr with tap := { state := next, instr := instr, shift := shift } }, drawn := s.drawn + 1 }

/-! ### Harness, Latigo, auxiliary and memory pins (Tables 02-5 to 02-7) -/

/-- HUP_DOUT, HUP_TOUT, HDN_DOUT and HDN_TOUT are driven once forwarding is live; LAT_D0 to 7 and LAT_CK from training on. -/
def harnessDriven (s : State) : Bool := answers s
def latDriven (s : State) : Bool := s.strm.driven

/-- What LAT_D lane i carries now (R309, R311, R312). -/
def pinLane (s : State) (i : Nat) : Option Symbol := (columnNow s).map (·.lane i)

/-- LIM_OUTn (R303), released in reset and without VAUX (R32). -/
def pinLim (s : State) (n : Nat) : PinLevel := .pull (powered s.pwr.dev && s.aux.limOut.getLsbD n)

/-- What AUXp carries: the crosspoint role of its pin, 0 every switch open (R290). -/
def pinAux (s : State) (p : Nat) : Nat := (auxRoles s).getD p 0

/-- AUXp carries the 50 nA of burn-out current (R299). -/
def pinBurnout (s : State) (p : Nat) : Bool := burnoutPin s == some p

/-- MEMx_RESET_N, and MEMx_CKE0 and CKE1: low during reset, and CKE in self-refresh (R33, R341). -/
def pinMemReset (s : State) : PinLevel := .drive s.mem.driven
def pinCke (s : State) : PinLevel := .drive (s.mem.driven && !s.mem.selfRefresh)

/-- The DRAM pins of Table 02-7 but for RESET_N and CKE. -/
inductive DramPin where | ck | cs | ca | dq | dqs | dmi
deriving DecidableEq, Repr

/-- Those pins in the reset condition of JESD209-4X, while MEMx_RESET_N is low: the DRAM and the controller leave DQ, DQS and
DMI at high impedance, CS is low, and CK and CA stand at either level (PRESUMED, log 93). With RESET_N high they carry the
commands and data of the controller, and none gives their level. -/
def pinDram (s : State) (p : DramPin) (n : Nat) : Option PinLevel :=
  if s.mem.driven then none else
  some (match p with
    | .cs => .low
    | .ck => .drive (Config.freeBit 33 (2 * n))
    | .ca => .drive (Config.freeBit 33 (2 * n + 1))
    | _ => .hiZ)

/-! ### The pairs of the harness (R72) -/

/-- The symbol on HUP_DOUT, HDN_DOUT, HUP_TOUT or HDN_TOUT now and its ten bits, where the pair is driven. -/
def pinHarness (s : State) (p : HPort) (timing : Bool) : Option (Symbol × Nat) :=
  let l := match p, timing with
    | .up, false => s.harn.lineUp
    | .down, false => s.harn.lineDown
    | .up, true => s.harn.timUp.line
    | .down, true => s.harn.timDown.line
  if harnessDriven s then some (l.symbol s.tb.mono, l.code s.tb.mono) else none

/-! ### Power (R63, R425) -/

/-- What an acquiring side adds to the typical power, in W. -/
def sidePower (s : State) (d : Side) : Rat :=
  if acquiring s d then 515 / 100 + 4 / 100 * slotCount (cfgOf s d) d + 45 / 100 * b2n (accumulating s d) else 0

/-- The Currier load of the acquiring sides (R192). -/
def presentLoad (s : State) : Rat :=
  ((if acquiring s .a then loadMacs (cfgOf s .a) .a else 0) + (if acquiring s .b then loadMacs (cfgOf s .b) .b else 0)) /
    (25600000000 * liveTiles s)

/-- The typical power of a READY device in W (R63). -/
def typicalPower (s : State) : Rat := 28 / 10 + sidePower s .a + sidePower s .b + 6 * presentLoad s

/-- The power at a junction temperature in 0.1 °C, from that at 70 °C (R425). -/
def powerAt (p70 : Rat) (tj : Int) : Rat := p70 * (1 + 94 / 10000 * ((tj : Rat) / 10 - 70))

end Sys2Proof.Machine
end

