-- ==== Sys2Proof/Safety.lean ====
section
/-!
DEFINITION. What statements speak in: when a command completes, when a request is accepted, and the invariant of the
machine.
-/
namespace Sys2Proof.Machine

/-- The outcome is a next state. -/
def Completes (r : Out) : Prop := ∃ t, r = .next t

/-- The entries of an event queue carry consecutive QSEQ values that end just below the number of the next one. -/
def consecutive : List EvEntry → BitVec 16 → Prop
  | [], _ => True
  | e :: l, n => e.qseq = n - BitVec.ofNat 16 (l.length + 1) ∧ consecutive l n

/-- The bounds that every state of a run keeps: memory in its canonical form, at most 1024 events with consecutive QSEQ
(R396), a 16-bit LOST, 16 deferred slots (R101), 4 Tack sets (R110), 64 aux entries (R292), 11 Awl inputs (R281),
8 main lanes (R152), 16 Lace channels (R345) and 17 calibration groups (R357). -/
structure Sound (s : State) : Prop where
  mem     : Memory.wf s.mem.bytes = true
  queue   : s.evq.q.length ≤ 1024
  qseq    : consecutive s.evq.q s.evq.next
  lost    : s.evq.lost ≤ 0xFFFF
  slots   : s.brg.slots.length = 16
  sets    : s.tacks.sets.length = 4
  results : s.aux.results.length = 64
  awl     : s.awl.length = 11
  lanes   : s.recv.lanes.length = 8
  chans   : s.dma.chans.length = 16
  groups  : s.cal.groups.length = 17

/-! ### Pins -/

/-- The output pins that every reset of the switched domains puts into the reset states of Tables 02-3 to 02-7: DACs powered
down, no gate current, 0 V, high impedance, integrators in reset, select lines, strobes and triggers low, ATTN_N and the limit
outputs released, crosspoint open, LAT pairs undriven, UART idle, and the DRAM's reset and clock enables low (R30 to R33); its
CS low and its DQ, DQS and DMI at high impedance are PRESUMED (log 93). -/
def PinsInReset (s : State) : Prop :=
  (∀ d : Side, pinDac s d = none ∧ pinGate s d = 0 ∧ pinLbias s d = 0 ∧ pinTec s d = none ∧ mpdReset s d = true ∧
    (∀ i, pinSw s d i = .low) ∧ pinStrobe s d = .low ∧ pinDtsTrig s d = .low) ∧
  pinAttn s = .hiZ ∧ (∀ n, pinLim s n = .hiZ) ∧ (∀ p, p < 16 → pinAux s p = 0) ∧ latDriven s = false ∧ (∀ n, pinMgtTx s n = .high) ∧
  pinMemReset s = .low ∧ pinCke s = .low ∧ (∀ n, pinDram s .cs n = some .low) ∧
  (∀ p n, p = .dq ∨ p = .dqs ∨ p = .dmi → pinDram s p n = some .hiZ)

/-- The output pins that a RESET of level 2 leaves to the PLL and to forwarding, in their reset states: the charge pump off,
LASER_OK low, and HUP_DOUT, HUP_TOUT, HDN_DOUT and HDN_TOUT undriven (R30, R141). -/
def LinesInReset (s : State) : Prop :=
  chargePump s = false ∧ pinLaserOk s = .low ∧ ∀ p timing, pinHarness s p timing = none

/-! ### The figures of the filters -/

/-- g is the squared gain, at f cycles a sample, of taps in 2^−30 that stand at these samples, less a phasor (x, y). -/
def HasGain (taps : List (Int × Int)) (f x y g : ℝ) : Prop :=
  g = ((taps.map fun t => (t.2 : ℝ) * Real.cos (2 * Real.pi * f * t.1)).sum / 2 ^ 30 - x) ^ 2 +
    ((taps.map fun t => (t.2 : ℝ) * Real.sin (2 * Real.pi * f * t.1)).sum / 2 ^ 30 - y) ^ 2

/-- The figure of R169: within ±570 MHz of 1200 MHz the interpolation error lies 50 dB below the signal. -/
def ResampleFigures : Prop :=
  ∀ (frac : Nat) (f g : ℝ), 0 < frac → frac < 1280 → |f| ≤ 570 / 1200 →
    HasGain ((List.range 128).map fun k : Nat => ((k : Int) - 63, resampleTap frac k)) f
      (Real.cos (2 * Real.pi * f * (frac / 1280))) (Real.sin (2 * Real.pi * f * (frac / 1280))) g → g ≤ 1 / 10 ^ 5

/-- Table 09-2 for a slot of a bandwidth in 0.1 MHz and a decimation D: the chirp band, the guard band, the rest. -/
def ChannelFigures (band d : Nat) : Prop :=
  let at' := fun (f g : ℝ) =>
    HasGain ((List.range (12 * d)).map fun k : Nat => ((k : Int) - 6 * d, Config.channelTap band d k)) f 0 0 g
  (∀ f g : ℝ, |f| ≤ band / 24000 → at' f g → |10 * Real.logb 10 g| ≤ 5 / 100) ∧
  (∀ f g f' g' : ℝ, (band : ℝ) / 24000 ≤ f → f ≤ f' → f' ≤ band / 19200 → (at' f g ∧ at' f' g' ∨ at' (-f) g ∧ at' (-f') g') → g' ≤ g) ∧
  (∀ f g : ℝ, (band : ℝ) / 19200 ≤ |f| → |f| ≤ 1 / 2 → at' f g → g ≤ 1 / 10 ^ 6)

/-- The figures of R207 for one half-band stage, whose output rate is half its input rate: ±0.01 dB up to 0.40 of the output
rate, 80 dB against what aliases into that band. -/
def HalfbandFigures : Prop :=
  let at' := fun (f g : ℝ) => HasGain ((List.range 23).map fun k : Nat => ((k : Int) - 11, halfbandTap k)) f 0 0 g
  (∀ f g : ℝ, |f| ≤ 1 / 5 → at' f g → |10 * Real.logb 10 g| ≤ 1 / 100) ∧
  (∀ f g : ℝ, 3 / 10 ≤ |f| → |f| ≤ 1 / 2 → at' f g → g ≤ 1 / 10 ^ 8)

/-! ### Requests -/

/-- The unit is READY, and the request is for it on a live port (R96, Table 05-4, R114). -/
def Served (s : State) (o : Origin) : Prop := isReady s = true ∧ reaches s o = true

/-- As `Served`, for the opcodes that RECOVERY serves too (R49). -/
def ServedAlways (s : State) (o : Origin) : Prop := (isReady s = true ∨ inRecovery s = true) ∧ reaches s o = true

/-- The request did not come by broadcast: column 62 of Table 20-1 reads N. -/
def Single (o : Origin) : Prop := o.port = .uart ∨ o.addr ≠ 62

/-- A broadcast by the harness: column 62 reads 'only'. -/
def Broadcast (o : Origin) : Prop := o.port = .harness ∧ o.addr = 62

/-- Slot k is the lowest FREE one, and no RUNNING command holds what this one needs (R101, R102). -/
def Room (s : State) (r : Res) (k : Nat) : Prop := freeSlot s = some k ∧ held s r = false

/-- Slot k runs a command that holds a resource. -/
def occupy (k : Nat) (r : Res) (s : State) : State :=
  { s with brg := { s.brg with slots := s.brg.slots.set k (.running r) } }

/-- After the effect of an immediate command: its OK reply leaves, and the port's stored entry is gone (log 3). -/
def answered (o : Origin) (op : Nat) (payload : List Word) (t : State) : State :=
  deliver o op (okReply payload) (dropStored o.port t)

/-- After the start of a deferred command: its ACCEPTED reply with the slot in DETAIL leaves (R101). -/
def accepted (o : Origin) (op k : Nat) (t : State) : State :=
  deliver o op (reply stAccepted k []) (dropStored o.port t)

/-- After a refusal: the reply with its status and DETAIL leaves, and EV_CMD_REJECTED is posted where R97 raises it. -/
def refused (o : Origin) (op st detail : Nat) (s : State) : State :=
  let x := refuse op st detail s
  deliver o op x.1 (dropStored o.port x.2)

/-- Nothing refuses a request, and the command would be deferred (steps 3 to 8 of R96). -/
def MayDefer (h : Handler) (o : Origin) (p : List Word) (s : State) : Prop :=
  reaches s o = true ∧ (isReady s || (inRecovery s && h.recov)) = true ∧ h.lenOk p = true ∧ h.value s p = none ∧
    h.badState s o p = false ∧ h.denied s p = false ∧ h.defers s p ≠ none

/-- After a deferred command that finds no FREE slot: BUSY, and its event (R96 step 9). -/
def busied (o : Origin) (op : Nat) (s : State) : State :=
  deliver o op (reply stBusy 0 []) (dropStored o.port (post evDeferredOverflow op s))

/-- `u` is `t` after the reply `r` of a request has left; what the ports' stored entries then hold is left open. -/
def RepliesWith (o : Origin) (op : Nat) (r : Reply) (t u : State) : Prop :=
  ∃ h e, u = deliver o op r { t with brg := { t.brg with storedH := h, storedU := e } }

/-- The request ends in a next state, `s` after its refusal with this status and DETAIL (R97). -/
def RefusedWith (c : Instr) (o : Origin) (op st detail : Nat) (s : State) : Prop :=
  ∃ u, exec c s = .next u ∧ RepliesWith o op (refuse op st detail s).1 (refuse op st detail s).2 u

/-- What a request and its answer may touch beside the command's own effect: the event queue, the stored entries, the
slots, the replies, and the harness' reply counters. -/
def repliesOnly (s t : State) : State :=
  { s with
    evq := t.evq
    brg := { s.brg with storedH := t.brg.storedH, storedU := t.brg.storedU, slots := t.brg.slots, recent := t.brg.recent
                        replyH := t.brg.replyH, replyU := t.brg.replyU }
    harn := { s.harn with own := t.harn.own, replyDrop := t.harn.replyDrop } }

end Sys2Proof.Machine
end

