-- ==== Sys2Proof/Certificates/Slice0/Obligations.lean ====
section
/-!
DEFINITION. The statements for the provers. Where a request row is answered, `answered`, `accepted` and `refused` of
Safety.lean say what its reply does to the ports; that the port's stored entry is then gone is the model's choice
(log 3), on which no rule of the spec cited here rests.
-/
open Sys2Proof Sys2Proof.Machine

/-! ### The queue of commands -/

/-- A step takes the command at the front of the queue and runs it on the state with the rest of the queue. -/
def Obligations.StepRunsFront : Prop :=
  ∀ (c : Instr) (rest : List Instr) (s : State), s.pending = c :: rest → step s = exec c { s with pending := rest }

/-- On an empty queue one core cycle passes (the model's choice, log 1): the monotonic count, the time counter where the core
clock runs, the waiting timing symbols, waiting training, and on acquiring sides the one-second fading interval (R180). -/
def Obligations.EmptyQueueTicks : Prop :=
  ∀ s : State, s.pending = [] → ∃ t, step s = .next t ∧ t.tb.mono = s.tb.mono + 1 ∧
    t.tb.now = (if answers s then laterNow s.tb.now s.tb.part s.tb.y else s.tb.now) ∧ t.drawn = s.drawn + 2 ∧
    t.tb.part = (if answers s then laterPart s.tb.part s.tb.y else s.tb.part) ∧
    t = { s with tb := { s.tb with mono := t.tb.mono, now := t.tb.now, part := t.tb.part }, strm := t.strm, drawn := t.drawn
                 harn := { s.harn with timUp := t.harn.timUp, timDown := t.harn.timDown }
                 cur := t.cur, zones := t.zones, evq := t.evq } ∧
    (s.strm.trainWait = false → t.strm = s.strm) ∧
    (anyAcquiring s = false → t.cur = s.cur ∧ t.zones = s.zones ∧ (s.strm.trainWait = false → t.evq = s.evq))

/-- What only named commands change: no command touches the queue of commands; the live copy changes only whole, to the draft
as it stands after the command (R15, R27); MRAM's parameters, the volatile parameters, the draft copy, the Tack sets, the
address and the scratch registers stand under every command but those named. -/
def Obligations.OwnersOfState : Prop :=
  ∀ (c : Instr) (s t : State), exec c s = .next t →
    t.pending = s.pending ∧ (t.live = s.live ∨ t.live = t.draft) ∧
    (match c with
      | .paramSet _ _ | .tackProtectWrite _ _ | .memInitWrite _ _ | .requestReceived _ | .uartPacketReceived _ => True
      | _ => t.nv = s.nv) ∧
    (match c with
      | .paramSet _ _ | .evtMaskWrite _ _ _ | .uartCfgWrite _ _ | .adcCheckWrite _ _ | .adcCheckSet _ _ _
      | .adcCheckRetire _ _ _ | .adcCheckRestore _ _ _ | .adcCheckClear _ _ _ | .tbSelect _ _ | .tdcCfg _ _
      | .streamCfg _ _ | .memPlanWrite _ _ | .requestReceived _ | .uartPacketReceived _ | .vaonLoss | .resetNLow _
      | .brownout _ | .resetStart | .standbyPowerDown => True
      | _ => t.rw = s.rw) ∧
    (match c with
      | .routeSet _ _ | .scanSet _ _ | .zoneSet _ _ | .zoneClear _ _ | .trigSet _ _ | .slotSet _ _ | .curveLoad _ _
      | .auxXptSet _ _ | .auxSeqLoad _ _ | .auxLimitSet _ _ | .discard _ _ | .paramSet _ _ | .requestReceived _
      | .uartPacketReceived _ | .commitValidationDone | .dramTrainingDone _ _ | .vaonLoss | .resetNLow _ | .brownout _
      | .resetStart | .standbyPowerDown => True
      | _ => t.draft = s.draft) ∧
    (match c with
      | .tackSave _ _ | .tackSaveDone _ | .tackErase _ _ | .tackEraseDone | .mramScrub _ _ _ _ | .requestReceived _
      | .uartPacketReceived _ => True
      | _ => t.tacks.sets = s.tacks.sets) ∧
    (match c with
      | .chainEnumerate _ _ | .chainAddrSet _ _ | .replyPassingUp _ | .requestReceived _ | .uartPacketReceived _
      | .vaonPowerOn | .vaonLoss | .resetNLow _ | .brownout _ | .resetStart => True
      | _ => t.pwr.address = s.pwr.address) ∧
    (match c with
      | .paramSet _ _ | .requestReceived _ | .uartPacketReceived _ | .vaonPowerOn | .vaonLoss => True
      | _ => t.pwr.scratchLo = s.pwr.scratchLo ∧ t.pwr.scratchHi = s.pwr.scratchHi)

/-! ### Reset and the invariant -/

/-- The values that the spec gives for VAON power-on (R44, R62), and for the first start of everything else, every writable
parameter among it but CLK.PLL_CFG, which the reference sets (Obligations.StartUp); the output pins that `PinsInReset` and
`LinesInReset` of Safety.lean name, and TDO, in the reset states of Tables 02-3 to 02-7 (R30 to R33). That the DRAM's CS is
low and its DQ, DQS and DMI are at high impedance then is the model's choice (log 93, PRESUMED). That MRAM holds its
parameters' reset values is of the device as shipped. -/
def Obligations.ResetValues : Prop :=
  State.reset.pwr.dev = .vaonRise ∧ State.reset.pwr.pwrEn = false ∧ State.reset.pwr.wake = 8 ∧
  State.reset.pwr.scratchLo = 0 ∧ State.reset.pwr.scratchHi = 0 ∧ State.reset.pwr.address = 0 ∧
  State.reset.evq.q = [] ∧ State.reset.evq.lost = 0 ∧ State.reset.tb.set = false ∧
  State.reset.brg.slots = List.replicate 16 .free ∧ State.reset.brg.storedH = none ∧ State.reset.brg.storedU = none ∧
  State.reset.draft = State.reset.live ∧ State.reset.pending = [] ∧ PinsInReset State.reset ∧
  LinesInReset State.reset ∧ pinTdo State.reset = .hiZ ∧
  (∀ r ∈ pTable, r.acc = .rw → ∀ i, i < r.count → rwGet State.reset (r.id + i) = r.reset) ∧
  (∀ r ∈ pTable, r.acc = .rws → ∀ i, i < r.count → cfgGet State.reset.live (r.id + i) = r.reset) ∧
  (∀ r ∈ pTable, r.acc = .nv → ∀ i, i < r.count → nvGet State.reset (r.id + i) = r.reset)

/-- The state after reset meets the invariant of the machine. -/
def Obligations.ResetSound : Prop :=
Sound State.reset

/-- Every step of every command keeps the invariant: memory canonical, at most 1024 events with consecutive QSEQ, 16 slots,
and the other bounds of `Sound`. -/
def Obligations.StepKeepsSound : Prop :=
∀ s t : State, Sound s → step s = .next t → Sound t

/-! ### Rules of the control plane -/

/-- CRC-32C (R94): the division of the bits, least significant of each byte first, by 0x1EDC6F41 from all ones, its remainder
reflected and inverted; 0xE3069283 over "123456789"; a packet's covers header and payload; its four bytes come least
significant first. -/
def Obligations.CrcOfPackets : Prop :=
  let divide := fun (r : BitVec 32) (b : Bool) => (r <<< 1) ^^^ (if r.getLsbD 31 != b then 0x1EDC6F41 else 0)
  let bits := fun (l : List Byte) => l.flatMap fun b => (List.range 8).map fun i => b.getLsbD i
  (∀ (l : List Byte) (i : Nat), i < 32 →
    (crc32c l).getLsbD i = !((bits l).foldl divide 0xFFFFFFFF).getLsbD (31 - i)) ∧
  crc32c [0x31, 0x32, 0x33, 0x34, 0x35, 0x36, 0x37, 0x38, 0x39] = 0xE3069283 ∧
  (∀ (k : Packet) (a : BitVec 6) (r : Reply),
    packetCrc k = crc32c (wordBytes (packetHeader k) ++ k.payload.flatMap wordBytes) ∧
    (replyPacket k a r).crc = packetCrc (replyPacket k a r)) ∧
  (∀ (l : List Byte) (w : Bool) (i : Nat), l.length = 12 + 8 * (l.getD 3 0).toNat → i < 32 →
    (uartPacket l w).crc.getLsbD i = (l.getD (l.length - 4 + i / 8) 0).getLsbD (i % 8))

/-- The queue keeps posting order (R17, R396): a posting enters at the end with the next QSEQ; a full queue keeps what it
holds and counts; a discarded event leaves no trace in it. -/
def Obligations.PostingOrder : Prop :=
  ∀ (n d : Nat) (tag : Word) (s : State),
    (s.evq.q.length < 1024 → discarded s n = false → (postAt n d tag s).evq.q = s.evq.q ++
        [{ tag := tag, event := n, unset := !s.tb.set, detail := BitVec.ofNat 16 d, qseq := s.evq.next }] ∧
      (postAt n d tag s).evq.next = s.evq.next + 1 ∧ (postAt n d tag s).evq.lost = s.evq.lost) ∧
    (1024 ≤ s.evq.q.length → discarded s n = false → (postAt n d tag s).evq.q = s.evq.q ∧
      (postAt n d tag s).evq.next = s.evq.next ∧ (postAt n d tag s).evq.lost = min (s.evq.lost + 1) 65535) ∧
    (discarded s n = true → (postAt n d tag s).evq.q = s.evq.q ∧ (postAt n d tag s).evq.next = s.evq.next ∧
      (postAt n d tag s).evq.lost = s.evq.lost)

/-- Events leave the queue only by EVENT_ACK and by what resets it (R396, R397, Table 03-4): every other command leaves the
queue as a prefix of the new one, each new entry behind. -/
def Obligations.EventsStayQueued : Prop :=
  ∀ (c : Instr) (s t : State), exec c s = .next t →
    (match c with
      | .eventAck _ _ | .vaonLoss | .resetNLow _ | .brownout _ | .resetStart | .standbyPowerDown => False
      | .requestReceived k => k.opcode ≠ 9
      | .uartPacketReceived raw => (uartParse raw).opcode ≠ 9
      | _ => True) → s.evq.q <+: t.evq.q

/-- A rejected request, by the harness or by the management UART, changes nothing but the stored entry (R96, R98): beside it
only its event (R97), its reply and the model's count of free values differ. A RESULT that a DONE slot answers delivers that
slot's status and is no rejection; every other RESULT with such a status is one. -/
def Obligations.RejectionChangesNothing : Prop :=
  let rejected := fun (o : Origin) (k : Packet) (s : State) =>
    (respond o k s).1.status.toNat ∈ [0x02, 0x10, 0x11, 0x12, 0x13, 0x30, 0x40] ∧
    (k.opcode = 0x0A → k.payload.length = 1 → within 0xF (wd k.payload 0) = true → headerBad k = false → Single o →
      ∀ st res, s.brg.slots.getD (fld (wd k.payload 0) 3 0) .free ≠ .done st res)
  (∀ (k : Packet) (s : State), k.isReply = false → portLive s .harness = true → mine s k = true → packetOk k = true →
    retryOf s .harness k = none → rejected (originOf .harness k) k (arrived k s) →
    ∃ t, exec (.requestReceived k) s = .next t ∧ t = { s with
      evq := t.evq, drawn := s.drawn + 1
      brg := { s.brg with storedH := t.brg.storedH, replyH := t.brg.replyH }
      harn := { s.harn with
        own := t.harn.own, claim := t.harn.claim, replyDrop := t.harn.replyDrop, outUp := t.harn.outUp
        lineUp := t.harn.lineUp } }) ∧
  (∀ (raw : List Byte) (s : State), raw ≠ [] → (uartParse raw).isReply = false → portLive s .uart = true →
    packetOk (uartParse raw) = true → retryOf s .uart (uartParse raw) = none →
    rejected (originOf .uart (uartParse raw)) (uartParse raw) s →
    ∃ t, exec (.uartPacketReceived raw) s = .next t ∧ t = { s with
      evq := t.evq, drawn := s.drawn + 1
      brg := { s.brg with
        storedU := t.brg.storedU, replyU := t.brg.replyU, sentU := t.brg.sentU, lineU := t.brg.lineU } })

/-- A request by packet (R96, R98): an intact one for this unit is answered by its opcode's checks and kept with its reply in
the port's stored entry; a retry of the stored one gets the stored reply and changes nothing else; a reply by the UART leaves
framed and stuffed (R114). Broken requests (R94, R96, R115): a packet with a bad CRC is counted and answered CRC_ERROR, no
command runs; the UART reports framing errors, gaps and bad CRCs by their kind. -/
def Obligations.PacketsAnswered : Prop :=
  (∀ s : State,
     (∀ k, k.isReply = false → portLive s .harness = true → mine s k = true → packetOk k = true →
       retryOf s .harness k = none → ∃ t, exec (.requestReceived k) s = .next t ∧
         t.brg.storedH = some { seq := k.seq, op := k.opcode, crc := matchCrc k
                                addr := if k.opcode = 0x19 then t.pwr.address else s.pwr.address
                                reply := (respond (originOf .harness k) k (arrived k s)).1 }) ∧
     (∀ k e, k.isReply = false → portLive s .harness = true → mine s k = true → packetOk k = true →
       retryOf s .harness k = some e → exec (.requestReceived k) s =
         .next (sendReply (originOf .harness k) k e.addr e.reply (againDue (originOf .harness k) k e.reply
           { arrived k s with drawn := s.drawn + 1 }))) ∧
     (∀ k, k.isReply = true → exec (.requestReceived k) s = .next s) ∧
     (∀ raw, raw ≠ [] → (uartParse raw).isReply = false → portLive s .uart = true → packetOk (uartParse raw) = true →
       retryOf s .uart (uartParse raw) = none → ∃ t, exec (.uartPacketReceived raw) s = .next t ∧
         t.brg.storedU.map (·.reply) = some (respond (originOf .uart (uartParse raw)) (uartParse raw) s).1 ∧
         t.brg.replyU = some (respond (originOf .uart (uartParse raw)) (uartParse raw) s).1 ∧
         (portLive t .uart = true → ∃ x, t.brg.sentU = some x ∧ t.brg.lineU = uartFrame x ∧
           x.payload = (respond (originOf .uart (uartParse raw)) (uartParse raw) s).1.payload) ∧
         (bit (rwGet t 0x9000) 4 = false → t.brg.lineU = []))) ∧
  (∀ s : State,
     (∀ k, k.isReply = false → portLive s .harness = true → mine s k = true → packetOk k = false →
       ∃ t, exec (.requestReceived k) s = .next t ∧ t.harn.upCrc = sat 16 (s.harn.upCrc + 1) ∧
         t.evq = (post evChainCrc 0 s).evq ∧ t.brg.storedH = s.brg.storedH ∧ t.brg.slots = s.brg.slots ∧
         (k.addr ≠ 62 → s.harn.upBusy ≤ s.tb.mono → t.brg.replyH = some (reply stCrcError 0 []))) ∧
     (∀ raw, raw ≠ [] → (uartParse raw).isReply = false → portLive s .uart = true → packetOk (uartParse raw) = false →
       ∃ t, exec (.uartPacketReceived raw) s = .next t ∧ t.evq = (post evMgtUartErr 2 s).evq ∧
         t.brg.replyU = some (reply stCrcError 0 []) ∧ t.brg.storedU = s.brg.storedU ∧ t.brg.slots = s.brg.slots) ∧
     (portLive s .uart = true → exec .uartGapTimeout s = .next (post evMgtUartErr 1 s) ∧
       exec .uartFramingError s = .next (post evMgtUartErr 0 s)))

/-- LASER_OK and ATTN_N (R141, R398). -/
def Obligations.StatusPins : Prop :=
  ∀ s : State,
    (laserOk s = true ↔ s.pwr.laserEn = true ∧ s.pll.state = .locked ∧ s.pwr.vcore = true ∧
      ∀ d, (s.lash.get d).gate ≠ .openLoad ∧ (s.lash.get d).gate ≠ .short ∧ (s.lash.get d).dacFault = false) ∧
    (attn s = true ↔ s.pwr.dev = .ready ∧ ∃ e ∈ s.evq.q, pairBit (rwGet s 0x0050) (rwGet s 0x0051) e.event = false)

/-! ### Frames of requests -/

/-- Requests that read leave everything but replies and events as it is, whatever they answer. -/
def Obligations.ReadsLeaveState : Prop :=
  ∀ (o : Origin) (p : List Word) (w : Word) (c : Instr) (s t : State),
    c ∈ [.nop o p, .identify o p, .paramGet o p, .eventRead o p, .tackInfo o p, .chainLoopback o p, .routeGet o p,
      .scanGet o p, .zoneGet o p, .trigGet o p, .slotGet o p, .emitDiagRead o w, .auxRead o p, .timeGet o p,
      .dmaStatus o p, .calRead o p, .calQuality o p, .healthRead o p, .logRead o p, .lifetimeRead o p] →
    exec c s = .next t → t = repliesOnly s t ∧ t.brg.slots = s.brg.slots ∧ s.evq.q <+: t.evq.q

/-- Requests that write the draft copy leave everything but it, replies and events as it is, the live copy above all (R27).
-/
def Obligations.DraftWritersLeaveRest : Prop :=
  ∀ (o : Origin) (p : List Word) (c : Instr) (s t : State),
    c ∈ [.routeSet o p, .scanSet o p, .zoneSet o p, .zoneClear o p, .trigSet o p, .slotSet o p, .curveLoad o p,
      .auxXptSet o p, .auxSeqLoad o p, .auxLimitSet o p, .discard o p] →
    exec c s = .next t → t = { repliesOnly s t with draft := t.draft } ∧ t.brg.slots = s.brg.slots ∧
      (draftLocked s = true → t.draft = s.draft)

/-- MEM_WRITE stores its words at its address and nowhere else (R343): every other byte reads as before, and beside memory
only replies and events differ. -/
def Obligations.MemWriteFrame : Prop :=
  ∀ (o : Origin) (p : List Word) (s t : State), exec (.memWrite o p) s = .next t →
    (∀ a, a < memAddr p ∨ memAddr p + 8 * (p.length - 1) ≤ a → memGet t.mem.bytes a = memGet s.mem.bytes a) ∧
    (t.mem.bytes ≠ s.mem.bytes → Sound s → ∀ i, i < 8 * (p.length - 1) →
      memGet t.mem.bytes (memAddr p + i) = ((p.drop 1).flatMap wordBytes).getD i 0) ∧
    t = { repliesOnly s t with mem := { s.mem with
      bytes := t.mem.bytes, tileOwn := t.mem.tileOwn, selfRefresh := t.mem.selfRefresh } }

/-! ### Requests that read -/

/-- The requests that only report: their replies, and that nothing else changes (R408 to R410, R112, R280, R416). In
RECOVERY, IDENTIFY answers as in READY, and STATUS frees the DONE slot that it names (R49, R410). -/
def Obligations.QueriesAnswer : Prop :=
  (∀ (o : Origin) (s : State), Served s o →
     exec (.nop o []) s = .next (answered o 0x00 [] s) ∧
     exec (.identify o []) s = .next (answered o 0x01 (identity s (o.port == .uart)) s) ∧
     exec (.status o []) s = .next (answered o 0x02 (statusWords s) s) ∧
     exec (.tackInfo o []) s = .next (answered o 0x12 ((List.range 4).map (tackWord s)) s) ∧
     exec (.timeGet o []) s = .next (answered o 0x61 [now s, tbStatus s] s) ∧
     exec (.lifetimeRead o []) s = .next (answered o 0xA8 (s.can.life.map (BitVec.ofNat 64)) s) ∧
     ∀ p : List Word, p.length ≤ 32 → exec (.chainLoopback o p) s = .next (answered o 0x1B p s)) ∧
  (∀ (o : Origin) (s : State), inRecovery s = true → reaches s o = true →
     exec (.identify o []) s = .next (answered o 0x01 (identity s (o.port == .uart)) s) ∧
     (lastDone s = none → exec (.status o []) s = .next (answered o 0x02 (statusWords s) s)) ∧
     ∀ x, lastDone s = some x → exec (.status o []) s = .next (answered o 0x02 (statusWords s) (slotFree x.1 s)))

/-- The requests that read a record or a status by number: what is read, from which copy, with no change of state. LOG_READ,
in READY and in RECOVERY (R383, R49): entries from START on, oldest first. -/
def Obligations.RecordsAnswer : Prop :=
  (∀ (o : Origin) (w : Word) (s : State), Served s o →
     (within 0x10007 w = true → exec (.routeGet o [w]) s = .next (answered o 0x21
       (routeRec (if bit w 16 then s.draft else cfgOf s (routeSide (fld w 2 0))) (fld w 2 0)) s)) ∧
     (within 0x10001 w = true → exec (.scanGet o [w]) s = .next (answered o 0x23
       (let d := sideOf (fld w 0 0)
        let l := scanOf (if bit w 16 then s.draft else cfgOf s d) d
        mk [(0, 1, d.num), (8, 5, l.length)] :: l) s)) ∧
     (within 0x101FF w = true → exec (.zoneGet o [w]) s = .next (answered o 0x25
       (zoneRec (zoneCopy s w (fld w 8 0)) (fld w 8 0)) s)) ∧
     (within 0x101FF w = true → exec (.trigGet o [w]) s = .next (answered o 0x36
       (trigRec (zoneCopy s w (fld w 8 0)) (fld w 8 0) ++ [trigState s (fld w 8 0)]) s)) ∧
     (within 0x1000F w = true → exec (.slotGet o [w]) s = .next (answered o 0x41
       (slotRec (if bit w 16 then s.draft else cfgOf s (sideOf (fld w 3 3))) (sideOf (fld w 3 3)) (fld w 2 0)) s)) ∧
     (within 0x1F3F w = true → fld w 12 8 ≤ 15 → fld w 5 0 + fld w 12 8 ≤ 64 →
       exec (.auxRead o [w]) s = .next (answered o 0x52 (seqStatus s :: (List.range (fld w 12 8)).flatMap fun i =>
         [(auxEntry s (fld w 5 0 + i)).word0, (auxEntry s (fld w 5 0 + i)).word1]) s)) ∧
     (within 0x1FF w = true → fld w 3 0 + fld w 8 4 ≤ 16 → exec (.dmaStatus o [w]) s = .next (answered o 0x74
       ((List.range (fld w 8 4)).map fun i => dmaStatus s (fld w 3 0 + i)) s)) ∧
     (within 0x1F w = true → fld w 4 0 ≤ 16 →
       exec (.calRead o [w]) s = .next (answered o 0x91 (calRecord s (fld w 4 0)) s) ∧
       exec (.calQuality o [w]) s = .next (answered o 0x93 (
         let g := fld w 4 0
         let c := calGroup s g
         let n := if g < 8 then 4 else if g = 11 || g = 12 then 3 else if g = 13 || g = 14 then 1 else 2
         [mk [(0, 5, g), (8, 1, b2n (c.low != 0)), (9, 1, b2n c.kept), (16, 16, sbits 16 c.temp), (32, 32, c.seconds.toNat)],
          mk ((List.range n).map fun i => (16 * i, 16, sat 16 (c.figures.getD i 0))),
          if g < 8 then mk ((List.range 8).map fun p => (2 * p, 2, (lane s g).verdicts.getD p 0))
          else 0]) s)) ∧
     (within 3 w = true → exec (.healthRead o [w]) s = .next (answered o 0xA0
       (match fld w 1 0 with
         | 0 => s.can.digest
         | 1 => quads (s.can.temps.map (sbits 16))
         | 2 => quads s.can.volts
         | _ => quads (s.can.procs.map (sbits 16))) s))) ∧
  (∀ (o : Origin) (w : Word) (s : State), ServedAlways s o →
     (within 0xFFFFFFFFF w = true → fld w 35 32 = 0 →
       exec (.logRead o [w]) s = .next (answered o 0xA1 [mk [(0, 32, (logOldest s).toNat)]] s)) ∧
     (within 0xFFFFFFFFF w = true → fld w 35 32 ≠ 0 → logSkip s (BitVec.ofNat 32 (fld w 31 0)) = none →
       exec (.logRead o [w]) s = .next (answered o 0xA1 [mk [(0, 32, s.can.logNext.toNat)]] s)) ∧
     (∀ k, within 0xFFFFFFFFF w = true → fld w 35 32 ≠ 0 → logSkip s (BitVec.ofNat 32 (fld w 31 0)) = some k →
       exec (.logRead o [w]) s = .next (answered o 0xA1
         (mk [(0, 32, (logOldest s + BitVec.ofNat 32 k).toNat), (32, 4, ((s.can.log.drop k).take (fld w 35 32)).length)] ::
           ((s.can.log.drop k).take (fld w 35 32)).flatMap fun e => [e.word0, e.word1]) s)))

/-- Events are read oldest first and nothing is removed (R396); an acknowledgement removes the entries up to UPTO (R397), and
one behind the oldest removes none. -/
def Obligations.EventReadAndAck : Prop :=
  ∀ (o : Origin) (w : Word) (s : State), Served s o →
    (within 0xF w = true → exec (.eventRead o [w]) s = .next (answered o 0x08
      (eventWord s (min (fld w 3 0) s.evq.q.length) :: (s.evq.q.take (fld w 3 0)).flatMap entryWords) s)) ∧
    (within 0xFFFF w = true → Single o → ackDistance s w < s.evq.q.length →
      exec (.eventAck o [w]) s = .next (
        let t := { s with evq := { s.evq with q := s.evq.q.drop (ackDistance s w + 1) } }
        answered o 0x09 [eventWord t 0] t)) ∧
    (within 0xFFFF w = true → Single o → s.evq.q.length ≤ ackDistance s w → 64512 ≤ ackDistance s w →
      exec (.eventAck o [w]) s = .next (answered o 0x09 [eventWord s 0] s)) ∧
    (within 0xFFFF w = true → Single o → s.evq.q.length ≤ ackDistance s w → ackDistance s w < 64512 →
      exec (.eventAck o [w]) s = .next (refused o 0x09 0x12 0 s))

/-- RESULT (R412, Table 06-3): a DONE slot gives its status and result and becomes FREE, a RUNNING one answers ACCEPTED and
stays, a FREE one is BAD_STATE. -/
def Obligations.ResultDelivers : Prop :=
  ∀ (o : Origin) (w : Word) (s : State), Served s o → Single o → within 0xF w = true →
    (∀ st res, s.brg.slots.getD (fld w 3 0) .free = .done st res →
      exec (.result o [w]) s = .next (deliver o 0x0A { status := st, detail := 0, payload := res }
        (dropStored o.port (slotFree (fld w 3 0) s)))) ∧
    (∀ r, s.brg.slots.getD (fld w 3 0) .free = .running r →
      exec (.result o [w]) s = .next (accepted o 0x0A (fld w 3 0) s)) ∧
    (s.brg.slots.getD (fld w 3 0) .free = .free → exec (.result o [w]) s = .next (refused o 0x0A 0x13 0 s))

/-! ### Requests that write -/

/-- The commands that write a staged record enter it into the draft copy alone (R27, R121, R123, R132, R197, R201, R202,
R244, R305); DISCARD copies the live copy back (R108). -/
def Obligations.DraftWrites : Prop :=
  ∀ (o : Origin) (p : List Word) (s : State), Served s o → draftLocked s = false →
    (p.length = 2 → routeBad (wd p 0) (wd p 1) = none → exec (.routeSet o p) s = .next (answered o 0x20 []
      { s with draft := { s.draft with
          routes := kvSet [] s.draft.routes (fld (wd p 0) 2 0) (if fld (wd p 0) 24 8 = 0 then [] else p) } })) ∧
    (p.length = 1 + fld (wd p 0) 12 8 → within 0x1F01 (wd p 0) = true → fld (wd p 0) 12 8 ≤ 16 →
      ((p.drop 1).findIdx? scanBad) = none → exec (.scanSet o p) s = .next (answered o 0x22 []
      { s with draft := { s.draft with scans := kvSet [] s.draft.scans (fld (wd p 0) 0 0) (p.drop 1) } })) ∧
    (lenTimes 3 10 p = true → recordsFault 3 zoneKey (fun r => zoneBad (wd r 0) (wd r 1) (wd r 2)) p = none →
      exec (.zoneSet o p) s = .next (answered o 0x24 []
      { s with draft := { s.draft with zones := putRecords 3 zoneKey noDefault p s.draft.zones } })) ∧
    (lenTimes 2 16 p = true → recordsFault 2 zoneKey (fun r => trigBad (wd r 0) (wd r 1)) p = none →
      exec (.trigSet o p) s = .next (answered o 0x35 []
      { s with draft := { s.draft with trigs := putRecords 2 zoneKey trigDefault p s.draft.trigs } })) ∧
    (lenTimes 2 16 p = true → recordsFault 2 slotKey (fun r => slotBad (wd r 0) (wd r 1)) p = none →
      exec (.slotSet o p) s = .next (answered o 0x40 []
      { s with draft := { s.draft with slots := putRecords 2 slotKey slotDefault p s.draft.slots } })) ∧
    (p.length = 1 + curveWords (wd p 0) → curveBad (wd p 0) = false → curveTail p = 0 →
      exec (.curveLoad o p) s = .next (answered o 0x42 []
      { s with draft := { s.draft with curves := kvSet [] s.draft.curves (fld (wd p 0) 4 0) p } })) ∧
    (p.length = 1 + fld (wd p 0) 8 4 → within 0x1FF (wd p 0) = true → fld (wd p 0) 3 0 + fld (wd p 0) 8 4 ≤ 16 →
      ((p.drop 1).findIdx? fun w => !xptOk w) = none → exec (.auxXptSet o p) s = .next (answered o 0x50 []
      { s with draft := putParams (0x5810 + fld (wd p 0) 3 0) (p.drop 1) s.draft })) ∧
    (p.length = 1 + fld (wd p 0) 13 8 → within 0x3F3F (wd p 0) = true → fld (wd p 0) 5 0 + fld (wd p 0) 13 8 ≤ 64 →
      ((p.drop 1).findIdx? seqBad) = none → exec (.auxSeqLoad o p) s = .next (answered o 0x51 []
      { s with draft := { s.draft with seq := putSeq (fld (wd p 0) 5 0) (p.drop 1) s.draft.seq } })) ∧
    (p.length = 1 + limCount p + 4 * fld (wd p 0) 16 16 → within 0x101FF (wd p 0) = true →
      fld (wd p 0) 3 0 + limCount p ≤ 16 →
      (∀ i, 0 < i → i < p.length → pOk (if i ≤ limCount p then 0x5840 else 0x5860) (wd p i) = true) →
      exec (.auxLimitSet o p) s = .next (answered o 0x53 []
      { s with
        draft := putParams 0x5860 (p.drop (1 + limCount p))
          (putParams (0x5840 + fld (wd p 0) 3 0) ((p.drop 1).take (limCount p)) s.draft) })) ∧
    (p = [] → exec (.discard o p) s = .next (answered o 0x07 [] { s with draft := s.live }))

/-- ZONE_CLEAR (R202): it deletes zones FIRST to FIRST + COUNT − 1 from the draft copy, defined or not, and COUNT = 0 none;
FIRST + COUNT above 512 is BAD_VALUE; while the draft is locked it is BAD_STATE, with COUNT = 0 too. -/
def Obligations.ZonesCleared : Prop :=
  ∀ (o : Origin) (w : Word) (s : State), Served s o → within 0x3FF01FF w = true →
    (fld w 8 0 + fld w 25 16 ≤ 512 → draftLocked s = false →
      ∃ zs u, exec (.zoneClear o [w]) s = .next u ∧
        RepliesWith o 0x26 (okReply []) { s with draft := { s.draft with zones := zs } } u ∧
        ∀ z, kvGet [] zs z = if fld w 8 0 ≤ z ∧ z < fld w 8 0 + fld w 25 16 then [] else kvGet [] s.draft.zones z) ∧
    (512 < fld w 8 0 + fld w 25 16 → RefusedWith (.zoneClear o [w]) o 0x26 0x12 0 s) ∧
    (fld w 8 0 + fld w 25 16 ≤ 512 → draftLocked s = true → RefusedWith (.zoneClear o [w]) o 0x26 0x13 0 s)

/-- Parameters are read as R105 says: any number of IDs up to 32 words, each from the copy it selects. A write of one
parameter (R105): an RWS value enters the draft copy, an MRAM one MRAM, the scratch registers the island, and a volatile one
without a side effect of its own the volatile store. Every pair of a request enters, in order, at one instant; a request in
fault enters none (R105). -/
def Obligations.ParameterAccess : Prop :=
  (∀ (o : Origin) (p : List Word) (s : State), Served s o → p.length ≤ 32 →
     (∀ w ∈ p, within 0x1FFFF w = true ∧ (pRow (fld w 15 0)).isSome = true) →
     exec (.paramGet o p) s = .next (answered o 0x04 (p.map fun w => readParam s (bit w 16) (fld w 15 0)) s)) ∧
  (∀ (o : Origin) (id v : Word) (s : State), Served s o → within 0xFFFF id = true → pOk (fld id 15 0) v = true →
     (accessOf (fld id 15 0) = .rws → draftLocked s = false → exec (.paramSet o [id, v]) s =
       .next (answered o 0x05 [] { s with draft := putParam (fld id 15 0) v s.draft })) ∧
     (accessOf (fld id 15 0) = .nv → exec (.paramSet o [id, v]) s =
       .next (answered o 0x05 [] { s with nv := kvSet (pReset (fld id 15 0)) s.nv (fld id 15 0) v })) ∧
     (fld id 15 0 = 0x0011 → exec (.paramSet o [id, v]) s =
       .next (answered o 0x05 [] { s with pwr := { s.pwr with scratchLo := v } })) ∧
     (fld id 15 0 = 0x0012 → exec (.paramSet o [id, v]) s =
       .next (answered o 0x05 [] { s with pwr := { s.pwr with scratchHi := v } })) ∧
     (accessOf (fld id 15 0) = .rw →
       pBase (fld id 15 0) ∉ [0x4021, 0x5040, 0x6000, 0x6001, 0x7000, 0x7102, 0x8001] →
       exec (.paramSet o [id, v]) s =
       .next (answered o 0x05 [] { s with rw := kvSet (pReset (fld id 15 0)) s.rw (fld id 15 0) v }))) ∧
  (∀ (o : Origin) (p : List Word) (s : State), Served s o → p.length % 2 = 0 → p.length ≤ 32 →
     (pairFault s (pairs p) = none → (pairs p).any (pairBusy s) = false → movesPll s p = false →
       pairsConflict s (pairs p) = false →
       exec (.paramSet o p) s = .next (answered o 0x05 []
         (planes (fun u => (pairs p).foldl (fun t x => writeParam (pairId x) x.2 t) u) s))) ∧
     (∀ i, pairFault s (pairs p) = some i → exec (.paramSet o p) s = .next (refused o 0x05 0x12 i s)))

/-- The writes with rows of their own: SYS.TACK_PROTECT, EVT.MASK, MGT.UART_CFG, MEM.INIT, and MEM.PLAN, ADC.CHECK,
AUX.SEQ_KICK, TB.CTRL, TDC.IN_n and STREAM.CFG with what their write does at once (R113, R398, R114, R329, R334, R158, R295,
R273, R285, R325). CLK.PLL_CFG (R67, R68): a write of ICP alone takes effect at once; one that changes N or REF_MULT is
deferred, the change begins, and no SYNC counts any more. -/
def Obligations.OwnRowWrites : Prop :=
  (∀ (o : Origin) (v w : Word) (s : State), Served s o →
     (within 0xF v = true → exec (.tackProtectWrite o v) s =
       .next (answered o 0x05 [] { s with nv := kvSet 0 s.nv 0x0031 v })) ∧
     exec (.evtMaskWrite o v w) s = .next (answered o 0x05 [] { s with
       rw := kvSet 0x8439063071850891 (kvSet 0xA83121B9D1510000 s.rw 0x0050 v) 0x0051 w }) ∧
     (within 0x1F v = true → fld v 3 0 ≤ 7 → exec (.uartCfgWrite o v) s =
       .next (answered o 0x05 [] { s with rw := kvSet 0x14 s.rw 0x9000 v })) ∧
     (within 7 v = true → exec (.memInitWrite o v) s =
       .next (answered o 0x05 [] { s with nv := kvSet 3 s.nv 0x7100 v })) ∧
     (within 0xFFFF v = true → planBusy s = false → planConflict s v = false → exec (.memPlanWrite o v) s =
       .next (answered o 0x05 [] (planes (planWrite v) s))) ∧
     (pOk 0x5040 v = true → exec (.adcCheckWrite o v) s = .next (answered o 0x05 [] (planes (writeCheck v) s))) ∧
     (within 1 v = true → exec (.auxSeqKick o v) s = .next (answered o 0x05 []
       (if bit v 0 && auxSource (cfgFree s) = 0 then planes auxTrigger s else s))) ∧
     (pOk 0x6000 v = true → exec (.tbSelect o [v]) s = .next (answered o 0x62 []
       (tbWritten { s with rw := kvSet 0x03E80006 s.rw 0x6000 v }))) ∧
     (within 0xF w = true → fld w 3 0 ≤ 10 → pOk (0x6020 + fld w 3 0) v = true → exec (.tdcCfg o [w, v]) s =
       .next (answered o 0x63 [] { s with rw := kvSet (pReset (0x6020 + fld w 3 0)) s.rw (0x6020 + fld w 3 0) v })) ∧
     (pOk 0x7000 v = true → s.mem.usable = true → streamBusy s v = false → pairsConflict s [(0x7000, v)] = false →
       exec (.streamCfg o [v]) s = .next (answered o 0x70 [] (planes (writeStreamCfg v) s)))) ∧
  (∀ (o : Origin) (s : State), Served s o → pllLocked s = true → s.pll.change = none →
     (∀ icp : BitVec 6, let v := mk [(0, 10, pllN s.pll.cfg), (10, 2, pllMult s.pll.cfg), (12, 6, icp.toNat)]
       pllOk s v = true → exec (.pllCfgIcpWrite o icp) s =
         .next (answered o 0x05 [] { s with pll := { s.pll with cfg := v } })) ∧
     (∀ (v : Word) (k : Nat), pllOk s v = true → pllMoves s v = true → anyAcquiring s = false →
       anyAccumulating s = false → Room s .pll k → exec (.pllDividerChange o v) s =
         .next (accepted o 0x05 k (occupy k .pll { s with pll := { s.pll with
           change := some { old := s.pll.cfg, restoring := false }, cfg := v, synced := false, phaseKnown := false } }))))

/-- DTS_REF_SET (R229): TEMP from 200,000 to 400,000 replaces Tref at once and its age restarts, counted from the device's
own clock; any other TEMP, or a reserved bit, is BAD_VALUE; a completion latches Tref and the age. -/
def Obligations.ReferenceTemperatureSet : Prop :=
  ∀ (o : Origin) (w : Word) (s : State), Served s o →
    (within 0xFFFFFFFF00000001 w = true → 200000 ≤ fld w 63 32 → fld w 63 32 ≤ 400000 →
      ∃ u, exec (.dtsRefSet o [w]) s = .next u ∧ RepliesWith o 0x55 (okReply [])
        (setTherm (sideOf (fld w 0 0)) (fun t => { t with tref := fld w 63 32, refAt := s.tb.mono, staleUp := false }) s)
        u) ∧
    (within 0xFFFFFFFF00000001 w = false ∨ fld w 63 32 < 200000 ∨ 400000 < fld w 63 32 →
      RefusedWith (.dtsRefSet o [w]) o 0x55 0x12 0 s) ∧
    (∀ p : List Word, p.length ≠ 1 → RefusedWith (.dtsRefSet o p) o 0x55 0x11 0xFF s) ∧
    ∀ d : Side, thShots (cfgOf s d) d ≤ (s.therm.get d).shots → (s.therm.get d).comp = none →
      ∃ t x, exec (.accumulationComplete d) s = .next t ∧ (t.therm.get d).comp = some x ∧
        x.tref = (s.therm.get d).tref ∧ x.age = (s.tb.mono - (s.therm.get d).refAt) / sCycles

/-- CHAIN_ENUMERATE (R82, R414): only by broadcast; the reply adds this unit; CLEAR = 1 clears the last unit's address at
once, every other's when it has added itself to the reply from below. CHAIN_ADDR_SET (R81, R415): the new address, 1 to 31,
takes effect with EV_ADDR_ASSIGNED; the present one changes nothing; the reply is the identity record with the address set;
any other value is BAD_VALUE. That the UART's CHAIN_ADDR_SET of the present address raises no event either is the model's
choice (log 104). -/
def Obligations.AddressRequests : Prop :=
  (∀ (o : Origin) (w : Word) (s : State), Served s o → within 1 w = true →
     (Broadcast o → exec (.chainEnumerate o [w]) s = .next (answered o 0x18 [enumAdd s.pwr.address 0]
       (if isLast s then { s with pwr := { s.pwr with address := if bit w 0 then 0 else s.pwr.address } }
        else { s with harn := { s.harn with clearDue := bit w 0 } }))) ∧
     (¬ Broadcast o → exec (.chainEnumerate o [w]) s = .next (refused o 0x18 0x13 0 s))) ∧
  (∀ (o : Origin) (w : Word) (s : State), Served s o → Single o →
     (within 0x3F w = true → 1 ≤ fld w 5 0 → fld w 5 0 ≤ 31 → s.pwr.address.toNat ≠ fld w 5 0 →
       let t := post evAddrAssigned (fld w 5 0) { s with pwr := { s.pwr with address := BitVec.ofNat 6 (fld w 5 0) } }
       exec (.chainAddrSet o [w]) s = .next (answered o 0x19 (identity t (o.port == .uart)) t)) ∧
     (within 0x3F w = true → 1 ≤ fld w 5 0 → fld w 5 0 ≤ 31 → s.pwr.address.toNat = fld w 5 0 →
       exec (.chainAddrSet o [w]) s = .next (answered o 0x19 (identity s (o.port == .uart)) s)) ∧
     (fld w 5 0 = 0 ∨ 32 ≤ fld w 5 0 → exec (.chainAddrSet o [w]) s = .next (refused o 0x19 0x12 0 s)))

/-! ### Requests that start work -/

/-- A deferred command takes the lowest-numbered FREE slot and answers ACCEPTED; its work begins: COMMIT, TACK_LOAD,
TACK_SAVE, TACK_ERASE, LOG_CLEAR, CHAIN_DELAY_MEASURE (R101, R107, R112, R383, R87). With every slot taken, each row that may
be deferred is BUSY where nothing else refuses it: no effect, and EV_DEFERRED_OVERFLOW with its opcode (R96 step 9). -/
def Obligations.DeferredStarts : Prop :=
  (∀ (o : Origin) (w : Word) (s : State) (k : Nat), Served s o →
     (draftLocked s = false → Room s .draft k → exec (.commit o []) s = .next (accepted o 0x06 k
       { s with brg := { s.brg with slots := s.brg.slots.set k (.running .draft), gate := .validating none } })) ∧
     (draftLocked s = false → Room s .draft k → s.can.running = true → within 0x103 w = true →
       exec (.tackLoad o [w]) s = .next (accepted o 0x10 k
       { s with brg := { s.brg with
           slots := s.brg.slots.set k (.running .draft)
           gate := .validating (some { set := fld w 1 0, withCal := bit w 8 }) } })) ∧
     (Room s .tack k → s.can.running = true → within 0x303 w = true → tackProtected s (fld w 1 0) = false →
       (bit w 9 = true → draftLocked s = false) → exec (.tackSave o [w]) s = .next (accepted o 0x11 k
       (setTack (fld w 1 0) (fun x => TackSet.spoil { x with
           erased := false, format := Config.tackFormat.toNat, member := 0x4880
           cfg := if bit w 9 then s.draft else liveCopy s
           cal := if bit w 8 then some ((List.range 17).map fun g => (g, calRecord s g)) else none })
         (occupy k .tack { s with tacks := { s.tacks with op := some (.save (fld w 1 0) (bit w 9) (bit w 8)) } })))) ∧
     (Room s .tack k → s.can.running = true → within 3 w = true → tackProtected s (fld w 1 0) = false →
       exec (.tackErase o [w]) s = .next (accepted o 0x13 k
       (setTack (fld w 1 0) TackSet.spoil
         (occupy k .tack { s with tacks := { s.tacks with op := some (.erase (fld w 1 0)) } })))) ∧
     (Room s .log k → s.can.running = true → within 0xFFFFFFFF w = true → Single o →
       exec (.logClear o [w]) s = .next (accepted o 0xA2 k
       (occupy k .log { s with can := { s.can with clear := s.can.clear ++ [BitVec.ofNat 32 (fld w 31 0)] } }))) ∧
     (Room s .delay k → o.port = .harness → s.harn.down = .locked →
       exec (.chainDelayMeasure o []) s = .next (accepted o 0x1A k
       (sendProbes (occupy k .delay { s with harn := { s.harn with measuring := true } })))) ∧
     (Room s .delay k → o.port = .harness → s.harn.down ≠ .locked →
       exec (.chainDelayMeasure o []) s = .next (accepted o 0x1A k
       (finish .delay stOk [mk [(0, 32, s.harn.hopUp.toNat), (32, 32, 0)]]
         (occupy k .delay { s with harn := { s.harn with hopDown := 0, measuring := false } }))))) ∧
  (∀ (o : Origin) (s : State), Served s o → freeSlot s = none → s.can.running = true →
     (draftLocked s = false → held s .draft = false → exec (.commit o []) s =
       .next (deliver o 0x06 (reply 0x02 0 []) (dropStored o.port (post evDeferredOverflow 0x06 s)))) ∧
     (held s .log = false → Single o → ∀ w, within 0xFFFFFFFF w = true → exec (.logClear o [w]) s =
       .next (deliver o 0xA2 (reply 0x02 0 []) (dropStored o.port (post evDeferredOverflow 0xA2 s))))) ∧
  (∀ (o : Origin) (p : List Word) (w v : Word) (s : State), freeSlot s = none →
     let full := fun (c : Instr) (h : Handler) (q : List Word) => MayDefer h o q s → exec c s = .next (busied o h.op s)
     full (.commit o p) hCommit p ∧ full (.tackLoad o p) hTackLoad p ∧ full (.tackSave o p) hTackSave p ∧
     full (.tackErase o p) hTackErase p ∧ full (.logClear o p) hLogClear p ∧
     full (.chainDelayMeasure o p) hChainDelayMeasure p ∧ full (.resetLevel0 o w) hReset [withLevel 0 w] ∧
     full (.resetLevel1 o w) hReset [withLevel 1 w] ∧ full (.baselineCapture o p) hBaselineCapture p ∧
     full (.historyDump o p) hHistoryDump p ∧ full (.emitDiagProof o w) hEmitDiag [withAct2 1 w] ∧
     full (.timeSetNextPps o w v) hTimeSet [w, withMode 1 v] ∧ full (.timeSetChainSync o w v) hTimeSet [w, withMode 2 v] ∧
     full (.streamTrain o p) hStreamTrain p ∧ full (.dmaAbort o p) hDmaAbort p ∧ full (.memFill o p) hMemFill p ∧
     full (.calRun o p) hCalRun p ∧ full (.updateBegin o p) hUpdateBegin p ∧ full (.updateEnd o p) hUpdateEnd p ∧
     full (.paramSet o p) hParamSet p ∧ full (.pllDividerChange o v) hParamSet [0x0021, v] ∧
     (MayDefer hMemRead o p { s with drawn := s.drawn + 1 } →
       exec (.memRead o p) s = .next (busied o 0x80 { s with drawn := s.drawn + 1 })))

/-- RESET (R51, R411): levels 2 and 3 are scheduled and answer OK; level 0 halts the acquiring sides and level 1 begins, both
deferred. STANDBY_ENTER (R58, Table 03-6): light and acquisition stop, deferred commands are abandoned, WAKE_REASON clears
and WAKE_SECONDS is kept; a timer wake without the XT32 oscillator is BAD_STATE. -/
def Obligations.ResetAndStandbyRequests : Prop :=
  (∀ (o : Origin) (w : Word) (s : State), ServedAlways s o → s.pwr.soft = none → w &&& ~~~ (0xFF : Word) = 0 →
     (s.pwr.hard = none → exec (.resetLevel2 o w) s =
       .next (answered o 0x03 [] { s with pwr := { s.pwr with hard := some 2 } })) ∧
     (s.pwr.hard = none → exec (.resetLevel3 o w) s =
       .next (answered o 0x03 [] { s with pwr := { s.pwr with hard := some 3 } })) ∧
     (∀ k, isReady s = true → Room s .reset k → exec (.resetLevel0 o w) s = .next (accepted o 0x03 k
       (bothSides (fun d t => if acquiring t d then setTherm d (fun x => { x with running := false })
           (setLash d (fun l => { l.halt d with seq := .halted }) (darkRoute d (endSettle d false false t))) else t)
         (occupy k .reset { s with pwr := { s.pwr with soft := some 0 } })))) ∧
     (∀ k, isReady s = true → Room s .reset k → exec (.resetLevel1 o w) s = .next (accepted o 0x03 k
       (beginLevel1 (occupy k .reset { s with pwr := { s.pwr with soft := some 1 } })))) ∧
     (inRecovery s = true → exec (.resetLevel0 o w) s = .next (refused o 0x03 0x13 0 s) ∧
       exec (.resetLevel1 o w) s = .next (refused o 0x03 0x13 0 s))) ∧
  (∀ (o : Origin) (w : Word) (s : State), Served s o → within 0xFFFFFFFF w = true →
     (w = 0 ∨ s.pwr.xtFault = none → exec (.standbyEnter o [w]) s = .next (answered o 0xA7 []
       (enterStandby w.toNat { s with pwr := { s.pwr with wake := 0, tripWake := false } }))) ∧
     (w ≠ 0 → s.pwr.xtFault ≠ none → exec (.standbyEnter o [w]) s = .next (refused o 0xA7 0x13 0 s)))

/-- Acquisition and triggers by request: ACQ_START on the sides named, ACQ_STOP, ARM, DISARM and FORCE (R241, R242, R267).
BASELINE_CAPTURE and HISTORY_DUMP start (R215, R265). -/
def Obligations.AcquisitionRequests : Prop :=
  (∀ (o : Origin) (w : Word) (s : State), Served s o →
     (within 3 w = true → fld w 1 0 ≠ 0 → s.mem.usable = true → pllLocked s = true →
       (∀ d, namesSide w d = true →
         acquiring s d = false ∧ (s.lash.get d).enabled = true ∧ scanOf (cfgOf s d) d ≠ []) →
       overload s (cfgOf s .a) (cfgOf s .b) (namesSide w .a || acquiring s .a) (namesSide w .b || acquiring s .b) = false →
       exec (.acqStart o [w]) s = .next (answered o 0x30 []
         (planes (bothSides (fun d t => if namesSide w d then startAcq d t else t)) s))) ∧
     (within 3 w = true → fld w 1 0 ≠ 0 →
       exec (.acqStop o [w]) s = .next (answered o 0x31 []
         (bothSides (fun d t => if namesSide w d then stopSide d t else t) s)) ∧
       exec (.arm o [w]) s = .next (answered o 0x32 []
         (bothSides (fun d t => if namesSide w d then armSide d t else t) s)) ∧
       exec (.disarm o [w]) s = .next (answered o 0x33 []
         (bothSides (fun d t => if namesSide w d then disarmSide d t else t) s))) ∧
     (within 0xFF03 w = true → fld w 1 0 ≠ 0 →
       let t := bothSides (fun d t => if namesSide w d then
         sideTrigger (Trigger.own 5 (fld w 15 8) (nsOfTag (now s)) 0) d trigForce t else t) s
       exec (.force o [w]) s = .next (answered o 0x34 [BitVec.ofNat 64 (t.girth.used - s.girth.used)] t))) ∧
  (∀ (o : Origin) (p : List Word) (s : State) (k : Nat), Served s o → s.mem.usable = true →
     (p.length = 1 → within 0xFFFF0007 (wd p 0) = true → fld (wd p 0) 31 16 ≠ 0 →
       acquiring s (routeSide (fld (wd p 0) 2 0)) = true →
       (scanRoutes (cfgOf s (routeSide (fld (wd p 0) 2 0))) (routeSide (fld (wd p 0) 2 0))).contains (fld (wd p 0) 2 0) = true →
       Room s (.baseline (fld (wd p 0) 2 0)) k →
       exec (.baselineCapture o p) s = .next (accepted o 0x27 k (setBase (fld (wd p 0) 2 0) (fun b =>
         if b.state = 1 then { b with later := b.later ++ [fld (wd p 0) 31 16] }
         else { b with
           prior := b.state, state := 1, since := s.tb.mono, want := fld (wd p 0) 31 16, done := 0, sums := [] })
         (occupy k (.baseline (fld (wd p 0) 2 0)) s)))) ∧
     (p.length = 4 → dumpFault s p = none → dumpsOpen s p = false →
       (let c := cfgOf s (zoneSide (cfgFree s) (fld (wd p 0) 8 0))
        zoneDefined c (fld (wd p 0) 8 0) = true ∧ zoneAcoustic c (fld (wd p 0) 8 0) = true ∧
         zoneHistory c (fld (wd p 0) 8 0) = true) → Room s .history k →
       exec (.historyDump o p) s = .next (accepted o 0x37 k (startDump p (occupy k .history s)))))

/-- EMIT_ENABLE, LOCK_SET and EMIT_DIAG (R138, R130, R145). ADC_CHECK_SET (R167): word 0 is written to ADC.CHECK, then the
action of word 1 runs on its lane and slice. The model's choices: LOCK_SET ON puts a LOCKED side back to ACQUIRING, and LBIAS
stays at 0 V while LASER_EN is low (log 101); the outputs keep their last values, within the limits, as the loop starts (log
60). -/
def Obligations.EmitterRequests : Prop :=
  (∀ (o : Origin) (w : Word) (s : State), Served s o →
     (within 0xF03 w = true → bit w 1 = true → s.pwr.laserEn = true → (s.lash.get (sideOf (fld w 0 0))).dacFault = false →
       exec (.emitEnable o [w]) s = .next (answered o 0x43 []
         (emitOn (sideOf (fld w 0 0)) (aprClear (sideOf (fld w 0 0)) (fld w 11 8) s)))) ∧
     (within 0xF03 w = true → bit w 1 = false → acquiring s (sideOf (fld w 0 0)) = false →
       exec (.emitEnable o [w]) s = .next (answered o 0x43 []
         (emitOff (sideOf (fld w 0 0)) 0 (aprClear (sideOf (fld w 0 0)) (fld w 11 8) s)))) ∧
     (within 0xFFFFFFFF0007 w = true →
       exec (.lockSetOff o w) s = .next (answered o 0x44 []
         (setLash (sideOf (fld w 0 0)) (fun l => { l with
           tecDriven := true, wl := .off
           lbias := if s.pwr.laserEn then clampTo (lbiasLimits s (sideOf (fld w 0 0))) l.lbias else 0
           tec := clampTo (tecLimits s (sideOf (fld w 0 0))) l.tec }) s)) ∧
       exec (.lockSetOn o w) s = .next (answered o 0x44 []
         (setLash (sideOf (fld w 0 0)) (fun l => { l with
           tecDriven := true, wl := .acquiring
           lbias := if s.pwr.laserEn then clampTo (lbiasLimits s (sideOf (fld w 0 0))) l.lbias else 0
           tec := clampTo (tecLimits s (sideOf (fld w 0 0))) l.tec }) s)) ∧
       exec (.lockSetManual o w) s = .next (answered o 0x44 []
         (setLash (sideOf (fld w 0 0)) (fun l => { l with
           tecDriven := true, wl := .manual
           lbias := if s.pwr.laserEn then clampTo (lbiasLimits s (sideOf (fld w 0 0))) (BitVec.ofNat 16 (fld w 31 16)) else 0
           tec := clampTo (tecLimits s (sideOf (fld w 0 0))) (BitVec.ofNat 16 (fld w 47 32)) }) s))) ∧
     (within 7 w = true →
       let d := sideOf (fld w 0 0)
       exec (.emitDiagRead o w) s = .next (answered o 0x45 [emitStatus s d, four (s.lash.get d).energies 0,
         four (s.lash.get d).energies 4, four (s.lash.get d).trims 0, four (s.lash.get d).trims 4] s) ∧
       ∀ k, (s.lash.get d).enabled = true → Room s (.proof d) k → exec (.emitDiagProof o w) s = .next (accepted o 0x45 k
         (if acquiring s d || (s.lash.get d).pulse.isSome || !s.pwr.laserEn then
             setLash d (fun l => { l with proofDue := true }) (occupy k (.proof d) s)
           else setLash d (fun l => { l with
               pulse := some (proofCurrent (cfgOf s d) d), pulseAt := s.tb.mono, proof := true, cut := false
               proofOff := false, proofDue := false })
             (occupy k (.proof d) s))))) ∧
  (∀ (o : Origin) (v w : Word) (s : State), Served s o → pOk 0x5040 v = true → within 0xF707 w = true → fld w 15 12 ≤ 9 →
     exec (.adcCheckSet o v w) s = .next (answered o 0x54 [] (writeCheck v s)) ∧
     exec (.adcCheckClear o v w) s = .next (answered o 0x54 [] (clearVerdicts (writeCheck v s))) ∧
     ((lane s (fld w 10 8)).retired.getLsbD (fld w 15 12) = false →
       ((lane s (fld w 10 8)).live (fld w 15 12) = true → (lane s (fld w 10 8)).spares.filter (· ≠ fld w 15 12) ≠ []) →
       exec (.adcCheckRetire o v w) s = .next (answered o 0x54 []
         (retireSlice (fld w 10 8) (fld w 15 12) (writeCheck v s)))) ∧
     ((lane s (fld w 10 8)).retired.getLsbD (fld w 15 12) = true →
       exec (.adcCheckRestore o v w) s = .next (answered o 0x54 []
         (restoreSlice (fld w 10 8) (fld w 15 12) (writeCheck v s)))))

/-- TIME_SET (R279): MODE 0 sets the counter at once; MODE 1 waits for a PPS edge and MODE 2 for a SYNC of the chain.
TDC_READ (R284): the oldest entries leave the queue; FLUSH empties it and clears the input's counts. -/
def Obligations.TimeRequests : Prop :=
  (∀ (o : Origin) (tag w : Word) (s : State), Served s o → tagOk tag = true → w &&& ~~~ (3 : Word) = 0 →
     held s .loader = false →
     exec (.timeSetImmediate o tag w) s = .next (answered o 0x60 [] (stepTo (nsOfTag tag * 2 ^ 32) true s)) ∧
     (∀ k, fld tag 29 0 = 0 → s.tb.ppsUp = true → Room s .loader k → exec (.timeSetNextPps o tag w) s =
       .next (accepted o 0x60 k (occupy k .loader { s with tb := { s.tb with loader := some (.nextPps tag) } }))) ∧
     (∀ k, o.port = .harness → lineSyncOn s = true → Room s .loader k → exec (.timeSetChainSync o tag w) s =
       .next (accepted o 0x60 k (occupy k .loader { s with tb := { s.tb with loader := some (.chainSync tag) } })))) ∧
  (∀ (o : Origin) (w : Word) (s : State), Served s o → Single o → within 0x10F0F w = true → fld w 3 0 ≤ 10 →
     let a := awlIn s (fld w 3 0)
     let k := min (fld w 11 8) a.queue.length
     let left := if bit w 16 then [] else a.queue.drop k
     exec (.tdcRead o [w]) s = .next (answered o 0x64
       (mk [(0, 16, k), (16, 16, a.queue.length - k), (32, 16, a.ovf), (48, 16, a.deadMiss)] ::
         (a.queue.take k).flatMap TdcEntry.words)
       { s with awl := s.awl.modify (fld w 3 0) fun a => { a with
           queue := left, ovf := if bit w 16 then 0 else a.ovf, deadMiss := if bit w 16 then 0 else a.deadMiss
           ovfUp := a.ovfUp && left ≠ [] } }))

/-- STREAM_TRAIN (R312): training begins from DOWN; while UP the frame in progress is completed first. DMA_KICK (R351) and
DMA_ABORT (R352): a start fetches at its first descriptor; a kick waits at a running channel, and a parked one reads its LINK
again; an abort of a running channel is deferred, of a parked one at once. That a kick of a parked channel leaves the reading
of LINK to DMA_DESCRIPTOR_END is the model's choice (log 110). -/
def Obligations.StreamAndDmaRequests : Prop :=
  (∀ (o : Origin) (s : State) (k : Nat), Served s o → s.mem.usable = true → streamOn s = true → Room s .stream k →
     (s.strm.state = .down → exec (.streamTrain o []) s = .next (accepted o 0x71 k
       (occupy k .stream { s with strm := { s.strm with
         state := .training, driven := true, runAt := s.tb.mono, okRun := 0, fcEver := s.strm.fcLocked, trainWait := false
         sending := none } }))) ∧
     (s.strm.state = .up → inProgress s = true → exec (.streamTrain o []) s = .next (accepted o 0x71 k
       (let t := occupy k .stream s
        { t with strm := { t.strm with trainWait := true } }))) ∧
     (s.strm.state = .up → inProgress s = false → exec (.streamTrain o []) s = .next (accepted o 0x71 k
       (let t := post evStreamDown 2 (occupy k .stream s)
        { t with strm := { t.strm with
          state := .training, driven := true, runAt := s.tb.mono, okRun := 0, fcEver := s.strm.fcLocked, trainWait := false
          sending := none } })))) ∧
  (∀ (o : Origin) (w first : Word) (s : State), Served s o → s.mem.usable = true →
     (within 0x10F w = true → descPlace s first.toNat = true →
       (chan s (fld w 3 0)).state ≠ .running → (chan s (fld w 3 0)).state ≠ .idleAtEnd →
       exec (.dmaKickStart o w first) s = .next (answered o 0x72 [] (wakeMem (setChan (fld w 3 0) (fun c => { c with
         state := .running, phase := .fetch, desc := first.toNat, kick := false, abort := false, count := 0
         crc := 0xFFFFFFFF, done := 0, entry := none, words := [] }) s)))) ∧
     (within 0x10F w = true → (chan s (fld w 3 0)).state = .running →
       exec (.dmaKickResume o w) s = .next (answered o 0x72 []
         (setChan (fld w 3 0) (fun c => { c with kick := true }) s))) ∧
     (within 0x10F w = true → (chan s (fld w 3 0)).state = .idleAtEnd →
       exec (.dmaKickResume o w) s = .next (answered o 0x72 []
         (wakeMem (setChan (fld w 3 0) (fun c => { c with count := 0, phase := .link }) s)))) ∧
     (within 0xF w = true → (chan s (fld w 3 0)).state = .idleAtEnd →
       exec (.dmaAbort o [w]) s = .next (answered o 0x73 []
         (setChan (fld w 3 0) (fun c => { c with state := .aborted }) s))) ∧
     (∀ k, within 0xF w = true → (chan s (fld w 3 0)).state = .running → freeSlot s = some k →
       exec (.dmaAbort o [w]) s = .next (accepted o 0x73 k
         (setChan (fld w 3 0) (fun c => { c with abort := true }) (occupy k (.dmaAbort (fld w 3 0)) s)))))

/-- MEM_READ (R343): the words from ADDRESS on, at once or, when the data is late, by a deferred slot. MEM_WRITE and MEM_FILL
(R343, R344): the words are in memory with the reply; a fill starts its engine. -/
def Obligations.MemoryRequests : Prop :=
  (∀ (o : Origin) (p : List Word) (s : State), Served s o → p.length = 2 → readFault s p = none →
     (zoneOf (wd p 0).toNat = .dram → s.mem.usable = true) →
     let t := fun (n : Nat) => { s with drawn := s.drawn + 1 + n
                                        mem := { s.mem with selfRefresh := s.mem.selfRefresh && zoneOf (wd p 0).toNat != .dram } }
     ((wd p 1).toNat = 0 → exec (.memRead o p) s = .next (answered o 0x80 [] (t 0))) ∧
     (∀ k, (wd p 1).toNat ≠ 0 → freeSlot s = some k → (s.mem.ecc = false ∨ zoneOf (wd p 0).toNat ≠ .dram) →
       exec (.memRead o p) s = .next (
       if Config.freeBit 343 (s.drawn + 1) || stalled s (wd p 0).toNat then
         accepted o 0x80 k (occupy k (.memRead (wd p 0).toNat (wd p 1).toNat) (t 0))
       else answered o 0x80 (hostWords { s with drawn := s.drawn + 1 } (wd p 0).toNat (wd p 1).toNat) (t (wd p 1).toNat))) ∧
     (∀ k, (wd p 1).toNat ≠ 0 → freeSlot s = some k →
       ∃ u : State, u.mem.bytes = s.mem.bytes ∧ u.mem.fitted = s.mem.fitted ∧ exec (.memRead o p) s = .next (
         if Config.freeBit 343 (s.drawn + 1) || stalled s (wd p 0).toNat then
           accepted o 0x80 k (occupy k (.memRead (wd p 0).toNat (wd p 1).toNat) (t 0))
         else if readMeets { s with drawn := s.drawn + 1 } p = .ecc then
           deliver o 0x80 (reply stInternal 0 []) (dropStored o.port u)
         else answered o 0x80 (hostWords u (wd p 0).toNat (wd p 1).toNat) { u with drawn := u.drawn + (wd p 1).toNat }))) ∧
  (∀ (o : Origin) (p : List Word) (s : State), Served s o → (zoneOf (wd p 0).toNat = .dram → s.mem.usable = true) →
     (1 < p.length → p.length ≤ 32 → (wd p 0).toNat % 8 = 0 → mapped s (wd p 0).toNat (8 * (p.length - 1)) = true →
       writable s (wd p 0).toNat (8 * (p.length - 1)) = true → sramBusy s (wd p 0).toNat = false →
       ∃ own, exec (.memWrite o p) s = .next (answered o 0x81 []
         { s with mem := { s.mem with
             bytes := memPutWords s.mem.bytes (wd p 0).toNat (p.drop 1), tileOwn := own
             selfRefresh := s.mem.selfRefresh && zoneOf (wd p 0).toNat != .dram } })) ∧
     (∀ k, p.length = 3 → (wd p 0).toNat % 8 = 0 → (wd p 1).toNat ≠ 0 → (wd p 1).toNat % 8 = 0 →
       mapped s (wd p 0).toNat 0 = true → writable s (wd p 0).toNat 8 = true →
       mapped s (wd p 0).toNat (wd p 1).toNat = true →
       writable s (wd p 0).toNat (wd p 1).toNat = true → sramBusy s (wd p 0).toNat = false →
       Room s .fill k → exec (.memFill o p) s = .next (accepted o 0x82 k
         (occupy k .fill { s with mem := s.mem.addFill ((wd p 0).toNat, (wd p 1).toNat, wd p 2) }))))

/-- CAL_RUN and CAL_WRITE (R360, R371): the groups of the mask begin, pairs of lanes together; a record of this die with no
retired slice is accepted. The signed update (R391 to R394): a session begins and its slot is PART, a chunk enters the
buffer, the end asks for verification; an activation starts the trial with a level 2 reset, confirms it, or rejects it. -/
def Obligations.CalibrationAndUpdateRequests : Prop :=
  (∀ (o : Origin) (p : List Word) (s : State), Served s o →
     (∀ k, p.length = 1 → within 0x101FFFF (wd p 0) = true → s.can.running = true → runConflict s p = false →
       ¬ (acquiring s .a = true ∧ ((runMask p).getLsbD 11 || (runMask p).getLsbD 13) = true) →
       ¬ (acquiring s .b = true ∧ ((runMask p).getLsbD 12 || (runMask p).getLsbD 14) = true) →
       Room s (.cal (runMask p)) k →
       exec (.calRun o p) s = .next (accepted o 0x90 k (startRun p (occupy k (.cal (runMask p)) s)))) ∧
     (p.length = calWords (fld (wd p 0) 4 0) → recordFault p = none → recordConflict s p = false →
       held s (.cal (groupMask (pairOf (fld (wd p 0) 4 0)))) = false →
       exec (.calWrite o p) s = .next (answered o 0x92 [] (acceptRecord p s)))) ∧
  (∀ (o : Origin) (p : List Word) (w : Word) (s : State), ServedAlways s o →
     (s.can.running = true ∨ inRecovery s = true) →
     (∀ k, p.length = 2 → within 0xFFFFFFFF00000003 (wd p 0) = true → 256 ≤ beginTotal p → beginTotal p ≤ 2097152 →
       within 0xFFFFFFFF (wd p 1) = true → ¬ (beginSlot p = false ∧ s.can.slotA = .trial) →
       (if beginSlot p then s.can.slotA else s.can.slotB) ≠ .part → (beginResume p = true → resumes s p = true) →
       (beginSlot p = true ∨ s.can.slotB = .valid ∨ inRecovery s = true) → Room s .update k →
       let t := occupy k .update { s with can := { s.can with works := s.can.works ++ [.begins p] } }
       exec (.updateBegin o p) s = .next (accepted o 0xA3 k (if s.can.works = [] then startSession p t else t))) ∧
     (∀ x, 2 ≤ p.length → p.length ≤ 32 → within 0xFFFFFFFF0000FFFF (wd p 0) = true → s.can.session = some x →
       chunkFits x p = true → s.can.buffer.length < 64 → held s .update = false →
       exec (.updateChunk o p) s = .next (answered o 0xA4 []
         { s with can := { s.can with buffer := s.can.buffer ++ [(fld (wd p 0) 15 0, p.drop 1)] } })) ∧
     (∀ k x, s.can.buffer = [] → s.can.session = some x → chunkCount x.total ≤ x.data.length → Room s .update k →
       exec (.updateEnd o []) s = .next (accepted o 0xA5 k (occupy k .update { s with can := { s.can with
         works := if s.can.works.getLast? = some .ends then s.can.works else s.can.works ++ [.ends] } }))) ∧
     (w &&& ~~~ (3 : Word) = 0 → s.can.slotA = .stored → exec (.updateActivateTrial o w) s = .next (answered o 0xA6 []
       (schedule 2 { s with can := { s.can with slotA := .trial, attempts := 0 } }))) ∧
     (w &&& ~~~ (3 : Word) = 0 → onTrial s = true →
       exec (.updateActivateConfirm o w) s = .next (answered o 0xA6 [] (confirm s)) ∧
       exec (.updateActivateReject o w) s = .next (answered o 0xA6 [] (rollback 1 s))))

/-! ### Power, resets and start-up -/

/-- The power rails in order (R43 to R45, Table 03-2): VAON_POWER_ON resets the island, VAON_GOOD drives PWR_EN high and
queues EV_POR 0, RAILS_GOOD begins the power-on reset, POR_RELEASE samples the straps; the wake and reset pins. The model's
choices: RAILS_GOOD clears the clamp flags that nobody read (log 48) and begins a part hour of the lifetime anew (log 47);
that the TAP powers up there is PRESUMED (log 81). -/
def Obligations.PowerRails : Prop :=
  ∀ s : State,
    exec .vaonPowerOn s = .next (if s.pwr.dev = .off ∨ s.pwr.dev = .vaonRise then
      { s with pwr := { s.pwr with dev := .vaonRise, wake := 8, scratchLo := 0, scratchHi := 0, address := 0, pwrEn := false } }
      else s) ∧
    exec .vaonGood s = .next (if s.pwr.dev = .vaonRise then
      { s with pwr := { s.pwr with dev := .railsWait, startQ := [(evPor, 0)], pwrEn := true } } else s) ∧
    exec .railsGood s = .next (if s.pwr.dev = .railsWait then
      { s with pwr := { s.pwr with dev := .starting 0, vcore := true, tap := Jtag.init }, can := { s.can with lifeAt := s.tb.mono, latched := 0 } } else s) ∧
    (s.pwr.dev = .railsWait → ∃ t, exec .railsGood s = .next t ∧ pinTdo t = .hiZ) ∧
    exec .porRelease s = .next (if s.pwr.dev = .starting 0 ∧ s.pwr.resetLow = false then
      { s with pwr := { s.pwr with strap := s.pwr.psel, dev := if s.pwr.testMode then .prodTest else .starting 1 } } else s) ∧
    exec .resetNRise s = .next (if s.pwr.resetLow = true ∧ s.pwr.dev = .starting 0 then
      { s with pwr := { s.pwr with
          resetLow := false, strap := s.pwr.psel, dev := if s.pwr.testMode then .prodTest else .starting 1 } }
      else { s with pwr := { s.pwr with resetLow := false } }) ∧
    (∀ us, exec (.wakePinEdge us) s = .next (if 10 ≤ us then
      { s with pwr := { s.pwr with stand := s.pwr.stand.map fun x => { x with sources := x.sources ||| 1 } } } else s)) ∧
    (∀ x, s.pwr.stand = some x → s.pwr.dev = .standby → x.seconds ≠ 0 → s.pwr.xtFault = none →
      exec .wakeTimerExpiry s = .next { s with pwr := { s.pwr with stand := some { x with sources := x.sources ||| 2 } } }) ∧
    (∀ b, s.pwr.dev = .offTime → exec (.resetOffTimeExpiry b) s = .next { s with pwr := { s.pwr with
      dev := if b then .railsWait else .starting 0, pwrEn := true, powerKept := !b, vcore := !b } })

/-- What a reset of the switched domains leaves (Table 03-4): MRAM's parameters, Tack sets, log, lifetime, images and update
session, the tiles' verdicts and the passage of time stand; the queue, both copies of the configuration, the volatile
parameters, memory and every unit start anew, and the output pins stand in their reset states (R30 to R33). Where each reset
begins and which event it queues for READY (R43, R51, R54, R55, R56): after VAON_LOSS the state is OFF, a RESET_N pulse of 1
µs starts step 1 again with EV_POR 1, a brownout waits for the rails with EV_BROWNOUT, a level 2 keeps the address and goes
to step 3 or to production test, a level 3 drives PWR_EN low. The model's choices: every volatile parameter is reset (log
13), level 2 keeps the hop delays, and the tiles' verdicts stand (log 65), as that SWITCH_LIFE was told does (log 78); the
levels of some pins are PRESUMED (log 93). -/
def Obligations.ResetsOfDomains : Prop :=
  (∀ (s t : State), (exec .vaonLoss s = .next t ∨
       (∃ ns x, 1000 ≤ ns ∧ s.pwr.stand = none ∧ pinReset s.pwr.dev = some x ∧ exec (.resetNLow ns) s = .next t) ∨
       (∃ m, powered s.pwr.dev = true ∧ exec (.brownout m) s = .next t) ∨
       (∃ n, s.pwr.hard = some n ∧ s.pwr.stand = none ∧ exec .resetStart s = .next t)) →
     t.nv = s.nv ∧ t.tacks.sets = s.tacks.sets ∧ t.can.log = s.can.log ∧ t.can.logNext = s.can.logNext ∧
     t.can.life = s.can.life ∧ t.can.surges = s.can.surges ∧ t.can.slotA = s.can.slotA ∧ t.can.slotB = s.can.slotB ∧
     t.can.imageA = s.can.imageA ∧ t.can.imageBi = s.can.imageBi ∧ t.can.session = s.can.session ∧
     t.can.svnFloor = s.can.svnFloor ∧ t.can.revoked = s.can.revoked ∧ t.tiles = s.tiles ∧ t.tb.mono = s.tb.mono ∧
     t.evq = Events.init ∧ t.live = Cfg.factory ∧ t.draft = Cfg.factory ∧ t.rw = [] ∧ t.brg = Bridle.init ∧
     t.mem.bytes = [] ∧ t.mem.usable = false ∧ t.zones = [] ∧ t.base = [] ∧ t.strm = Stream.init ∧ t.dma = Dma.init ∧
     t.aux = Aux.init ∧ t.girth = Girth.init ∧ t.tb.set = false ∧ t.can.running = false ∧ t.cal = Cal.init ∧
     t.can.endured = s.can.endured ∧ PinsInReset t) ∧
  (∀ s : State,
     (∃ t, exec .vaonLoss s = .next t ∧ t.pwr.dev = .off ∧ t.pwr.address = 0 ∧ t.pwr.pwrEn = false ∧ t.pwr.scratchLo = 0 ∧
       LinesInReset t) ∧
     (∀ ns, 1000 ≤ ns → s.pwr.stand = none → powered s.pwr.dev = true → ∃ t, exec (.resetNLow ns) s = .next t ∧
       LinesInReset t ∧ t.pwr.dev = .starting 0 ∧ t.pwr.startQ = [(evPor, 1)] ∧ t.pwr.resetLow = true ∧ t.pwr.address = 0 ∧
       t.pwr.scratchLo = s.pwr.scratchLo) ∧
     (∀ ns, 1000 ≤ ns → s.pwr.stand = none → s.pwr.dev = .railsWait → ∃ t, exec (.resetNLow ns) s = .next t ∧
       t.pwr.dev = .railsWait ∧ t.pwr.startQ = [(evPor, 1)] ∧ t.pwr.address = 0) ∧
     (∀ ns, ns < 100 → exec (.resetNLow ns) s = .next s) ∧
     (∀ m, powered s.pwr.dev = true → ∃ t, exec (.brownout m) s = .next t ∧ LinesInReset t ∧ t.pwr.dev = .railsWait ∧
       t.pwr.startQ = [(evBrownout, m)] ∧ t.pwr.address = 0) ∧
     (s.pwr.hard = some 2 → s.pwr.stand = none → ∃ t, exec .resetStart s = .next t ∧ t.pwr.address = s.pwr.address ∧
       t.pwr.dev = (if s.pwr.testMode then .prodTest else .starting 3) ∧ t.pwr.startQ = [(evResetCmd, 2)] ∧
       t.pwr.strap = s.pwr.psel ∧ t.harn.up = s.harn.up ∧ t.harn.hopUp = s.harn.hopUp ∧ t.pll.state = s.pll.state ∧
       t.pll.cfg = s.pll.cfg) ∧
     (s.pwr.hard = some 3 → s.pwr.stand = none → ∃ t, exec .resetStart s = .next t ∧ t.pwr.address = 0 ∧
       LinesInReset t ∧ t.pwr.dev = .offTime ∧ t.pwr.pwrEn = false ∧ t.pwr.startQ = [(evResetCmd, 3)]))

/-- Standby (R58 to R60, Table 03-6): at the power-down PWR_EN goes low and the address stays; a wake with a recorded source
waits for the rails with EV_STANDBY_EXIT, which carries WAKE_REASON. -/
def Obligations.StandbyPowerAndWake : Prop :=
  ∀ (x : Standby) (s : State), s.pwr.stand = some x →
    (s.pwr.dev ≠ .standby → ∃ t, exec .standbyPowerDown s = .next t ∧ t.pwr.dev = .standby ∧ t.pwr.pwrEn = false ∧
      t.pwr.address = s.pwr.address ∧ t.pwr.stand = some x ∧ t.pwr.scratchLo = s.pwr.scratchLo ∧ t.nv = s.nv ∧
      t.tacks.sets = s.tacks.sets ∧ t.mem.bytes = []) ∧
    (s.pwr.dev = .standby → x.sources ≠ 0 → ∃ t, exec .standbyWake s = .next t ∧ t.pwr.dev = .railsWait ∧
      t.pwr.pwrEn = true ∧ t.pwr.stand = none ∧ t.pwr.wake = s.pwr.wake ||| x.sources.setWidth 4 ∧
      t.pwr.startQ = [(evStandbyExit, t.pwr.wake.toNat)]) ∧
    (s.pwr.dev = .standby → x.sources = 0 → exec .standbyWake s = .next s)

/-- Start-up (Table 03-2, R46 to R49): the reference choice, the check of the images, DRAM training with the strapped Tack
set, and calibration, whose end makes the device READY and posts the queued events in their order, then EV_CAL_DONE and
EV_TIME_UNSET (R47). The model's choices: RECOVERY drops the queued events (log 66); a group that timed out keeps its trims,
its figures and temperature free (log 17); the other events of calibration follow those of R47 (log 8). -/
def Obligations.StartUp : Prop :=
  ∀ s : State,
    (∀ seen code, s.pwr.dev = .starting 1 → code ≤ 11 → (seen = true ∨ (3 ≤ code ∧ code ≤ 7)) →
      exec (.refChoice seen code) s = .next { s with
        pwr := { s.pwr with dev := .starting 2 }
        pll := { s.pll with state := .start, refclk := seen, freqCode := code, refPresent := true, cfg := pllReset code } }) ∧
    (∀ a b, s.pwr.dev = .starting 3 → ¬ (s.can.slotA = .trial ∧ 2 ≤ s.can.attempts) →
      (bootCheck s.can s.can.slotA s.can.imageA a = 0 → exec (.cantleBootVerifyDone a b) s = .next (bootImage false s)) ∧
      (bootCheck s.can s.can.slotA s.can.imageA a ≠ 0 → bootCheck s.can s.can.slotB s.can.imageBi b = 0 →
        exec (.cantleBootVerifyDone a b) s = .next (bootImage true { s with pwr := { s.pwr with
          startQ := s.pwr.startQ ++ [(evBootImageB, bootCheck s.can s.can.slotA s.can.imageA a)] } })) ∧
      (bootCheck s.can s.can.slotA s.can.imageA a ≠ 0 → bootCheck s.can s.can.slotB s.can.imageBi b ≠ 0 →
        exec (.cantleBootVerifyDone a b) s = .next { s with pwr := { s.pwr with dev := .recovery, startQ := [] } })) ∧
    (∀ fail g, s.pwr.dev = .starting 4 → ∃ t, exec (.dramTrainingDone fail g) s = .next t ∧ t.pwr.dev = .starting 6 ∧
      t.mem.usable = fail.isNone ∧ t.cal.phase = 1 ∧ t.cal.running = 0x1FEFF ∧ t.live = t.draft) ∧
    (∀ rs, s.cal.phase = 0 → exec (.calStepDone rs) s = .next (operationStep rs s)) ∧
    (∀ rs, s.cal.phase = 1 → (∀ g, s.cal.running.getLsbD g = true → g < 17 → ∃ r ∈ rs, r.group = g) →
      ∃ t, exec (.calStepDone rs) s = .next t ∧ t.cal.phase = 2 ∧ t.cal.running = 0x100) ∧
    (∀ g, s.cal.phase = 0 → s.cal.running.getLsbD g = true → exec (.calStepTimeout g) s =
      .next (planes (fun u => leaveGroups (pairOf g) true ((pairOf g).foldl (fun t h => endGroup h (keepValues h t)) u)) s)) ∧
    (∀ r, s.cal.phase = 2 → s.cal.running = 0x100 → r.group = 8 →
      ∃ t, exec (.calStepDone [r]) s = .next t ∧ t.pwr.dev = .ready ∧ t.cal.phase = 0 ∧ t.pwr.startQ = [] ∧
        let u := atReady (takeResult r) s
        (((u.pwr.startQ.filter fun (e : Nat × Nat) => listed e.1) ++ [(evCalDone, 0), (evTimeUnset, 0)]).foldl
          (fun u (e : Nat × Nat) => post e.1 e.2 u) u).evq.q <+: t.evq.q) ∧
    (∀ g, s.cal.phase ≠ 0 → s.cal.running.getLsbD g = true → g < 17 → Sound s → ∃ t, exec (.calStepTimeout g) s = .next t ∧
      (∀ h ∈ pairOf g, (calGroup t h).kept = true ∧ (calGroup t h).seconds = tagSeconds s ∧
        (calGroup t h).trims = (calGroup s h).trims) ∧ (s.cal.phase = 1 → t.cal.phase ≤ 2))

/-- The root PLL (Table 04-6): loss of lock holds the loop, counts, and stops light and acquisition; the reference comes back
to RELOCK, whose failure returns to HOLD; in HOLD missing edges keep it; a lock in RELOCK is told and ends a change with
INTERNAL, which the loss has restored (R68); a first lock lets forwarding live; a change ends with OK. SYNC (R70, R71): an
edge is recognised where it is enabled; while the loop is not locked, a change runs, or a path acquires without
APPLY_WHILE_ACQ it is only counted, with EV_SYNC_RECEIVED and bit 15; else it is applied. That EV_CLOCK_LOSS comes at the
relock only where the episode began with missing edges is the model's choice (log 84). -/
def Obligations.PllAndSync : Prop :=
  (∀ s : State,
     (pllLocked s = true → s.pll.change = none →
       exec .pllPhaseErrorLoss s = .next (post evPllUnlock 0 (allDark 5 5 (duringSurge (fun r => { r with unlocks := r.unlocks + 1 }) { s with pll := { s.pll with
         state := .hold, refPresent := true, refLost := false, synced := false, phaseKnown := false
         unlockCount := min (s.pll.unlockCount + 1) 65535 } }))) ∧
       exec .pllRefEdgesMissing s = .next (post evClockLoss (b2n s.pll.refclk) (post evPllUnlock 0 (allDark 5 5
         (duringSurge (fun r => { r with unlocks := r.unlocks + 1 }) { s with pll := { s.pll with
           state := .hold, refPresent := false, refLost := true, synced := false, phaseKnown := false
           unlockCount := min (s.pll.unlockCount + 1) 65535 } }))))) ∧
     (∀ c, pllLocked s = true → s.pll.change = some c →
       exec .pllPhaseErrorLoss s = .next (post evPllUnlock 0 (allDark 5 5 (duringSurge (fun r => { r with unlocks := r.unlocks + 1 }) { s with pll := { s.pll with
         state := .hold, refPresent := true, refLost := false, synced := false, phaseKnown := false
         cfg := c.old, change := some { c with restoring := true }
         unlockCount := min (s.pll.unlockCount + 1) 65535 } }))) ∧
       exec .pllRefEdgesMissing s = .next (post evClockLoss (b2n s.pll.refclk) (post evPllUnlock 0 (allDark 5 5
         (duringSurge (fun r => { r with unlocks := r.unlocks + 1 }) { s with pll := { s.pll with
           state := .hold, refPresent := false, refLost := true, synced := false, phaseKnown := false
           cfg := c.old, change := some { c with restoring := true }
           unlockCount := min (s.pll.unlockCount + 1) 65535 } }))))) ∧
     (s.pll.state = .hold → exec .pllRefEdgesMissing s = .next { s with pll := { s.pll with refPresent := false } }) ∧
     (s.pll.state = .relock →
       let back := postIf s.pll.refLost evClockLoss (0x8000 + b2n s.pll.refclk) (post evPllUnlock 1
         { s with pll := { s.pll with state := .locked, refPresent := true, refLost := false } })
       (s.pll.change = none → exec .pllLockDeclared s = .next back) ∧
       (∀ c, s.pll.change = some c → exec .pllLockDeclared s = .next
         (finish .pll (if c.restoring then 0xFF else 0) [] { back with pll := { back.pll with change := none } }))) ∧
     (s.pll.state = .hold → exec .pllRefPresent s =
       .next { s with pll := { s.pll with state := .relock, refPresent := true } }) ∧
     (s.pll.state = .relock → exec .pllRelockTimeout s = .next { s with pll := { s.pll with state := .hold } } ∧
       exec .pllRefEdgesMissing s = .next { s with pll := { s.pll with state := .hold, refPresent := false } }) ∧
     (s.pll.state = .start → s.pwr.dev = .starting 2 → exec .pllLockDeclared s =
       .next { s with
         pll := { s.pll with state := .locked, refPresent := true }
         pwr := { s.pwr with dev := .starting 3 }
         harn := driveLines s.tb.mono s.harn }) ∧
     (∀ c, s.pll.state = .locked → s.pll.change = some c → exec .pllLockDeclared s =
       .next (finish .pll (if c.restoring then 0xFF else 0) [] { s with pll := { s.pll with change := none } })) ∧
     (∀ c, s.pll.state = .locked → s.pll.change = some c → c.restoring = false → exec .pllChangeTimeout s =
       .next { s with pll := { s.pll with cfg := c.old, change := some { c with restoring := true } } })) ∧
  (∀ s : State,
     exec .syncInEdge s = .next (if answers s && bit (rwGet s 0x0022) 0 then
       { s with pll := { s.pll with syncWait := s.pll.syncWait ++ [{ line := false, due := s.tb.mono }] } } else s) ∧
     (∀ n x r, nextSync s.tb.mono s.pll.syncWait = some (x, r) →
       ((pllLocked s = false ∨ s.pll.change ≠ none ∨
           ((anyAcquiring s || anyAccumulating s) = true ∧ bit (rwGet s 0x0022) 2 = false)) →
         exec (.syncApply n) s = .next (post evSyncReceived (b2n x.line + 0x8000)
           { s with pll := { s.pll with syncWait := r, syncHeld := min (s.pll.syncHeld + 1) 65535 } })) ∧
       (pllLocked s = true → s.pll.change = none → anyAcquiring s = false → anyAccumulating s = false →
         s.pll.phaseKnown = true → n * pllN s.pll.cfg % 24 = 0 →
         ∃ t, exec (.syncApply n) s = .next t ∧ t.pll.synced = true ∧ t.pll.phaseKnown = true ∧ t.pll.syncWait = r ∧
           t.evq = (post evSyncReceived (b2n x.line) s).evq)))

/-! ### Work that ends -/

/-- A commit with an empty delta, a failed validation, a Tack set that is not VALID (R107, R112); the ends of TACK_SAVE and
TACK_ERASE. A TACK_LOAD of a VALID set: the set becomes the draft; equal to the live copy it touches no side; where the
checks fail it ends CONFLICT with the set in the draft; with both sides idle it applies at once, and the Tack status names
it. Its calibration records apply only WITH_CAL, and one that CAL_WRITE would refuse leaves its group as it was (R372). That
the set enters the draft at the end of the validation is the model's choice (log 39). -/
def Obligations.CommitAndTackEnds : Prop :=
  ∀ s : State,
    (s.brg.gate = .validating none → s.draft = s.live → exec .commitValidationDone s = .next
      (planes (fun t => finish .draft stOk [] (post evCommitApplied 0 { t with brg := { t.brg with gate := .idle } })) s)) ∧
    (∀ f, s.brg.gate = .validating none → s.draft ≠ s.live → validate s s.draft true = some f →
      exec .commitValidationDone s = .next (finish .draft stConflict [mk [(0, 10, f.code16), (16, 16, f.index)]]
        (post evCommitFailed f.code16 { s with brg := { s.brg with gate := .idle } }))) ∧
    (∀ l, s.brg.gate = .validating (some l) → (s.tacks.sets.getD l.set TackSet.empty).state ≠ 1 →
      exec .commitValidationDone s = .next
        (finish .draft stBadState [] { s with brg := { s.brg with gate := .idle } })) ∧
    (∀ (l : TackLoad) (x : TackSet), s.brg.gate = .validating (some l) → s.tacks.sets.getD l.set TackSet.empty = x →
      x.state = 1 →
      (∀ f, x.cfg ≠ s.live → validate { s with draft := x.cfg } x.cfg true = some f →
        exec .commitValidationDone s = .next (finish .draft stConflict [mk [(0, 10, f.code16), (16, 16, f.index)]]
          (post evCommitFailed f.code16 { s with draft := x.cfg, brg := { s.brg with gate := .idle } }))) ∧
      (x.cfg = s.live ∨ (validate { s with draft := x.cfg } x.cfg true = none ∧ acquiring s .a = false ∧
          acquiring s .b = false) →
        ∃ t, exec .commitValidationDone s = .next t ∧ t.live = x.cfg ∧ t.draft = x.cfg ∧ t.brg.gate = .idle ∧
          t.tacks.loaded = l.set ∧ t.tacks.modified = false ∧ t.tacks.defaults = false ∧ t.tacks.sets = s.tacks.sets ∧
          (l.withCal = false ∨ x.cal = none → t.cal.groups = s.cal.groups) ∧
          ∀ (g : Nat) (p : List Word), Sound s → l.withCal = true → x.cal = some [(g, p)] → 9 ≤ g → g ≤ 14 →
            s.cal.writes = [] → (∀ d, acquiring s d = false) →
            (recordFault p = none → fld (wd p 0) 4 0 = g → recordConflict s p = false →
              held s (.cal (groupMask (pairOf g))) = false → (calGroup t g).trims = (p.drop 1).dropLast) ∧
            (recordFault p ≠ none ∨ recordConflict s p = true → t.cal.groups = s.cal.groups))) ∧
    (∀ n a b, s.tacks.op = some (.save n a b) →
      exec (.tackSaveDone true) s = .next (finish .tack stOk [] { s with tacks := { s.tacks with
        op := none
        sets := s.tacks.sets.modify n fun x => TackSet.seal { x with saves := sat 16 (x.saves + 1), seconds := tagSeconds s } } }) ∧
      exec (.tackSaveDone false) s = .next (finish .tack stInternal [] { s with tacks := { s.tacks with op := none } })) ∧
    (∀ n, s.tacks.op = some (.erase n) → exec .tackEraseDone s = .next (finish .tack stOk [] { s with tacks := { s.tacks with
        op := none
        sets := s.tacks.sets.modify n fun x => { TackSet.empty with saves := x.saves, seconds := x.seconds } } }))

/-- With both sides idle a valid commit applies at once (R15, R107): the live copy is the draft, the gate is open, and the
Tack status reads modified. While an affected side acquires it waits, its snapshot frozen (R14, R16): the side keeps the live
copy, and COMMIT, DISCARD and a write of a staged parameter are BAD_STATE. The side's next shot-group boundary, step 5 of a
route switch (R136), or the end of its acquisition (R15) puts the whole snapshot in force there; shots launched before keep
their configuration, and a changed scan starts at its first open entry. The last side to take it makes it the live copy and
completes the command; until then the other side keeps the live copy. -/
def Obligations.CommitApplies : Prop :=
  (∀ s : State, s.brg.gate = .validating none → s.draft ≠ s.live → validate s s.draft true = none →
    (acquiring s .a = false → acquiring s .b = false →
      ∃ t, exec .commitValidationDone s = .next t ∧ t.live = s.draft ∧ t.draft = s.draft ∧ t.brg.gate = .idle ∧
        t.tacks.modified = true ∧ t.tacks.sets = s.tacks.sets ∧ t.nv = s.nv ∧ t.rw = s.rw) ∧
    (∀ d, acquiring s d = true → affected s.live s.draft d = true →
      ∃ t, exec .commitValidationDone s = .next t ∧ waits t d = true ∧ t.live = s.live ∧ t.draft = s.draft ∧
        cfgOf t d = s.live ∧ draftLocked t = true)) ∧
  (∀ (o : Origin) (s : State) (d : Side), Served s o → waits s d = true →
    cfgOf s d = s.live ∧
    exec (.commit o []) s = .next (refused o 0x06 0x13 0 s) ∧ exec (.discard o []) s = .next (refused o 0x07 0x13 0 s) ∧
    ∀ id v : Word, within 0xFFFF id = true → pOk (fld id 15 0) v = true → accessOf (fld id 15 0) = .rws →
      exec (.paramSet o [id, v]) s = .next (refused o 0x05 0x13 0 s)) ∧
  (∀ (s : State) (d e : Side), d ≠ e → acquiring s d = true → waits s d = true →
    let taken := fun (t : State) => t.draft = s.draft ∧ cfgOf t d = s.draft ∧
      (waits s e = false → t.live = s.draft ∧ t.brg.gate = .idle ∧
        ∀ k, s.brg.slots.findIdx? (· == .running .draft) = some k → t.brg.slots[k]? = some (.done 0 [])) ∧
      (waits s e = true → t.live = s.live ∧ waits t d = false ∧ waits t e = true ∧ cfgOf t e = s.live)
    ((s.girth.side d).stopping = false → (s.lash.get d).seq = .none →
      ∃ t, exec (.shotGroupBoundary d) s = .next t ∧ taken t ∧
        (∀ x ∈ (t.lash.get d).shots, x ∈ (s.lash.get d).shots ∨ x.cfg = s.draft) ∧
        (scanOf s.live d ≠ scanOf s.draft d → ∀ n, entryFrom t d 0 = some n → (t.lash.get d).entry = n.1 ∧
          (if entryRoute d n.2 = presentRoute s d then (t.lash.get d).dwellLeft = fld n.2 31 16 ∧ (t.lash.get d).launched = 1
           else (t.lash.get d).seq = .draining ∧ (t.lash.get d).running = false))) ∧
    ((s.girth.side d).stopping = false → (s.lash.get d).seq = .blanking true →
      ∃ t, exec (.routeBlankingEnd d) s = .next t ∧ taken t ∧
        ∀ x ∈ (t.lash.get d).shots, x ∈ (s.lash.get d).shots ∨ x.cfg = s.draft) ∧
    ((s.lash.get d).seq ≠ .none → exec (.shotGroupBoundary d) s = .next s) ∧
    ((s.girth.side d).stopping = true → (s.lash.get d).shots = [] → (s.girth.waiting.any fun o => o.side == d) = false →
      ∃ t, exec (.acqStopped d) s = .next t ∧ taken t ∧ acquiring t d = false))

/-- The ends of RESET level 0 and 1, of CHAIN_DELAY_MEASURE, of a pending time load, of LOG_CLEAR, of ACQ_STOP, of CAL_RUN
and of DMA_ABORT (R52, R87, R279, R383, R242, R360, R352). That a work which a break-in abandoned goes on first, and ends
without a slot, is the model's choice (log 64). -/
def Obligations.DeferredWorkEnds : Prop :=
  ∀ s : State,
    (s.pwr.soft = some 0 → acquiring s .a = false → acquiring s .b = false → ∀ f, exec (.resetSoftDone f) s = .next
      (planes (finish .reset stOk []) { s with pwr := { s.pwr with soft := none } })) ∧
    (s.pwr.soft = some 1 →
      exec (.resetSoftDone none) s = .next (finish .reset stOk [] (initDram none { s with pwr := { s.pwr with soft := none } })) ∧
      ∀ f, exec (.resetSoftDone (some f)) s = .next (finish .reset stInternal [] (post evDramTrainFail (trainDetail f)
        (initDram (some f) { s with pwr := { s.pwr with soft := none } })))) ∧
    (∀ r : Nat, s.harn.measuring = true → ∃ t, exec (.chainDelayMeasureDone (2 * r)) s = .next t ∧
      t.harn.hopDown = BitVec.ofNat 32 r ∧ t.harn.sentDelay = some (BitVec.ofNat 32 r) ∧ t.harn.measuring = false ∧
      t.harn.hopUp = s.harn.hopUp) ∧
    (s.tb.loader.isSome = true → exec .timeLoadTimeout s = .next
      (finish .loader stConflict [] { s with tb := { s.tb with loader := none } })) ∧
    (∀ u r, s.can.clear = u :: r → ∃ t, exec .logClearDone s = .next t ∧ t.can.clear = r ∧
      (r ≠ [] → t.brg.slots = s.brg.slots) ∧
      (∀ k, r = [] → s.brg.slots.findIdx? (· == .running .log) = some k → t.brg.slots = s.brg.slots.set k (.done 0 [])) ∧
      t.can.log = s.can.log.drop ((logSkip s u).getD s.can.log.length) ∧ t.can.logNext = s.can.logNext) ∧
    (∀ d, acquiring s d = true → (s.girth.side d).stopping = true → (s.lash.get d).shots = [] →
      (s.girth.waiting.any fun o => o.side == d) = false → exec (.acqStopped d) s = .next (planes (endAcq d 0) s)) ∧
    (∀ r, s.cal.runs = [r] → r.left = 0 → exec .calRunDone s = .next
      (planes (fun t => finish (.cal r.mask) stOk [mk [(0, 17, r.late.toNat), (32, 17, r.low.toNat)]] (post evCalDone 1 t))
        { s with cal := { s.cal with runs := [] } })) ∧
    (∀ n, n < 16 → (chan s n).state = .running → (chan s n).abort = true → (chan s n).phase ≠ .fetch →
      descPlace s (chan s n).desc = true → bulkWaits s (chan s n).desc = false → let u := lastBurst n s
        exec (.dmaAbortDone n) s = .next
        (finishAll (.dmaAbort n) stOk [BitVec.ofNat 64 (chan s n).desc, BitVec.ofNat 64 (chan u n).done]
          (setChan n (fun c => { c with state := .aborted, abort := false, kick := false })
            (hostPut ((chan s n).desc + 8) [mk [(0, 2, 3), (32, 32, (chan u n).done)]] u))) ∧
        ((chan s n).phase ≠ .burst → u = s))

/-- The ends of BASELINE_CAPTURE, HISTORY_DUMP, MEM_READ and MEM_FILL (R215, R265, R343): a capture is kept with the captured
state, a dump releases the engine, a read delivers its words or fails, a fill has written its value. The update path (R392 to
R394): the session is reported, the oldest chunk is stored, the verified image is judged, and a trial that was not confirmed
in time is rolled back. The model's choices: a row of DRAM waits, in panic and behind the host or a channel, until it can be
granted (log 110); works that a break-in abandoned end first, without a slot (log 64); an image with an uncorrectable word
fails (log 111). -/
def Obligations.TransferAndUpdateEnds : Prop :=
  (∀ s : State,
     (∀ r, (baseline s r).state = 1 → (baseline s r).want ≤ (baseline s r).done →
       ∃ t, exec (.baselineCaptureDone r) s = .next t ∧ (baseline t r).done = 0 ∧
         ((baseline s r).later = [] → (baseline t r).state = 2) ∧
         (∀ n l, (baseline s r).later = n :: l → (baseline t r).state = 1 ∧ (baseline t r).prior = 2 ∧
           (baseline t r).want = n ∧ (baseline t r).later = l ∧ t.brg.slots = s.brg.slots) ∧
         (baseline t r).noise = groupNoise s (cfgOf s (routeSide r)) (routeSide r)) ∧
     (∀ d, s.girth.dump = some d → (d.left = [] ∨ d.toDram = true) →
       ∃ t, exec .historyDumpDone s = .next t ∧ t.girth.dump = s.girth.dumpQ.head? ∧ t.girth.dumpQ = s.girth.dumpQ.tail ∧
         (s.girth.dumpQ ≠ [] → t.brg.slots = s.brg.slots) ∧ t.girth.ring = s.girth.ring) ∧
     (∀ d, s.girth.dump = some d → d.left ≠ [] → d.toDram = false → exec .historyDumpDone s = .next s) ∧
     (∀ k a n, s.brg.slots[k]? = some (.running (.memRead a n)) → stalled s a = false →
       exec (.memReadDone k .ok) s =
         .next (slotDone k stOk (hostWords s a n) (wakeAt a { s with drawn := s.drawn + n })) ∧
       exec (.memReadDone k .timeout) s = .next (slotDone k stInternal []
         (wakeAt a { s with mem := { s.mem with timeouts := sat 16 (s.mem.timeouts + 1) } }))) ∧
     (∀ k a n x, s.brg.slots[k]? = some (.running (.memRead a n)) → stalled s a = true →
       exec (.memReadDone k x) s = .next s) ∧
     (∀ a left v x, s.mem.fill = some (a, left, v) → left ≠ 0 → bulkWaits s a = true → exec (.memFillDone x) s = .next s) ∧
     (∀ a left v x p n turn, s.mem.fill = some (a, left, v) → left ≠ 0 → serve s = some (p, n, turn) → n ≠ 16 →
       exec (.memFillDone x) s = .next s) ∧
     (∀ a left v, s.mem.fill = some (a, left, v) → a % 8 = 0 → left % 8 = 0 → s.mem.panic = false → hostWaits s = false →
       (∀ n, n < 16 → burstPending s n = false) → ∃ t, exec (.memFillDone .ok) s = .next t ∧
         t.mem.fill = s.mem.fillQ.head? ∧ t.mem.fillQ = s.mem.fillQ.tail ∧
         t.mem.bytes = memPutWords s.mem.bytes a (List.replicate (left / 8) v) ∧ t.drawn = s.drawn)) ∧
  (∀ s : State,
     (∀ p x, s.can.works = [.begins p] → s.can.session = some x → exec .updateBeginDone s = .next
       (finish .update stOk [mk [(0, 16, chunkCount x.total), (16, 16, x.data.length), (32, 16, firstMissing x)]]
         { s with can := { s.can with works := [] } })) ∧
     (∀ p w r x, s.can.works = .begins p :: w :: r → s.can.session = some x → ∃ t, exec .updateBeginDone s = .next t ∧
       t.can.works = w :: r ∧ t.brg.slots = s.brg.slots) ∧
     (∀ c r x, s.can.buffer = c :: r → s.can.session = some x → s.can.running = true → exec .updateChunkStored s =
       .next { s with can := { s.can with buffer := r, session := some { x with data := kvSet [] x.data c.1 c.2 } } }) ∧
     (∀ w r x, s.can.works = .ends :: w :: r → s.can.session = some x → ∃ t, exec .updateEndDone s = .next t ∧
       t.can.works = w :: r ∧ t.brg.slots = s.brg.slots) ∧
     (∀ x, s.can.works = [.ends] → s.can.session = some x →
       crc32c (sessionBytes x) ≠ x.crc ∨ (imageIn s x.slotB).bad = true →
       exec .updateEndDone s = .next (finish .update stConflict [] (setImage x.slotB { imageIn s x.slotB with bad := false }
         { s with can := { s.can with works := [], session := some { x with data := [] } } }))) ∧
     (∀ x, s.can.works = [.ends] → s.can.session = some x → crc32c (sessionBytes x) = x.crc →
       (imageIn s x.slotB).bad = false →
       ∃ t, exec .updateEndDone s = .next t ∧ t.can.session = none ∧ t.can.works = [] ∧
         (if imageCheck s.can.revoked s.can.svnFloor (sessionBytes x) = 0 then
           (x.slotB = true → t.can.slotB = .valid ∧ t.can.imageBi = imageOf (sessionBytes x) ∧ t.can.slotA = s.can.slotA) ∧
           (x.slotB = false → t.can.slotA = .stored ∧ t.can.imageA = imageOf (sessionBytes x) ∧ t.can.slotB = s.can.slotB)
         else (if x.slotB then t.can.slotB else t.can.slotA) = .empty)) ∧
     (onTrial s = true → s.can.trialAt.isSome = true → ∃ t, exec .trialTimerExpiry s = .next t ∧
       t.can.slotA = .rejected ∧ t.can.rollback = some 0 ∧ t.can.trialAt = none ∧
       t.pwr.hard = (if s.pwr.hard.isSome then s.pwr.hard else some 2)))

/-! ### Time base, Awl, harness -/

/-- PPS edges (R274, Table 13-1): the wrong polarity does nothing, the first edge is kept, one a second after the last is
accepted and makes PPS present, another is rejected; without edges PPS is absent and a discipline by PPS alone goes to
HOLDOVER. REF10 (R275, R277): the loop keeps its presence and absence; a gate within 90 ppm counts toward the window; gates
are ignored while the PLL is not LOCKED. Whole seconds and days of the time base (R276 to R278), and the check of the 32.768
kHz oscillator (R288): the correction is frozen while the PLL is not LOCKED. The model's choices: an absence forgets the last
edge, the first one after it is kept and not rejected, and the day of ageing begins with the entry to HOLDOVER or the
selection of XTAL (log 75). -/
def Obligations.TimeBaseEvents : Prop :=
  (∀ s : State,
     (∀ f, f ≠ tbFalling s → exec (.ppsEdge f) s = .next s) ∧
     (s.tb.ppsAt = none → exec (.ppsEdge (tbFalling s)) s = .next { s with tb := { s.tb with ppsAt := some s.tb.mono } }) ∧
     (∀ a, s.tb.ppsAt = some a → aSecondApart a s.tb.mono = true → ∃ t, exec (.ppsEdge (tbFalling s)) s = .next t ∧
       t.tb.ppsUp = true ∧ t.tb.ppsAt = some s.tb.mono ∧ t.tb.rejects = s.tb.rejects) ∧
     (∀ a, s.tb.ppsAt = some a → aSecondApart a s.tb.mono = false → exec (.ppsEdge (tbFalling s)) s =
       .next { s with tb := { s.tb with
         rejects := sat 16 (s.tb.rejects + 1), ppsAt := if s.tb.ppsUp then some a else some s.tb.mono } }) ∧
     (s.tb.ppsUp = true → ∃ t, exec .ppsAbsentTimeout s = .next t ∧ t.tb.ppsUp = false ∧ t.tb.ppsAt = none ∧
       (tbSource s = 1 → s.tb.state = .locked → t.tb.state = .holdover ∧ t.tb.holdovers = sat 16 (s.tb.holdovers + 1)))) ∧
  (∀ s : State,
     (s.tb.refUp = false → ∃ t, exec .ref10Present s = .next t ∧ t.tb.refUp = true ∧ t.tb.refIn = true ∧ t.tb.gates = []) ∧
     (s.tb.refUp = true → ∃ t, exec .ref10Absent s = .next t ∧ t.tb.refUp = false ∧ t.tb.gates = []) ∧
     (∀ e : Int, s.tb.refUp = true → pllLocked s = true → s.tb.refIn = true → e.natAbs ≤ 90000000 →
       exec (.ref10GateEnd e) s = .next { s with tb := { s.tb with
         gates := (e :: s.tb.gates).take 100, refBad := 0, refGood := min (s.tb.refGood + 1) 10 } }) ∧
     (∀ e : Int, pllLocked s = false → exec (.ref10GateEnd e) s = .next s)) ∧
  (∀ s : State,
     (pllLocked s = false → exec .timeBaseSecond s = .next (if s.tb.state = .locked ∨ s.tb.state = .freq then
       { s with tb := { s.tb with past := (s.tb.y :: s.tb.past).take 64 } } else s)) ∧
     (pllLocked s = true → s.tb.state = .free → tbSource s = 0 → exec .timeBaseSecond s =
       .next { s with tb := { s.tb with y := clampY (s.tb.y0 + ageingCorr s) } }) ∧
     (pllLocked s = true → s.tb.state = .locked → refSteers s = false → exec .timeBaseSecond s =
       .next { s with tb := { s.tb with past := (s.tb.y :: s.tb.past).take 64 } }) ∧
     (tbSource s = 0 ∨ s.tb.state = .holdover → exec .ageingDay s =
       .next (post evAgeingApplied (sat 16 (holdSeconds s / 86400)) s)) ∧
     (s.can.running = true → s.pwr.xtFault = none → ∀ out, exec (.xtalFaultCheck true out) s =
       .next (post evXtalFault 0 { s with pwr := { s.pwr with xtFault := some false } })) ∧
     (∀ k, s.can.running = true → s.pwr.xtFault = some k → exec (.xtalFaultCheck false false) s =
       .next (post evXtalFault (0x8000 + b2n k) { s with pwr := { s.pwr with xtFault := none } })) ∧
     (∀ a b, s.can.running = false → exec (.xtalFaultCheck a b) s = .next s))

/-- Awl (R282, R283, R286): an accepted edge, one of LOOPBACK too, takes the next SEQ and starts a conversion, one within the
dead time is counted; the converted edge enters the queue where QUEUE asks for it; the spare pair takes over between
conversions, and the pair it replaces is calibrated; a background calibration gives every spare pair within the limits its
new value. The model's choices: the spare is trimmed, takes over, and then the pair it replaced follows (log 38); an edge of
LOOPBACK comes as TIN_EDGE 10 (log 101). -/
def Obligations.AwlEdges : Prop :=
  ∀ s : State, Sound s →
    (∀ n f, n < 8 → bit (tdcCfg s n) 0 = true → edgeWanted (tdcCfg s n) f = true → holdOver s n = true →
      awlBusy s n = false → ∃ t, exec (.tinEdge n f) s = .next t ∧ (awlIn t n).seq = (awlIn s n).seq + 1 ∧
        (awlIn t n).conv.isSome = true ∧ (awlIn t n).lastAt = some s.tb.mono ∧ (awlIn t n).queue = (awlIn s n).queue) ∧
    (∀ n f, n < 8 → bit (tdcCfg s n) 0 = true → edgeWanted (tdcCfg s n) f = true → holdOver s n = true →
      awlBusy s n = true → exec (.tinEdge n f) s =
        .next (setAwl n (fun a => { a with deadMiss := sat 16 (a.deadMiss + 1) }) s)) ∧
    (∀ f, awlBusy s 10 = false → ∃ t, exec (.tinEdge 10 f) s = .next t ∧ (awlIn t 10).seq = (awlIn s 10).seq + 1 ∧
        (awlIn t 10).conv.isSome = true) ∧
    (∀ n count c, n < 11 → (awlIn s n).conv = some c → count ≤ 320 → ∃ t, exec (.awlConversionDone n count) s = .next t ∧
      (awlIn t n).conv = none ∧ (awlIn t n).queue = (if bit c.cfg 5 = true ∧ (awlIn s n).queue.length < 512 then
        (awlIn s n).queue ++ [tdcEntry (awlIn s n) c count] else (awlIn s n).queue)) ∧
    (∀ n, (awlIn s n).takeover = true → (awlIn s n).conv = none → ∃ t, exec (.awlPairTakeover n) s = .next t ∧
      (awlIn t n).pair = !(awlIn s n).pair ∧ ∀ x, (awlIn s n).second = some x → deltaOk x = true →
        (awlIn t n).takeover = true ∧ (if (awlIn s n).pair then (awlIn t n).dt1 else (awlIn t n).dt0) = x) ∧
    (∀ l x, s.cal.awlRound.isSome = true → exec (.awlBackgroundCal l x) s = .next s) ∧
    (∀ l x, fld (rwGet s 0x6040) 15 0 ≠ 0 → bgOn s = true → foreground s 15 = false → s.cal.awlRound = none →
      ∃ t, exec (.awlBackgroundCal l x) s = .next t ∧ ∀ n, n < 11 → deltaOk (l.getD n (0, 0)).1 = true →
        (awlIn t n).takeover = true ∧ (awlIn t n).pair = (awlIn s n).pair ∧
        (if (awlIn s n).pair then (awlIn t n).dt0 else (awlIn t n).dt1) = (l.getD n (0, 0)).1)

/-- Links (Table 05-3, R76): a comma aligns, 64 valid symbols lock, a loss ends the link with its event. BREAK_IN (R91):
Bridle forgets both stored requests and every deferred slot; a waiting time load, a Tack save or erase and a CAL_RUN end
(R279, R113, R364); the commit gate, the registers and every other work stand (R103); its end posts EV_CHAIN_BREAKIN. The
rows of harness traffic complete where the links they need are LOCKED (R75, R77, R79) and the unit answers (R84 to R88). -/
def Obligations.LinksAndBreakIn : Prop :=
  (∀ s : State,
     (answers s = true → s.harn.up = .noLink → exec (.harnessCommaReceived .up) s =
       .next { s with harn := { s.harn with up := .align } }) ∧
     (answers s = true → s.harn.down = .noLink → exec (.harnessCommaReceived .down) s =
       .next { s with harn := { s.harn with down := .align } }) ∧
     (answers s = true → s.harn.up = .align → exec (.harnessLinkLock .up) s =
       .next (post evChainUpLock 0 { s with harn := { s.harn with up := .locked } })) ∧
     (answers s = true → s.harn.down = .align → exec (.harnessLinkLock .down) s =
       .next (post evChainDownLock 0 { s with harn := { s.harn with down := .locked, downEver := true } })) ∧
     (s.harn.up = .locked → ∃ t, exec (.harnessLinkLoss .up) s = .next t ∧ t.harn.up = .noLink ∧
       t.harn.down = s.harn.down ∧ t.harn.outUp = s.harn.outUp ∧ t.evq = (post evChainUpLoss 0 s).evq) ∧
     (s.harn.down = .locked → ∃ t, exec (.harnessLinkLoss .down) s = .next t ∧ t.harn.down = .noLink ∧
       t.harn.up = s.harn.up ∧ t.harn.outDown = s.harn.outDown ∧ t.evq = (post evChainDownLoss 0 s).evq)) ∧
  (∀ s : State,
     (answers s = true → s.harn.up = .locked → ∃ t, exec .breakIn s = .next t ∧ t.harn.breakIn = true ∧
       t.brg.storedH = none ∧ t.brg.storedU = none ∧ t.brg.slots = List.replicate 16 .free ∧ t.brg.gate = s.brg.gate ∧
       t.tb.loader = none ∧ t.tacks.op = none ∧ (s.cal.phase = 0 → t.cal.runs = []) ∧ t.mem.fill = s.mem.fill ∧ t.girth.dump = s.girth.dump ∧
       t.harn.measuring = s.harn.measuring ∧ t.can.clear = s.can.clear ∧
       t.draft = s.draft ∧ t.live = s.live ∧ t.rw = s.rw ∧ t.nv = s.nv ∧ t.pwr = s.pwr) ∧
     (answers s = false ∨ s.harn.up ≠ .locked → exec .breakIn s = .next s) ∧
     (s.harn.breakIn = true → exec .breakInEnd s =
       .next (post evChainBreakin 0 { s with harn := { s.harn with
         breakIn := false, up := .align, lineDown := s.harn.lineDown.drive s.tb.mono dataIdle } })) ∧
     (answers s = true → s.harn.up = .locked → ∃ t, exec .breakIn s = .next t ∧
       t.harn.lineDown = s.harn.lineDown.drive s.tb.mono (.k 28 7))) ∧
  (∀ s : State, answers s = true →
     (s.harn.breakIn = false → s.harn.up = .locked → ∀ k, keepsBack s k = false →
       ∃ t, exec (.harnessPacketForward .up k) s = .next t ∧ t.harn.outDown = some (readdress s k)) ∧
     (s.harn.breakIn = false → s.harn.down = .locked → downBlock s = false → ∀ k,
       (∃ t, exec (.harnessPacketForward .down k) s = .next t ∧ t.harn.outUp = some k) ∧
       (packetOk k = true → ∃ t, exec (.replyPassingUp k) s = .next t ∧ t.harn.outUp = some (accumulate s k) ∧
         t.harn.own = none)) ∧
     (∀ x, (∃ t, exec (.armSymbolReceived .up x) s = .next t ∧ t.harn.timDown = (passSymbol .up .arm x s).harn.timDown) ∧
       (∃ t, exec (.syncSymbolReceived .up x) s = .next t ∧ t.harn.timDown = (passSymbol .up .sync x s).harn.timDown) ∧
       ∀ p, ∃ t, exec (.fireSymbolReceived p x) s = .next t ∧ t.harn.timUp = (passSymbol p .fire x s).harn.timUp ∧
         t.harn.timDown = (passSymbol p .fire x s).harn.timDown) ∧
     (∀ p, ∃ t, exec (.timingSymbolDiscard p) s = .next t ∧ t.harn.timErr = sat 16 (s.harn.timErr + 1)) ∧
     (∃ t, exec .delayProbeReceived s = .next t ∧
       t.harn.timUp = s.harn.timUp.put .echo { origin := 0, code := 0, acc := 0 } s.tb.mono s.drawn) ∧
     (∀ d, ∃ t, exec (.hopDelayUpReceived d) s = .next t ∧ t.harn.hopUp = d))

/-- Forwarding (R75, R77, R79, R80, R82): a packet from UP leaves on DOWN unless the unit answers it for those below; one
from DOWN leaves on UP unless DOWN is blocked; a reply takes up this unit's own answer, and an enumeration with CLEAR then
takes the address; one with a bad CRC passes as it is and is counted. Timing symbols (R84 to R88): ARM, FIRE and SYNC pass on
with the hop delay added, their events carry the origin instant, a line SYNC is due 30 µs after it, a pending CHAIN_SYNC load
takes it; ARM and SYNC from below, and every symbol of a unit that does not answer, are ignored; a discarded symbol is
counted; a PROBE is echoed, and a hop delay is taken over. -/
def Obligations.HarnessTraffic : Prop :=
  (∀ (k : Packet) (s : State),
     (forwards s .up = true → keepsBack s k = false → ∃ t, exec (.harnessPacketForward .up k) s = .next t ∧
       t.harn.outDown = some (readdress s k) ∧ t.harn.downBusy = s.tb.mono + packetCycles (readdress s k) ∧
       t.harn.outUp = s.harn.outUp ∧ t = { s with harn := t.harn }) ∧
     (forwards s .up = true → keepsBack s k = true → exec (.harnessPacketForward .up k) s = .next s) ∧
     (forwards s .up = false → exec (.harnessPacketForward .up k) s = .next s) ∧
     (forwards s .down = true → downBlock s = false → exec (.harnessPacketForward .down k) s = .next { s with harn :=
       { s.harn with
         outUp := some k, upBusy := s.tb.mono + packetCycles k
         lineUp := s.harn.lineUp.send s.tb.mono 3 (packetSymbols k) } }) ∧
     (forwards s .down = false ∨ downBlock s = true →
       exec (.harnessPacketForward .down k) s = .next s ∧ exec (.replyPassingUp k) s = .next s) ∧
     (forwards s .down = true → downBlock s = false → packetOk k = true → ∃ t, exec (.replyPassingUp k) s = .next t ∧
       t.harn.outUp = some (accumulate s k) ∧ t.harn.upBusy = s.tb.mono + packetCycles (accumulate s k) ∧
       t.harn.own = none ∧ t.harn.clearDue = false ∧ t.evq = s.evq ∧
       (∀ x, s.harn.own = some x → x.fits k = true → x.op = 0x18 → x.status = 0 → s.harn.clearDue = true →
         t.pwr.address = 0) ∧
       (s.harn.own = none ∨ s.harn.clearDue = false → t.pwr = s.pwr)) ∧
     (forwards s .down = true → downBlock s = false → packetOk k = false → ∃ t, exec (.replyPassingUp k) s = .next t ∧
       t.harn.outUp = some k ∧ t.harn.own = none ∧ t.harn.downCrc = sat 16 (s.harn.downCrc + 1) ∧
       t.pwr = s.pwr ∧ t.evq = (post evChainCrc 1 s).evq)) ∧
  (∀ (p : HPort) (x : TimingSym) (s : State),
     (answers s = true →
       exec (.armSymbolReceived .down x) s = .next s ∧ exec (.syncSymbolReceived .down x) s = .next s ∧
       exec (.armSymbolReceived .up x) s = .next (lineArm x.code.toNat
         (postAt evArmReceived x.code.toNat (tagOfNs (originAt s .up x / 256)) (passSymbol .up .arm x s))) ∧
       (∃ trig : Trigger, trig.cause = 4 ∧ trig.code = x.code.toNat ∧ trig.ns = originAt s p x / 256 ∧
         trig.frac = originAt s p x % 256 ∧ trig.origin = x.origin.toNat ∧ trig.fire = tagOfNs (originAt s p x / 256) ∧
         exec (.fireSymbolReceived p x) s = .next (postAt evFireReceived x.origin.toNat (tagOfNs (originAt s p x / 256))
           (sourceTrigger trig trigFire (passSymbol p .fire x s)))) ∧
       (lineSyncOn s = false → exec (.syncSymbolReceived .up x) s = .next (passSymbol .up .sync x s)) ∧
       (lineSyncOn s = true → s.tb.loader = none → exec (.syncSymbolReceived .up x) s =
         .next (let t := passSymbol .up .sync x s; { t with pll := { t.pll with
           syncWait := t.pll.syncWait ++ [{ line := true, due := syncDue s .up x }] } })) ∧
       (∀ tag, lineSyncOn s = true → s.tb.loader = some (.chainSync tag) → ∃ t,
         exec (.syncSymbolReceived .up x) s = .next t ∧ t.tb.loader = none ∧
         t.pll.syncWait = s.pll.syncWait ++ [{ line := true, due := syncDue s .up x }]) ∧
       (bit (girthCtrl s .a) 3 = false → bit (girthCtrl s .b) 3 = false → exec (.timingSymbolDiscard p) s =
         .next (post evTimingSymErr (match p with | .up => 0 | .down => 1)
           { s with harn := { s.harn with timErr := sat 16 (s.harn.timErr + 1) } })) ∧
       exec .delayProbeReceived s = .next (timSend .up .echo { origin := 0, code := 0, acc := 0 } s) ∧
       (∀ d, exec (.hopDelayUpReceived d) s = .next { s with harn := { s.harn with hopUp := d } })) ∧
     (answers s = false → ∀ d,
       exec (.armSymbolReceived p x) s = .next s ∧ exec (.fireSymbolReceived p x) s = .next s ∧
       exec (.syncSymbolReceived p x) s = .next s ∧ exec (.timingSymbolDiscard p) s = .next s ∧
       exec .delayProbeReceived s = .next s ∧ exec (.hopDelayUpReceived d) s = .next s))

/-! ### Probe emitter, scan and data plane -/

/-- LASER_EN (R139, Table 07-10): a fall of 50 ns or more disables emission and ends acquisition on both sides with the bias
at 0 V; a shorter one does nothing; the rise posts its event. That the lock state reads OFF after the fall is the model's
choice (log 101). -/
def Obligations.LaserInterlock : Prop :=
  ∀ s : State,
    (∀ w, 50 ≤ w → s.pwr.laserEn = true → answers s = true → ∃ t, exec (.laserEnFall w) s = .next t ∧
      t.pwr.laserEn = false ∧ ∀ d, (t.lash.get d).enabled = false ∧ acquiring t d = false ∧ (t.lash.get d).wl = .off ∧
        (t.lash.get d).lbias = 0) ∧
    (∀ w, w < 50 → exec (.laserEnFall w) s = .next s) ∧
    (s.pwr.laserEn = false → answers s = true → exec .laserEnRise s =
      .next (post evLaserInterlock 1 { s with pwr := { s.pwr with laserEn := true } }))

/-- Faults that stop a side (R125, Table 07-10): an open or shorted load found in a checkable pulse, and a DAC fault, disable
emission and end acquisition; a DAC fault of I and one of Q are each told. -/
def Obligations.LightStopsOnFaults : Prop :=
  ∀ (d : Side) (s : State),
    (∀ b code, (s.lash.get d).pulse = some code → proofCode ≤ code → ∃ t, exec (.gateLoadFault d b) s = .next t ∧
      (t.lash.get d).gate = (if b then .short else .openLoad) ∧ (t.lash.get d).enabled = false ∧
      (t.lash.get d).pulse = none ∧ acquiring t d = false) ∧
    (∀ b code, (s.lash.get d).pulse = some code → code < proofCode → exec (.gateLoadFault d b) s = .next s) ∧
    (∀ q, ∃ t, exec (.dacFault d q) s = .next t ∧ (t.lash.get d).dacFault = true ∧
      (t.lash.get d).enabled = false ∧ acquiring t d = false ∧
      ((s.lash.get d).enabled = false → acquiring s d = false →
        t.evq.q = (post evDacFault (d.num + 2 * b2n q) s).evq.q))

/-- Gate pulses (R125, R126, R128): the end of an ordinary pulse keeps its energy and, held long enough at a checkable
current, verifies the gate; a proof pulse begins where it may. Wavelength lock (R130, R131): acquired and lost by turns, and
an output at its limit reports and stands there. The model's choices: an output stands at its limit's value (log 60), and
LBIAS has no limit to reach while LASER_EN is low (log 101). -/
def Obligations.GatePulsesAndLock : Prop :=
  (∀ (d : Side) (s : State),
     ((s.lash.get d).pulse = none → ∀ h e, exec (.gatePulseEnd d h e) s = .next s) ∧
     (∀ code h e, (s.lash.get d).pulse = some code → (s.lash.get d).proof = false → (s.lash.get d).cut = false →
       (s.lash.get d).proofDue = false → ∃ t, exec (.gatePulseEnd d h e) s = .next t ∧ (t.lash.get d).pulse = none ∧
         (t.lash.get d).energies = (s.lash.get d).energies.set ((s.lash.get d).launched - 1) e ∧
         (48 ≤ h → proofCode ≤ code → (s.lash.get d).gate = .unverified → (t.lash.get d).gate = .verified) ∧
         (h < 48 → (s.lash.get d).gate = .verified → (t.lash.get d).gate = .unverified)) ∧
     ((s.lash.get d).enabled = true → s.pwr.laserEn = true → (s.lash.get d).pulse = none → proofTime s d = true →
       (s.lash.get d).gate = .unverified → exec (.proofPulse d) s = .next
         (setLash d (fun l => { l with
             pulse := some (proofCurrent (cfgOf s d) d), pulseAt := s.tb.mono, proof := true, cut := false
             proofOff := false, proofDue := false }) s)) ∧
     ((s.lash.get d).enabled = false ∨ s.pwr.laserEn = false → exec (.proofPulse d) s = .next s)) ∧
  (∀ (d : Side) (s : State),
     ((s.lash.get d).wl = .acquiring → exec (.wavelockAcquired d) s =
       .next (post evWavelockAcquired d.num (setLash d (fun l => { l with wl := .locked }) s))) ∧
     ((s.lash.get d).wl = .locked → exec (.wavelockLost d) s =
       .next (post evWavelockLost d.num (setLash d (fun l => { l with wl := .acquiring }) s))) ∧
     (lockOn (s.lash.get d) = true → s.pwr.laserEn = true →
       exec (.lbiasLimitReached d true) s = .next (post evLbiasLimit (d.num + 2)
         (setLash d (fun l => { l with lbias := BitVec.ofNat 16 (lbiasLimits s d).2 }) s)) ∧
       exec (.lbiasLimitReached d false) s = .next (post evLbiasLimit d.num
         (setLash d (fun l => { l with lbias := BitVec.ofNat 16 (lbiasLimits s d).1 }) s))) ∧
     (s.pwr.laserEn = false → ∀ u, exec (.lbiasLimitReached d u) s = .next s) ∧
     (lockOn (s.lash.get d) = true →
       exec (.tecLimitReached d true) s = .next (post evTecLimit (d.num + 2)
         (setLash d (fun l => { l with tec := BitVec.ofNat 16 (tecLimits s d).2 }) s)) ∧
       exec (.tecLimitReached d false) s = .next (post evTecLimit d.num
         (setLash d (fun l => { l with tec := BitVec.ofNat 16 (tecLimits s d).1 }) s))) ∧
     (lockOn (s.lash.get d) = false → ∀ u, exec (.lbiasLimitReached d u) s = .next s ∧
       exec (.tecLimitReached d u) s = .next s))

/-- Launches (R118, R119, R134): a boundary inside a dwell starts the next shot group, the next launch group follows, the
launch edge goes to Awl, and a missing edge marks the last shot as estimated. -/
def Obligations.Launches : Prop :=
  ∀ (d : Side) (s : State),
    (acquiring s d = true → (s.girth.side d).stopping = false → (s.lash.get d).seq = .none → waits s d = false →
      2 ≤ (s.lash.get d).dwellLeft → ∃ t, exec (.shotGroupBoundary d) s = .next t ∧ (t.lash.get d).launched = 1 ∧
        (t.lash.get d).number = (s.lash.get d).number + 1 ∧ (t.lash.get d).running = true ∧
        (t.lash.get d).dwellLeft = (s.lash.get d).dwellLeft - 1 ∧
        (t.lash.get d).rampLeft = (s.lash.get d).rampLeft - 1 ∧ (t.lash.get d).entry = (s.lash.get d).entry) ∧
    (acquiring s d = false → exec (.shotGroupBoundary d) s = .next s ∧ exec (.launchGroupLaunch d) s = .next s) ∧
    (acquiring s d = true → (s.girth.side d).stopping = false → (s.lash.get d).seq = .none →
      (s.lash.get d).running = true → (s.lash.get d).launched ≠ 0 →
      (s.lash.get d).launched < groupCount (cfgOf s d) d → ∃ t, exec (.launchGroupLaunch d) s = .next t ∧
        (t.lash.get d).launched = (s.lash.get d).launched + 1 ∧ (t.lash.get d).number = (s.lash.get d).number ∧
        (t.lash.get d).shots = (s.lash.get d).shots ++ [newShot d (s.lash.get d).launched s]) ∧
    (Sound s → awlBusy s (8 + d.num) = false → (s.lash.get d).proof = false → ∃ t, exec (.launchEdge d) s = .next t ∧
      (t.lash.get d).missing = false ∧ (awlIn t (8 + d.num)).seq = (awlIn s (8 + d.num)).seq + 1) ∧
    (∀ x l, (s.lash.get d).shots = l ++ [x] → ∃ t, exec (.launchMissing d) s = .next t ∧
      (t.lash.get d).missing = true ∧ (t.lash.get d).shots = l ++ [{ x with est := true }])

/-- The route switch (Table 07-9, R137, R157): blanking begins at the next open entry, the strobe counts an actuation, the
end of blanking launches on the new route with fresh ramp and settle groups; a settle group that fails is repeated while it
may be. APR and the parking of an accumulation at a switch (R140, R223): the broken route is blocked until it is released;
the transfer ends with the accumulation parked, or read back. That the ramp counts the present shot group, so that it is
whole at the launch that ends blanking, is the model's choice (log 57). -/
def Obligations.RouteSwitch : Prop :=
  (∀ (d : Side) (s : State),
     (∀ e, acquiring s d = true → (s.lash.get d).seq = .draining → (s.therm.get d).transfer = false →
       entryFrom s d (s.lash.get d).entry = some e → ∃ t, exec (.routeBlankingStart d) s = .next t ∧
         (t.lash.get d).seq = .blanking false ∧ (t.lash.get d).entry = e.1 ∧ (t.lash.get d).position = fld e.2 1 0 ∧
         (t.lash.get d).running = false) ∧
     ((s.lash.get d).seq = .blanking false → ∃ t, exec (.switchStrobe d) s = .next t ∧
       (t.lash.get d).seq = .blanking true ∧ (t.lash.get d).count = sat 32 ((s.lash.get d).count + 1)) ∧
     ((s.lash.get d).seq ≠ .blanking false → exec (.switchStrobe d) s = .next s) ∧
     (∀ e, acquiring s d = true → (s.lash.get d).seq = .blanking true → (s.girth.side d).stopping = false →
       waits s d = false → entryFrom s d (s.lash.get d).entry = some e → entryRoute d e.2 = presentRoute s d →
       ∃ t, exec (.routeBlankingEnd d) s = .next t ∧ (t.lash.get d).seq = .none ∧ (t.lash.get d).launched = 1 ∧
         (t.lash.get d).rampLeft = rampGroups (cfgOf s d) d ∧ (t.lash.get d).settleLeft = settleGroups (cfgOf s d) d ∧
         (t.lash.get d).entry = e.1 ∧ (t.lash.get d).dwellLeft = fld e.2 31 16) ∧
     (∀ lanes, acquiring s d = true → (s.lash.get d).seq = .none → (s.lash.get d).settleLeft = 1 →
       (settleTol (cfgOf s d) d ≠ 0 → lanes.zipIdx.any (fun x => laneOff s d x.2 x.1) = true →
         (s.lash.get d).extra < settleExtra (cfgOf s d) d → 1 < (s.lash.get d).dwellLeft →
         exec (.settlePeriodEnd d lanes) s =
           .next (setLash d (fun l => { l with settleLeft := 2, extra := l.extra + 1 }) s)) ∧
       (settleTol (cfgOf s d) d = 0 ∨ lanes.zipIdx.any (fun x => laneOff s d x.2 x.1) = false →
         exec (.settlePeriodEnd d lanes) s =
           .next (endSettle d (decide ((s.lash.get d).dwellLeft ≤ 1)) false s)))) ∧
  (∀ (d : Side) (s : State),
     (∀ r, (s.girth.side d).breakRoute = r → routeSide r = d → bit (rwGet s (sid d 0x4009)) 0 = true →
       (deltaOf s r).broken = true → (s.lash.get d).blocked.getLsbD (r % 4) = false →
       ∃ t, exec (.aprActivation d) s = .next t ∧ (t.lash.get d).blocked.getLsbD (r % 4) = true) ∧
     ((s.therm.get d).transfer = true → (s.lash.get d).seq = .draining → ∀ b,
       ∃ t, exec (.thermalParkingDone d b) s = .next t ∧ (t.therm.get d).transfer = false ∧
         (t.therm.get d).shots = 0 ∧ ((s.therm.get d).shots = 0 → (t.therm.get d).parked = (s.therm.get d).parked) ∧
         ((s.therm.get d).shots ≠ 0 → (t.therm.get d).parked =
           ⟨(s.therm.get d).route, (s.therm.get d).shots, (s.therm.get d).first, (s.therm.get d).last,
             (s.therm.get d).satUp⟩ :: (s.therm.get d).parked.filter (·.route ≠ (s.therm.get d).route))) ∧
     (∀ p, (s.therm.get d).transfer = true → (s.lash.get d).seq ≠ .draining →
       (s.therm.get d).parked.find? (·.route = (s.therm.get d).route) = some p →
       ∃ t, exec (.thermalParkingDone d false) s = .next t ∧ (t.therm.get d).transfer = false ∧
         (t.therm.get d).shots = p.shots ∧ (t.therm.get d).route = p.route) ∧
     ((s.therm.get d).transfer = false → ∀ b, exec (.thermalParkingDone d b) s = .next s))

/-- The acoustic path (R21, R206, R209, R247, R248, R251, R256, R258 to R260, R266). The oldest shot reaches the Currier
array: each zone of its route whose block ends with it delivers one output instant, under the shot's configuration, one
sample a channel, with the time tag of R209, so that zones of one rate share it; the samples of a held shot are coded 0b11,
those of an unlocked one never 0b00, those of a zone that starts anew 0b10 at least. The oldest output instant is evaluated:
its detectors take the samples; where the zone's detector becomes active, an ARMED zone with room opens a record over the
cluster that crossed first, at the time of R248, and queues its MARK_OPEN. Hold-off, auto-trigger, envelope, delta-trace and
digest periods end. -/
def Obligations.AcousticEvents : Prop :=
  ∀ (d : Side) (s : State),
    (∀ x r data, (s.lash.get d).shots = x :: r → ∃ t outs, exec (.currierShotOutput d data) s = .next t ∧
      (t.lash.get d).shots = r ∧ (t.cur.get d).groups = (s.cur.get d).groups + 1 ∧ (t.cur.get d).cfg = x.cfg ∧
      t.girth.waiting = s.girth.waiting ++ outs ∧
      outs.map (·.zone) = (acousticOn x.cfg x.route).filter (fun z =>
        (s.cur.get d).groups % 2 ^ zoneRate x.cfg z = 2 ^ zoneRate x.cfg z - 1) ∧
      ∀ o ∈ outs, o.side = d ∧ o.cfg = x.cfg ∧
        (∃ n, let a := outputAt x.cfg o.zone ((nsOfTag x.tag, x.cycle) :: (s.cur.get d).tags.take (11 * 1023)) n
          o.tag = tagOfNs a.1 ∧ o.at' = a.2) ∧
        (kvWf ZoneRun.init none s.zones = true →
          o.samples.length = zoneChans x.cfg o.zone ∧ o.visit = x.visit ∧ ∀ y ∈ o.samples,
            ((∀ ch ∈ (zoneRun s o.zone).chans, ∀ h ∈ ch.hist, h.quality ≤ 3) →
              y.quality ≤ 3 ∧ (x.held = true → y.quality = 3)) ∧
            (x.unlocked = true → y.quality ≠ 0) ∧ ((zoneRun s o.zone).gates = [] → 2 ≤ y.quality))) ∧
    (∀ data, (s.lash.get d).shots = [] → exec (.currierShotOutput d data) s = .next s) ∧
    (∀ o r, s.girth.waiting = o :: r → ∃ t, exec .girthEvaluation s = .next t ∧ t.girth.waiting = r ∧
      (kvWf ZoneRun.init none s.zones = true →
        let z := o.zone
        let old := (zoneRun s z).chans
        let new := detect o.cfg z (fadeGate s o.side) old o.samples
        let p := (zoneRun s z).past.headD o
        (zoneRun t z).chans = new ∧ (zoneRun t z).past.head? = some o ∧
        ∀ f a b, detectorActive o.cfg z old = false → detectorActive o.cfg z new = true →
          earliest o.cfg z old new (clusters o.cfg z new) = some (f, a, b) →
          (zoneRun s z).state = .armed → triggersOn s o.side = true → s.girth.used < 128 → markRoom s = true →
          let ns := (Config.ratQ 248 ((nsOfTag p.tag : Rat) + f * ((nsOfTag o.tag : Rat) - nsOfTag p.tag))).toNat
          o.at' < mono4 s ns + 4 * trigMax o.cfg z →
          ∃ rec w, (zoneRun t z).state = .opened ∧ (zoneRun t z).record = some rec ∧ rec.cause = 0 ∧ rec.zone = z ∧
            rec.id = (nextId s.girth.lastId).toNat ∧ rec.trig = ns ∧ rec.first ≤ a ∧ b ≤ rec.last ∧
            t.girth.lastId = nextId s.girth.lastId ∧ t.girth.used = s.girth.used + 1 ∧
            (let mark := zoneFrame 3 z (zoneRoute o.cfg z) 0 0 (tagOfNs ns) w
             w.length = 6 ∧ fld (wd w 0) 31 0 = rec.id ∧ fld (wd w 0) 40 32 = z % 512 ∧ wd w 1 = tagOfNs ns ∧
             t.strm = { (enqueue mark s).strm with
               reserved := (enqueue mark s).strm.reserved + 1, markFull := t.strm.markFull }))) ∧
    (∀ z, (zoneRun s z).state = .holdoff → exec (.holdoffElapsed z) s = .next
      (setZone z (fun r => { r with
          state := if r.disarm || singleMode s (runSide s z) then .disarmed else .armed, disarm := false })
        (postIf (zoneRun s z).deadSince.isSome evDeadtime z (endDead (runSide s z) z s)))) ∧
    (∀ z, (zoneRun s z).state ≠ .holdoff → exec (.holdoffElapsed z) s = .next s) ∧
    (fld (rwGet s (sid d 0x3001)) 15 0 ≠ 0 → triggersOn s d = true →
      fld (rwGet s (sid d 0x3001)) 15 0 * sCycles ≤ s.tb.mono - (s.girth.side d).autoAt →
      ∃ t, exec (.autoTimeout d) s = .next t ∧ (t.girth.side d).autoAt = s.tb.mono) ∧
    (∀ b, acquiring s d = true → envPeriod (cfgOf s d) d ≠ 0 → (s.girth.side d).envStart = some b →
      ∃ t, exec (.envelopeIntervalEnd d) s = .next t ∧ (t.girth.side d).envStart =
        some (nsAt4 s (b.2 + 4000000 * envPeriod (cfgOf s d) d), b.2 + 4000000 * envPeriod (cfgOf s d) d)) ∧
    (deltaGroups (cfgOf s d) d ≠ 0 → (baseline s (presentRoute s d)).state = 2 →
      deltaGroups (cfgOf s d) d ≤ (deltaOf s (presentRoute s d)).done →
      ∃ t, exec (.deltaTraceForm d) s = .next t ∧ (s.mem.ecc = false → t = formDelta d (presentRoute s d) (wakeMem s)) ∧
        (readCondition s.mem.ecc s.drawn = .ecc → kvWf Baseline.none none s.base = true → (baseline t (presentRoute s d)).state = 0)) ∧
    (digestSecs s ≠ 0 → acquiring s d = true → ∃ t, exec (.digestPeriod d) s = .next t ∧
      (t.girth.side d).digestId = (s.girth.side d).digestId + 1 ∧ (t.girth.side d).digStart = now s) ∧
    (acquiring s d = false → exec (.autoTimeout d) s = .next s ∧ exec (.envelopeIntervalEnd d) s = .next s ∧
      exec (.digestPeriod d) s = .next s)

/-- The thermal path (R144, R219, R220, R224, R229): a shot counts unless the trace says otherwise, a complete accumulation
pauses the clock and latches the reference, and the computation releases the accumulators. The model's choices: a shot while
the Raman lanes are away does not count (log 107), and the computation uses the configuration of the completion (log 108). -/
def Obligations.ThermalEvents : Prop :=
  ∀ (d : Side) (s : State),
    (∀ tr, ramanReady s d = true → ∃ t, exec (.ramanShot d tr) s = .next t ∧ (t.therm.get d).shots =
      (if s.cal.raman.getLsbD d.num = true ∨
            (ramanWords (cfgOf s d) d (decide ((s.lash.get d).settleLeft ≠ 0)) (tr.take (thTrace (cfgOf s d) d + 2))).any
            (fun w => bit w 17 || bit w 49) = true ∨
          thShots (cfgOf s d) d ≤ (s.therm.get d).shots then (s.therm.get d).shots else (s.therm.get d).shots + 1)) ∧
    (∀ tr, ramanReady s d = false → exec (.ramanShot d tr) s = .next s) ∧
    (thShots (cfgOf s d) d ≤ (s.therm.get d).shots → (s.therm.get d).computing = false →
      ∃ t x, exec (.accumulationComplete d) s = .next t ∧ (t.therm.get d).comp = some x ∧
        x.route = (s.therm.get d).route ∧ x.first = (s.therm.get d).first ∧ x.last = (s.therm.get d).last ∧
        x.tref = (s.therm.get d).tref ∧ x.age = refAge s d ∧ x.cfg = cfgOf s d ∧ x.held = (s.therm.get d).held ∧
        (t.therm.get d).shots = 0 ∧ (t.therm.get d).running = false ∧
        (t.therm.get d).completed = ((s.therm.get d).completed + 1) % 2 ^ 32 ∧
        t = { s with therm := t.therm, evq := t.evq }) ∧
    ((s.therm.get d).comp ≠ none → ∃ t, exec (.thermalComputationDone d) s = .next t ∧
      (t.therm.get d).comp = none ∧ (t.therm.get d).completed = (s.therm.get d).completed) ∧
    ((s.therm.get d).comp = none → exec (.thermalComputationDone d) s = .next s)

/-- The converters and their calibration (R154, R161, R365, R366): an over-range burst is kept and told, a dwell of the
shadow converter is counted, a background trim borrows it for one spare, the swap puts the spare in the oldest place and
returns it, the Raman offsets are taken, a drift beyond its limit is marked. -/
def Obligations.ConverterEvents : Prop :=
  ∀ s : State, Sound s →
    (∀ m r b, burstLanes s ≠ 0 → findBurst s m r = some b → ∃ t, exec (.overrangeBurst m r) s = .next t ∧
      t.recv.burstAt = some s.tb.mono ∧
      (s.recv.burstAt = none → t.evq = (post evAdcOverrangeBurst (b.1.toNat + 256 * b2n b.2) s).evq)) ∧
    (∀ m r, burstLanes s = 0 ∨ findBurst s m r = none → exec (.overrangeBurst m r) s = .next s) ∧
    (∀ x, dwelling s = true → ∃ t, exec (.shadowDwellEnd x) s = .next t ∧ t.recv.dwells = (s.recv.dwells + 1) % 65536) ∧
    (∀ x, dwelling s = false → exec (.shadowDwellEnd x) s = .next s) ∧
    (∀ n tr f, n < 8 → bgOn s = true → sliceMs s ≠ 0 → (lane s n).degraded = 0 → foreground s n = false →
      s.recv.suspect = false → s.recv.borrowed = false → (lane s n).out = none → (lane s n).trimmable ≠ [] →
      ∃ t, exec (.backgroundSliceTrim n tr f) s = .next t ∧ t.recv.borrowed = true ∧ (lane t n).outTrims = tr ∧
        ∃ x ∈ (lane s n).trimmable, (lane t n).out = some x) ∧
    (∀ n x, n < 8 → (lane s n).out = some x → ∃ t, exec (.sliceSwap n) s = .next t ∧ t.recv.borrowed = false ∧
      (lane t n).out = none ∧ (lane t n).pos = (lane s n).pos.set (oldestPos (lane s n)) x) ∧
    (∀ n, (lane s n).out = none → exec (.sliceSwap n) s = .next (giveBack s)) ∧
    (∀ d tr, bgOn s = true → ramanSecs s ≠ 0 → foreground s (9 + d.num) = false →
      exec (.backgroundRamanOffset d tr) s = .next (formTrims (9 + d.num) tr s)) ∧
    (∀ d tr, foreground s (9 + d.num) = true → exec (.backgroundRamanOffset d tr) s = .next s) ∧
    (∀ n tr f, foreground s n = true → exec (.backgroundSliceTrim n tr f) s = .next s) ∧
    (∀ l, fld (rwGet s 0x8000) 31 24 ≠ 0 → ∃ t, exec (.calDriftCheck l) s = .next t ∧ ∀ g x, g < 17 → l[g]? = some x →
      10 * fld (rwGet s 0x8000) 31 24 < (x - (calGroup s g).temp).natAbs → (calGroup t g).low.getLsbD 6 = true)

/-! ### Aux front end, stream, memory, Lace -/

/-- The aux sequencer (R293, R295): the settling delay ends in a conversion, a conversion writes its entry with the present
time, a timer trigger starts a waiting run, is kept during one, and is counted when one is kept already. -/
def Obligations.AuxEvents : Prop :=
  ∀ s : State,
    (s.aux.phase = .settling → s.aux.paused = false →
      exec .auxSettleDelayEnd s = .next { s with aux := { s.aux with phase := .converting } }) ∧
    (s.aux.phase ≠ .settling ∨ s.aux.paused = true → exec .auxSettleDelayEnd s = .next s) ∧
    (∀ x, s.aux.phase = .converting → s.aux.entry < 64 → s.aux.results.length = 64 →
      ∃ t, exec (.auxConversionEnd x) s = .next t ∧ (auxEntry t s.aux.entry).word0 = now s) ∧
    (∀ x, s.aux.phase ≠ .converting → exec (.auxConversionEnd x) s = .next s) ∧
    (auxSource (cfgFree s) = 2 → auxPeriod (cfgFree s) ≠ 0 → auxTriggered (cfgFree s) = true → isReady s = true →
      (s.aux.phase = .waiting → s.aux.paused = false → exec .auxTimerTrigger s = .next
        (goOn (passFuel (cfgFree s)) 0 { s with aux := { s.aux with overrunUp := false } })) ∧
      (s.aux.phase = .converting → s.aux.pendingTr = false → exec .auxTimerTrigger s = .next
        { s with aux := { s.aux with pendingTr := true } }) ∧
      (s.aux.phase = .converting → s.aux.pendingTr = true → s.aux.overrunUp = true → exec .auxTimerTrigger s = .next
        { s with aux := { s.aux with overrun := sat 16 (s.aux.overrun + 1) } }))

/-- The stream link (Table 15-4, R312, R319): LAT_FC locks and is lost, 64 good training pairs bring the link UP without
credits, the timeout ends training DOWN, and a grant adds credits up to 255. Frames (R313 to R315, R319, R322): a queued
frame takes a credit and the next SEQ, one cut off before is sent again with its own; stall, IDLE, STATUS and DROP timers.
That a loss of LAT_FC while a STREAM_TRAIN waits trains at once is the model's choice (log 98). -/
def Obligations.StreamEvents : Prop :=
  (∀ s : State,
     exec .latFcLock s = .next { s with strm := { s.strm with fcLocked := true, fcEver := true } } ∧
     (s.strm.state = .up → s.strm.trainWait = false → ∃ t, exec .latFcLoss s = .next t ∧ t.strm.state = .down ∧
       t.strm.fcLocked = false ∧ t.evq = (post evStreamDown 0 s).evq) ∧
     (s.strm.state = .up → s.strm.trainWait = true → ∃ t, exec .latFcLoss s = .next t ∧ t.strm.state = .training ∧
       t.strm.fcLocked = false ∧ t.strm.trainWait = false ∧ t.evq = (post evStreamDown 0 s).evq) ∧
     (s.strm.state ≠ .up → exec .latFcLoss s = .next { s with strm := { s.strm with fcLocked := false } }) ∧
     (s.strm.fcLocked = true → s.strm.state = .training → 63 ≤ s.strm.okRun →
       ∃ t, exec (.latFcTrainingStatus 0xFF) s = .next t ∧ t.strm.state = .up ∧ t.strm.credits = 0 ∧
         t.strm.everUp = true ∧ t.strm.laneOk = 0xFF) ∧
     (∀ x, s.strm.fcLocked = true → s.strm.state = .training → x ≠ 0xFF → exec (.latFcTrainingStatus x) s =
       .next { s with strm := { s.strm with laneOk := x, okRun := 0 } }) ∧
     (∀ x, s.strm.fcLocked = false → exec (.latFcTrainingStatus x) s = .next s) ∧
     (s.strm.state = .training → ∃ t, exec .streamTrainingTimeout s = .next t ∧ t.strm.state = .down ∧
       t.strm.driven = false ∧ t.evq.logQ.length ≤ s.evq.logQ.length + 2) ∧
     (s.strm.state ≠ .training → exec .streamTrainingTimeout s = .next s) ∧
     (∀ n, n ≠ 0 → n ≤ 255 → s.strm.fcLocked = true → exec (.creditGrant n) s = .next { s with strm := { s.strm with
       credits := min 255 (s.strm.credits + n)
       creditErr := if 255 < s.strm.credits + n then sat 16 (s.strm.creditErr + 1) else s.strm.creditErr } }) ∧
     exec (.creditGrant 0) s = .next s) ∧
  (∀ s : State,
     (∀ f r, s.strm.state = .up → s.strm.credits ≠ 0 → s.strm.trainWait = false → inProgress s = false →
       s.strm.resend = none → s.strm.fifo = f :: r → ∃ t, exec .frameSend s = .next t ∧ t.strm.sending = some (f, s.strm.seq) ∧
         t.strm.seq = s.strm.seq + 1 ∧ t.strm.credits = s.strm.credits - 1 ∧ t.strm.sent = s.strm.sent + 1 ∧
         t.strm.sendEnd = s.tb.mono + frameCycles s f) ∧
     (∀ f q, s.strm.state = .up → s.strm.credits ≠ 0 → s.strm.trainWait = false → inProgress s = false →
       s.strm.resend = some (f, q) → ∃ t, exec .frameSend s = .next t ∧ t.strm.sending = some (f, q) ∧ t.strm.seq = s.strm.seq ∧
         t.strm.resend = none ∧ t.strm.credits = s.strm.credits - 1 ∧ t.strm.resent = sat 16 (s.strm.resent + 1)) ∧
     (s.strm.credits = 0 ∨ inProgress s = true → exec .frameSend s = .next s) ∧
     (s.strm.state = .up → s.strm.credits = 0 → s.strm.fifo ≠ [] → fld (rwGet s 0x7000) 47 32 ≠ 0 →
       s.strm.stallUp = false → exec .creditStallTimeout s =
         .next (post evStreamCreditStall 0 { s with strm := { s.strm with stallUp := true } })) ∧
     (s.strm.state = .up → s.strm.trainWait = false → inProgress s = false → exec .idleFrameTimeout s = .next { s with strm := { s.strm with
       last := some (Frame.bare 0 (now s) [], 0), sending := none, sendAt := s.tb.mono
       sendEnd := s.tb.mono + frameCycles s (Frame.bare 0 (now s) []) } }) ∧
     (s.strm.state ≠ .up → exec .idleFrameTimeout s = .next s ∧ exec .frameSend s = .next s) ∧
     exec .statusFrameTimer s = .next (if fld (rwGet s 0x7000) 63 48 = 0 then s else
       enqueue (Frame.bare 0xB (now s) [streamStatus s, streamFill s, streamDrops s]) s) ∧
     exec .dropFrameTimer s = .next (if s.strm.overflow || s.strm.shedding then formDrop false s else s))

/-- DRAM housekeeping (R331, R337 to R342, R344): refreshes and maintenance wait in panic, panic begins at PANIC_HI and ends
at PANIC_LO, a long one is told once, idle DRAM enters self-refresh, bulk timeouts and patrol errors are counted. -/
def Obligations.DramEvents : Prop :=
  ∀ s : State,
    (s.mem.usable = true → s.mem.panic = true →
      exec .zqCalibrationDue s = .next { s with mem := { s.mem with zqWaits := some (s.mem.zqWaits.getD 0) } } ∧
      exec .dqsTrackingDue s = .next { s with mem := { s.mem with dqsWaits := some (s.mem.dqsWaits.getD 0) } } ∧
      ∃ t, exec .dramRefreshDue s = .next t ∧
        (s.mem.postponed < 8 → t.mem.postponed = s.mem.postponed + 1 ∧
          t.mem.mostPost = max s.mem.mostPost (s.mem.postponed + 1)) ∧
        (s.mem.postponed = 8 → t.mem.postponed = 8 ∧ t.mem.mostPost = s.mem.mostPost) ∧
        (∀ n, s.mem.zqWaits = some n → t.mem.zqWaits = if n < 7 then some (n + 1) else none) ∧
        (∀ n, s.mem.dqsWaits = some n → t.mem.dqsWaits = if n < 7 then some (n + 1) else none) ∧
        t.mem.bytes = s.mem.bytes ∧ t.evq = s.evq) ∧
    (s.mem.usable = true → s.mem.panic = false → exec .dramRefreshDue s = .next (readMr4 s)) ∧
    (s.mem.panic = false → exec .zqCalibrationDue s = .next s ∧ exec .dqsTrackingDue s = .next s) ∧
    (s.mem.usable = false → exec .dramRefreshDue s = .next s) ∧
    (∀ a b, s.mem.usable = true → panicHi s ≠ 0 → inNeed s a b ≠ 0 → s.mem.panic = false →
      exec (.dramPanicBegin a b) s = .next { s with mem := { s.mem with
        rt0 := min 16 a, panic := true, panicWho := inNeed s a b, panicTold := false, mostPost := s.mem.postponed
        panics := sat 16 (s.mem.panics + 1), selfRefresh := false } }) ∧
    (∀ a b, s.mem.panic = true → a ≤ panicLo s → b ≤ panicLo s → exec (.dramPanicEnd a b) s =
      .next { s with mem := { s.mem with
        rt0 := min 16 a, panic := false, postponed := 0, zqWaits := none, dqsWaits := none } }) ∧
    (s.mem.panic = true → s.mem.panicTold = false → exec .dramLongPanic s =
      .next (post evDramPanic (s.mem.panicWho.toNat + 256 * s.mem.mostPost)
        { s with mem := { s.mem with panicTold := true, longPanics := sat 16 (s.mem.longPanics + 1) } })) ∧
    (s.mem.usable = true → srIdle s ≠ 0 → s.mem.panic = false → s.mem.selfRefresh = false →
      ∃ t, exec .selfRefreshEntry s = .next t ∧ t.mem.selfRefresh = true ∧ t.mem.bytes = s.mem.bytes) ∧
    (∀ a n, s.mem.usable = true → exec (.bulkTimeout .cantle a n) s =
      .next { s with mem := { s.mem with timeouts := sat 16 (s.mem.timeouts + 1), selfRefresh := false } }) ∧
    (∀ f a n, s.mem.usable = false → exec (.bulkTimeout f a n) s = .next s) ∧
    (∀ l, s.mem.panic = true → exec (.patrolScrub l) s = .next s) ∧
    (s.mem.usable = true → s.mem.ecc = true → scrubHours s ≠ 0 → s.mem.panic = false → exec (.patrolScrub []) s = .next (wakeMem s) ∧
      ∀ a, a < usableCap s → ∃ t, exec (.patrolScrub [(a, true)]) s = .next t ∧
        t.mem.uncorr = sat 32 (s.mem.uncorr + 1) ∧ t.mem.eccAddr = a ∧ t.mem.corr = s.mem.corr)

/-- Lace (R345, R349, R350, R353, Table 16-8): a good burst moves its words and counts its bytes, a bad one ends its
descriptor with the cause, a fetch loads the eight words, the end writes back and follows the LINK word. That a kick at
IDLE_AT_END leaves the LINK read to DMA_DESCRIPTOR_END, and that what goes to DRAM waits in panic and behind the host's read,
are the model's choices (log 110); which of index and data met an error, where both can have, is open (log 95). -/
def Obligations.LaceEvents : Prop :=
  ∀ (n : Nat) (s : State), n < 16 → Sound s →
    (∀ p turn, serve s = some (p, n, turn) → (nextBurst s (chan s n)).cause = 0 →
      ∃ t, exec (.dmaBurst .ok) s = .next t ∧ (chan t n).done = (chan s n).done + (nextBurst s (chan s n)).bytes ∧
        ∀ a, (nextBurst s (chan s n)).dst = some a →
          t.mem.bytes = memPutWords s.mem.bytes a (burstWords s (chan s n) (nextBurst s (chan s n)))) ∧
    (∀ p turn x, serve s = some (p, n, turn) → (nextBurst s (chan s n)).cause ≠ 0 →
      x = .ok ∨ indexAt (chan s n) = none →
      ∃ t, exec (.dmaBurst x) s = .next t ∧ (chan t n).cause = (nextBurst s (chan s n)).cause ∧
        (chan t n).phase = .ending ∧ t.mem.bytes = s.mem.bytes) ∧
    (∀ p turn a, serve s = some (p, n, turn) → indexAt (chan s n) = some a → readCause s a 8 = 0 → found s a .ecc = .ecc →
      (nextBurst s (chan s n)).cause ≠ 0 ∨ found s (dataAt (nextBurst s (chan s n))) .ecc = .ok →
      ∃ t, exec (.dmaBurst .ecc) s = .next t ∧ (chan t n).cause = 8 ∧ (chan t n).phase = .ending ∧
        t.mem.bytes = s.mem.bytes) ∧
    (∀ x, serve s = none → exec (.dmaBurst x) s = .next s) ∧
    (bulkWaits s (chan s n).desc = true → ∀ x, exec (.dmaDescriptorEnd n x) s = .next s ∧
      (descPlace s (chan s n).desc = true →
        exec (.dmaDescriptorFetchDone n x) s = .next s ∧ exec (.dmaAbortDone n) s = .next s)) ∧
    ((chan s n).state = .running → (chan s n).phase = .fetch → (chan s n).abort = false →
      descPlace s (chan s n).desc = true → bulkWaits s (chan s n).desc = false →
      ∃ t, exec (.dmaDescriptorFetchDone n .ok) s = .next t ∧
        (chan t n).words = hostWords s (chan s n).desc 8 ∧ (chan t n).count = (chan s n).count + 1 ∧
        (chan t n).done = 0 ∧ (chan t n).cause = descCause (hostWords s (chan s n).desc 8)) ∧
    ((chan s n).state = .running → (chan s n).phase = .fetch → (chan s n).abort = false → ∀ x,
      descPlace s (chan s n).desc = false → ∃ t, exec (.dmaDescriptorFetchDone n x) s = .next t ∧
        (chan t n).state = .fetchErr ∧ t.evq = (post evDmaFetchErr n s).evq) ∧
    ((chan s n).state = .running → (chan s n).phase = .ending → (chan s n).abort = false →
      bulkWaits s (chan s n).desc = false → inHost s (chan s n).desc 64 = true →
      exec (.dmaDescriptorEnd n .ok) s = .next (followLink n
        (postIf ((chan s n).cause = 0 && descEvent (chan s n).words) evDmaDone n
          (writeBack n (if (chan s n).cause = 0 then 1 else 2) s)))) ∧
    ((chan s n).phase = .link → (chan s n).abort = false → bulkWaits s (chan s n).desc = false →
      bit (hostWord s ((chan s n).desc + 32) 0) 0 = true →
      ((chan s n).state = .running → (chan s n).kick = false → ∃ t, exec (.dmaDescriptorEnd n .ok) s = .next t ∧
        (chan t n).state = .idleAtEnd ∧ t.evq = (post evDmaIdleAtEnd n s).evq) ∧
      ((chan s n).state = .idleAtEnd → ∃ t, exec (.dmaDescriptorEnd n .ok) s = .next t ∧
        (chan t n).state = .idleAtEnd ∧ t.evq = s.evq) ∧
      ((chan s n).state = .idleAtEnd → ∃ t, exec (.dmaDescriptorEnd n .timeout) s = .next t ∧
        (chan t n).state = .fetchErr ∧ t.evq = (post evDmaFetchErr n s).evq)) ∧
    ((chan s n).state ≠ .running → ∀ x, exec (.dmaDescriptorFetchDone n x) s = .next s) ∧
    ((chan s n).state ≠ .running → ((chan s n).state = .idleAtEnd → (chan s n).phase ≠ .link) → ∀ x,
      exec (.dmaDescriptorEnd n x) s = .next s)

/-! ### Cantle -/

/-- Monitors and the trip (R57, R379, R380, R384): samples are kept while Cantle runs; a trip stops all light and enters
standby; a clamp current above 1 mA opens a surge record, or is latched while Cantle does not run. Surge records and the
self-test (R384 to R386): a record closes into the surge area and asks for a self-test where the mask names its domains; the
test starts, tests a tile a slot, and ends with its failures. -/
def Obligations.MonitorAndSurge : Prop :=
  (∀ s : State,
     (∀ a b, s.can.running = true → a.length = 12 → b.length = 16 → ∃ t, exec (.monitorSample a b) s = .next t ∧
       t.can.temps = a ∧ t.can.volts = b) ∧
     (∀ l, s.can.running = true → l.length = 8 → ∃ t, exec (.processMonitorSample l) s = .next t ∧ t.can.procs = l) ∧
     (s.can.running = false → ∀ a b, exec (.monitorSample a b) s = .next s ∧ exec (.processMonitorSample a) s = .next s) ∧
     (∀ n, powered s.pwr.dev = true → s.pwr.stand = none → ∃ t, exec (.overtempTrip n) s = .next t ∧
       t.pwr.stand = some { seconds := Machine.tripWake s, sources := 0 } ∧ t.pwr.tripWake = true ∧ t.pwr.wake = s.pwr.wake ∧
       ∀ d, (t.lash.get d).enabled = false ∧ acquiring t d = false) ∧
     (∀ d i, d < 7 → i ≤ 1000 → exec (.clampDetection d i) s = .next s) ∧
     (∀ d i, d < 8 → (d = 7 ∨ 1000 < i) → s.can.running = false → exec (.clampDetection d i) s =
       .next { s with can := { s.can with latched := s.can.latched ||| ((1 : BitVec 8) <<< d) } }) ∧
     (∀ d i, d < 8 → (d = 7 ∨ 1000 < i) → s.can.running = true → ∃ t r, exec (.clampDetection d i) s = .next t ∧
       t.can.surge = some r ∧ r.domains.getLsbD d = true ∧ r.lastAt = s.tb.mono)) ∧
  (∀ s : State,
     (∀ r, s.can.surge = some r → ∃ t, exec .surgeRecordClose s = .next t ∧ t.can.surge = none ∧
       t.can.surges.length = min 16 (s.can.surges.length + 1) ∧
       (r.domains.toNat &&& selftestMask s = 0 → t.can.due = s.can.due ∧ t.can.queued = s.can.queued) ∧
       (r.domains.toNat &&& selftestMask s ≠ 0 → s.can.test = none → t.can.due.isSome = true)) ∧
     (∀ x, s.can.due = some x → s.can.running = true → s.can.test = none → ∃ t, exec .selftestStart s = .next t ∧
       t.can.due = none ∧ t.can.test.isSome = true) ∧
     (s.can.due = none → exec .selftestStart s = .next s) ∧
     (∀ x b, s.can.running = true → s.can.test = some x → x.tiles < 64 → ∃ t, exec (.currierTileTestSlotEnd b) s = .next t ∧
       t.tiles.getLsbD x.tiles = b ∧ t.can.test.map (·.tiles) = some (x.tiles + 1)) ∧
     (∀ b, s.can.running = true → s.can.test = none → s.can.tested < 64 →
       ∃ t, exec (.currierTileTestSlotEnd b) s = .next t ∧ t.tiles.getLsbD s.can.tested = b ∧
         t.can.tested = s.can.tested + 1) ∧
     (∀ x f, s.can.test = some x → ∃ t, exec (.selftestDone f) s = .next t ∧ t.can.test = none ∧
       t.can.due = s.can.queued ∧ t.can.queued = none ∧ t.cal.cantle = 0 ∧ t.can.domains = x.domains ∧
       t.can.failed = BitVec.ofNat 13 (ownChecks s x) ||| (f &&& analogMask)) ∧
     (∀ f, s.can.test = none → exec (.selftestDone f) s = .next s))

/-- Watchdogs (R375 to R378, R438): a stopped Cantle loses its SRAM and drops its holds, the log in MRAM stands; it starts
again; a hung Bridle frees its slots. Cantle's periodic work (R381, R382, R387 to R389): the digest, its event, the lifetime
counters and their older copies, the equivalent hours, the scrub's count, and the next item of the log. The model's choices:
a stop of Cantle loses its buffered chunks (log 67), and a hung Bridle forgets both stored entries (log 104). -/
def Obligations.CantleEvents : Prop :=
  (∀ s : State,
     (s.can.running = true → (∃ t, exec .cantleWatchdogExpiry s = .next t ∧ t.can.running = false ∧
         t.can.restart = some 0 ∧ t.cal.cantle = 0 ∧ t.can.buffer = [] ∧ t.can.surge = none ∧ t.can.log = s.can.log) ∧
       (∃ t, exec .mramWriteTimeout s = .next t ∧ t.can.running = false ∧ t.can.restart = some 1 ∧ t.cal.cantle = 0 ∧
         t.can.buffer = [] ∧ t.can.surge = none ∧ t.can.log = s.can.log)) ∧
     (s.can.running = false → exec .cantleWatchdogExpiry s = .next s ∧ exec .mramWriteTimeout s = .next s) ∧
     (∀ k, s.can.restart = some k → ∃ t, exec .cantleRestartDone s = .next t ∧ t.can.running = true ∧
       t.can.restart = none) ∧
     (s.can.restart = none → exec .cantleRestartDone s = .next s) ∧
     (s.can.running = true → ∃ t, exec (.bridleHangCheck true) s = .next t ∧
       t.brg.slots = List.replicate 16 .free ∧ t.brg.storedH = none ∧ t.brg.storedU = none ∧ t.brg.gate = s.brg.gate) ∧
     exec (.bridleHangCheck false) s = .next s) ∧
  (∀ s : State,
     (s.can.running = true →
       exec .healthDigestForm s = .next { s with can := { s.can with digest := digestWords s, acc := DigestAcc.init } } ∧
       (∃ t, exec .lifetimeUpdate s = .next t ∧ t.can.lifeAt = s.tb.mono ∧
         t.can.lifeOld = (s.can.life :: s.can.lifeOld).take 7) ∧
       exec .equivHoursMinute s = .next { s with can := { s.can with
         equiv := s.can.equiv + equivMinute (s.can.hot.getD (hottest s)), hot := none } } ∧
       (∀ r c b w, ∃ t, exec (.mramScrub r c b w) s = .next t ∧ t.can.acc.mram = sat 16 (s.can.acc.mram + c)) ∧
       (fld (nvGet s 0x9002) 15 0 ≠ 0 → exec .healthDigestEventTimer s = .next (post evHealthDigest 0 s))) ∧
     (s.can.running = false → exec .healthDigestForm s = .next s ∧ exec .lifetimeUpdate s = .next s ∧
       exec .equivHoursMinute s = .next s ∧ exec .healthDigestEventTimer s = .next s) ∧
     (∀ x r, mramAlive s = true → s.evq.logQ = x :: r → s.tb.mono < s.can.logSec + sCycles →
       s.can.logRate + x.entries.length ≤ logPerSecond → s.can.log.length + x.entries.length ≤ logSize →
       ∃ t, exec .logEntryWrite s = .next t ∧ t.can.log = s.can.log ++ x.entries ∧
         t.can.logNext = s.can.logNext + BitVec.ofNat 32 x.entries.length ∧ t.can.logRate = s.can.logRate + x.entries.length) ∧
     (s.evq.logQ = [] → exec .logEntryWrite s = .next s))
end

