-- ==== Sys2Proof/Laws/Filters.lean ====
section
/-!
SUPPORT. What the taps of the filters keep of the figures of R169, R171 and R207: their gain at zero frequency.
-/
namespace Sys2Proof.Config

/-- The taps of a filter sum to their total, but for an error inside its bounds. -/
theorem tapOf_sum (rule : Nat) (params : List Int) (n total below above : Nat) :
    (total : Int) - below ≤ ((List.range (n + 1)).map (tapOf rule params (n + 1) total below above)).sum ∧
      ((List.range (n + 1)).map (tapOf rule params (n + 1) total below above)).sum ≤ (total : Int) + above := by
  have hs : (List.range n).map (tapOf rule params (n + 1) total below above) =
      (List.range n).map (tapSeed rule params) := by
    refine List.map_congr_left fun k hk => ?_
    have := List.mem_range.1 hk
    simp [tapOf, show k ≠ n by omega]
  have h0 := Int.emod_nonneg (tapSeed rule params n) (b := (below + above + 1 : Int)) (by omega)
  have h1 := Int.emod_lt_of_pos (tapSeed rule params n) (b := (below + above + 1 : Int)) (by omega)
  rw [List.range_succ, List.map_append, List.sum_append, hs]
  simp only [List.map_cons, List.map_nil, List.sum_cons, List.sum_nil, tapOf, if_true]
  push_cast
  omega

end Sys2Proof.Config

namespace Sys2Proof.Machine

/-- A constant row passes a half-band stage within 10⁻⁴ of itself (R207). -/
theorem halfbandTap_sum :
    |((List.range 23).map halfbandTap).sum - 2 ^ 30| ≤ 107374 := by
  have h := Config.tapOf_sum 207 [] 5 (2 ^ 28) 53687 53687
  simp only [List.range_succ, List.range_zero, List.map_append, List.map_cons, List.map_nil, List.nil_append,
    List.sum_append, List.sum_cons, List.sum_nil] at h
  simp [List.range_succ, halfbandTap, Config.halfTap]
  rw [abs_le]
  push_cast at h
  omega

end Sys2Proof.Machine
end

