-- ==== Sys2Proof/Laws/Keeps.lean ====
section
/-!
SUPPORT. `Keeps rst org s`: what holds of a state s that a meaning has reached from z. The commands waiting are those of z,
the invariant carries over from z to s, and, unless r is true, no event of z has left the queue. One lemma for each
function says that it goes on keeping this.
-/
namespace Sys2Proof.Machine

/-- `Keeps` over the parts of the state that it looks at. -/
def KeepsParts (rst : Bool) (org : State) (pending : List Instr) (e : Events)
    (slots sets results awl lanes chans groups : Nat) (bytes : List Host.Cell) : Prop :=
  pending = org.pending ∧
  (Sound org → Memory.wf bytes = true ∧ e.q.length ≤ 1024 ∧ consecutive e.q e.next ∧ e.lost ≤ 0xFFFF ∧ slots = 16 ∧
    sets = 4 ∧ results = 64 ∧ awl = 11 ∧ lanes = 8 ∧ chans = 16 ∧ groups = 17) ∧
  (rst = false → org.evq.q <+: e.q)

/-- What holds of a state reached from another within one command. -/
def Keeps (rst : Bool) (org s : State) : Prop :=
  KeepsParts rst org s.pending s.evq s.brg.slots.length s.tacks.sets.length s.aux.results.length s.awl.length
    s.recv.lanes.length s.dma.chans.length s.cal.groups.length s.mem.bytes

variable {rst : Bool} {org s : State}

theorem keeps_refl (rst : Bool) (org : State) : Keeps rst org org :=
  ⟨rfl, fun h => ⟨h.mem, h.queue, h.qseq, h.lost, h.slots, h.sets, h.results, h.awl, h.lanes, h.chans, h.groups⟩,
    fun _ => List.prefix_refl _⟩

theorem Keeps.pending (h : Keeps rst org s) : s.pending = org.pending := h.1

theorem Keeps.sound (h : Keeps rst org s) (hz : Sound org) : Sound s :=
  let ⟨a, b, c, d, e, f, g, i, j, k, l⟩ := h.2.1 hz
  ⟨a, b, c, d, e, f, g, i, j, k, l⟩

theorem Keeps.prefix (h : Keeps false org s) : org.evq.q <+: s.evq.q := h.2.2 rfl

/-- A state written out. -/
@[simp] theorem keeps_mk {pwr pll harn brg evq live draft rw nv tacks lash recv cur zones base therm girth tb awl aux strm
    tiles mem dma cal can drawn pending} :
    Keeps rst org (State.mk pwr pll harn brg evq live draft rw nv tacks lash recv cur zones base therm girth tb awl aux strm
      tiles mem dma cal can drawn pending) ↔
    KeepsParts rst org pending evq brg.slots.length tacks.sets.length aux.results.length awl.length recv.lanes.length
      dma.chans.length cal.groups.length mem.bytes := ⟨id, id⟩

/-- The parts of one state. -/
@[simp] theorem keepsParts_fold :
    KeepsParts rst org s.pending s.evq s.brg.slots.length s.tacks.sets.length s.aux.results.length s.awl.length
      s.recv.lanes.length s.dma.chans.length s.cal.groups.length s.mem.bytes ↔ Keeps rst org s :=
  ⟨id, id⟩

/-- The parts of one state whose log buffer has changed. -/
@[simp] theorem keepsParts_log {lq : List LogItem} {ll : Nat} :
    KeepsParts rst org s.pending { q := s.evq.q, next := s.evq.next, lost := s.evq.lost, logQ := lq, logLost := ll }
      s.brg.slots.length s.tacks.sets.length s.aux.results.length s.awl.length s.recv.lanes.length s.dma.chans.length
      s.cal.groups.length s.mem.bytes ↔ Keeps rst org s := ⟨id, id⟩

/-! ### Control structure -/

@[simp ↓] theorem keeps_ite {c : Prop} [Decidable c] {a b : State} (ha : Keeps rst org a) (hb : Keeps rst org b) :
    Keeps rst org (if c then a else b) := by split <;> assumption

@[simp ↓] theorem keeps_foldl {α : Type} (f : State → α → State) (l : List α) (h : Keeps rst org s)
    (hf : ∀ s x, Keeps rst org s → Keeps rst org (f s x)) : Keeps rst org (l.foldl f s) := by
  induction l generalizing s with
  | nil => exact h
  | cons x l ih => exact ih (hf s x h)

@[simp ↓] theorem keeps_repeat (f : State → State) (n : Nat) (h : Keeps rst org s)
    (hf : ∀ s, Keeps rst org s → Keeps rst org (f s)) : Keeps rst org (Nat.repeat f n s) := by
  induction n generalizing s with
  | zero => exact h
  | succ n ih => exact hf _ (ih h)

@[simp] theorem upd_length {α : Type} (l : List α) (i : Nat) (f : α → α) : (upd l i f).length = l.length := by
  simp [upd]

/-! ### The event queue -/

theorem consecutive_append (l : List EvEntry) (e : EvEntry) (n : BitVec 16) (h : consecutive l n) (he : e.qseq = n) :
    consecutive (l ++ [e]) (n + 1) := by
  induction l with
  | nil => simp [consecutive, he]
  | cons a l ih =>
    refine ⟨?_, ih h.2⟩
    have h1 := h.1
    rw [List.append_eq, List.length_append, List.length_singleton]
    generalize l.length + 1 = k at *
    bv_omega

theorem consecutive_drop (l : List EvEntry) (k : Nat) (n : BitVec 16) (h : consecutive l n) :
    consecutive (l.drop k) n := by
  induction l generalizing k with
  | nil => simpa using h
  | cons a l ih => cases k with
    | zero => exact h
    | succ k => exact ih k h.2

end Sys2Proof.Machine
end

