-- ==== Sys2Proof/Laws/Memory.lean ====
section
/-!
SUPPORT. Lists with defaults and memory: a read after a write, writes leave other places alone, and every memory
operation keeps the canonical form.
-/
namespace Sys2Proof.Machine

/-! ### Lists with defaults -/

section
variable {α : Type} [DecidableEq α] {d : α}

/-- What the form says of a list's first entry. -/
theorem kvWf_cons {l : List (Nat × α)} {lo : Option Nat} {k : Nat} {v : α} :
    kvWf d lo ((k, v) :: l) = true ↔ (∀ x, lo = some x → x < k) ∧ v ≠ d ∧ kvWf d (some k) l = true := by
  cases lo <;> simp [kvWf, and_assoc]

/-- The bound of a well-formed list may be lowered. -/
theorem kvWf_lower {l : List (Nat × α)} {b : Nat} {lo : Option Nat} (h : kvWf d (some b) l = true)
    (hb : ∀ x, lo = some x → x ≤ b) : kvWf d lo l = true := by
  cases l with
  | nil => rfl
  | cons p l =>
    rw [kvWf_cons] at h ⊢
    exact ⟨fun x hx => lt_of_le_of_lt (hb x hx) (h.1 b rfl), h.2⟩

/-- Removing entries keeps the form. -/
theorem kvWf_filter {l : List (Nat × α)} {lo : Option Nat} (p : Nat × α → Bool) (h : kvWf d lo l = true) :
    kvWf d lo (l.filter p) = true := by
  induction l generalizing lo with
  | nil => rfl
  | cons q l ih =>
    have h' := kvWf_cons.1 h
    rw [List.filter_cons]
    split
    · exact kvWf_cons.2 ⟨h'.1, h'.2.1, ih h'.2.2⟩
    · exact kvWf_lower (ih h'.2.2) fun x hx => le_of_lt (h'.1 x hx)

/-- A write keeps the form. -/
theorem kvWf_set {l : List (Nat × α)} {lo : Option Nat} (a : Nat) (v : α) (h : kvWf d lo l = true)
    (ha : ∀ x, lo = some x → x < a) : kvWf d lo (kvSet d l a v) = true := by
  induction l generalizing lo with
  | nil =>
    unfold kvSet
    split
    · rfl
    · exact kvWf_cons.2 ⟨ha, ‹_›, rfl⟩
  | cons q l ih =>
    have h' := kvWf_cons.1 h
    unfold kvSet
    split
    · split
      · exact h
      · exact kvWf_cons.2 ⟨ha, ‹_›, kvWf_cons.2 ⟨fun x hx => by cases hx; assumption, h'.2⟩⟩
    · split
      · split
        · exact kvWf_lower h'.2.2 fun x hx => le_of_lt (h'.1 x hx)
        · rename_i hak hv
          subst hak
          exact kvWf_cons.2 ⟨ha, hv, h'.2.2⟩
      · exact kvWf_cons.2 ⟨h'.1, h'.2.1, ih h'.2.2 fun x hx => by cases hx; omega⟩

/-- A key below every entry reads the default. -/
theorem kvGet_below {l : List (Nat × α)} {b a : Nat} (h : kvWf d (some b) l = true) (ha : a ≤ b) :
    kvGet d l a = d := by
  induction l generalizing b with
  | nil => rfl
  | cons q l ih =>
    obtain ⟨k, v⟩ := q
    have h := kvWf_cons.1 h
    have hk := h.1 b rfl
    have hne : ¬ a = k := by omega
    simp only [kvGet, hne, if_false]
    exact ih h.2.2 (by omega)

/-- A read after a write: the value at its key, every other key as before. -/
theorem kvGet_set {l : List (Nat × α)} {lo : Option Nat} (a b : Nat) (v : α) (h : kvWf d lo l = true) :
    kvGet d (kvSet d l a v) b = if b = a then v else kvGet d l b := by
  induction l generalizing lo with
  | nil =>
    unfold kvSet
    split
    · rename_i hv; subst hv; simp [kvGet]
    · rfl
  | cons q l ih =>
    obtain ⟨k, w⟩ := q
    have h := (kvWf_cons.1 h).2
    unfold kvSet
    split
    · rename_i hak
      split
      · rename_i hv
        subst hv
        split
        · rename_i hb
          subst hb
          have hne : ¬ b = k := by omega
          simp only [kvGet, hne, if_false]
          exact kvGet_below h.2 (by omega)
        · rfl
      · simp only [kvGet]
    · split
      · rename_i hak
        subst hak
        split
        · rename_i hv
          subst hv
          split
          · rename_i hb
            subst hb
            exact kvGet_below h.2 (le_refl _)
          · rename_i hb
            simp only [kvGet, hb, if_false]
        · simp only [kvGet]
          split <;> rfl
      · simp only [kvGet, ih h.2]
        split
        · rename_i hb
          have hne : ¬ b = a := by omega
          simp [hne]
        · rfl
end

/-! ### Memory -/

variable {m : List Host.Cell}

@[simp] theorem memSet_wf (a : Nat) (b : Byte) (h : Memory.wf m = true) : Memory.wf (memSet m a b) = true :=
  kvWf_set a b h (fun _ hx => by cases hx)

/-- A byte written reads back, and every other byte reads as before. -/
theorem memGet_set (a b : Nat) (v : Byte) (h : Memory.wf m = true) :
    memGet (memSet m a v) b = if b = a then v else memGet m b :=
  kvGet_set a b v h

@[simp] theorem memPut_wf (a : Nat) (l : List Byte) (h : Memory.wf m = true) : Memory.wf (memPut m a l) = true := by
  induction l generalizing m a with
  | nil => exact h
  | cons b l ih => exact ih _ (memSet_wf a b h)

/-- Bytes outside a write read as before. -/
theorem memGet_put_of_lt (a b : Nat) (l : List Byte) (h : Memory.wf m = true) (hb : b < a) :
    memGet (memPut m a l) b = memGet m b := by
  induction l generalizing m a with
  | nil => rfl
  | cons x l ih =>
    have hne : ¬ b = a := by omega
    simp only [memPut]
    rw [ih _ (memSet_wf a x h) (by omega), memGet_set a b x h, if_neg hne]

/-- What reads after a run of bytes is written. -/
theorem memGet_put (a b : Nat) (l : List Byte) (h : Memory.wf m = true) :
    memGet (memPut m a l) b = if a ≤ b ∧ b < a + l.length then l.getD (b - a) 0 else memGet m b := by
  induction l generalizing m a with
  | nil =>
    have hne : ¬ (a ≤ b ∧ b < a + ([] : List Byte).length) := by simp only [List.length_nil]; omega
    rw [if_neg hne]; rfl
  | cons x l ih =>
    simp only [memPut, List.length_cons]
    rw [ih _ (memSet_wf a x h), memGet_set a b x h]
    by_cases h1 : b = a
    · subst h1
      rw [if_neg (by omega), if_pos rfl, if_pos (by omega)]
      simp
    · by_cases h2 : a + 1 ≤ b ∧ b < a + 1 + l.length
      · rw [if_pos h2, if_pos (by omega)]
        obtain ⟨k, rfl⟩ : ∃ k, b = a + 1 + k := ⟨b - (a + 1), by omega⟩
        have e1 : a + 1 + k - (a + 1) = k := by omega
        have e2 : a + 1 + k - a = k + 1 := by omega
        rw [e1, e2]
        rfl
      · rw [if_neg h2, if_neg h1, if_neg (by omega)]

@[simp] theorem memPutWords_wf (a : Nat) (l : List Word) (h : Memory.wf m = true) :
    Memory.wf (memPutWords m a l) = true := memPut_wf a _ h

@[simp] theorem filter_wf (p : Nat × Byte → Bool) (h : Memory.wf m = true) :
    Memory.wf (m.filter p) = true := kvWf_filter p h

@[simp] theorem memClear_wf (a n : Nat) (h : Memory.wf m = true) : Memory.wf (memClear m a n) = true :=
  kvWf_filter _ h

/-- Keeping the form through a fold. -/
theorem foldl_wf {α : Type} (f : List Host.Cell → α → List Host.Cell) (l : List α) (h : Memory.wf m = true)
    (hf : ∀ m x, Memory.wf m = true → Memory.wf (f m x) = true) : Memory.wf (l.foldl f m) = true := by
  induction l generalizing m with
  | nil => exact h
  | cons x l ih => exact ih (hf m x h)

@[simp] theorem memMove_wf (src dst n : Nat) (h : Memory.wf m = true) : Memory.wf (memMove m src dst n) = true :=
  foldl_wf _ _ (memClear_wf dst n h) fun _ _ hm => memSet_wf _ _ hm

@[simp] theorem setMem32_wf (a v : Nat) (h : Memory.wf m = true) : Memory.wf (setMem32 m a v) = true := memPut_wf a _ h

@[simp] theorem setMark_wf (d : Side) (lane i : Nat) (h : Memory.wf m = true) :
    Memory.wf (setMark m d lane i) = true := memSet_wf _ _ h

@[simp] theorem histAdd_wf (c : Cfg) (d : Side) (z t : Nat) (h : Memory.wf m = true) :
    Memory.wf (histAdd c d z t m) = true := setMem32_wf _ _ h

end Sys2Proof.Machine
end

