-- ==== Sys2Proof/Laws/KeepsPlane.lean ====
section
/-!
SUPPORT. `Keeps` of shared operations, Bridle, converters, auxiliary front end, timing outputs and stream port.
-/
namespace Sys2Proof.Machine

variable {rst : Bool} {org s nxt : State}

/-! ### Ops -/

/-- A posting keeps the bounds of the queue (R396). -/
theorem push_sound (e : Events) (n d : Nat) (tag : Word) (unset drop log : Bool) (hq : e.q.length ≤ 1024)
    (hs : consecutive e.q e.next) (hl : e.lost ≤ 0xFFFF) :
    (e.push n d tag unset drop log).q.length ≤ 1024 ∧
    consecutive (e.push n d tag unset drop log).q (e.push n d tag unset drop log).next ∧
    (e.push n d tag unset drop log).lost ≤ 0xFFFF := by
  unfold Events.push
  refine ⟨?_, ?_, ?_⟩
  · dsimp only
    split
    · exact hq
    · rename_i h; simp only [Bool.or_eq_true, decide_eq_true_eq, not_or] at h
      simp only [List.length_append, List.length_singleton]; omega
  · dsimp only
    split
    · exact hs
    · exact consecutive_append _ _ _ hs rfl
  · dsimp only
    split
    · exact Nat.min_le_right _ _
    · exact hl

/-- A posting never removes an entry. -/
theorem push_prefix (e : Events) (n d : Nat) (tag : Word) (unset drop log : Bool) :
    e.q <+: (e.push n d tag unset drop log).q := by
  unfold Events.push
  dsimp only
  split
  · exact List.prefix_refl _
  · exact List.prefix_append _ _

/-- A list of postings keeps the bounds of the queue. -/
theorem pushes_sound (l : List EvEntry) (e : Events) (hq : e.q.length ≤ 1024) (hs : consecutive e.q e.next)
    (hl : e.lost ≤ 0xFFFF) :
    let r := l.foldl (fun e x => e.push x.event x.detail.toNat x.tag x.unset false false) e
    r.q.length ≤ 1024 ∧ consecutive r.q r.next ∧ r.lost ≤ 0xFFFF := by
  induction l generalizing e with
  | nil => exact ⟨hq, hs, hl⟩
  | cons x l ih =>
    have h := push_sound e x.event x.detail.toNat x.tag x.unset false false hq hs hl
    exact ih _ h.1 h.2.1 h.2.2

theorem pushes_prefix (l : List EvEntry) (e : Events) :
    e.q <+: (l.foldl (fun e x => e.push x.event x.detail.toNat x.tag x.unset false false) e).q := by
  induction l generalizing e with
  | nil => exact List.prefix_refl _
  | cons x l ih => exact (push_prefix ..).trans (ih _)

/-- What is offered to the log leaves the event queue. -/
theorem offers_queue (l : List LogItem) (e : Events) :
    (l.foldl Events.offer e).q = e.q ∧ (l.foldl Events.offer e).next = e.next ∧ (l.foldl Events.offer e).lost = e.lost := by
  induction l generalizing e with
  | nil => exact ⟨rfl, rfl, rfl⟩
  | cons x l ih =>
    have h : (e.offer x).q = e.q ∧ (e.offer x).next = e.next ∧ (e.offer x).lost = e.lost := by
      unfold Events.offer
      split <;> exact ⟨rfl, rfl, rfl⟩
    have h2 := ih (e.offer x)
    exact ⟨h2.1.trans h.1, h2.2.1.trans h.2.1, h2.2.2.trans h.2.2⟩

@[simp ↓] theorem keeps_wakeMem (h : Keeps rst org s) :
    Keeps rst org (wakeMem s) := by
  exact h

@[simp ↓] theorem keeps_setBytes (f : List Host.Cell → List Host.Cell) (h : Keeps rst org s)
    (hf : Memory.wf s.mem.bytes = true → Memory.wf (f s.mem.bytes) = true) : Keeps rst org (setBytes f s) :=
  ⟨h.1, fun hz => have h1 := h.sound hz
    ⟨hf h1.mem, h1.queue, h1.qseq, h1.lost, h1.slots, h1.sets, h1.results, h1.awl, h1.lanes, h1.chans, h1.groups⟩,
    h.2.2⟩

@[simp ↓] theorem keeps_dramBytes (f : List Host.Cell → List Host.Cell) (h : Keeps rst org s)
    (hf : Memory.wf s.mem.bytes = true → Memory.wf (f s.mem.bytes) = true) : Keeps rst org (dramBytes f s) :=
  keeps_setBytes f h hf

@[simp ↓] theorem keeps_useTiles (h : Keeps rst org s) :
    Keeps rst org (useTiles s) := by
  unfold useTiles
  simp (maxDischargeDepth := 40) +contextual [h]

@[simp ↓] theorem keeps_postAt (n d : Nat) (tag : Word) (h : Keeps rst org s) : Keeps rst org (postAt n d tag s) := by
  refine ⟨h.1, fun hz => ?_, fun hr => (h.2.2 hr).trans ?_⟩
  · have h1 := h.sound hz
    have h2 := push_sound s.evq n d tag (!s.tb.set) (discarded s n) (1 ≤ severity n || logAll s) h1.queue h1.qseq h1.lost
    exact ⟨h1.mem, h2.1, h2.2.1, h2.2.2, h1.slots, h1.sets, h1.results, h1.awl, h1.lanes, h1.chans, h1.groups⟩
  · exact push_prefix ..

@[simp ↓] theorem keeps_post (n : ℕ) (d : ℕ) (h : Keeps rst org s) :
    Keeps rst org (post n d s) := by
  unfold post
  simp (maxDischargeDepth := 40) +contextual [h]

@[simp ↓] theorem keeps_planes (f : State → State) (h : Keeps rst org s)
    (hf : ∀ org s, Keeps rst org s → Keeps rst org (f s)) : Keeps rst org (planes f s) := by
  have h0 := hf _ _ (keeps_refl rst { s with evq := { s.evq with q := [], logQ := [] } })
  unfold planes
  revert h0
  generalize f { s with evq := { s.evq with q := [], logQ := [] } } = t
  intro h0
  have hoff := offers_queue (inPlanes (fun x : LogItem => if x.type = 0 then x.code else 127) (·.detail.toNat) t.evq.logQ)
    ((inPlanes (·.event) (·.detail.toNat) t.evq.q).foldl
      (fun e x => e.push x.event x.detail.toNat x.tag x.unset false false)
      { t.evq with q := s.evq.q, next := s.evq.next, lost := s.evq.lost, logQ := s.evq.logQ })
  refine ⟨h0.1.trans h.1, fun hz => ?_, fun hr => (h.2.2 hr).trans ?_⟩
  · have h1 := h.sound hz
    have h2 := h0.sound ⟨h1.mem, Nat.zero_le _, trivial, h1.lost, h1.slots, h1.sets, h1.results, h1.awl, h1.lanes,
      h1.chans, h1.groups⟩
    have h3 := pushes_sound (inPlanes (·.event) (·.detail.toNat) t.evq.q)
      { t.evq with q := s.evq.q, next := s.evq.next, lost := s.evq.lost, logQ := s.evq.logQ } h1.queue h1.qseq h1.lost
    refine ⟨h2.mem, ?_, ?_, ?_, h2.slots, h2.sets, h2.results, h2.awl, h2.lanes, h2.chans, h2.groups⟩
    · rw [hoff.1]; exact h3.1
    · rw [hoff.1, hoff.2.1]; exact h3.2.1
    · rw [hoff.2.2]; exact h3.2.2
  · rw [hoff.1]
    exact pushes_prefix (inPlanes (·.event) (·.detail.toNat) t.evq.q)
      { t.evq with q := s.evq.q, next := s.evq.next, lost := s.evq.lost, logQ := s.evq.logQ }

@[simp ↓] theorem keeps_postIf (c : Bool) (n : ℕ) (d : ℕ) (h : Keeps rst org s) :
    Keeps rst org (postIf c n d s) := by
  unfold postIf
  split <;> simp (maxDischargeDepth := 40) +contextual [h]

@[simp ↓] theorem keeps_logRecordOf (code d : ℕ) (tag : Word) (unset : Bool) (data : List Word) (h : Keeps rst org s) :
    Keeps rst org (logRecordOf code d tag unset data s) := by
  exact h

@[simp ↓] theorem keeps_logRecord (code : ℕ) (d : ℕ) (tag : Word) (data : List Word) (h : Keeps rst org s) :
    Keeps rst org (logRecord code d tag data s) := by
  exact h

@[simp ↓] theorem keeps_bothSides (f : Side → State → State)
    (h : Keeps rst org s) (hf : ∀ (x0 : Side) (x1 : State), Keeps rst org x1 → Keeps rst org (f x0 x1)) :
    Keeps rst org (bothSides f s) := by
  unfold bothSides
  simp (maxDischargeDepth := 40) +contextual [h, hf]

@[simp ↓] theorem keeps_setLash (d : Side) (f : Lash → Lash) (h : Keeps rst org s) :
    Keeps rst org (setLash d f s) := by
  exact h

@[simp ↓] theorem keeps_setGirth (d : Side) (f : GirthSide → GirthSide) (h : Keeps rst org s) :
    Keeps rst org (setGirth d f s) := by
  exact h

@[simp ↓] theorem keeps_setCur (d : Side) (f : Currier → Currier) (h : Keeps rst org s) :
    Keeps rst org (setCur d f s) := by
  exact h

@[simp ↓] theorem keeps_setTherm (d : Side) (f : Thermal → Thermal) (h : Keeps rst org s) :
    Keeps rst org (setTherm d f s) := by
  exact h

@[simp ↓] theorem keeps_setZone (z : ℕ) (f : ZoneRun → ZoneRun) (h : Keeps rst org s) :
    Keeps rst org (setZone z f s) := by
  exact h

@[simp ↓] theorem keeps_slotDone (k : ℕ) (st : ℕ) (res : List Word) (h : Keeps rst org s) :
    Keeps rst org (slotDone k st res s) := by
  unfold slotDone
  simp (maxDischargeDepth := 40) +contextual [h]

@[simp ↓] theorem keeps_finish (r : Res) (st : ℕ) (res : List Word) (h : Keeps rst org s) :
    Keeps rst org (finish r st res s) := by
  unfold finish
  split <;> simp (maxDischargeDepth := 40) +contextual [h]

@[simp ↓] theorem keeps_endsFor (abandoned : Bool) (f : State → State) (h : Keeps rst org s)
    (hf : ∀ s, Keeps rst org s → Keeps rst org (f s)) : Keeps rst org (endsFor abandoned f s) := by
  unfold endsFor
  refine keeps_ite ?_ (hf _ h)
  have h1 := hf _ (⟨h.1, fun hz => by obtain ⟨a, b, c, d, _, e⟩ := h.2.1 hz; exact ⟨a, b, c, d, by simp, e⟩, h.2.2⟩ :
    Keeps rst org { s with brg := { s.brg with slots := List.replicate 16 .free, recent := [] } })
  exact ⟨h1.1, fun hz => by obtain ⟨a, b, c, d, _, e⟩ := h1.2.1 hz; exact ⟨a, b, c, d, (h.sound hz).slots, e⟩, h1.2.2⟩

/-! ### Flags -/

@[simp ↓] theorem keeps_setLane (n : ℕ) (f : Lane → Lane) (h : Keeps rst org s) :
    Keeps rst org (setLane n f s) := by
  unfold setLane
  simp (maxDischargeDepth := 40) +contextual [h]

@[simp ↓] theorem keeps_setBase (r : ℕ) (f : Baseline → Baseline) (h : Keeps rst org s) :
    Keeps rst org (setBase r f s) := by
  exact h

@[simp ↓] theorem keeps_setDelta (r : ℕ) (f : Delta → Delta) (h : Keeps rst org s) :
    Keeps rst org (setDelta r f s) := by
  exact h

@[simp ↓] theorem keeps_setAwl (n : ℕ) (f : AwlInput → AwlInput) (h : Keeps rst org s) :
    Keeps rst org (setAwl n f s) := by
  unfold setAwl
  simp (maxDischargeDepth := 40) +contextual [h]

@[simp ↓] theorem keeps_eccCorr (port : ℕ) (a : ℕ) (patrol : Bool) (h : Keeps rst org s) :
    Keeps rst org (eccCorr port a patrol s) := by
  unfold eccCorr
  simp (maxDischargeDepth := 40) +contextual [h]

@[simp ↓] theorem keeps_duringSurge (f : Surge → Surge) (h : Keeps rst org s) :
    Keeps rst org (duringSurge f s) := by
  exact h

@[simp ↓] theorem keeps_eccUncorr (port : ℕ) (a : ℕ) (patrol : Bool) (h : Keeps rst org s) :
    Keeps rst org (eccUncorr port a patrol s) := by
  unfold eccUncorr
  simp (maxDischargeDepth := 40) +contextual [h]

@[simp ↓] theorem keeps_wordsFound (port : ℕ) (acc : Access) (a n : ℕ) (h : Keeps rst org s) :
    Keeps rst org (wordsFound port acc a n s) := by
  unfold wordsFound
  refine keeps_foldl _ _ h fun t i ht => ?_
  split <;> simp (maxDischargeDepth := 40) +contextual [ht]

@[simp ↓] theorem keeps_blockRead (port : ℕ) (acc : Access) (a n : ℕ) (h : Keeps rst org s) :
    Keeps rst org (blockRead port acc a n s) := by
  unfold blockRead
  simp (maxDischargeDepth := 40) +contextual [h]

@[simp ↓] theorem keeps_setChan (n : ℕ) (f : DmaChan → DmaChan) (h : Keeps rst org s) :
    Keeps rst org (setChan n f s) := by
  unfold setChan
  simp (maxDischargeDepth := 40) +contextual [h]

@[simp ↓] theorem keeps_setCal (g : ℕ) (f : CalGroup → CalGroup) (h : Keeps rst org s) :
    Keeps rst org (setCal g f s) := by
  unfold setCal
  simp (maxDischargeDepth := 40) +contextual [h]

/-! ### Bridle -/

/-- What a handler does at once and what it starts go on keeping `Keeps`. -/
def HandlerKeeps (rst : Bool) (org : State) (x : Handler) : Prop :=
  (∀ o p s, Keeps rst org s → Keeps rst org (x.run o p s).2) ∧ ∀ o p s, Keeps rst org s → Keeps rst org (x.start o p s)

theorem keeps_plain (op n : Nat) (run : Origin → List Word → State → Reply × State)
    (hr : ∀ o p s, Keeps rst org s → Keeps rst org (run o p s).2) : HandlerKeeps rst org (Handler.plain op n run) :=
  ⟨hr, fun _ _ _ h => h⟩

theorem keeps_work (op n : Nat) (f : List Word → Res) (start : Origin → List Word → State → State)
    (hr : ∀ o p s, Keeps rst org s → Keeps rst org (start o p s)) : HandlerKeeps rst org (Handler.work op n f start) :=
  ⟨fun _ _ _ h => h, hr⟩

@[simp ↓] theorem keeps_ok (f : List Word → State → State) (o : Origin) (p : List Word) (h : Keeps rst org s)
    (hf : ∀ p s, Keeps rst org s → Keeps rst org (f p s)) : Keeps rst org (Handler.ok f o p s).2 := hf p s h

@[simp ↓] theorem keeps_refuse (op st d : Nat) (h : Keeps rst org s) : Keeps rst org (refuse op st d s).2 := by
  unfold refuse
  simp (maxDischargeDepth := 40) [h]

@[simp ↓] theorem keeps_answer (x : Handler) (hdr : Bool) (o : Origin) (p : List Word) (h : Keeps rst org s)
    (hx : HandlerKeeps rst org x) : Keeps rst org (answer x hdr o p s).2 := by
  unfold answer
  split
  · simp (maxDischargeDepth := 40) [h]
  split
  · simp (maxDischargeDepth := 40) [h]
  split
  · simp (maxDischargeDepth := 40) [h]
  split
  · simp (maxDischargeDepth := 40) [h]
  split
  · simp (maxDischargeDepth := 40) [h]
  split
  · simp (maxDischargeDepth := 40) [h]
  split
  · split
    · simp (maxDischargeDepth := 40) [h]
    · exact hx.2 _ _ _ (by simp (maxDischargeDepth := 40) [h])
  · have h2 := hx.1 o p s h
    dsimp only
    split
    · simp (maxDischargeDepth := 40) [h2]
    · exact h2

@[simp ↓] theorem keeps_deliver (o : Origin) (op : ℕ) (r : Reply) (h : Keeps rst org s) :
    Keeps rst org (deliver o op r s) := by
  unfold deliver
  split <;> simp (maxDischargeDepth := 40) +contextual [h]

@[simp ↓] theorem keeps_answerNone (recov : Bool) (op : Nat) (h : Keeps rst org s) :
    Keeps rst org (answerNone recov op s).2 := by
  unfold answerNone
  split <;> simp (maxDischargeDepth := 40) [h]

@[simp ↓] theorem keeps_dropStored (p : Port) (h : Keeps rst org s) :
    Keeps rst org (dropStored p s) := by
  unfold dropStored
  split <;> simp (maxDischargeDepth := 40) +contextual [h]

@[simp ↓] theorem keeps_request (x : Handler) (o : Origin) (p : List Word) (h : Keeps rst org s)
    (hx : HandlerKeeps rst org x) : Keeps rst org (request x o p s) := by
  unfold request
  split
  · simp (maxDischargeDepth := 40) [h, hx]
  · split
    · simp (maxDischargeDepth := 40) [h]
    · exact h

@[simp ↓] theorem keeps_slotFree (k : ℕ) (h : Keeps rst org s) :
    Keeps rst org (slotFree k s) := by
  unfold slotFree
  simp (maxDischargeDepth := 40) +contextual [h]

@[simp ↓] theorem keeps_freeSlots (h : Keeps rst org s) : Keeps rst org (freeSlots s) :=
  ⟨h.1, fun hz => have h1 := h.sound hz
    ⟨h1.mem, h1.queue, h1.qseq, h1.lost, rfl, h1.sets, h1.results, h1.awl, h1.lanes, h1.chans, h1.groups⟩, h.2.2⟩

@[simp ↓] theorem keeps_clearStored (h : Keeps rst org s) :
    Keeps rst org (clearStored s) := by
  exact h

/-! ### Recv -/

@[simp ↓] theorem keeps_setRecv (f : Recv → Recv) (h : Keeps rst org s)
    (hf : (f s.recv).lanes.length = s.recv.lanes.length) : Keeps rst org (setRecv f s) := by
  simp [setRecv, hf, h]

@[simp ↓] theorem keeps_laneGroup (n : ℕ) (x : ℕ) (h : Keeps rst org s) :
    Keeps rst org (laneGroup n x s) := by
  unfold laneGroup
  simp (maxDischargeDepth := 40) +contextual [h]

@[simp ↓] theorem keeps_sideOvers (d : Side) (overs : List ℕ) (h : Keeps rst org s) :
    Keeps rst org (sideOvers d overs s) := by
  unfold sideOvers
  simp (maxDischargeDepth := 40) +contextual [h]

@[simp ↓] theorem keeps_burstToSurge (lanes : BitVec 8) (raman : Bool) (h : Keeps rst org s) :
    Keeps rst org (burstToSurge lanes raman s) := by
  unfold burstToSurge
  simp (maxDischargeDepth := 40) +contextual [h]

@[simp ↓] theorem keeps_dropTrackers (d : Side) (bits : ℕ) (h : Keeps rst org s) :
    Keeps rst org (dropTrackers d bits s) := by
  unfold dropTrackers
  simp (maxDischargeDepth := 40) +contextual [h]

@[simp ↓] theorem keeps_watchExcl (f : State → State)
    (h : Keeps rst org s) (hf : ∀ (x0 : State), Keeps rst org x0 → Keeps rst org (f x0)) :
    Keeps rst org (watchExcl f s) := by
  unfold watchExcl
  simp (maxDischargeDepth := 40) +contextual [h, hf]

@[simp ↓] theorem keeps_changeLane (n : ℕ) (f : Lane → Lane) (h : Keeps rst org s) :
    Keeps rst org (changeLane n f s) := by
  unfold changeLane
  simp (maxDischargeDepth := 40) +contextual [h]

@[simp ↓] theorem keeps_keepRetired (n : ℕ) (h : Keeps rst org s) :
    Keeps rst org (keepRetired n s) := by
  exact h

@[simp ↓] theorem keeps_restartDwell (h : Keeps rst org s) :
    Keeps rst org (restartDwell s) := by
  unfold restartDwell
  simp (maxDischargeDepth := 40) +contextual [h]

@[simp ↓] theorem keeps_giveBack (h : Keeps rst org s) :
    Keeps rst org (giveBack s) := by
  unfold giveBack
  simp (maxDischargeDepth := 40) +contextual [h]

@[simp ↓] theorem keeps_takePols (m : BitVec 4) (h : Keeps rst org s) :
    Keeps rst org (takePols m s) := by
  exact h

@[simp ↓] theorem keeps_freePols (m : BitVec 4) (h : Keeps rst org s) :
    Keeps rst org (freePols m s) := by
  exact h

@[simp ↓] theorem keeps_pairsDue (d : Side) (h : Keeps rst org s) :
    Keeps rst org (pairsDue d s) := by
  exact h

@[simp ↓] theorem keeps_takeDue (d : Side) (h : Keeps rst org s) :
    Keeps rst org (takeDue d s) := by
  unfold takeDue
  simp (maxDischargeDepth := 40) +contextual [h]

@[simp ↓] theorem keeps_takeIdle (d : Side) (h : Keeps rst org s) :
    Keeps rst org (takeIdle d s) := by
  unfold takeIdle
  simp (maxDischargeDepth := 40) +contextual [h]

@[simp ↓] theorem keeps_freshTrims (g : ℕ) (h : Keeps rst org s) :
    Keeps rst org (freshTrims g s) := by
  unfold freshTrims
  simp (maxDischargeDepth := 40) +contextual [h]

@[simp ↓] theorem keeps_retireSlice (n : ℕ) (x : ℕ) (h : Keeps rst org s) :
    Keeps rst org (retireSlice n x s) := by
  unfold retireSlice
  simp (maxDischargeDepth := 40) +contextual [h]

@[simp ↓] theorem keeps_restoreSlice (n : ℕ) (x : ℕ) (h : Keeps rst org s) :
    Keeps rst org (restoreSlice n x s) := by
  unfold restoreSlice
  simp (maxDischargeDepth := 40) +contextual [h]

@[simp ↓] theorem keeps_takeSlices (n : ℕ) (l : List ℕ) (h : Keeps rst org s) :
    Keeps rst org (takeSlices n l s) := by
  unfold takeSlices
  simp (maxDischargeDepth := 40) +contextual [h]

@[simp ↓] theorem keeps_applyRecord (g : ℕ) (p : List Word) (h : Keeps rst org s) :
    Keeps rst org (applyRecord g p s) := by
  unfold applyRecord
  simp (maxDischargeDepth := 40) +contextual [h]

@[simp ↓] theorem keeps_applyRecords (f : ℕ → Bool) (h : Keeps rst org s) :
    Keeps rst org (applyRecords f s) := by
  unfold applyRecords
  simp (maxDischargeDepth := 40) +contextual [h]

@[simp ↓] theorem keeps_moveLane (h : Keeps rst org s) :
    Keeps rst org (moveLane s) := by
  exact h

@[simp ↓] theorem keeps_fixLane (h : Keeps rst org s) :
    Keeps rst org (fixLane s) := by
  unfold fixLane
  simp (maxDischargeDepth := 40) +contextual [h]

@[simp ↓] theorem keeps_creditVerdict (n : ℕ) (p : ℕ) (v : ℕ) (h : Keeps rst org s) :
    Keeps rst org (creditVerdict n p v s) := by
  unfold creditVerdict
  simp (maxDischargeDepth := 40) +contextual [h]

@[simp ↓] theorem keeps_laneFailure (n : ℕ) (h : Keeps rst org s) :
    Keeps rst org (laneFailure n s) := by
  unfold laneFailure
  simp (maxDischargeDepth := 40) +contextual [h]

@[simp ↓] theorem keeps_laneToTest (n : ℕ) (fail : Bool) (h : Keeps rst org s) :
    Keeps rst org (laneToTest n fail s) := by
  unfold laneToTest
  simp (maxDischargeDepth := 40) +contextual [h]

@[simp ↓] theorem keeps_writeCheck (v : Word) (h : Keeps rst org s) :
    Keeps rst org (writeCheck v s) := by
  unfold writeCheck
  simp (maxDischargeDepth := 40) +contextual [h]

@[simp ↓] theorem keeps_clearVerdicts (h : Keeps rst org s) :
    Keeps rst org (clearVerdicts s) := by
  unfold clearVerdicts
  simp (maxDischargeDepth := 40) +contextual [h]

@[simp ↓] theorem keeps_checkAct (w : Word) (h : Keeps rst org s) :
    Keeps rst org (checkAct w s) := by
  unfold checkAct
  split <;> simp (maxDischargeDepth := 40) +contextual [h]

/-! ### AuxFront -/

@[simp ↓] theorem keeps_setAux (f : Aux → Aux) (h : Keeps rst org s)
    (hf : (f s.aux).results.length = s.aux.results.length) : Keeps rst org (setAux f s) := by
  simp [setAux, hf, h]

@[simp ↓] theorem keeps_setAuxEntry (n : ℕ) (f : AuxEntry → AuxEntry) (h : Keeps rst org s) :
    Keeps rst org (setAuxEntry n f s) := by
  unfold setAuxEntry
  simp (maxDischargeDepth := 40) +contextual [h]

@[simp ↓] theorem keeps_noInput (n : ℕ) (h : Keeps rst org s) :
    Keeps rst org (noInput n s) := by
  unfold noInput
  simp (maxDischargeDepth := 40) +contextual [h]

@[simp ↓] theorem keeps_beginEntry (n : ℕ) (h : Keeps rst org s) :
    Keeps rst org (beginEntry n s) := by
  exact h

@[simp ↓] theorem keeps_passEnd (h : Keeps rst org s) :
    Keeps rst org (passEnd s) := by
  unfold passEnd
  simp (maxDischargeDepth := 40) +contextual [h]

@[simp ↓] theorem keeps_runOver (h : Keeps rst org s) : Keeps rst org (runOver s).2 := by
  unfold runOver
  split <;> simp (maxDischargeDepth := 40) [h]

@[simp ↓] theorem keeps_goOn (fuel n : Nat) (h : Keeps rst org s) : Keeps rst org (goOn fuel n s) := by
  induction fuel generalizing n s with
  | zero => unfold goOn; simp (maxDischargeDepth := 40) [h]
  | succ k ih => unfold goOn; dsimp only; simp (maxDischargeDepth := 40) +contextual [h, ih]

@[simp ↓] theorem keeps_auxStart (h : Keeps rst org s) :
    Keeps rst org (auxStart s) := by
  unfold auxStart
  simp (maxDischargeDepth := 40) +contextual [h]

@[simp ↓] theorem keeps_auxTrigger (h : Keeps rst org s) :
    Keeps rst org (auxTrigger s) := by
  unfold auxTrigger
  simp (maxDischargeDepth := 40) +contextual [h]

@[simp ↓] theorem keeps_auxKick (v : Word) (h : Keeps rst org s) :
    Keeps rst org (auxKick v s) := by
  unfold auxKick
  simp (maxDischargeDepth := 40) +contextual [h]

@[simp ↓] theorem keeps_auxTinEdge (i : ℕ) (h : Keeps rst org s) :
    Keeps rst org (auxTinEdge i s) := by
  unfold auxTinEdge
  simp (maxDischargeDepth := 40) +contextual [h]

@[simp ↓] theorem keeps_auxPause (h : Keeps rst org s) :
    Keeps rst org (auxPause s) := by
  unfold auxPause
  simp (maxDischargeDepth := 40) +contextual [h]

@[simp ↓] theorem keeps_auxResume (h : Keeps rst org s) :
    Keeps rst org (auxResume s) := by
  unfold auxResume
  dsimp only
  (repeat' split) <;> simp (maxDischargeDepth := 40) +contextual [h]

@[simp ↓] theorem keeps_switchStep (bad : Bool) (code : ℤ) (i : ℕ) (h : Keeps rst org s) :
    Keeps rst org (switchStep bad code i s) := by
  unfold switchStep
  simp (maxDischargeDepth := 40) +contextual [h]

@[simp ↓] theorem keeps_limOutputs (h : Keeps rst org s) :
    Keeps rst org (limOutputs s) := by
  exact h

@[simp ↓] theorem keeps_convert (raw : AuxSample) (h : Keeps rst org s) :
    Keeps rst org (convert raw s) := by
  unfold convert
  simp (maxDischargeDepth := 40) +contextual [h]

@[simp ↓] theorem keeps_applyAux (h : Keeps rst org s) :
    Keeps rst org (applyAux s) := by
  unfold applyAux
  simp (maxDischargeDepth := 40) +contextual [h]

@[simp ↓] theorem keeps_auxCommit (old : Cfg) (new : Cfg) (h : Keeps rst org s) :
    Keeps rst org (auxCommit old new s) := by
  unfold auxCommit
  simp (maxDischargeDepth := 40) +contextual [h]

/-! ### Timing -/

@[simp ↓] theorem keeps_timSend (p : HPort) (k : TimKind) (t : TimingSym) (h : Keeps rst org s) :
    Keeps rst org (timSend p k t s) := by
  unfold timSend
  split <;> simp (maxDischargeDepth := 40) +contextual [h]

@[simp ↓] theorem keeps_sendFire (code : ℕ) (h : Keeps rst org s) :
    Keeps rst org (sendFire code s) := by
  exact h

/-! ### Stream -/

@[simp ↓] theorem keeps_setStrm (f : Stream → Stream) (h : Keeps rst org s) :
    Keeps rst org (setStrm f s) := by
  exact h

@[simp ↓] theorem keeps_dropFrame (f : Frame) (h : Keeps rst org s) :
    Keeps rst org (dropFrame f s) := by
  exact h

@[simp ↓] theorem keeps_watchMarks (h : Keeps rst org s) :
    Keeps rst org (watchMarks s) := by
  unfold watchMarks
  simp (maxDischargeDepth := 40) +contextual [h]

@[simp ↓] theorem keeps_overflowed (f : Frame) (h : Keeps rst org s) :
    Keeps rst org (overflowed f s) := by
  unfold overflowed
  simp (maxDischargeDepth := 40) +contextual [h]

@[simp ↓] theorem keeps_beginEpisode (detail : ℕ) (h : Keeps rst org s) :
    Keeps rst org (beginEpisode detail s) := by
  unfold beginEpisode
  simp (maxDischargeDepth := 40) +contextual [h]

@[simp ↓] theorem keeps_fillRisen (h : Keeps rst org s) :
    Keeps rst org (fillRisen s) := by
  unfold fillRisen
  simp (maxDischargeDepth := 40) +contextual [h]

@[simp ↓] theorem keeps_enqueue (f : Frame) (h : Keeps rst org s) :
    Keeps rst org (enqueue f s) := by
  unfold enqueue
  simp (maxDischargeDepth := 40) +contextual [h]

@[simp ↓] theorem keeps_enqueueAll (l : List Frame) (h : Keeps rst org s) :
    Keeps rst org (enqueueAll l s) := by
  unfold enqueueAll
  simp (maxDischargeDepth := 40) +contextual [h]

@[simp ↓] theorem keeps_sendDrop (f : Frame) (h : Keeps rst org s) :
    Keeps rst org (sendDrop f s) := by
  unfold sendDrop
  simp (maxDischargeDepth := 40) +contextual [h]

@[simp ↓] theorem keeps_formDrop (ended : Bool) (h : Keeps rst org s) :
    Keeps rst org (formDrop ended s) := by
  unfold formDrop
  simp (maxDischargeDepth := 40) +contextual [h]

@[simp ↓] theorem keeps_fillFallen (h : Keeps rst org s) :
    Keeps rst org (fillFallen s) := by
  unfold fillFallen
  simp (maxDischargeDepth := 40) +contextual [h]

@[simp ↓] theorem keeps_frameRead (acc : Access) (f : Frame) (a : ℕ) (h : Keeps rst org s) :
    Keeps rst org (frameRead acc f a s) := by
  unfold frameRead
  simp (maxDischargeDepth := 40) +contextual [h]

@[simp ↓] theorem keeps_refill (n : ℕ) (h : Keeps rst org s) : Keeps rst org (refill n s) := by
  induction n generalizing s with
  | zero => exact h
  | succ n ih =>
    unfold refill
    split
    · exact h
    · exact ih (keeps_frameRead _ _ _ h)

@[simp ↓] theorem keeps_drain (h : Keeps rst org s) :
    Keeps rst org (drain s) := by
  unfold drain
  simp (maxDischargeDepth := 40) +contextual [h]

@[simp ↓] theorem keeps_cutFrame (h : Keeps rst org s) :
    Keeps rst org (cutFrame s) := by
  unfold cutFrame
  simp (maxDischargeDepth := 40) +contextual [h]

@[simp ↓] theorem keeps_beginTraining (h : Keeps rst org s) :
    Keeps rst org (beginTraining s) := by
  exact h

@[simp ↓] theorem keeps_startTraining (h : Keeps rst org s) :
    Keeps rst org (startTraining s) := by
  unfold startTraining
  split <;> simp (maxDischargeDepth := 40) +contextual [h]

@[simp ↓] theorem keeps_linkUp (h : Keeps rst org s) :
    Keeps rst org (linkUp s) := by
  unfold linkUp
  simp (maxDischargeDepth := 40) +contextual [h]

@[simp ↓] theorem keeps_streamReset (h : Keeps rst org s) :
    Keeps rst org (streamReset s) := by
  unfold streamReset
  simp (maxDischargeDepth := 40) +contextual [h]

@[simp ↓] theorem keeps_startFrame (f : Frame) (seq : BitVec 11) (again : Bool) (h : Keeps rst org s) :
    Keeps rst org (startFrame f seq again s) := by
  exact h

@[simp ↓] theorem keeps_ringRead (acc : Access) (f : Frame) (h : Keeps rst org s) :
    Keeps rst org (ringRead acc f s) := by
  exact keeps_frameRead _ _ _ h

end Sys2Proof.Machine
end

