-- ==== Sys2Proof/Laws/KeepsGirth.lean ====
section
/-!
SUPPORT. `Keeps` of records and products, thermal path, time base, Awl, calibration and the Currier array.
-/
namespace Sys2Proof.Machine

variable {rst : Bool} {org s nxt : State}

/-! ### Girth -/

@[simp ↓] theorem keeps_endDead (d : Side) (z : ℕ) (h : Keeps rst org s) :
    Keeps rst org (endDead d z s) := by
  unfold endDead
  split <;> simp (maxDischargeDepth := 40) +contextual [h]

@[simp ↓] theorem keeps_beginDead (z : ℕ) (h : Keeps rst org s) :
    Keeps rst org (beginDead z s) := by
  exact h

@[simp ↓] theorem keeps_digestAdd (d : Side) (i : ℕ) (h : Keeps rst org s) :
    Keeps rst org (digestAdd d i s) := by
  exact h

@[simp ↓] theorem keeps_refuseRecord (d : Side) (z : ℕ) (h : Keeps rst org s) :
    Keeps rst org (refuseRecord d z s) := by
  unfold refuseRecord
  simp (maxDischargeDepth := 40) +contextual [h]

@[simp ↓] theorem keeps_openRecord (c : Cfg) (d : Side) (z : ℕ) (t : Trigger) (first : ℕ) (last : ℕ) (active : Bool)
    (h : Keeps rst org s) :
    Keeps rst org (openRecord c d z t first last active s) := by
  unfold openRecord
  simp (maxDischargeDepth := 40) +contextual [h]

@[simp ↓] theorem keeps_setDigZone (z : ℕ) (f : List ℕ → List ℕ) (h : Keeps rst org s) :
    Keeps rst org (setDigZone z f s) := by
  exact h

@[simp ↓] theorem keeps_endHoldoff (d : Side) (z : ℕ) (h : Keeps rst org s) :
    Keeps rst org (endHoldoff d z s) := by
  unfold endHoldoff
  simp (maxDischargeDepth := 40) +contextual [h]

@[simp ↓] theorem keeps_entryFreed (h : Keeps rst org s) :
    Keeps rst org (entryFreed s) := by
  unfold entryFreed
  simp (maxDischargeDepth := 40) +contextual [h]

@[simp ↓] theorem keeps_closeRecord (d : Side) (z : ℕ) (cause : ℕ) (ns : ℕ) (h : Keeps rst org s) :
    Keeps rst org (closeRecord d z cause ns s) := by
  unfold closeRecord
  split <;> simp (maxDischargeDepth := 40) +contextual [h]

@[simp ↓] theorem keeps_closeAll (d : Side) (cause : ℕ) (h : Keeps rst org s) :
    Keeps rst org (closeAll d cause s) := by
  unfold closeAll
  simp (maxDischargeDepth := 40) +contextual [h]

@[simp ↓] theorem keeps_stopRecords (d : Side) (h : Keeps rst org s) :
    Keeps rst org (stopRecords d s) := by
  unfold stopRecords
  simp (maxDischargeDepth := 40) +contextual [h]

@[simp ↓] theorem keeps_retrigger (c : Cfg) (d : Side) (z : ℕ) (source : Bool) (x : ℤ) (h : Keeps rst org s) :
    Keeps rst org (retrigger c d z source x s) := by
  unfold retrigger
  split <;> simp (maxDischargeDepth := 40) +contextual [h]

@[simp ↓] theorem keeps_sourceAt (t : Trigger) (d : Side) (z : ℕ) (h : Keeps rst org s) :
    Keeps rst org (sourceAt t d z s) := by
  unfold sourceAt
  split <;> simp (maxDischargeDepth := 40) +contextual [h]

@[simp ↓] theorem keeps_sourceTrigger (t : Trigger) (on : Cfg → ℕ → Bool) (h : Keeps rst org s) :
    Keeps rst org (sourceTrigger t on s) := by
  unfold sourceTrigger
  simp (maxDischargeDepth := 40) +contextual [h]

@[simp ↓] theorem keeps_sideTrigger (t : Trigger) (d : Side) (on : Cfg → ℕ → Bool) (h : Keeps rst org s) :
    Keeps rst org (sideTrigger t d on s) := by
  unfold sideTrigger
  simp (maxDischargeDepth := 40) +contextual [h]

@[simp ↓] theorem keeps_closeDue (c : Cfg) (d : Side) (z : ℕ) (ns : ℕ) (x : ℤ) (h : Keeps rst org s) :
    Keeps rst org (closeDue c d z ns x s) := by
  unfold closeDue
  (repeat' split) <;> simp (maxDischargeDepth := 40) +contextual [h]

@[simp ↓] theorem keeps_boundaryDue (d : Side) (h : Keeps rst org s) :
    Keeps rst org (boundaryDue d s) := by
  unfold boundaryDue
  simp (maxDischargeDepth := 40) +contextual [h]

@[simp ↓] theorem keeps_envelopes (d : Side) (part : Bool) (h : Keeps rst org s) :
    Keeps rst org (envelopes d part s) := by
  unfold envelopes
  split <;> simp (maxDischargeDepth := 40) +contextual [h]

@[simp ↓] theorem keeps_zoneEvent (o : ZoneOut) (p : ZoneOut) (old : List Channel) (new : List Channel)
    (h : Keeps rst org s) :
    Keeps rst org (zoneEvent o p old new s) := by
  unfold zoneEvent
  dsimp only
  (repeat' split) <;> simp (maxDischargeDepth := 40) +contextual [h]

@[simp ↓] theorem keeps_digestTake (z : ℕ) (xs : List OutSample) (h : Keeps rst org s) :
    Keeps rst org (digestTake z xs s) := by
  exact h

@[simp ↓] theorem keeps_envelopeTake (o : ZoneOut) (h : Keeps rst org s) :
    Keeps rst org (envelopeTake o s) := by
  unfold envelopeTake
  simp (maxDischargeDepth := 40) +contextual [h]

@[simp ↓] theorem keeps_evaluate (o : ZoneOut) (h : Keeps rst org s) :
    Keeps rst org (evaluate o s) := by
  unfold evaluate
  simp (maxDischargeDepth := 40) +contextual [h]

@[simp ↓] theorem keeps_armSide (d : Side) (h : Keeps rst org s) :
    Keeps rst org (armSide d s) := by
  unfold armSide
  simp (maxDischargeDepth := 40) +contextual [h]

@[simp ↓] theorem keeps_disarmSide (d : Side) (h : Keeps rst org s) :
    Keeps rst org (disarmSide d s) := by
  unfold disarmSide
  simp (maxDischargeDepth := 40) +contextual [h]

@[simp ↓] theorem keeps_onSides (w : Word) (f : Side → State → State)
    (h : Keeps rst org s) (hf : ∀ (x0 : Side) (x1 : State), Keeps rst org x1 → Keeps rst org (f x0 x1)) :
    Keeps rst org (onSides w f s) := by
  unfold onSides
  simp (maxDischargeDepth := 40) +contextual [h, hf]

/-! ### Thermal -/

@[simp ↓] theorem keeps_clearSums (d : Side) (h : Keeps rst org s) :
    Keeps rst org (clearSums d s) := by
  unfold clearSums
  simp (maxDischargeDepth := 40) +contextual [h]

@[simp ↓] theorem keeps_discardPresent (d : Side) (h : Keeps rst org s) :
    Keeps rst org (discardPresent d s) := by
  unfold discardPresent
  simp (maxDischargeDepth := 40) +contextual [h]

@[simp ↓] theorem keeps_discardParked (d : Side) (r : ℕ) (h : Keeps rst org s) :
    Keeps rst org (discardParked d r s) := by
  exact h

@[simp ↓] theorem keeps_discardRoute (d : Side) (r : ℕ) (h : Keeps rst org s) :
    Keeps rst org (discardRoute d r s) := by
  unfold discardRoute
  simp (maxDischargeDepth := 40) +contextual [h]

@[simp ↓] theorem keeps_discardSide (d : Side) (h : Keeps rst org s) :
    Keeps rst org (discardSide d s) := by
  unfold discardSide
  simp (maxDischargeDepth := 40) +contextual [h]

@[simp ↓] theorem keeps_ramanRange (d : Side) (trace : List Word) (lane : ℕ) (h : Keeps rst org s) :
    Keeps rst org (ramanRange d trace lane s) := by
  unfold ramanRange
  simp (maxDischargeDepth := 40) +contextual [h]

theorem addCode_wf (d : Side) (lane i : Nat) (code : Int) (oor : Bool) (x : List Host.Cell × Bool)
    (h : Memory.wf x.1 = true) : Memory.wf (addCode d lane i code oor x).1 = true := by
  unfold addCode
  dsimp only
  split
  · exact setMark_wf _ _ _ (setMem32_wf _ _ h)
  · exact setMem32_wf _ _ h

theorem addLane_wf (d : Side) (lane : Nat) (tr : List Word) {m : List Host.Cell} (h : Memory.wf m = true) :
    Memory.wf (addLane d lane tr m).1 = true := by
  unfold addLane
  have key : ∀ (l : List (Word × Nat)) (x : List Host.Cell × Bool), Memory.wf x.1 = true →
      Memory.wf (l.foldl (fun x w => addCode d lane w.2 (sfld w.1 (32 * lane + 15) (32 * lane))
        (bit w.1 (32 * lane + 16)) x) x).1 = true := by
    intro l
    induction l with
    | nil => exact fun _ hx => hx
    | cons w l ih => exact fun x hx => ih _ (addCode_wf _ _ _ _ _ _ hx)
  exact key _ _ h

@[simp ↓] theorem keeps_addTrace (d : Side) (tr : List Word) (h : Keeps rst org s) : Keeps rst org (addTrace d tr s) := by
  unfold addTrace
  dsimp only
  split
  · exact h
  · exact keeps_postIf _ _ _ (keeps_setTherm _ _ (keeps_setBytes _ h fun hm => addLane_wf _ _ _ (addLane_wf _ _ _ hm)))

@[simp ↓] theorem keeps_park (d : Side) (h : Keeps rst org s) :
    Keeps rst org (park d s) := by
  unfold park
  simp (maxDischargeDepth := 40) +contextual [h]

@[simp ↓] theorem keeps_unpark (d : Side) (p : Parked) (h : Keeps rst org s) :
    Keeps rst org (unpark d p s) := by
  unfold unpark
  simp (maxDischargeDepth := 40) +contextual [h]

@[simp ↓] theorem keeps_thermalLeave (d : Side) (h : Keeps rst org s) :
    Keeps rst org (thermalLeave d s) := by
  exact h

@[simp ↓] theorem keeps_thermalEnter (d : Side) (r : ℕ) (h : Keeps rst org s) :
    Keeps rst org (thermalEnter d r s) := by
  unfold thermalEnter
  simp (maxDischargeDepth := 40) +contextual [h]

@[simp ↓] theorem keeps_ramanStart (d : Side) (h : Keeps rst org s) :
    Keeps rst org (ramanStart d s) := by
  unfold ramanStart
  simp (maxDischargeDepth := 40) +contextual [h]

@[simp ↓] theorem keeps_keepChannel (c : Cfg) (d : Side) (z : ℕ) (ord : ℕ) (tag : Word) (x : ℕ × ℕ)
    (h : Keeps rst org s) :
    Keeps rst org (keepChannel c d z ord tag x s) := by
  unfold keepChannel
  simp (maxDischargeDepth := 40) +contextual [h]

@[simp ↓] theorem keeps_thermalChannel (c : Cfg) (d : Side) (z : ℕ) (ord : Option ℕ) (tag : Word) (x : ℕ × ℕ)
    (h : Keeps rst org s) :
    Keeps rst org (thermalChannel c d z ord tag x s) := by
  unfold thermalChannel
  cases ord <;> simp (maxDischargeDepth := 40) +contextual [h]

@[simp ↓] theorem keeps_zoneAlarm (c : Cfg) (d : Side) (z : ℕ) (tag : Word) (h : Keeps rst org s) :
    Keeps rst org (zoneAlarm c d z tag s) := by
  unfold zoneAlarm
  simp (maxDischargeDepth := 40) +contextual [h]

@[simp ↓] theorem keeps_sendHistogram (c : Cfg) (z : ℕ) (tag : Word) (h : Keeps rst org s) :
    Keeps rst org (sendHistogram c z tag s) := by
  unfold sendHistogram
  simp (maxDischargeDepth := 40) +contextual [h]

@[simp ↓] theorem keeps_thermalZone (d : Side) (x : Completion) (tag : Word) (z : ℕ) (chans : List (ℕ × ℕ))
    (h : Keeps rst org s) :
    Keeps rst org (thermalZone d x tag z chans s) := by
  unfold thermalZone
  simp (maxDischargeDepth := 40) +contextual [h]

@[simp ↓] theorem keeps_histograms (c : Cfg) (d : Side) (r : ℕ) (tag : Word) (h : Keeps rst org s) :
    Keeps rst org (histograms c d r tag s) := by
  unfold histograms
  simp (maxDischargeDepth := 40) +contextual [h]

@[simp ↓] theorem keeps_computeThermal (d : Side) (x : Completion) (h : Keeps rst org s) :
    Keeps rst org (computeThermal d x s) := by
  unfold computeThermal
  simp (maxDischargeDepth := 40) +contextual [h]

@[simp ↓] theorem keeps_clockCommit (d : Side) (old : Cfg) (new : Cfg) (h : Keeps rst org s) :
    Keeps rst org (clockCommit d old new s) := by
  unfold clockCommit
  simp (maxDischargeDepth := 40) +contextual [h]

@[simp ↓] theorem keeps_thermalCommit (d : Side) (all : Bool) (old new : Cfg) (h : Keeps rst org s) :
    Keeps rst org (thermalCommit d all old new s) := by
  unfold thermalCommit
  extract_lets differs s0 s1 zone changed kept moved m s2
  have h0 : Keeps rst org s0 := by
    refine keeps_ite (keeps_discardSide d h) (keeps_foldl _ _ h fun s x hs => ?_)
    extract_lets shape s'
    have h2 : Keeps rst org s' := keeps_ite (keeps_discardRoute d x hs) hs
    exact keeps_ite (keeps_discardRoute d x h2) h2
  have h1 : Keeps rst org s1 := keeps_clockCommit _ _ _ h0
  have h3 : Keeps rst org s2 := keeps_setBytes _ h1 fun hm =>
    foldl_wf _ _ (memClear_wf _ _ (memClear_wf _ _ hm)) fun _ _ hx => setMem32_wf _ _ (memSet_wf _ _ hx)
  refine keeps_ite h1 ?_
  simp (maxDischargeDepth := 40) [h3]

/-! ### TimeBase -/

@[simp ↓] theorem keeps_setTb (f : TimeBase → TimeBase) (h : Keeps rst org s) :
    Keeps rst org (setTb f s) := by
  exact h

@[simp ↓] theorem keeps_stepTo (value : ℕ) (byCommand : Bool) (h : Keeps rst org s) :
    Keeps rst org (stepTo value byCommand s) := by
  unfold stepTo
  simp (maxDischargeDepth := 40) +contextual [h]

@[simp ↓] theorem keeps_setY (y : ℤ) (h : Keeps rst org s) :
    Keeps rst org (setY y s) := by
  unfold setY
  simp (maxDischargeDepth := 40) +contextual [h]

@[simp ↓] theorem keeps_toAcquire (h : Keeps rst org s) :
    Keeps rst org (toAcquire s) := by
  exact h

@[simp ↓] theorem keeps_toFreq (h : Keeps rst org s) :
    Keeps rst org (toFreq s) := by
  unfold toFreq
  simp (maxDischargeDepth := 40) +contextual [h]

@[simp ↓] theorem keeps_toHoldover (h : Keeps rst org s) :
    Keeps rst org (toHoldover s) := by
  unfold toHoldover
  simp (maxDischargeDepth := 40) +contextual [h]

@[simp ↓] theorem keeps_discipline (h : Keeps rst org s) :
    Keeps rst org (discipline s) := by
  unfold discipline
  (repeat' split) <;> simp (maxDischargeDepth := 40) +contextual [h]

@[simp ↓] theorem keeps_toXtal (h : Keeps rst org s) :
    Keeps rst org (toXtal s) := by
  unfold toXtal
  simp (maxDischargeDepth := 40) +contextual [h]

@[simp ↓] theorem keeps_tbWritten (h : Keeps rst org s) :
    Keeps rst org (tbWritten s) := by
  unfold tbWritten
  simp (maxDischargeDepth := 40) +contextual [h]

@[simp ↓] theorem keeps_judgeError (e : ℤ) (h : Keeps rst org s) :
    Keeps rst org (judgeError e s) := by
  unfold judgeError
  split <;> simp (maxDischargeDepth := 40) +contextual [h]

@[simp ↓] theorem keeps_steer (e : ℤ) (h : Keeps rst org s) :
    Keeps rst org (steer e s) := by
  unfold steer
  simp (maxDischargeDepth := 40) +contextual [h]

@[simp ↓] theorem keeps_takeError (h : Keeps rst org s) :
    Keeps rst org (takeError s) := by
  unfold takeError
  simp (maxDischargeDepth := 40) +contextual [h]

@[simp ↓] theorem keeps_loadAtPps (h : Keeps rst org s) :
    Keeps rst org (loadAtPps s) := by
  unfold loadAtPps
  split <;> simp (maxDischargeDepth := 40) +contextual [h]

@[simp ↓] theorem keeps_ppsAccepted (h : Keeps rst org s) :
    Keeps rst org (ppsAccepted s) := by
  unfold ppsAccepted
  simp (maxDischargeDepth := 40) +contextual [h]

@[simp ↓] theorem keeps_ppsRejected (h : Keeps rst org s) :
    Keeps rst org (ppsRejected s) := by
  exact h

@[simp ↓] theorem keeps_judgeGate (error : ℤ) (h : Keeps rst org s) :
    Keeps rst org (judgeGate error s) := by
  unfold judgeGate
  simp (maxDischargeDepth := 40) +contextual [h]

@[simp ↓] theorem keeps_putRw (id : ℕ) (v : Word) (h : Keeps rst org s) :
    Keeps rst org (putRw id v s) := by
  exact h

/-! ### Awl -/

@[simp ↓] theorem keeps_awlAccept (n : ℕ) (falling : Bool) (h : Keeps rst org s) :
    Keeps rst org (awlAccept n falling s) := by
  unfold awlAccept
  simp (maxDischargeDepth := 40) +contextual [h]

@[simp ↓] theorem keeps_awlEdge (n : ℕ) (falling : Bool) (h : Keeps rst org s) :
    Keeps rst org (awlEdge n falling s) := by
  unfold awlEdge
  simp (maxDischargeDepth := 40) +contextual [h]

@[simp ↓] theorem keeps_queueEdge (n : ℕ) (e : TdcEntry) (event : Bool) (h : Keeps rst org s) :
    Keeps rst org (queueEdge n e event s) := by
  unfold queueEdge
  simp (maxDischargeDepth := 40) +contextual [h]

/-! ### Calib -/

@[simp ↓] theorem keeps_holdStrop (p : ℕ) (h : Keeps rst org s) :
    Keeps rst org (holdStrop p s) := by
  exact h

@[simp ↓] theorem keeps_holdCantle (p : ℕ) (h : Keeps rst org s) :
    Keeps rst org (holdCantle p s) := by
  exact h

@[simp ↓] theorem keeps_freeStrop (p : ℕ) (h : Keeps rst org s) :
    Keeps rst org (freeStrop p s) := by
  exact h

@[simp ↓] theorem keeps_freeCantle (p : ℕ) (h : Keeps rst org s) :
    Keeps rst org (freeCantle p s) := by
  exact h

@[simp ↓] theorem keeps_holdPath (p : ℕ) (h : Keeps rst org s) :
    Keeps rst org (holdPath p s) := by
  unfold holdPath
  simp (maxDischargeDepth := 40) +contextual [h]

@[simp ↓] theorem keeps_holdBoundary (d : Side) (h : Keeps rst org s) :
    Keeps rst org (holdBoundary d s) := by
  unfold holdBoundary
  simp (maxDischargeDepth := 40) +contextual [h]

@[simp ↓] theorem keeps_setFigure (g : ℕ) (code : ℕ) (low : Bool) (h : Keeps rst org s) :
    Keeps rst org (setFigure g code low s) := by
  unfold setFigure
  simp (maxDischargeDepth := 40) +contextual [h]

@[simp ↓] theorem keeps_judge (g : ℕ) (h : Keeps rst org s) :
    Keeps rst org (judge g s) := by
  unfold judge
  simp (maxDischargeDepth := 40) +contextual [h]

@[simp ↓] theorem keeps_judgeAll (h : Keeps rst org s) :
    Keeps rst org (judgeAll s) := by
  unfold judgeAll
  simp (maxDischargeDepth := 40) +contextual [h]

@[simp ↓] theorem keeps_abandonSlice (g : ℕ) (h : Keeps rst org s) :
    Keeps rst org (abandonSlice g s) := by
  unfold abandonSlice
  simp (maxDischargeDepth := 40) +contextual [h]

@[simp ↓] theorem keeps_beginStep (next : Bool) (g : ℕ) (h : Keeps rst org s) :
    Keeps rst org (beginStep next g s) := by
  unfold beginStep
  simp (maxDischargeDepth := 40) +contextual [h]

@[simp ↓] theorem keeps_refreshRunning (next : Bool) (h : Keeps rst org s) :
    Keeps rst org (refreshRunning next s) := by
  unfold refreshRunning
  simp (maxDischargeDepth := 40) +contextual [h]

@[simp ↓] theorem keeps_tellAwl (deltas : List ℕ) (refused : Bool) (h : Keeps rst org s) :
    Keeps rst org (tellAwl deltas refused s) := by
  unfold tellAwl
  simp (maxDischargeDepth := 40) +contextual [h]

@[simp ↓] theorem keeps_ringRound (rings : List (ℕ × ℕ)) (h : Keeps rst org s) :
    Keeps rst org (ringRound rings s) := by
  unfold ringRound
  simp (maxDischargeDepth := 40) +contextual [h]

@[simp ↓] theorem keeps_formTrims (g : ℕ) (trims : List Word) (h : Keeps rst org s) :
    Keeps rst org (formTrims g trims s) := by
  unfold formTrims
  simp (maxDischargeDepth := 40) +contextual [h]

@[simp ↓] theorem keeps_awlForeground (rings : List (ℕ × ℕ)) (h : Keeps rst org s) :
    Keeps rst org (awlForeground rings s) := by
  unfold awlForeground
  simp (maxDischargeDepth := 40) +contextual [h]

@[simp ↓] theorem keeps_takeResult (r : StepResult) (h : Keeps rst org s) :
    Keeps rst org (takeResult r s) := by
  unfold takeResult
  simp (maxDischargeDepth := 40) +contextual [h]

@[simp ↓] theorem keeps_keepValues (g : ℕ) (h : Keeps rst org s) :
    Keeps rst org (keepValues g s) := by
  unfold keepValues
  simp (maxDischargeDepth := 40) +contextual [h]

@[simp ↓] theorem keeps_repeatDwell (g : ℕ) (h : Keeps rst org s) :
    Keeps rst org (repeatDwell g s) := by
  unfold repeatDwell
  simp (maxDischargeDepth := 40) +contextual [h]

@[simp ↓] theorem keeps_endGroup (g : ℕ) (h : Keeps rst org s) :
    Keeps rst org (endGroup g s) := by
  unfold endGroup
  simp (maxDischargeDepth := 40) +contextual [h]

@[simp ↓] theorem keeps_leaveGroups (gs : List ℕ) (late : Bool) (h : Keeps rst org s) :
    Keeps rst org (leaveGroups gs late s) := by
  unfold leaveGroups
  simp (maxDischargeDepth := 40) +contextual [h]

@[simp ↓] theorem keeps_operationStep (results : List StepResult) (h : Keeps rst org s) :
    Keeps rst org (operationStep results s) := by
  unfold operationStep
  simp (maxDischargeDepth := 40) +contextual [h]

@[simp ↓] theorem keeps_operationTimeout (g : ℕ) (h : Keeps rst org s) :
    Keeps rst org (operationTimeout g s) := by
  unfold operationTimeout
  simp (maxDischargeDepth := 40) +contextual [h]

@[simp ↓] theorem keeps_dropRuns (h : Keeps rst org s) :
    Keeps rst org (dropRuns s) := by
  unfold dropRuns
  simp (maxDischargeDepth := 40) +contextual [h]

@[simp ↓] theorem keeps_abandonAwl (h : Keeps rst org s) : Keeps rst org (abandonAwl s) := by
  unfold abandonAwl
  simp (maxDischargeDepth := 40) [h]

@[simp ↓] theorem keeps_abandonBackground (m : BitVec 17) (h : Keeps rst org s) :
    Keeps rst org (abandonBackground m s) := by
  unfold abandonBackground
  extract_lets s1
  have h1 : Keeps rst org s1 := keeps_foldl _ _ h fun _ _ ht => keeps_ite (keeps_abandonSlice _ ht) ht
  exact keeps_ite (keeps_abandonAwl h1) h1

@[simp ↓] theorem keeps_startRun (p : List Word) (h : Keeps rst org s) :
    Keeps rst org (startRun p s) := by
  unfold startRun
  simp (maxDischargeDepth := 40) +contextual [h]

@[simp ↓] theorem keeps_acceptRecord (p : List Word) (h : Keeps rst org s) :
    Keeps rst org (acceptRecord p s) := by
  unfold acceptRecord
  extract_lets g s1 wait x s2
  have h1 : Keeps rst org s1 := keeps_ite (keeps_abandonSlice _ h) (keeps_ite (keeps_abandonAwl h) h)
  have h2 : Keeps rst org s2 := h1
  exact keeps_ite h2 (keeps_ite (keeps_applyAux h2) (keeps_ite (keeps_ringRound _ (keeps_applyRecords _ h2)) (keeps_applyRecords _ h2)))

@[simp ↓] theorem keeps_loadRecord (g : ℕ) (p : List Word) (h : Keeps rst org s) :
    Keeps rst org (loadRecord g p s) := by
  unfold loadRecord
  simp (maxDischargeDepth := 40) +contextual [h]

/-! ### Products -/

@[simp ↓] theorem keeps_deltaTrigger (d : Side) (r : ℕ) (mm : ℕ) (at' : Word) (h : Keeps rst org s) :
    Keeps rst org (deltaTrigger d r mm at' s) := by
  unfold deltaTrigger
  simp (maxDischargeDepth := 40) +contextual [h]

@[simp ↓] theorem keeps_tellStep (c : Cfg) (d : Side) (r : Nat) (tag : Word) (step : Option Nat)
    (h : Keeps rst org s) : Keeps rst org (tellStep c d r tag step s) := by
  cases step
  · exact h
  · exact keeps_deltaTrigger _ _ _ _ (keeps_post _ _ h)

@[simp ↓] theorem keeps_formDelta (d : Side) (r : ℕ) (h : Keeps rst org s) :
    Keeps rst org (formDelta d r s) := by
  unfold formDelta
  dsimp only
  (repeat' split) <;> simp (maxDischargeDepth := 40) +contextual [h]

@[simp ↓] theorem keeps_parkingRead (r : ℕ) (bad : Bool) (h : Keeps rst org s) :
    Keeps rst org (parkingRead r bad s) := by
  exact keeps_blockRead _ _ _ _ h

@[simp ↓] theorem keeps_baselineRead (r : ℕ) (acc : Access) (h : Keeps rst org s) :
    Keeps rst org (baselineRead r acc s) := by
  unfold baselineRead
  extract_lets n s1
  have h1 : Keeps rst org s1 := keeps_blockRead _ _ _ _ h
  exact keeps_ite (keeps_setBase _ _ (keeps_setDelta _ _ h1)) h1

@[simp ↓] theorem keeps_reportBreak (c : Cfg) (d : Side) (r : ℕ) (sample : ℕ) (h : Keeps rst org s) :
    Keeps rst org (reportBreak c d r sample s) := by
  unfold reportBreak
  simp (maxDischargeDepth := 40) +contextual [h]

@[simp ↓] theorem keeps_checkBreak (c : Cfg) (d : Side) (r : ℕ) (power : ℕ → ℕ) (noise : ℕ) (boundary : Word)
    (h : Keeps rst org s) :
    Keeps rst org (checkBreak c d r power noise boundary s) := by
  unfold checkBreak
  simp (maxDischargeDepth := 40) +contextual [h]

@[simp ↓] theorem keeps_overwriteOldest (h : Keeps rst org s) :
    Keeps rst org (overwriteOldest s) := by
  unfold overwriteOldest
  split <;> simp (maxDischargeDepth := 40) +contextual [h]

@[simp ↓] theorem keeps_makeRoom (n need : Nat) (h : Keeps rst org s) : Keeps rst org (makeRoom n need s) := by
  induction n generalizing s with
  | zero => exact h
  | succ k ih => exact keeps_ite h (ih (keeps_overwriteOldest h))

@[simp ↓] theorem keeps_ringFrame (f : Frame) (h : Keeps rst org s) : Keeps rst org (ringFrame f s) := by
  have h1 := keeps_makeRoom s.girth.ring.length f.bytes h
  unfold ringFrame
  refine keeps_ite h (keeps_ite ?_ (keeps_ite ?_ h1)) <;> simp (maxDischargeDepth := 40) [h, h1]

@[simp ↓] theorem keeps_endDump (d : Dump) (h : Keeps rst org s) :
    Keeps rst org (endDump d s) := by
  unfold endDump
  extract_lets s1
  have h1 : Keeps rst org s1 := keeps_setZone _ _ h
  exact keeps_endsFor _ _ h1 fun _ ht => keeps_finish _ _ _ ht

@[simp ↓] theorem keeps_startDump (p : List Word) (h : Keeps rst org s) :
    Keeps rst org (startDump p s) := by
  unfold startDump
  split <;> simp (maxDischargeDepth := 40) +contextual [h]

@[simp ↓] theorem keeps_dumpCopy (l : List Frame) (used n : Nat) (d : Dump) (h : Keeps rst org s) :
    Keeps rst org (dumpCopy l used n d s).2 := by
  induction l generalizing used n d s with
  | nil => exact h
  | cons f l ih =>
    rw [dumpCopy]
    dsimp only
    split
    · exact ih _ _ _ (keeps_ringRead _ _ (keeps_dramBytes _ h fun hm => memPutWords_wf _ _ hm))
    · exact h

@[simp ↓] theorem keeps_formDigest (d : Side) (h : Keeps rst org s) :
    Keeps rst org (formDigest d s) := by
  unfold formDigest
  simp (maxDischargeDepth := 40) +contextual [h]

/-! ### Currier -/

@[simp ↓] theorem keeps_clearDecimator (c : Cfg) (z : ℕ) (h : Keeps rst org s) :
    Keeps rst org (clearDecimator c z s) := by
  unfold clearDecimator
  simp (maxDischargeDepth := 40) +contextual [h]

@[simp ↓] theorem keeps_restartZone (d : Side) (c : Cfg) (z : ℕ) (h : Keeps rst org s) :
    Keeps rst org (restartZone d c z s) := by
  unfold restartZone
  simp (maxDischargeDepth := 40) +contextual [h]

@[simp ↓] theorem keeps_restartSide (d : Side) (c : Cfg) (h : Keeps rst org s) :
    Keeps rst org (restartSide d c s) := by
  unfold restartSide
  simp (maxDischargeDepth := 40) +contextual [h]

@[simp ↓] theorem keeps_restartRoute (d : Side) (c : Cfg) (r : ℕ) (h : Keeps rst org s) :
    Keeps rst org (restartRoute d c r s) := by
  unfold restartRoute
  simp (maxDischargeDepth := 40) +contextual [h]

@[simp ↓] theorem keeps_changeOver (d : Side) (r : ℕ) (moved : Bool) (old : Cfg) (via : List Cfg) (new : Cfg) (h : Keeps rst org s) :
    Keeps rst org (changeOver d r moved old via new s) := by
  unfold changeOver
  simp (maxDischargeDepth := 40) +contextual [h]

@[simp ↓] theorem keeps_zoneOutput (d : Side) (c : Cfg) (z : ℕ) (count : ℕ) (h : Keeps rst org s) :
    Keeps rst org (zoneOutput d c z count s) := by
  unfold zoneOutput
  simp (maxDischargeDepth := 40) +contextual [h]

@[simp ↓] theorem keeps_zoneLaunch (d : Side) (x : LaunchIn) (z : ℕ) (h : Keeps rst org s) :
    Keeps rst org (zoneLaunch d x z s) := by
  unfold zoneLaunch
  simp (maxDischargeDepth := 40) +contextual [h]

@[simp ↓] theorem keeps_zoneOutputs (d : Side) (c : Cfg) (r : ℕ) (count : ℕ) (h : Keeps rst org s) :
    Keeps rst org (zoneOutputs d c r count s) := by
  unfold zoneOutputs
  simp (maxDischargeDepth := 40) +contextual [h]

@[simp ↓] theorem keeps_fadeZone (pct : ℕ) (z : ℕ) (h : Keeps rst org s) :
    Keeps rst org (fadeZone pct z s) := by
  unfold fadeZone
  simp (maxDischargeDepth := 40) +contextual [h]

@[simp ↓] theorem keeps_fadeSecond (d : Side) (h : Keeps rst org s) :
    Keeps rst org (fadeSecond d s) := by
  unfold fadeSecond
  simp (maxDischargeDepth := 40) +contextual [h]

@[simp ↓] theorem keeps_fadeSeconds (h : Keeps rst org s) :
    Keeps rst org (fadeSeconds s) := by
  unfold fadeSeconds
  simp (maxDischargeDepth := 40) +contextual [h]

@[simp ↓] theorem keeps_cleanGroup (c : Cfg) (d : Side) (r : ℕ) (cycle : ℕ) (h : Keeps rst org s) :
    Keeps rst org (cleanGroup c d r cycle s) := by
  unfold cleanGroup
  simp (maxDischargeDepth := 40) +contextual [h]

@[simp ↓] theorem keeps_groupPower (d : Side) (c : Cfg) (sh : Shot) (p : List (Nat × Nat)) (ok : Bool) (noise : ℕ)
    (h : Keeps rst org s) :
    Keeps rst org (groupPower d c sh p ok noise s) := by
  unfold groupPower
  simp (maxDischargeDepth := 40) +contextual [h]

@[simp ↓] theorem keeps_takeNoise (d : Side) (sh : Shot) (l : List GateSample) (h : Keeps rst org s) :
    Keeps rst org (takeNoise d sh l s) := by
  unfold takeNoise
  simp (maxDischargeDepth := 40) +contextual [h]

@[simp ↓] theorem keeps_takeReference (d : Side) (c : Cfg) (sh : Shot) (l : List GateSample) (bs : List Nat)
    (h : Keeps rst org s) : Keeps rst org (takeReference d c sh l bs s).2 := by
  unfold takeReference
  extract_lets t kept outs x s1 jump
  have h1 : Keeps rst org s1 := keeps_setCur _ _ h
  exact keeps_ite (keeps_restartRoute _ _ _ h1) h1

@[simp ↓] theorem keeps_judgeReturn (d : Side) (c : Cfg) (sh : Shot) (h : Keeps rst org s) :
    Keeps rst org (judgeReturn d c sh s) := by
  unfold judgeReturn
  simp (maxDischargeDepth := 40) +contextual [h]

@[simp ↓] theorem keeps_shotOutput (d : Side) (sh : Shot) (data : ShotData) (h : Keeps rst org s) :
    Keeps rst org (shotOutput d sh data s) := by
  unfold shotOutput
  extract_lets c s0 u count ls s1 s2 l bs s4 noise s5 x s6 s7 s8 s9
  have h0 : Keeps rst org s0 := keeps_fadeSeconds h
  have h1 : Keeps rst org s1 := keeps_ite h0 (keeps_changeOver _ _ _ _ _ _ h0)
  have h2 : Keeps rst org s2 := keeps_setCur _ _ h1
  have h4 : Keeps rst org s4 := keeps_ite h2 (keeps_takeNoise _ _ _ h2)
  have h5 : Keeps rst org s5 := keeps_judgeReturn _ _ _ h4
  have h6 : Keeps rst org s6 := keeps_foldl _ _ (keeps_takeReference _ _ _ _ _ h5) fun _ _ hs => keeps_zoneLaunch _ _ _ hs
  have h8 : Keeps rst org s8 := keeps_enqueueAll _ (keeps_zoneOutputs _ _ _ _ h6)
  exact keeps_groupPower _ _ _ _ _ _ (keeps_ite (keeps_sideOvers _ _ h8) h8)

end Sys2Proof.Machine
end

