-- ==== Sys2Proof/Laws/KeepsEmit.lean ====
section
/-!
SUPPORT. `Keeps` of staged configuration, probe emitter, acquisition, harness, PLL, memory and Lace.
-/
namespace Sys2Proof.Machine

variable {rst : Bool} {org s nxt : State}

/-! ### Staging -/

@[simp] theorem applied_sets (x : Tacks) (t : Option TackLoad) (m : Bool) :
    (x.applied t m).sets.length = x.sets.length := by
  unfold Tacks.applied
  split <;> simp

@[simp ↓] theorem keeps_setDraft (f : Cfg → Cfg) (h : Keeps rst org s) :
    Keeps rst org (setDraft f s) := by
  unfold setDraft
  simp (maxDischargeDepth := 40) +contextual [h]

@[simp ↓] theorem keeps_passGate (d : Side) (h : Keeps rst org s) :
    Keeps rst org (passGate d s) := by
  unfold passGate
  split <;> simp (maxDischargeDepth := 40) +contextual [h]

@[simp ↓] theorem keeps_commitDone (h : Keeps rst org s) :
    Keeps rst org (commitDone s) := by
  unfold commitDone
  split <;> simp (maxDischargeDepth := 40) +contextual [h]

@[simp ↓] theorem keeps_trigCommit (d : Side) (old : Cfg) (new : Cfg) (h : Keeps rst org s) :
    Keeps rst org (trigCommit d old new s) := by
  unfold trigCommit
  simp (maxDischargeDepth := 40) +contextual [h]

@[simp ↓] theorem keeps_baselineRoute (d : Side) (old : Cfg) (new : Cfg) (r : ℕ) (h : Keeps rst org s) :
    Keeps rst org (baselineRoute d old new r s) := by
  unfold baselineRoute
  simp (maxDischargeDepth := 40) +contextual [h]

@[simp ↓] theorem keeps_clearOverload (h : Keeps rst org s) :
    Keeps rst org (clearOverload s) := by
  unfold clearOverload
  simp (maxDischargeDepth := 40) +contextual [h]

@[simp ↓] theorem keeps_energyCommit (d : Side) (c : Cfg) (h : Keeps rst org s) :
    Keeps rst org (energyCommit d c s) := by
  unfold energyCommit
  simp (maxDischargeDepth := 40) +contextual [h]

@[simp ↓] theorem keeps_takeCommit (d : Side) (h : Keeps rst org s) :
    Keeps rst org (takeCommit d s) := by
  unfold takeCommit
  simp (maxDischargeDepth := 40) +contextual [h]

@[simp ↓] theorem keeps_loadSnapshot (t : Option TackLoad) (h : Keeps rst org s) :
    Keeps rst org (loadSnapshot t s) := by
  unfold loadSnapshot
  (repeat' split) <;> simp (maxDischargeDepth := 40) +contextual [h]

@[simp ↓] theorem keeps_freeze (t : Option TackLoad) (h : Keeps rst org s) :
    Keeps rst org (freeze t s) := by
  unfold freeze
  simp (maxDischargeDepth := 40) +contextual [h]

@[simp ↓] theorem keeps_judgeDraft (t : Option TackLoad) (h : Keeps rst org s) :
    Keeps rst org (judgeDraft t s) := by
  unfold judgeDraft
  split <;> simp (maxDischargeDepth := 40) +contextual [h]

@[simp ↓] theorem keeps_setTack (n : ℕ) (f : TackSet → TackSet) (h : Keeps rst org s) :
    Keeps rst org (setTack n f s) := by
  unfold setTack
  simp (maxDischargeDepth := 40) +contextual [h]

@[simp ↓] theorem keeps_startSave (p : List Word) (h : Keeps rst org s) :
    Keeps rst org (startSave p s) := by
  unfold startSave
  simp (maxDischargeDepth := 40) +contextual [h]

@[simp ↓] theorem keeps_startErase (p : List Word) (h : Keeps rst org s) :
    Keeps rst org (startErase p s) := by
  unfold startErase
  simp (maxDischargeDepth := 40) +contextual [h]

@[simp ↓] theorem keeps_dropTackOp (h : Keeps rst org s) :
    Keeps rst org (dropTackOp s) := by
  unfold dropTackOp
  simp (maxDischargeDepth := 40) +contextual [h]

/-! ### Lash -/

@[simp ↓] theorem keeps_beginProof (d : Side) (h : Keeps rst org s) :
    Keeps rst org (beginProof d s) := by
  unfold beginProof
  simp (maxDischargeDepth := 40) +contextual [h]

@[simp ↓] theorem keeps_startProof (d : Side) (h : Keeps rst org s) :
    Keeps rst org (startProof d s) := by
  unfold startProof
  simp (maxDischargeDepth := 40) +contextual [h]

@[simp ↓] theorem keeps_abandonProof (d : Side) (h : Keeps rst org s) :
    Keeps rst org (abandonProof d s) := by
  unfold abandonProof
  simp (maxDischargeDepth := 40) +contextual [h]

@[simp ↓] theorem keeps_proofDone (d : Side) (h : Keeps rst org s) :
    Keeps rst org (proofDone d s) := by
  unfold proofDone
  simp (maxDischargeDepth := 40) +contextual [h]

@[simp ↓] theorem keeps_launchTakes (d : Side) (g : ℕ) (h : Keeps rst org s) :
    Keeps rst org (launchTakes d g s) := by
  unfold launchTakes
  simp (maxDischargeDepth := 40) +contextual [h]

@[simp ↓] theorem keeps_launchGroup (d : Side) (g : ℕ) (h : Keeps rst org s) :
    Keeps rst org (launchGroup d g s) := by
  unfold launchGroup
  simp (maxDischargeDepth := 40) +contextual [h]

@[simp ↓] theorem keeps_discardShots (d : Side) (h : Keeps rst org s) :
    Keeps rst org (discardShots d s) := by
  unfold discardShots
  simp (maxDischargeDepth := 40) +contextual [h]

@[simp ↓] theorem keeps_cutPulse (d : Side) (h : Keeps rst org s) :
    Keeps rst org (cutPulse d s) := by
  unfold cutPulse
  simp (maxDischargeDepth := 40) +contextual [h]

@[simp ↓] theorem keeps_emitOff (d : Side) (cause : ℕ) (h : Keeps rst org s) :
    Keeps rst org (emitOff d cause s) := by
  unfold emitOff
  simp (maxDischargeDepth := 40) +contextual [h]

@[simp ↓] theorem keeps_applySide (d : Side) (h : Keeps rst org s) :
    Keeps rst org (applySide d s) := by
  unfold applySide
  simp (maxDischargeDepth := 40) +contextual [h]

@[simp ↓] theorem keeps_endSettle (d : Side) (dwellEnd : Bool) (failing : Bool) (h : Keeps rst org s) :
    Keeps rst org (endSettle d dwellEnd failing s) := by
  unfold endSettle
  simp (maxDischargeDepth := 40) +contextual [h]

@[simp ↓] theorem keeps_endAcq (d : Side) (cause : ℕ) (h : Keeps rst org s) :
    Keeps rst org (endAcq d cause s) := by
  unfold endAcq
  simp (maxDischargeDepth := 40) +contextual [h]

@[simp ↓] theorem keeps_allDark (emit : ℕ) (acq : ℕ) (h : Keeps rst org s) :
    Keeps rst org (allDark emit acq s) := by
  unfold allDark
  simp (maxDischargeDepth := 40) +contextual [h]

@[simp ↓] theorem keeps_gateVerdict (d : Side) (code : ℕ) (heldNs : ℕ) (cut : Bool) (h : Keeps rst org s) :
    Keeps rst org (gateVerdict d code heldNs cut s) := by
  unfold gateVerdict
  simp (maxDischargeDepth := 40) +contextual [h]

@[simp ↓] theorem keeps_energyLoop (d : Side) (g : ℕ) (e : ℕ) (h : Keeps rst org s) :
    Keeps rst org (energyLoop d g e s) := by
  unfold energyLoop
  simp (maxDischargeDepth := 40) +contextual [h]

@[simp ↓] theorem keeps_leaveRoute (d : Side) (h : Keeps rst org s) :
    Keeps rst org (leaveRoute d s) := by
  unfold leaveRoute
  simp (maxDischargeDepth := 40) +contextual [h]

@[simp ↓] theorem keeps_switchTo (d : Side) (e : ℕ) (h : Keeps rst org s) :
    Keeps rst org (switchTo d e s) := by
  unfold switchTo
  simp (maxDischargeDepth := 40) +contextual [h]

@[simp ↓] theorem keeps_beginBlanking (d : Side) (e : ℕ × Word) (h : Keeps rst org s) :
    Keeps rst org (beginBlanking d e s) := by
  unfold beginBlanking
  simp (maxDischargeDepth := 40) +contextual [h]

@[simp ↓] theorem keeps_beginDwell (d : Side) (e : ℕ × Word) (h : Keeps rst org s) :
    Keeps rst org (beginDwell d e s) := by
  unfold beginDwell
  simp (maxDischargeDepth := 40) +contextual [h]

@[simp ↓] theorem keeps_boundary (d : Side) (h : Keeps rst org s) :
    Keeps rst org (boundary d s) := by
  unfold boundary
  simp (maxDischargeDepth := 40) +contextual [h]

@[simp ↓] theorem keeps_settlePassed (d : Side) (h : Keeps rst org s) :
    Keeps rst org (settlePassed d s) := by
  unfold settlePassed
  simp (maxDischargeDepth := 40) +contextual [h]

@[simp ↓] theorem keeps_emitAgain (d : Side) (h : Keeps rst org s) : Keeps rst org (emitAgain d s) := by
  unfold emitAgain
  simp (maxDischargeDepth := 40) +contextual [h]

@[simp ↓] theorem keeps_goTo (d : Side) (e : Option (ℕ × Word)) (h : Keeps rst org s) :
    Keeps rst org (goTo d e s) := by
  unfold goTo
  split <;> simp (maxDischargeDepth := 40) +contextual [h]

@[simp ↓] theorem keeps_groupBoundary (d : Side) (h : Keeps rst org s) :
    Keeps rst org (groupBoundary d s) := by
  unfold groupBoundary
  extract_lets s1 s2
  have h1 : Keeps rst org s1 := keeps_boundary _ h
  have h2 : Keeps rst org s2 := keeps_ite (keeps_emitAgain _ h1) (keeps_settlePassed _ (keeps_setLash _ _ h1))
  exact keeps_ite (keeps_goTo _ _ h2) (keeps_ite (keeps_goTo _ _ h2) (keeps_launchGroup _ _ h2))

@[simp ↓] theorem keeps_blankingEnd (d : Side) (h : Keeps rst org s) :
    Keeps rst org (blankingEnd d s) := by
  unfold blankingEnd
  simp (maxDischargeDepth := 40) +contextual [h]

@[simp ↓] theorem keeps_darkRoute (d : Side) (h : Keeps rst org s) :
    Keeps rst org (darkRoute d s) := by
  unfold darkRoute
  simp (maxDischargeDepth := 40) +contextual [h]

@[simp ↓] theorem keeps_blankNow (d : Side) (e : ℕ) (h : Keeps rst org s) :
    Keeps rst org (blankNow d e s) := by
  unfold blankNow
  dsimp only
  (repeat' split) <;> simp (maxDischargeDepth := 40) +contextual [h]

@[simp ↓] theorem keeps_leaveBlocked (d : Side) (h : Keeps rst org s) :
    Keeps rst org (leaveBlocked d s) := by
  unfold leaveBlocked
  dsimp only
  (repeat' split) <;> simp (maxDischargeDepth := 40) +contextual [h]

@[simp ↓] theorem keeps_clampOutputs (d : Side) (h : Keeps rst org s) :
    Keeps rst org (clampOutputs d s) := by
  unfold clampOutputs
  simp (maxDischargeDepth := 40) +contextual [h]

@[simp ↓] theorem keeps_lockAct (w : Word) (h : Keeps rst org s) :
    Keeps rst org (lockAct w s) := by
  unfold lockAct
  split <;> simp (maxDischargeDepth := 40) +contextual [h]

@[simp ↓] theorem keeps_aprClear (d : Side) (bits : ℕ) (h : Keeps rst org s) :
    Keeps rst org (aprClear d bits s) := by
  unfold aprClear
  simp (maxDischargeDepth := 40) +contextual [h]

@[simp ↓] theorem keeps_emitOn (d : Side) (h : Keeps rst org s) :
    Keeps rst org (emitOn d s) := by
  unfold emitOn
  simp (maxDischargeDepth := 40) +contextual [h]

/-! ### Acquire -/

@[simp ↓] theorem keeps_freshZones (d : Side) (h : Keeps rst org s) :
    Keeps rst org (freshZones d s) := by
  unfold freshZones
  simp (maxDischargeDepth := 40) +contextual [h]

@[simp ↓] theorem keeps_freshEnvelopes (d : Side) (c : Cfg) (h : Keeps rst org s) :
    Keeps rst org (freshEnvelopes d c s) := by
  unfold freshEnvelopes
  simp (maxDischargeDepth := 40) +contextual [h]

@[simp ↓] theorem keeps_startScan (d : Side) (h : Keeps rst org s) :
    Keeps rst org (startScan d s) := by
  unfold startScan
  split <;> simp (maxDischargeDepth := 40) +contextual [h]

@[simp ↓] theorem keeps_startAcq (d : Side) (h : Keeps rst org s) :
    Keeps rst org (startAcq d s) := by
  unfold startAcq
  simp (maxDischargeDepth := 40) +contextual [h]

@[simp ↓] theorem keeps_stopSide (d : Side) (h : Keeps rst org s) :
    Keeps rst org (stopSide d s) := by
  unfold stopSide
  simp (maxDischargeDepth := 40) +contextual [h]

/-! ### Chain -/

@[simp ↓] theorem keeps_setHarn (f : Harness → Harness) (h : Keeps rst org s) :
    Keeps rst org (setHarn f s) := by
  unfold setHarn
  simp (maxDischargeDepth := 40) +contextual [h]

@[simp ↓] theorem keeps_setLink (p : HPort) (x : LinkState) (h : Keeps rst org s) :
    Keeps rst org (setLink p x s) := by
  unfold setLink
  split <;> simp (maxDischargeDepth := 40) +contextual [h]

@[simp ↓] theorem keeps_sendUp (k : Packet) (h : Keeps rst org s) :
    Keeps rst org (sendUp k s) := by
  unfold sendUp
  simp (maxDischargeDepth := 40) +contextual [h]

@[simp ↓] theorem keeps_sendDown (k : Packet) (h : Keeps rst org s) :
    Keeps rst org (sendDown k s) := by
  unfold sendDown
  simp (maxDischargeDepth := 40) +contextual [h]

@[simp ↓] theorem keeps_setAddress (a : ℕ) (h : Keeps rst org s) :
    Keeps rst org (setAddress a s) := by
  unfold setAddress
  simp (maxDischargeDepth := 40) +contextual [h]

@[simp ↓] theorem keeps_contributed (k : Packet) (h : Keeps rst org s) :
    Keeps rst org (contributed k s) := by
  unfold contributed
  split <;> simp (maxDischargeDepth := 40) +contextual [h]

@[simp ↓] theorem keeps_delayDone (d : BitVec 32) (h : Keeps rst org s) :
    Keeps rst org (delayDone d s) := by
  unfold delayDone
  simp (maxDischargeDepth := 40) +contextual [h]

@[simp ↓] theorem keeps_sendProbes (h : Keeps rst org s) :
    Keeps rst org (sendProbes s) := by
  unfold sendProbes
  exact h

@[simp ↓] theorem keeps_passSymbol (from' : HPort) (k : TimKind) (t : TimingSym) (h : Keeps rst org s) :
    Keeps rst org (passSymbol from' k t s) := by
  unfold passSymbol
  split <;> simp (maxDischargeDepth := 40) +contextual [h]

@[simp ↓] theorem keeps_lineArm (code : ℕ) (h : Keeps rst org s) :
    Keeps rst org (lineArm code s) := by
  unfold lineArm
  simp (maxDischargeDepth := 40) +contextual [h]

@[simp ↓] theorem keeps_loadAtSync (p : HPort) (t : TimingSym) (h : Keeps rst org s) :
    Keeps rst org (loadAtSync p t s) := by
  unfold loadAtSync
  split <;> simp (maxDischargeDepth := 40) +contextual [h]

/-! ### Pll -/

@[simp ↓] theorem keeps_setPll (f : Pll → Pll) (h : Keeps rst org s) :
    Keeps rst org (setPll f s) := by
  unfold setPll
  simp (maxDischargeDepth := 40) +contextual [h]

@[simp ↓] theorem keeps_startChange (v : Word) (h : Keeps rst org s) :
    Keeps rst org (startChange v s) := by
  unfold startChange
  simp (maxDischargeDepth := 40) +contextual [h]

@[simp ↓] theorem keeps_restoreCfg (h : Keeps rst org s) :
    Keeps rst org (restoreCfg s) := by
  unfold restoreCfg
  split <;> simp (maxDischargeDepth := 40) +contextual [h]

@[simp ↓] theorem keeps_loseLock (refLost : Bool) (h : Keeps rst org s) :
    Keeps rst org (loseLock refLost s) := by
  unfold loseLock
  simp (maxDischargeDepth := 40) +contextual [h]

@[simp ↓] theorem keeps_endChange (h : Keeps rst org s) :
    Keeps rst org (endChange s) := by
  unfold endChange
  split <;> simp (maxDischargeDepth := 40) +contextual [h]

@[simp ↓] theorem keeps_syncRestart (d : Side) (h : Keeps rst org s) :
    Keeps rst org (syncRestart d s) := by
  unfold syncRestart
  simp (maxDischargeDepth := 40) +contextual [h]

@[simp ↓] theorem keeps_applySync (pfdEdges : ℕ) (h : Keeps rst org s) :
    Keeps rst org (applySync pfdEdges s) := by
  unfold applySync
  simp (maxDischargeDepth := 40) +contextual [h]

/-! ### Mem -/

@[simp ↓] theorem keeps_setMem (f : Mem → Mem) (h : Keeps rst org s)
    (hf : (f s.mem).bytes = s.mem.bytes) : Keeps rst org (setMem f s) := by
  simp [setMem, hf, h]

@[simp ↓] theorem keeps_addFill (x : ℕ × ℕ × Word) (h : Keeps rst org s) :
    Keeps rst org (setMem (fun m => m.addFill x) s) := by
  exact h

@[simp ↓] theorem keeps_wakeAt (a : ℕ) (h : Keeps rst org s) :
    Keeps rst org (wakeAt a s) := by
  unfold wakeAt
  simp (maxDischargeDepth := 40) +contextual [h]

@[simp ↓] theorem keeps_ownTiles (a : ℕ) (n : ℕ) (h : Keeps rst org s) :
    Keeps rst org (ownTiles a n s) := by
  unfold ownTiles
  simp (maxDischargeDepth := 40) +contextual [h]

@[simp ↓] theorem keeps_hostPut (a : ℕ) (ws : List Word) (h : Keeps rst org s) :
    Keeps rst org (hostPut a ws s) := by
  unfold hostPut
  simp (maxDischargeDepth := 40) +contextual [h]

@[simp ↓] theorem keeps_scramble (a : ℕ) (n : ℕ) (h : Keeps rst org s) :
    Keeps rst org (scramble a n s) := by
  unfold scramble
  simp (maxDischargeDepth := 40) +contextual [h]

@[simp ↓] theorem keeps_dramLost (h : Keeps rst org s) :
    Keeps rst org (dramLost s) := by
  unfold dramLost
  simp (maxDischargeDepth := 40) +contextual [h]

@[simp ↓] theorem keeps_initDram (fail : Option (ℕ × ℕ)) (h : Keeps rst org s) :
    Keeps rst org (initDram fail s) := by
  unfold initDram
  simp (maxDischargeDepth := 40) +contextual [h]

@[simp ↓] theorem keeps_countTimeout (h : Keeps rst org s) :
    Keeps rst org (countTimeout s) := by
  unfold countTimeout
  simp (maxDischargeDepth := 40) +contextual [h]

@[simp ↓] theorem keeps_accessDone (acc : Access) (a : ℕ) (n : ℕ) (h : Keeps rst org s) :
    Keeps rst org (accessDone acc a n s) := by
  unfold accessDone
  split <;> simp (maxDischargeDepth := 40) +contextual [h]

@[simp ↓] theorem keeps_readMr4 (h : Keeps rst org s) : Keeps rst org (readMr4 s) := keeps_setMem _ h rfl

@[simp ↓] theorem keeps_postpone (h : Keeps rst org s) : Keeps rst org (setMem Mem.postpone s) := keeps_setMem _ h rfl

@[simp ↓] theorem keeps_readNow (p : List Word) (h : Keeps rst org s) : Keeps rst org (readNow p s).2 := by
  unfold readNow
  dsimp only
  split <;> simp (maxDischargeDepth := 40) +contextual [h]

@[simp ↓] theorem keeps_readDone (k : ℕ) (a : ℕ) (n : ℕ) (acc : Access) (h : Keeps rst org s) :
    Keeps rst org (readDone k a n acc s) := by
  unfold readDone
  simp (maxDischargeDepth := 40) +contextual [h]

@[simp ↓] theorem keeps_endOfFill (st : ℕ) (h : Keeps rst org s) :
    Keeps rst org (endOfFill st s) := by
  unfold endOfFill
  simp (maxDischargeDepth := 40) +contextual [h]

@[simp ↓] theorem keeps_fillFails (acc : Access) (a : ℕ) (left : ℕ) (h : Keeps rst org s) :
    Keeps rst org (fillFails acc a left s) := by
  unfold fillFails
  simp (maxDischargeDepth := 40) +contextual [h]

@[simp ↓] theorem keeps_emptyRing (h : Keeps rst org s) :
    Keeps rst org (emptyRing s) := by
  unfold emptyRing
  simp (maxDischargeDepth := 40) +contextual [h]

@[simp ↓] theorem keeps_emptyElastic (h : Keeps rst org s) :
    Keeps rst org (emptyElastic s) := by
  unfold emptyElastic
  simp (maxDischargeDepth := 40) +contextual [h]

@[simp ↓] theorem keeps_moveRegions (lo : ℕ) (hi : ℕ) (h : Keeps rst org s) :
    Keeps rst org (moveRegions lo hi s) := by
  unfold moveRegions
  simp (maxDischargeDepth := 40) +contextual [h]

@[simp ↓] theorem keeps_planWrite (v : Word) (h : Keeps rst org s) :
    Keeps rst org (planWrite v s) := by
  unfold planWrite
  simp (maxDischargeDepth := 40) +contextual [h]

@[simp ↓] theorem keeps_elasticMove (new : State) (h : Keeps rst org s) (hnew : Keeps rst org new) :
    Keeps rst org (elasticMove s new) := by
  unfold elasticMove
  simp (maxDischargeDepth := 40) +contextual [h, hnew]

/-! ### Lace -/

@[simp ↓] theorem keeps_badDesc (n : ℕ) (cause : ℕ) (h : Keeps rst org s) :
    Keeps rst org (badDesc n cause s) := by
  unfold badDesc
  simp (maxDischargeDepth := 40) +contextual [h]

@[simp ↓] theorem keeps_moveBurst (n : ℕ) (b : Burst) (h : Keeps rst org s) :
    Keeps rst org (moveBurst n b s) := by
  unfold moveBurst
  (repeat' split) <;> simp (maxDischargeDepth := 40) +contextual [h]

@[simp ↓] theorem keeps_dataBurst (n : ℕ) (b : Burst) (acc : Access) (h : Keeps rst org s) :
    Keeps rst org (dataBurst n b acc s).2 := by
  unfold dataBurst
  extract_lets put at' x s1
  have h1 : Keeps rst org s1 := keeps_accessDone _ _ _ h
  clear_value s1
  cases x
  · exact keeps_moveBurst _ _ h1
  · exact keeps_moveBurst _ _ h1
  · exact keeps_ite (keeps_scramble _ _ h1) h1
  · exact h1

@[simp ↓] theorem keeps_runBurst (n : ℕ) (acc : Access) (h : Keeps rst org s) :
    Keeps rst org (runBurst n acc s).2 := by
  unfold runBurst
  extract_lets b data
  have hd : ∀ x t, Keeps rst org t → Keeps rst org (data x t).2 := fun x t ht => by
    simp only [data]
    split
    · exact ht
    · exact keeps_dataBurst _ _ _ ht
  split
  · exact hd _ _ h
  · split
    · exact h
    · extract_lets met x s1
      have h1 : Keeps rst org s1 := keeps_accessDone _ _ _ h
      split
      · exact h1
      · exact hd _ _ h1

@[simp ↓] theorem keeps_chanBurst (n : ℕ) (acc : Access) (h : Keeps rst org s) :
    Keeps rst org (chanBurst n acc s) := by
  unfold chanBurst
  extract_lets x
  have hx : Keeps rst org x.2 := keeps_runBurst _ _ (keeps_ite h h)
  exact keeps_ite (keeps_badDesc _ _ hx) hx

@[simp ↓] theorem keeps_engineBurst (acc : Access) (h : Keeps rst org s) :
    Keeps rst org (engineBurst acc s) := by
  unfold engineBurst
  split <;> simp (maxDischargeDepth := 40) +contextual [h]

@[simp ↓] theorem keeps_setTurn (p : ℕ) (turn : ℕ × ℕ) (h : Keeps rst org s) : Keeps rst org (setTurn p turn s) := h

@[simp ↓] theorem keeps_fillOn (k : ℕ) (h : Keeps rst org s) : Keeps rst org (fillOn k s) := by
  induction k generalizing s with
  | zero => exact h
  | succ k ih =>
    unfold fillOn
    split
    · exact keeps_endOfFill _ h
    · exact ih (keeps_engineBurst _ (keeps_setTurn _ _ h))
    · exact h

@[simp ↓] theorem keeps_haltChan (n : ℕ) (x : DmaState) (event : ℕ) (h : Keeps rst org s) :
    Keeps rst org (haltChan n x event s) := by
  unfold haltChan
  simp (maxDischargeDepth := 40) +contextual [h]

@[simp ↓] theorem keeps_fetchAt (n : ℕ) (a : ℕ) (h : Keeps rst org s) :
    Keeps rst org (fetchAt n a s) := by
  unfold fetchAt
  simp (maxDischargeDepth := 40) +contextual [h]

@[simp ↓] theorem keeps_writeBack (n : ℕ) (result : ℕ) (h : Keeps rst org s) :
    Keeps rst org (writeBack n result s) := by
  unfold writeBack
  simp (maxDischargeDepth := 40) +contextual [h]

@[simp ↓] theorem keeps_parkChan (n : ℕ) (h : Keeps rst org s) :
    Keeps rst org (parkChan n s) := by
  unfold parkChan
  simp (maxDischargeDepth := 40) +contextual [h]

@[simp ↓] theorem keeps_followLink (n : ℕ) (h : Keeps rst org s) :
    Keeps rst org (followLink n s) := by
  unfold followLink
  dsimp only
  (repeat' split) <;> simp (maxDischargeDepth := 40) +contextual [h]

@[simp ↓] theorem keeps_relink (n : ℕ) (h : Keeps rst org s) :
    Keeps rst org (relink n s) := by
  unfold relink
  dsimp only
  (repeat' split) <;> simp (maxDischargeDepth := 40) +contextual [h]

@[simp ↓] theorem keeps_linkRead (n : ℕ) (acc : Access) (f : ℕ → State → State) (h : Keeps rst org s)
    (hf : ∀ t, Keeps rst org t → Keeps rst org (f n t)) : Keeps rst org (linkRead n acc f s) := by
  unfold linkRead
  dsimp only
  split <;> simp (maxDischargeDepth := 40) +contextual [h, hf]

@[simp ↓] theorem keeps_lastBurst (n : ℕ) (h : Keeps rst org s) : Keeps rst org (lastBurst n s) := by
  unfold lastBurst
  extract_lets x s1
  have h1 : Keeps rst org s1 := h
  exact keeps_ite h (keeps_ite h1 (keeps_runBurst _ _ h1))

@[simp ↓] theorem keeps_resume (n : ℕ) (h : Keeps rst org s) :
    Keeps rst org (resume n s) := by
  unfold resume
  simp (maxDischargeDepth := 40) +contextual [h]

@[simp ↓] theorem keeps_finishAll (r : Res) (st : ℕ) (res : List Word) (h : Keeps rst org s) :
    Keeps rst org (finishAll r st res s) := by
  unfold finishAll
  simp (maxDischargeDepth := 40) +contextual [h]

end Sys2Proof.Machine
end

