-- ==== Sys2Proof/Laws/KeepsCantle.lean ====
section
/-!
SUPPORT. `Keeps` of Cantle, resets, parameters, the handlers of requests, and the idle cycle.
-/
namespace Sys2Proof.Machine

variable {rst : Bool} {org s nxt : State}

/-! ### Update -/

@[simp ↓] theorem keeps_setCan (f : Cantle → Cantle) (h : Keeps rst org s) :
    Keeps rst org (setCan f s) := by
  unfold setCan
  simp (maxDischargeDepth := 40) +contextual [h]

@[simp ↓] theorem keeps_lifeUp (i : ℕ) (h : Keeps rst org s) :
    Keeps rst org (lifeUp i s) := by
  unfold lifeUp
  simp (maxDischargeDepth := 40) +contextual [h]

@[simp ↓] theorem keeps_setSlot (b : Bool) (x : SlotState) (h : Keeps rst org s) :
    Keeps rst org (setSlot b x s) := by
  unfold setSlot
  simp (maxDischargeDepth := 40) +contextual [h]

@[simp ↓] theorem keeps_setImage (b : Bool) (x : Image) (h : Keeps rst org s) :
    Keeps rst org (setImage b x s) := by
  unfold setImage
  simp (maxDischargeDepth := 40) +contextual [h]

@[simp ↓] theorem keeps_startSession (p : List Word) (h : Keeps rst org s) :
    Keeps rst org (startSession p s) := by
  unfold startSession
  simp (maxDischargeDepth := 40) +contextual [h]

@[simp ↓] theorem keeps_logUpdate (code : ℕ) (h : Keeps rst org s) :
    Keeps rst org (logUpdate code s) := by
  unfold logUpdate
  simp (maxDischargeDepth := 40) +contextual [h]

@[simp ↓] theorem keeps_failCrc (x : Session) (h : Keeps rst org s) :
    Keeps rst org (failCrc x s) := by
  unfold failCrc
  simp (maxDischargeDepth := 40) +contextual [h]

@[simp ↓] theorem keeps_judgeImage (x : Session) (h : Keeps rst org s) :
    Keeps rst org (judgeImage x s) := by
  unfold judgeImage
  simp (maxDischargeDepth := 40) +contextual [h]

@[simp ↓] theorem keeps_schedule (level : ℕ) (h : Keeps rst org s) :
    Keeps rst org (schedule level s) := by
  unfold schedule
  simp (maxDischargeDepth := 40) +contextual [h]

@[simp ↓] theorem keeps_rollback (cause : ℕ) (h : Keeps rst org s) :
    Keeps rst org (rollback cause s) := by
  unfold rollback
  simp (maxDischargeDepth := 40) +contextual [h]

@[simp ↓] theorem keeps_confirm (h : Keeps rst org s) :
    Keeps rst org (confirm s) := by
  unfold confirm
  simp (maxDischargeDepth := 40) +contextual [h]

@[simp ↓] theorem keeps_activate (w : Word) (h : Keeps rst org s) :
    Keeps rst org (activate w s) := by
  unfold activate
  split <;> simp (maxDischargeDepth := 40) +contextual [h]

/-! ### Surge -/

@[simp ↓] theorem keeps_openSurge (r : Surge) (h : Keeps rst org s) :
    Keeps rst org (openSurge r s) := by
  unfold openSurge
  simp (maxDischargeDepth := 40) +contextual [h]

@[simp ↓] theorem keeps_openStale (h : Keeps rst org s) :
    Keeps rst org (openStale s) := by
  unfold openStale
  simp (maxDischargeDepth := 40) +contextual [h]

@[simp ↓] theorem keeps_setTile (t : ℕ) (pass : Bool) (h : Keeps rst org s) :
    Keeps rst org (setTile t pass s) := by
  unfold setTile
  simp (maxDischargeDepth := 40) +contextual [h]

@[simp ↓] theorem keeps_tileOverload (h : Keeps rst org s) :
    Keeps rst org (tileOverload s) := by
  unfold tileOverload
  simp (maxDischargeDepth := 40) +contextual [h]

@[simp ↓] theorem keeps_tileTested (t : ℕ) (pass : Bool) (h : Keeps rst org s) :
    Keeps rst org (tileTested t pass s) := by
  unfold tileTested
  simp (maxDischargeDepth := 40) +contextual [h]

@[simp ↓] theorem keeps_endHolds (h : Keeps rst org s) :
    Keeps rst org (endHolds s) := by
  unfold endHolds
  simp (maxDischargeDepth := 40) +contextual [h]

/-! ### Log -/

@[simp ↓] theorem keeps_loseLog (n : ℕ) (h : Keeps rst org s) :
    Keeps rst org (loseLog n s) := by
  exact h

@[simp ↓] theorem keeps_nearFull (h : Keeps rst org s) :
    Keeps rst org (nearFull s) := by
  unfold nearFull
  simp (maxDischargeDepth := 40) +contextual [h]

@[simp ↓] theorem keeps_appendLog (es : List LogEntry) (h : Keeps rst org s) :
    Keeps rst org (appendLog es s) := by
  unfold appendLog
  simp (maxDischargeDepth := 40) +contextual [h]

@[simp ↓] theorem keeps_writeLog (x : LogItem) (h : Keeps rst org s) :
    Keeps rst org (writeLog x s) := by
  unfold writeLog
  simp (maxDischargeDepth := 40) +contextual [h]

@[simp ↓] theorem keeps_drainLog (n : Nat) (h : Keeps rst org s) : Keeps rst org (drainLog n s) := by
  induction n generalizing s with
  | zero => exact h
  | succ k ih =>
    unfold drainLog
    split
    · exact h
    · exact ih (keeps_writeLog _ (by simp (maxDischargeDepth := 40) [h]))

@[simp ↓] theorem keeps_addHours (i : ℕ) (n : ℕ) (h : Keeps rst org s) :
    Keeps rst org (addHours i n s) := by
  unfold addHours
  simp (maxDischargeDepth := 40) +contextual [h]

@[simp ↓] theorem keeps_updateLife (h : Keeps rst org s) :
    Keeps rst org (updateLife s) := by
  unfold updateLife
  simp (maxDischargeDepth := 40) +contextual [h]

/-! ### Power -/

@[simp ↓] theorem keeps_setPwr (f : Power → Power) (h : Keeps rst org s) :
    Keeps rst org (setPwr f s) := by
  unfold setPwr
  simp (maxDischargeDepth := 40) +contextual [h]

@[simp ↓] theorem keeps_abandon (h : Keeps rst org s) :
    Keeps rst org (abandon s) := by
  unfold abandon
  simp (maxDischargeDepth := 40) +contextual [h]

@[simp ↓] theorem keeps_resetBridle (h : Keeps rst org s) :
    Keeps rst org (resetBridle s) := by
  unfold resetBridle
  simp (maxDischargeDepth := 40) +contextual [h]

@[simp ↓] theorem keeps_resetDomains (h : Keeps true org s) : Keeps true org (resetDomains s) :=
  ⟨h.1, fun hz => have h1 := h.sound hz
    ⟨rfl, Nat.zero_le _, trivial, Nat.zero_le _, rfl, h1.sets, rfl, rfl, rfl, rfl, rfl⟩, fun hr => by cases hr⟩

@[simp ↓] theorem keeps_startUp (dev : DevState) (event : ℕ) (detail : ℕ) (h : Keeps rst org s) :
    Keeps rst org (startUp dev event detail s) := by
  unfold startUp
  simp (maxDischargeDepth := 40) +contextual [h]

@[simp ↓] theorem keeps_loseAddress (h : Keeps rst org s) :
    Keeps rst org (loseAddress s) := by
  unfold loseAddress
  simp (maxDischargeDepth := 40) +contextual [h]

@[simp ↓] theorem keeps_sampleStraps (dev : DevState) (h : Keeps rst org s) :
    Keeps rst org (sampleStraps dev s) := by
  unfold sampleStraps
  simp (maxDischargeDepth := 40) +contextual [h]

@[simp ↓] theorem keeps_endCaptures (h : Keeps rst org s) :
    Keeps rst org (endCaptures s) := by
  unfold endCaptures
  simp (maxDischargeDepth := 40) +contextual [h]

@[simp ↓] theorem keeps_endDumps (h : Keeps rst org s) :
    Keeps rst org (endDumps s) := by
  unfold endDumps
  simp (maxDischargeDepth := 40) +contextual [h]

@[simp ↓] theorem keeps_endFill (h : Keeps rst org s) :
    Keeps rst org (endFill s) := by
  unfold endFill
  simp (maxDischargeDepth := 40) +contextual [h]

@[simp ↓] theorem keeps_endRead (k : ℕ) (h : Keeps rst org s) :
    Keeps rst org (endRead k s) := by
  unfold endRead
  split <;> simp (maxDischargeDepth := 40) +contextual [h]

@[simp ↓] theorem keeps_endDramWork (h : Keeps rst org s) :
    Keeps rst org (endDramWork s) := by
  unfold endDramWork
  simp (maxDischargeDepth := 40) +contextual [h]

@[simp ↓] theorem keeps_endStream (h : Keeps rst org s) :
    Keeps rst org (endStream s) := by
  unfold endStream
  simp (maxDischargeDepth := 40) +contextual [h]

@[simp ↓] theorem keeps_dmaInit (h : Keeps rst org s) : Keeps rst org { s with dma := Dma.init } :=
  ⟨h.1, fun hz => have h1 := h.sound hz
    ⟨h1.mem, h1.queue, h1.qseq, h1.lost, h1.slots, h1.sets, h1.results, h1.awl, h1.lanes, rfl, h1.groups⟩, h.2.2⟩

@[simp ↓] theorem keeps_beginLevel1 (h : Keeps rst org s) : Keeps rst org (beginLevel1 s) := by
  unfold beginLevel1
  extract_lets s1
  have h1 : Keeps rst org s1 := keeps_planes _ h fun _ _ hs =>
    keeps_endDramWork (keeps_endStream (keeps_bothSides _ hs fun _ _ ht => keeps_endAcq _ _ ht))
  have h2 : Keeps rst org { s1 with dma := Dma.init } := keeps_dmaInit h1
  clear_value s1
  refine keeps_setMem _ (keeps_dramLost (keeps_emptyRing h2)) ?_
  rfl

@[simp ↓] theorem keeps_restartAcq (d : Side) (h : Keeps rst org s) :
    Keeps rst org (restartAcq d s) := by
  unfold restartAcq
  simp (maxDischargeDepth := 40) +contextual [h]

@[simp ↓] theorem keeps_haltSide (d : Side) (h : Keeps rst org s) :
    Keeps rst org (haltSide d s) := by
  unfold haltSide
  simp (maxDischargeDepth := 40) +contextual [h]

@[simp ↓] theorem keeps_beginSoft (p : List Word) (h : Keeps rst org s) :
    Keeps rst org (beginSoft p s) := by
  unfold beginSoft
  simp (maxDischargeDepth := 40) +contextual [h]

@[simp ↓] theorem keeps_hardReset2 (h : Keeps true org s) :
    Keeps true org (hardReset2 s) := by
  unfold hardReset2
  simp (maxDischargeDepth := 40) +contextual [h]

@[simp ↓] theorem keeps_hardReset3 (h : Keeps true org s) :
    Keeps true org (hardReset3 s) := by
  unfold hardReset3
  simp (maxDischargeDepth := 40) +contextual [h]

@[simp ↓] theorem keeps_wakeSource (b : BitVec 3) (h : Keeps rst org s) :
    Keeps rst org (wakeSource b s) := by
  unfold wakeSource
  simp (maxDischargeDepth := 40) +contextual [h]

@[simp ↓] theorem keeps_resetPin (h : Keeps true org s) :
    Keeps true org (resetPin s) := by
  unfold resetPin
  (repeat' split) <;> simp (maxDischargeDepth := 40) +contextual [h]

@[simp ↓] theorem keeps_enterStandby (seconds : ℕ) (h : Keeps rst org s) :
    Keeps rst org (enterStandby seconds s) := by
  unfold enterStandby
  simp (maxDischargeDepth := 40) +contextual [h]

@[simp ↓] theorem keeps_finishMram (seconds : ℕ) (h : Keeps rst org s) :
    Keeps rst org (finishMram seconds s) := by
  unfold finishMram
  simp (maxDischargeDepth := 40) +contextual [h]

@[simp ↓] theorem keeps_queueStart (event : ℕ) (detail : ℕ) (h : Keeps rst org s) :
    Keeps rst org (queueStart event detail s) := by
  unfold queueStart
  simp (maxDischargeDepth := 40) +contextual [h]

@[simp ↓] theorem keeps_logBoot (h : Keeps rst org s) :
    Keeps rst org (logBoot s) := by
  unfold logBoot
  simp (maxDischargeDepth := 40) +contextual [h]

@[simp ↓] theorem keeps_bootImage (b : Bool) (h : Keeps rst org s) :
    Keeps rst org (bootImage b s) := by
  unfold bootImage
  simp (maxDischargeDepth := 40) +contextual [h]

@[simp ↓] theorem keeps_loadSet (n : ℕ) (h : Keeps rst org s) :
    Keeps rst org (loadSet n s) := by
  unfold loadSet
  simp (maxDischargeDepth := 40) +contextual [h]

@[simp ↓] theorem keeps_atReady (f : State → State) (h : Keeps rst org s)
    (hf : ∀ s, Keeps true org s → Keeps true org (f s)) : Keeps rst org (atReady f s) := by
  have h0 : Keeps true org { s with evq := Events.init } :=
    ⟨h.1, fun hz => by obtain ⟨a, _, _, _, e⟩ := h.2.1 hz; exact ⟨a, Nat.zero_le _, trivial, Nat.zero_le _, e⟩, fun hr => nomatch hr⟩
  have h1 := hf _ h0
  exact ⟨h1.1, fun hz => by
    obtain ⟨a, _, _, _, e⟩ := h1.2.1 hz
    have h2 := h.sound hz
    exact ⟨a, h2.queue, h2.qseq, h2.lost, e⟩, h.2.2⟩

@[simp ↓] theorem keeps_loadStrapped (h : Keeps rst org s) :
    Keeps rst org (loadStrapped s) := by
  unfold loadStrapped
  extract_lets n s1 x s2
  have h1 : Keeps rst org s1 := h
  have h2 : Keeps rst org s2 := keeps_ite h1 (keeps_queueStart _ _ h1)
  exact keeps_ite (keeps_atReady _ h1 fun _ ht => keeps_loadSet _ ht)
    (keeps_ite (keeps_atReady _ h2 fun _ ht => keeps_loadSet _ ht) (keeps_queueStart _ _ h2))

@[simp ↓] theorem keeps_tellRollback (h : Keeps rst org s) :
    Keeps rst org (tellRollback s) := by
  unfold tellRollback
  split <;> simp (maxDischargeDepth := 40) +contextual [h]

@[simp ↓] theorem keeps_brownoutSurge (cause : ℕ) (h : Keeps rst org s) :
    Keeps rst org (brownoutSurge cause s) := by
  unfold brownoutSurge
  (repeat' split) <;> simp (maxDischargeDepth := 40) +contextual [h]

@[simp ↓] theorem keeps_becomeReady (h : Keeps rst org s) :
    Keeps rst org (becomeReady s) := by
  unfold becomeReady
  simp (maxDischargeDepth := 40) +contextual [h]

@[simp ↓] theorem keeps_startDacFault (g : ℕ) (bad : Bool) (h : Keeps rst org s) :
    Keeps rst org (startDacFault g bad s) := by
  unfold startDacFault
  simp (maxDischargeDepth := 40) +contextual [h]

@[simp ↓] theorem keeps_phaseEnd (h : Keeps rst org s) :
    Keeps rst org (phaseEnd s) := by
  unfold phaseEnd
  simp (maxDischargeDepth := 40) +contextual [h]

@[simp ↓] theorem keeps_leaveStart (g : ℕ) (h : Keeps rst org s) :
    Keeps rst org (leaveStart g s) := by
  unfold leaveStart
  simp (maxDischargeDepth := 40) +contextual [h]

@[simp ↓] theorem keeps_startSteps (results : List StepResult) (h : Keeps rst org s) :
    Keeps rst org (startSteps results s) := by
  unfold startSteps
  refine keeps_phaseEnd (keeps_foldl _ _ h fun t r ht => ?_)
  exact keeps_leaveStart _ (keeps_startDacFault _ _ (keeps_atReady _ ht fun _ hu => keeps_takeResult _ hu))

/-! ### Cantle -/

@[simp ↓] theorem keeps_tripStandby (h : Keeps rst org s) :
    Keeps rst org (tripStandby s) := by
  unfold tripStandby
  simp (maxDischargeDepth := 40) +contextual [h]

@[simp ↓] theorem keeps_afterTrip (h : Keeps rst org s) :
    Keeps rst org (afterTrip s) := by
  unfold afterTrip
  simp (maxDischargeDepth := 40) +contextual [h]

@[simp ↓] theorem keeps_judgeStep (h : Keeps rst org s) :
    Keeps rst org (judgeStep s) := by
  unfold judgeStep
  simp (maxDischargeDepth := 40) +contextual [h]

@[simp ↓] theorem keeps_judgeWarn (h : Keeps rst org s) :
    Keeps rst org (judgeWarn s) := by
  unfold judgeWarn
  dsimp only
  (repeat' split) <;> simp (maxDischargeDepth := 40) +contextual [h]

@[simp ↓] theorem keeps_keepHighest (h : Keeps rst org s) :
    Keeps rst org (keepHighest s) := by
  unfold keepHighest
  simp (maxDischargeDepth := 40) +contextual [h]

@[simp ↓] theorem keeps_judgeTemps (h : Keeps rst org s) :
    Keeps rst org (judgeTemps s) := by
  unfold judgeTemps
  simp (maxDischargeDepth := 40) +contextual [h]

@[simp ↓] theorem keeps_railEvent (i : ℕ) (high : Bool) (h : Keeps rst org s) :
    Keeps rst org (railEvent i high s) := by
  unfold railEvent
  simp (maxDischargeDepth := 40) +contextual [h]

@[simp ↓] theorem keeps_judgeRail (ms : List ℕ) (h : Keeps rst org s) :
    Keeps rst org (judgeRail ms s) := by
  unfold judgeRail
  simp (maxDischargeDepth := 40) +contextual [h]

@[simp ↓] theorem keeps_endCantleWork (h : Keeps rst org s) :
    Keeps rst org (endCantleWork s) := by
  unfold endCantleWork
  split <;> simp (maxDischargeDepth := 40) +contextual [h]

@[simp ↓] theorem keeps_stopCantle (cause : ℕ) (h : Keeps rst org s) :
    Keeps rst org (stopCantle cause s) := by
  unfold stopCantle
  simp (maxDischargeDepth := 40) +contextual [h]

@[simp ↓] theorem keeps_scrubBad (region : ℕ) (i : ℕ) (h : Keeps rst org s) :
    Keeps rst org (scrubBad region i s) := by
  unfold scrubBad
  (repeat' split) <;> simp (maxDischargeDepth := 40) +contextual [h]

/-! ### Params -/

@[simp ↓] theorem keeps_writeStreamCfg (v : Word) (h : Keeps rst org s) :
    Keeps rst org (writeStreamCfg v s) := by
  unfold writeStreamCfg
  simp (maxDischargeDepth := 40) +contextual [h]

@[simp ↓] theorem keeps_writeRw (id : ℕ) (v : Word) (h : Keeps rst org s) :
    Keeps rst org (writeRw id v s) := by
  unfold writeRw
  split <;> simp (maxDischargeDepth := 40) +contextual [h]

@[simp ↓] theorem keeps_writeOwn (id : ℕ) (v : Word) (h : Keeps rst org s) :
    Keeps rst org (writeOwn id v s) := by
  unfold writeOwn
  simp (maxDischargeDepth := 40) +contextual [h]

@[simp ↓] theorem keeps_writeParam (id : ℕ) (v : Word) (h : Keeps rst org s) :
    Keeps rst org (writeParam id v s) := by
  unfold writeParam
  split <;> simp (maxDischargeDepth := 40) +contextual [h]

@[simp ↓] theorem keeps_enterPairs (l : List (Word × Word)) (h : Keeps rst org s) :
    Keeps rst org (enterPairs l s) := by
  unfold enterPairs
  simp (maxDischargeDepth := 40) +contextual [h]

@[simp ↓] theorem keeps_writePairs (l : List (Word × Word)) (h : Keeps rst org s) :
    Keeps rst org (writePairs l s) :=
  keeps_planes _ h fun _ _ hs => keeps_enterPairs _ hs

@[simp ↓] theorem keeps_runPairs (l : List (Word × Word)) (h : Keeps rst org s) :
    Keeps rst org (runPairs l s).2 := by
  unfold runPairs
  (repeat' split) <;> simp (maxDischargeDepth := 40) [h]

/-! ### Handlers -/

@[simp ↓] theorem keeps_hNop : HandlerKeeps rst org hNop := by
  refine ⟨fun o p s h => ?_, fun o p s h => ?_⟩ <;> simp (maxDischargeDepth := 40) +contextual [hNop, Handler.plain, Handler.work, h]

@[simp ↓] theorem keeps_hIdentify : HandlerKeeps rst org hIdentify := by
  refine ⟨fun o p s h => ?_, fun o p s h => ?_⟩ <;> simp (maxDischargeDepth := 40) +contextual [hIdentify, Handler.plain, Handler.work, h]

@[simp ↓] theorem keeps_hStatus : HandlerKeeps rst org hStatus := by
  refine ⟨fun o p s h => ?_, fun o p s h => ?_⟩ <;> dsimp only [hStatus, Handler.plain, Handler.work] <;> (repeat' split) <;> (try exact h) <;> simp (maxDischargeDepth := 40) +contextual [h]

@[simp ↓] theorem keeps_hChainLoopback : HandlerKeeps rst org hChainLoopback := by
  refine ⟨fun o p s h => ?_, fun o p s h => ?_⟩ <;> simp (maxDischargeDepth := 40) +contextual [hChainLoopback, Handler.plain, Handler.work, h]

@[simp ↓] theorem keeps_hParamGet : HandlerKeeps rst org hParamGet := by
  refine ⟨fun o p s h => ?_, fun o p s h => ?_⟩ <;> simp (maxDischargeDepth := 40) +contextual [hParamGet, Handler.plain, Handler.work, h]

@[simp ↓] theorem keeps_hEventRead : HandlerKeeps rst org hEventRead := by
  refine ⟨fun o p s h => ?_, fun o p s h => ?_⟩ <;> simp (maxDischargeDepth := 40) +contextual [hEventRead, Handler.plain, Handler.work, h]

@[simp ↓] theorem keeps_hEventAck : HandlerKeeps true org hEventAck := by
  refine ⟨fun o p s h => ⟨h.1, fun hz => ?_, fun hr => by cases hr⟩, fun o p s h => h⟩
  have h1 := h.sound hz
  refine ⟨h1.mem, ?_, ?_, h1.lost, h1.slots, h1.sets, h1.results, h1.awl, h1.lanes, h1.chans, h1.groups⟩
  · simp only [hEventAck, Handler.plain]
    split
    · rw [List.length_drop]; have := h1.queue; omega
    · exact h1.queue
  · simp only [hEventAck, Handler.plain]
    split
    · exact consecutive_drop _ _ _ h1.qseq
    · exact h1.qseq

@[simp ↓] theorem keeps_hResult : HandlerKeeps rst org hResult := by
  refine ⟨fun o p s h => ?_, fun o p s h => ?_⟩ <;> dsimp only [hResult, Handler.plain, Handler.work] <;> (repeat' split) <;> (try exact h) <;> simp (maxDischargeDepth := 40) +contextual [h]

@[simp ↓] theorem keeps_hAdcCheckSet : HandlerKeeps rst org hAdcCheckSet := by
  refine ⟨fun o p s h => ?_, fun o p s h => h⟩
  unfold hAdcCheckSet Handler.plain
  dsimp only
  split
  · exact h
  · exact keeps_checkAct _ (keeps_writeCheck _ h)

@[simp ↓] theorem keeps_hAuxRead : HandlerKeeps rst org hAuxRead := by
  refine ⟨fun o p s h => ?_, fun o p s h => ?_⟩ <;> simp (maxDischargeDepth := 40) +contextual [hAuxRead, Handler.plain, Handler.work, h]

@[simp ↓] theorem keeps_hStreamTrain : HandlerKeeps rst org hStreamTrain := by
  refine ⟨fun o p s h => ?_, fun o p s h => ?_⟩ <;> simp (maxDischargeDepth := 40) +contextual [hStreamTrain, Handler.plain, Handler.work, h]

@[simp ↓] theorem keeps_hTimeSet : HandlerKeeps rst org hTimeSet := by
  refine ⟨fun o p s h => ?_, fun o p s h => ?_⟩ <;> simp (maxDischargeDepth := 40) +contextual [hTimeSet, Handler.plain, Handler.work, h]

@[simp ↓] theorem keeps_hTimeGet : HandlerKeeps rst org hTimeGet := by
  refine ⟨fun o p s h => ?_, fun o p s h => ?_⟩ <;> simp (maxDischargeDepth := 40) +contextual [hTimeGet, Handler.plain, Handler.work, h]

@[simp ↓] theorem keeps_hTbSelect : HandlerKeeps rst org hTbSelect := by
  refine ⟨fun o p s h => ?_, fun o p s h => ?_⟩ <;> simp (maxDischargeDepth := 40) +contextual [hTbSelect, Handler.plain, Handler.work, h]

@[simp ↓] theorem keeps_hArm : HandlerKeeps rst org hArm := by
  refine ⟨fun o p s h => ?_, fun o p s h => ?_⟩ <;> simp (maxDischargeDepth := 40) +contextual [hArm, Handler.plain, Handler.work, h]

@[simp ↓] theorem keeps_hDisarm : HandlerKeeps rst org hDisarm := by
  refine ⟨fun o p s h => ?_, fun o p s h => ?_⟩ <;> simp (maxDischargeDepth := 40) +contextual [hDisarm, Handler.plain, Handler.work, h]

@[simp ↓] theorem keeps_hForce : HandlerKeeps rst org hForce := by
  refine ⟨fun o p s h => ?_, fun o p s h => ?_⟩ <;> simp (maxDischargeDepth := 40) +contextual [hForce, Handler.plain, Handler.work, h]

@[simp ↓] theorem keeps_hHistoryDump : HandlerKeeps rst org hHistoryDump := by
  refine ⟨fun o p s h => ?_, fun o p s h => ?_⟩ <;> simp (maxDischargeDepth := 40) +contextual [hHistoryDump, Handler.plain, Handler.work, h]

@[simp ↓] theorem keeps_hDtsRefSet : HandlerKeeps rst org hDtsRefSet := by
  refine ⟨fun o p s h => ?_, fun o p s h => ?_⟩ <;> simp (maxDischargeDepth := 40) +contextual [hDtsRefSet, Handler.plain, Handler.work, h]

@[simp ↓] theorem keeps_hTdcRead : HandlerKeeps rst org hTdcRead := by
  refine ⟨fun o p s h => ?_, fun o p s h => ?_⟩ <;> simp (maxDischargeDepth := 40) +contextual [hTdcRead, Handler.plain, Handler.work, h]

@[simp ↓] theorem keeps_hTdcCfg : HandlerKeeps rst org hTdcCfg := by
  refine ⟨fun o p s h => ?_, fun o p s h => ?_⟩ <;> simp (maxDischargeDepth := 40) +contextual [hTdcCfg, Handler.plain, Handler.work, h]

@[simp ↓] theorem keeps_hCalRun : HandlerKeeps rst org hCalRun := by
  refine ⟨fun o p s h => ?_, fun o p s h => ?_⟩ <;> simp (maxDischargeDepth := 40) +contextual [hCalRun, Handler.plain, Handler.work, h]

@[simp ↓] theorem keeps_hCalRead : HandlerKeeps rst org hCalRead := by
  refine ⟨fun o p s h => ?_, fun o p s h => ?_⟩ <;> simp (maxDischargeDepth := 40) +contextual [hCalRead, Handler.plain, Handler.work, h]

@[simp ↓] theorem keeps_hCalWrite : HandlerKeeps rst org hCalWrite := by
  refine ⟨fun o p s h => ?_, fun o p s h => ?_⟩ <;> dsimp only [hCalWrite, Handler.plain, Handler.work] <;> (repeat' split) <;> (try exact h) <;> simp (maxDischargeDepth := 40) +contextual [h]

@[simp ↓] theorem keeps_hCalQuality : HandlerKeeps rst org hCalQuality := by
  refine ⟨fun o p s h => ?_, fun o p s h => ?_⟩ <;> simp (maxDischargeDepth := 40) +contextual [hCalQuality, Handler.plain, Handler.work, h]

@[simp ↓] theorem keeps_hRouteSet : HandlerKeeps rst org hRouteSet := by
  refine ⟨fun o p s h => ?_, fun o p s h => ?_⟩ <;> dsimp only [hRouteSet, Handler.plain, Handler.work] <;> (repeat' split) <;> (try exact h) <;> simp (maxDischargeDepth := 40) +contextual [h]

@[simp ↓] theorem keeps_hRouteGet : HandlerKeeps rst org hRouteGet := by
  refine ⟨fun o p s h => ?_, fun o p s h => ?_⟩ <;> simp (maxDischargeDepth := 40) +contextual [hRouteGet, Handler.plain, Handler.work, h]

@[simp ↓] theorem keeps_hScanSet : HandlerKeeps rst org hScanSet := by
  refine ⟨fun o p s h => ?_, fun o p s h => ?_⟩ <;> dsimp only [hScanSet, Handler.plain, Handler.work] <;> (repeat' split) <;> (try exact h) <;> simp (maxDischargeDepth := 40) +contextual [h]

@[simp ↓] theorem keeps_hScanGet : HandlerKeeps rst org hScanGet := by
  refine ⟨fun o p s h => ?_, fun o p s h => ?_⟩ <;> simp (maxDischargeDepth := 40) +contextual [hScanGet, Handler.plain, Handler.work, h]

@[simp ↓] theorem keeps_hZoneSet : HandlerKeeps rst org hZoneSet := by
  refine ⟨fun o p s h => ?_, fun o p s h => ?_⟩ <;> dsimp only [hZoneSet, Handler.plain, Handler.work] <;> (repeat' split) <;> (try exact h) <;> simp (maxDischargeDepth := 40) +contextual [h]

@[simp ↓] theorem keeps_hZoneGet : HandlerKeeps rst org hZoneGet := by
  refine ⟨fun o p s h => ?_, fun o p s h => ?_⟩ <;> simp (maxDischargeDepth := 40) +contextual [hZoneGet, Handler.plain, Handler.work, h]

@[simp ↓] theorem keeps_hZoneClear : HandlerKeeps rst org hZoneClear := by
  refine ⟨fun o p s h => ?_, fun o p s h => ?_⟩ <;> dsimp only [hZoneClear, Handler.plain, Handler.work] <;> (repeat' split) <;> (try exact h) <;> simp (maxDischargeDepth := 40) +contextual [h]

@[simp ↓] theorem keeps_hTrigSet : HandlerKeeps rst org hTrigSet := by
  refine ⟨fun o p s h => ?_, fun o p s h => ?_⟩ <;> dsimp only [hTrigSet, Handler.plain, Handler.work] <;> (repeat' split) <;> (try exact h) <;> simp (maxDischargeDepth := 40) +contextual [h]

@[simp ↓] theorem keeps_hTrigGet : HandlerKeeps rst org hTrigGet := by
  refine ⟨fun o p s h => ?_, fun o p s h => ?_⟩ <;> simp (maxDischargeDepth := 40) +contextual [hTrigGet, Handler.plain, Handler.work, h]

@[simp ↓] theorem keeps_hSlotSet : HandlerKeeps rst org hSlotSet := by
  refine ⟨fun o p s h => ?_, fun o p s h => ?_⟩ <;> dsimp only [hSlotSet, Handler.plain, Handler.work] <;> (repeat' split) <;> (try exact h) <;> simp (maxDischargeDepth := 40) +contextual [h]

@[simp ↓] theorem keeps_hSlotGet : HandlerKeeps rst org hSlotGet := by
  refine ⟨fun o p s h => ?_, fun o p s h => ?_⟩ <;> simp (maxDischargeDepth := 40) +contextual [hSlotGet, Handler.plain, Handler.work, h]

@[simp ↓] theorem keeps_hCurveLoad : HandlerKeeps rst org hCurveLoad := by
  refine ⟨fun o p s h => ?_, fun o p s h => ?_⟩ <;> dsimp only [hCurveLoad, Handler.plain, Handler.work] <;> (repeat' split) <;> (try exact h) <;> simp (maxDischargeDepth := 40) +contextual [h]

@[simp ↓] theorem keeps_hAuxXptSet : HandlerKeeps rst org hAuxXptSet := by
  refine ⟨fun o p s h => ?_, fun o p s h => ?_⟩ <;> dsimp only [hAuxXptSet, Handler.plain, Handler.work] <;> (repeat' split) <;> (try exact h) <;> simp (maxDischargeDepth := 40) +contextual [h]

@[simp ↓] theorem keeps_hAuxSeqLoad : HandlerKeeps rst org hAuxSeqLoad := by
  refine ⟨fun o p s h => ?_, fun o p s h => ?_⟩ <;> dsimp only [hAuxSeqLoad, Handler.plain, Handler.work] <;> (repeat' split) <;> (try exact h) <;> simp (maxDischargeDepth := 40) +contextual [h]

@[simp ↓] theorem keeps_hAuxLimitSet : HandlerKeeps rst org hAuxLimitSet := by
  refine ⟨fun o p s h => ?_, fun o p s h => ?_⟩ <;> dsimp only [hAuxLimitSet, Handler.plain, Handler.work] <;> (repeat' split) <;> (try exact h) <;> simp (maxDischargeDepth := 40) +contextual [h]

@[simp ↓] theorem keeps_hCommit : HandlerKeeps rst org hCommit := by
  refine ⟨fun o p s h => ?_, fun o p s h => ?_⟩ <;> simp (maxDischargeDepth := 40) +contextual [hCommit, Handler.plain, Handler.work, h]

@[simp ↓] theorem keeps_hDiscard : HandlerKeeps rst org hDiscard := by
  refine ⟨fun o p s h => ?_, fun o p s h => ?_⟩ <;> simp (maxDischargeDepth := 40) +contextual [hDiscard, Handler.plain, Handler.work, h]

@[simp ↓] theorem keeps_hTackLoad : HandlerKeeps rst org hTackLoad := by
  refine ⟨fun o p s h => ?_, fun o p s h => ?_⟩ <;> simp (maxDischargeDepth := 40) +contextual [hTackLoad, Handler.plain, Handler.work, h]

@[simp ↓] theorem keeps_hTackSave : HandlerKeeps rst org hTackSave := by
  refine ⟨fun o p s h => ?_, fun o p s h => ?_⟩ <;> simp (maxDischargeDepth := 40) +contextual [hTackSave, Handler.plain, Handler.work, h]

@[simp ↓] theorem keeps_hTackErase : HandlerKeeps rst org hTackErase := by
  refine ⟨fun o p s h => ?_, fun o p s h => ?_⟩ <;> simp (maxDischargeDepth := 40) +contextual [hTackErase, Handler.plain, Handler.work, h]

@[simp ↓] theorem keeps_hTackInfo : HandlerKeeps rst org hTackInfo := by
  refine ⟨fun o p s h => ?_, fun o p s h => ?_⟩ <;> simp (maxDischargeDepth := 40) +contextual [hTackInfo, Handler.plain, Handler.work, h]

@[simp ↓] theorem keeps_hLockSet : HandlerKeeps rst org hLockSet := by
  refine ⟨fun o p s h => ?_, fun o p s h => ?_⟩ <;> simp (maxDischargeDepth := 40) +contextual [hLockSet, Handler.plain, Handler.work, h]

@[simp ↓] theorem keeps_hEmitEnable : HandlerKeeps rst org hEmitEnable := by
  refine ⟨fun o p s h => ?_, fun o p s h => ?_⟩ <;> simp (maxDischargeDepth := 40) +contextual [hEmitEnable, Handler.plain, Handler.work, h]

@[simp ↓] theorem keeps_hEmitDiag : HandlerKeeps rst org hEmitDiag := by
  refine ⟨fun o p s h => ?_, fun o p s h => ?_⟩ <;> simp (maxDischargeDepth := 40) +contextual [hEmitDiag, Handler.plain, Handler.work, h]

@[simp ↓] theorem keeps_hAcqStart : HandlerKeeps rst org hAcqStart := by
  refine ⟨fun o p s h => ?_, fun o p s h => ?_⟩ <;> dsimp only [hAcqStart, Handler.plain, Handler.work] <;> (repeat' split) <;> (try exact h) <;> simp (maxDischargeDepth := 40) +contextual [h]

@[simp ↓] theorem keeps_hAcqStop : HandlerKeeps rst org hAcqStop := by
  refine ⟨fun o p s h => ?_, fun o p s h => ?_⟩ <;> simp (maxDischargeDepth := 40) +contextual [hAcqStop, Handler.plain, Handler.work, h]

@[simp ↓] theorem keeps_hBaselineCapture : HandlerKeeps rst org hBaselineCapture := by
  refine ⟨fun o p s h => ?_, fun o p s h => ?_⟩ <;> simp (maxDischargeDepth := 40) +contextual [hBaselineCapture, Handler.plain, Handler.work, h]

@[simp ↓] theorem keeps_hChainEnumerate : HandlerKeeps rst org hChainEnumerate := by
  refine ⟨fun o p s h => ?_, fun o p s h => ?_⟩ <;> simp (maxDischargeDepth := 40) +contextual [hChainEnumerate, Handler.plain, Handler.work, h]

@[simp ↓] theorem keeps_hChainAddrSet : HandlerKeeps rst org hChainAddrSet := by
  refine ⟨fun o p s h => ?_, fun o p s h => ?_⟩ <;> simp (maxDischargeDepth := 40) +contextual [hChainAddrSet, Handler.plain, Handler.work, h]

@[simp ↓] theorem keeps_hChainDelayMeasure : HandlerKeeps rst org hChainDelayMeasure := by
  refine ⟨fun o p s h => ?_, fun o p s h => ?_⟩ <;> simp (maxDischargeDepth := 40) +contextual [hChainDelayMeasure, Handler.plain, Handler.work, h]

@[simp ↓] theorem keeps_hMemRead : HandlerKeeps rst org hMemRead := by
  refine ⟨fun o p s h => ?_, fun o p s h => ?_⟩ <;> simp (maxDischargeDepth := 40) +contextual [hMemRead, Handler.plain, Handler.work, h]

@[simp ↓] theorem keeps_hMemWrite : HandlerKeeps rst org hMemWrite := by
  refine ⟨fun o p s h => ?_, fun o p s h => ?_⟩ <;> simp (maxDischargeDepth := 40) +contextual [hMemWrite, Handler.plain, Handler.work, h]

@[simp ↓] theorem keeps_hMemFill : HandlerKeeps rst org hMemFill := by
  refine ⟨fun o p s h => ?_, fun o p s h => ?_⟩ <;> simp (maxDischargeDepth := 40) +contextual [hMemFill, Handler.plain, Handler.work, h]

@[simp ↓] theorem keeps_hDmaKick : HandlerKeeps rst org hDmaKick := by
  refine ⟨fun o p s h => ?_, fun o p s h => ?_⟩ <;> simp (maxDischargeDepth := 40) +contextual [hDmaKick, Handler.plain, Handler.work, h]

@[simp ↓] theorem keeps_hDmaAbort : HandlerKeeps rst org hDmaAbort := by
  refine ⟨fun o p s h => ?_, fun o p s h => ?_⟩ <;> simp (maxDischargeDepth := 40) +contextual [hDmaAbort, Handler.plain, Handler.work, h]

@[simp ↓] theorem keeps_hDmaStatus : HandlerKeeps rst org hDmaStatus := by
  refine ⟨fun o p s h => ?_, fun o p s h => ?_⟩ <;> simp (maxDischargeDepth := 40) +contextual [hDmaStatus, Handler.plain, Handler.work, h]

@[simp ↓] theorem keeps_takePath (w : UpdWork) (h : Keeps rst org s) : Keeps rst org (takePath w s) := by
  unfold takePath
  (repeat' split) <;> simp (maxDischargeDepth := 40) +contextual [h]

@[simp ↓] theorem keeps_leavePath (f : State → State) (h : Keeps rst org s)
    (hf : ∀ s, Keeps rst org s → Keeps rst org (f s)) : Keeps rst org (leavePath f s) := by
  unfold leavePath
  extract_lets rest t
  have h1 : Keeps rst org t := keeps_endsFor _ f (keeps_setCan _ h) hf
  clear_value t rest
  split
  · exact keeps_startSession _ h1
  · exact h1

@[simp ↓] theorem keeps_hUpdateBegin : HandlerKeeps rst org hUpdateBegin := by
  refine ⟨fun o p s h => ?_, fun o p s h => ?_⟩ <;> simp (maxDischargeDepth := 40) +contextual [hUpdateBegin, Handler.plain, Handler.work, h]

@[simp ↓] theorem keeps_hUpdateChunk : HandlerKeeps rst org hUpdateChunk := by
  refine ⟨fun o p s h => ?_, fun o p s h => ?_⟩ <;> simp (maxDischargeDepth := 40) +contextual [hUpdateChunk, Handler.plain, Handler.work, h]

@[simp ↓] theorem keeps_hUpdateEnd : HandlerKeeps rst org hUpdateEnd := by
  refine ⟨fun o p s h => ?_, fun o p s h => ?_⟩ <;> simp (maxDischargeDepth := 40) +contextual [hUpdateEnd, Handler.plain, Handler.work, h]

@[simp ↓] theorem keeps_hUpdateActivate : HandlerKeeps rst org hUpdateActivate := by
  refine ⟨fun o p s h => ?_, fun o p s h => ?_⟩ <;> simp (maxDischargeDepth := 40) +contextual [hUpdateActivate, Handler.plain, Handler.work, h]

@[simp ↓] theorem keeps_hLogRead : HandlerKeeps rst org hLogRead := by
  refine ⟨fun o p s h => ?_, fun o p s h => ?_⟩ <;> dsimp only [hLogRead, Handler.plain, Handler.work] <;> (repeat' split) <;> (try exact h) <;> simp (maxDischargeDepth := 40) +contextual [h]

@[simp ↓] theorem keeps_hLogClear : HandlerKeeps rst org hLogClear := by
  refine ⟨fun o p s h => ?_, fun o p s h => ?_⟩ <;> simp (maxDischargeDepth := 40) +contextual [hLogClear, Handler.plain, Handler.work, h]

@[simp ↓] theorem keeps_hLifetimeRead : HandlerKeeps rst org hLifetimeRead := by
  refine ⟨fun o p s h => ?_, fun o p s h => ?_⟩ <;> simp (maxDischargeDepth := 40) +contextual [hLifetimeRead, Handler.plain, Handler.work, h]

@[simp ↓] theorem keeps_hReset : HandlerKeeps rst org hReset := by
  refine ⟨fun o p s h => ?_, fun o p s h => ?_⟩ <;> simp (maxDischargeDepth := 40) +contextual [hReset, Handler.plain, Handler.work, h]

@[simp ↓] theorem keeps_hStandbyEnter : HandlerKeeps rst org hStandbyEnter := by
  refine ⟨fun o p s h => ?_, fun o p s h => ?_⟩ <;> simp (maxDischargeDepth := 40) +contextual [hStandbyEnter, Handler.plain, Handler.work, h]

@[simp ↓] theorem keeps_hHealthRead : HandlerKeeps rst org hHealthRead := by
  refine ⟨fun o p s h => ?_, fun o p s h => ?_⟩ <;> simp (maxDischargeDepth := 40) +contextual [hHealthRead, Handler.plain, Handler.work, h]

@[simp ↓] theorem keeps_hParamSet : HandlerKeeps rst org hParamSet := by
  refine ⟨fun o p s h => ?_, fun o p s h => ?_⟩ <;> simp (maxDischargeDepth := 40) +contextual [hParamSet, Handler.plain, Handler.work, h]

@[simp ↓] theorem keeps_hStreamCfg : HandlerKeeps rst org hStreamCfg := by
  refine ⟨fun o p s h => ?_, fun o p s h => ?_⟩ <;> simp (maxDischargeDepth := 40) +contextual [hStreamCfg, Handler.plain, Handler.work, h]

/-! ### Request -/

theorem keeps_handlerLow {op : Nat} {x : Handler} (hx : handlerLow op = some x) (hop : rst = false → op ≠ 9) :
    HandlerKeeps rst org x := by
  unfold handlerLow at hx
  split at hx <;> cases hx
  all_goals first
    | simp; done
    | (cases rst
       · exact absurd rfl (hop rfl)
       · exact keeps_hEventAck)

theorem keeps_handlerHigh {op : Nat} {x : Handler} (hx : handlerHigh op = some x) : HandlerKeeps rst org x := by
  unfold handlerHigh at hx
  split at hx <;> cases hx
  all_goals simp

theorem keeps_respond (o : Origin) (k : Packet) (h : Keeps rst org s) (hop : rst = false → k.opcode.toNat ≠ 9) :
    Keeps rst org (respond o k s).2 := by
  have h1 : Keeps rst org { s with drawn := s.drawn + 1 } := h
  unfold respond
  dsimp only
  split
  · exact keeps_answerNone _ _ h1
  · split
    · rename_i x hx
      refine keeps_answer _ _ _ _ h1 ?_
      unfold handlerOf at hx
      split at hx
      · exact keeps_handlerLow hx hop
      · exact keeps_handlerHigh hx
    · split <;> exact keeps_refuse _ _ _ h1

@[simp ↓] theorem keeps_store (p : Port) (e : Stored) (h : Keeps rst org s) :
    Keeps rst org (store p e s) := by
  unfold store
  split <;> simp (maxDischargeDepth := 40) +contextual [h]

@[simp ↓] theorem keeps_sendReply (o : Origin) (k : Packet) (a : BitVec 6) (r : Reply) (h : Keeps rst org s) :
    Keeps rst org (sendReply o k a r s) := by
  unfold sendReply
  split <;> simp (maxDischargeDepth := 40) +contextual [h]

@[simp ↓] theorem keeps_againDue (o : Origin) (k : Packet) (r : Reply) (h : Keeps rst org s) :
    Keeps rst org (againDue o k r s) := by
  unfold againDue
  simp (maxDischargeDepth := 40) +contextual [h]

theorem keeps_serveRequest (o : Origin) (k : Packet) (h : Keeps rst org s) (hop : rst = false → k.opcode.toNat ≠ 9) :
    Keeps rst org (serveRequest o k s) := by
  unfold serveRequest
  split
  · exact keeps_sendReply _ _ _ _ (keeps_againDue _ _ _ h)
  · exact keeps_sendReply _ _ _ _ (keeps_store _ _ (keeps_respond _ _ h hop))

@[simp ↓] theorem keeps_markClaim (k : Packet) (h : Keeps rst org s) :
    Keeps rst org (markClaim k s) := by
  unfold markClaim
  simp (maxDischargeDepth := 40) +contextual [h]

@[simp ↓] theorem keeps_arrived (k : Packet) (h : Keeps rst org s) :
    Keeps rst org (arrived k s) := by
  unfold arrived
  simp (maxDischargeDepth := 40) +contextual [h]

@[simp ↓] theorem keeps_dropOwn (k : Packet) (h : Keeps rst org s) :
    Keeps rst org (dropOwn k s) := by
  unfold dropOwn
  split <;> simp (maxDischargeDepth := 40) +contextual [h]

/-! ### Idle -/

@[simp ↓] theorem keeps_tick (h : Keeps rst org s) :
    Keeps rst org (tick s) := by
  unfold tick
  simp (maxDischargeDepth := 40) +contextual [h]

@[simp ↓] theorem keeps_drainTiming (h : Keeps rst org s) :
    Keeps rst org (drainTiming s) := by
  unfold drainTiming
  simp (maxDischargeDepth := 40) +contextual [h]

@[simp ↓] theorem keeps_drainTraining (h : Keeps rst org s) :
    Keeps rst org (drainTraining s) := by
  unfold drainTraining
  simp (maxDischargeDepth := 40) +contextual [h]

@[simp ↓] theorem keeps_idle (h : Keeps rst org s) :
    Keeps rst org (idle s) := by
  unfold idle
  simp (maxDischargeDepth := 40) +contextual [h]

end Sys2Proof.Machine
end

