-- ==== Sys2Proof/Laws/KeepsExec.lean ====
section
/-!
SUPPORT. `Keeps` of every command.
-/
namespace Sys2Proof.Machine

variable {rst : Bool} {org s nxt : State}

@[simp ↓] theorem keeps_endAwlRound (h : Keeps rst org s) : Keeps rst org (endAwlRound s) := by
  unfold endAwlRound
  split
  · exact h
  · refine keeps_ite h (keeps_planes _ (keeps_formTrims _ _ h) fun _ _ hs => ?_)
    exact keeps_ite (keeps_tellAwl _ _ (keeps_judge 15 (keeps_setCal 15 _ hs))) (keeps_judge 15 (keeps_setCal 15 _ hs))

theorem keeps_execNop (o : Origin) (p : List Word) (h : execNop o p s = .next nxt) :
    Keeps rst s nxt := by
  unfold execNop at h
  cases h
  simp (maxDischargeDepth := 40) +contextual [keeps_refl]

theorem keeps_execIdentify (o : Origin) (p : List Word) (h : execIdentify o p s = .next nxt) :
    Keeps rst s nxt := by
  unfold execIdentify at h
  cases h
  simp (maxDischargeDepth := 40) +contextual [keeps_refl]

theorem keeps_execStatus (o : Origin) (p : List Word) (h : execStatus o p s = .next nxt) :
    Keeps rst s nxt := by
  unfold execStatus at h
  cases h
  simp (maxDischargeDepth := 40) +contextual [keeps_refl]

theorem keeps_execChainLoopback (o : Origin) (p : List Word) (h : execChainLoopback o p s = .next nxt) :
    Keeps rst s nxt := by
  unfold execChainLoopback at h
  cases h
  simp (maxDischargeDepth := 40) +contextual [keeps_refl]

theorem keeps_execParamGet (o : Origin) (p : List Word) (h : execParamGet o p s = .next nxt) :
    Keeps rst s nxt := by
  unfold execParamGet at h
  cases h
  simp (maxDischargeDepth := 40) +contextual [keeps_refl]

theorem keeps_execEventRead (o : Origin) (p : List Word) (h : execEventRead o p s = .next nxt) :
    Keeps rst s nxt := by
  unfold execEventRead at h
  cases h
  simp (maxDischargeDepth := 40) +contextual [keeps_refl]

theorem keeps_execEventAck (o : Origin) (p : List Word) (h : execEventAck o p s = .next nxt) :
    Keeps true s nxt := by
  unfold execEventAck at h
  cases h
  simp (maxDischargeDepth := 40) +contextual [keeps_refl]

theorem keeps_execResult (o : Origin) (p : List Word) (h : execResult o p s = .next nxt) :
    Keeps rst s nxt := by
  unfold execResult at h
  cases h
  simp (maxDischargeDepth := 40) +contextual [keeps_refl]

theorem keeps_execOverrangeBurst (samples : List OverSample) (raman : List OverSample)
    (h : execOverrangeBurst samples raman s = .next nxt) :
    Keeps rst s nxt := by
  unfold execOverrangeBurst at h
  dsimp only at h
  (repeat' split at h) <;> cases h <;> simp (maxDischargeDepth := 40) +contextual [keeps_refl]

theorem keeps_execShadowDwellEnd (samples : List Comparison) (h : execShadowDwellEnd samples s = .next nxt) :
    Keeps rst s nxt := by
  unfold execShadowDwellEnd at h
  dsimp only at h
  (repeat' split at h) <;> cases h <;> simp (maxDischargeDepth := 40) +contextual [keeps_refl]

theorem keeps_execAdcCheckSet (o : Origin) (check : Word) (w1 : Word) (h : execAdcCheckSet o check w1 s = .next nxt) :
    Keeps rst s nxt := by
  unfold execAdcCheckSet at h
  cases h
  simp (maxDischargeDepth := 40) +contextual [keeps_refl]

theorem keeps_execAdcCheckRetire (o : Origin) (check : Word) (w1 : Word)
    (h : execAdcCheckRetire o check w1 s = .next nxt) :
    Keeps rst s nxt := by
  unfold execAdcCheckRetire at h
  cases h
  simp (maxDischargeDepth := 40) +contextual [keeps_refl]

theorem keeps_execAdcCheckRestore (o : Origin) (check : Word) (w1 : Word)
    (h : execAdcCheckRestore o check w1 s = .next nxt) :
    Keeps rst s nxt := by
  unfold execAdcCheckRestore at h
  cases h
  simp (maxDischargeDepth := 40) +contextual [keeps_refl]

theorem keeps_execAdcCheckClear (o : Origin) (check : Word) (w1 : Word)
    (h : execAdcCheckClear o check w1 s = .next nxt) :
    Keeps rst s nxt := by
  unfold execAdcCheckClear at h
  cases h
  simp (maxDischargeDepth := 40) +contextual [keeps_refl]

theorem keeps_execAuxTimerTrigger (h : execAuxTimerTrigger s = .next nxt) :
    Keeps rst s nxt := by
  unfold execAuxTimerTrigger at h
  cases h
  simp (maxDischargeDepth := 40) +contextual [keeps_refl]

theorem keeps_execAuxSettleDelayEnd (h : execAuxSettleDelayEnd s = .next nxt) :
    Keeps rst s nxt := by
  unfold execAuxSettleDelayEnd at h
  cases h
  simp (maxDischargeDepth := 40) +contextual [keeps_refl]

theorem keeps_execAuxConversionEnd (smp : AuxSample) (h : execAuxConversionEnd smp s = .next nxt) :
    Keeps rst s nxt := by
  unfold execAuxConversionEnd at h
  cases h
  simp (maxDischargeDepth := 40) +contextual [keeps_refl]

theorem keeps_execAuxRead (o : Origin) (p : List Word) (h : execAuxRead o p s = .next nxt) :
    Keeps rst s nxt := by
  unfold execAuxRead at h
  cases h
  simp (maxDischargeDepth := 40) +contextual [keeps_refl]

theorem keeps_execStreamTrain (o : Origin) (p : List Word) (h : execStreamTrain o p s = .next nxt) :
    Keeps rst s nxt := by
  unfold execStreamTrain at h
  cases h
  simp (maxDischargeDepth := 40) +contextual [keeps_refl]

theorem keeps_execLatFcLock (h : execLatFcLock s = .next nxt) :
    Keeps rst s nxt := by
  unfold execLatFcLock at h
  cases h
  simp (maxDischargeDepth := 40) +contextual [keeps_refl]

theorem keeps_execLatFcLoss (h : execLatFcLoss s = .next nxt) :
    Keeps rst s nxt := by
  unfold execLatFcLoss at h
  cases h
  simp (maxDischargeDepth := 40) +contextual [keeps_refl]

theorem keeps_execLatFcTrainingStatus (laneOk : BitVec 8) (h : execLatFcTrainingStatus laneOk s = .next nxt) :
    Keeps rst s nxt := by
  unfold execLatFcTrainingStatus at h
  dsimp only at h
  (repeat' split at h) <;> cases h <;> simp (maxDischargeDepth := 40) +contextual [keeps_refl]

theorem keeps_execStreamTrainingTimeout (h : execStreamTrainingTimeout s = .next nxt) : Keeps rst s nxt := by
  unfold execStreamTrainingTimeout at h
  split at h <;> cases h <;> simp (maxDischargeDepth := 40) [keeps_refl]

theorem keeps_execCreditGrant (n : Nat) (h : execCreditGrant n s = .next nxt) : Keeps rst s nxt := by
  unfold execCreditGrant at h
  split at h <;> cases h <;> simp (maxDischargeDepth := 40) [keeps_refl]

theorem keeps_execCreditStallTimeout (h : execCreditStallTimeout s = .next nxt) :
    Keeps rst s nxt := by
  unfold execCreditStallTimeout at h
  cases h
  simp (maxDischargeDepth := 40) +contextual [keeps_refl]

theorem keeps_execFrameSend (h : execFrameSend s = .next nxt) :
    Keeps rst s nxt := by
  unfold execFrameSend at h
  cases h
  dsimp only
  (repeat' split) <;> simp (maxDischargeDepth := 40) +contextual [keeps_refl]

theorem keeps_execIdleFrameTimeout (h : execIdleFrameTimeout s = .next nxt) :
    Keeps rst s nxt := by
  unfold execIdleFrameTimeout at h
  cases h
  simp (maxDischargeDepth := 40) +contextual [keeps_refl]

theorem keeps_execStatusFrameTimer (h : execStatusFrameTimer s = .next nxt) :
    Keeps rst s nxt := by
  unfold execStatusFrameTimer at h
  cases h
  simp (maxDischargeDepth := 40) +contextual [keeps_refl]

theorem keeps_execDropFrameTimer (h : execDropFrameTimer s = .next nxt) :
    Keeps rst s nxt := by
  unfold execDropFrameTimer at h
  cases h
  simp (maxDischargeDepth := 40) +contextual [keeps_refl]

theorem keeps_execEnvelopeIntervalEnd (d : Side) (h : execEnvelopeIntervalEnd d s = .next nxt) :
    Keeps rst s nxt := by
  unfold execEnvelopeIntervalEnd at h
  cases h
  simp (maxDischargeDepth := 40) +contextual [keeps_refl]

theorem keeps_execGirthEvaluation (h : execGirthEvaluation s = .next nxt) :
    Keeps rst s nxt := by
  unfold execGirthEvaluation at h
  cases h
  dsimp only
  split <;> simp (maxDischargeDepth := 40) +contextual [keeps_refl]

theorem keeps_execHoldoffElapsed (z : ℕ) (h : execHoldoffElapsed z s = .next nxt) :
    Keeps rst s nxt := by
  unfold execHoldoffElapsed at h
  cases h
  simp (maxDischargeDepth := 40) +contextual [keeps_refl]

theorem keeps_execAutoTimeout (d : Side) (h : execAutoTimeout d s = .next nxt) :
    Keeps rst s nxt := by
  unfold execAutoTimeout at h
  cases h
  simp (maxDischargeDepth := 40) +contextual [keeps_refl]

theorem keeps_execArm (o : Origin) (p : List Word) (h : execArm o p s = .next nxt) :
    Keeps rst s nxt := by
  unfold execArm at h
  cases h
  simp (maxDischargeDepth := 40) +contextual [keeps_refl]

theorem keeps_execDisarm (o : Origin) (p : List Word) (h : execDisarm o p s = .next nxt) :
    Keeps rst s nxt := by
  unfold execDisarm at h
  cases h
  simp (maxDischargeDepth := 40) +contextual [keeps_refl]

theorem keeps_execForce (o : Origin) (p : List Word) (h : execForce o p s = .next nxt) :
    Keeps rst s nxt := by
  unfold execForce at h
  cases h
  simp (maxDischargeDepth := 40) +contextual [keeps_refl]

theorem keeps_execRamanShot (d : Side) (trace : List RamanSample) (h : execRamanShot d trace s = .next nxt) :
    Keeps rst s nxt := by
  unfold execRamanShot at h
  dsimp only at h
  (repeat' split at h) <;> cases h <;> simp (maxDischargeDepth := 40) +contextual [keeps_refl]

theorem keeps_execThermalParkingDone (d : Side) (eccBad : Bool) (h : execThermalParkingDone d eccBad s = .next nxt) :
    Keeps rst s nxt := by
  unfold execThermalParkingDone at h
  cases h
  dsimp only
  (repeat' split) <;> simp (maxDischargeDepth := 40) +contextual [keeps_refl]

theorem keeps_execAccumulationComplete (d : Side) (h : execAccumulationComplete d s = .next nxt) :
    Keeps rst s nxt := by
  unfold execAccumulationComplete at h
  cases h
  simp (maxDischargeDepth := 40) +contextual [keeps_refl]

theorem keeps_execThermalComputationDone (d : Side) (h : execThermalComputationDone d s = .next nxt) :
    Keeps rst s nxt := by
  unfold execThermalComputationDone at h
  dsimp only at h
  (repeat' split at h) <;> cases h <;> simp (maxDischargeDepth := 40) +contextual [keeps_refl]

theorem keeps_execDtsRefSet (o : Origin) (p : List Word) (h : execDtsRefSet o p s = .next nxt) :
    Keeps rst s nxt := by
  unfold execDtsRefSet at h
  cases h
  simp (maxDischargeDepth := 40) +contextual [keeps_refl]

theorem keeps_execPpsEdge (falling : Bool) (h : execPpsEdge falling s = .next nxt) :
    Keeps rst s nxt := by
  unfold execPpsEdge at h
  cases h
  (repeat' split) <;> simp (maxDischargeDepth := 40) +contextual [keeps_refl]

theorem keeps_execPpsAbsentTimeout (h : execPpsAbsentTimeout s = .next nxt) :
    Keeps rst s nxt := by
  unfold execPpsAbsentTimeout at h
  cases h
  simp (maxDischargeDepth := 40) +contextual [keeps_refl]

theorem keeps_execRef10Present (h : execRef10Present s = .next nxt) :
    Keeps rst s nxt := by
  unfold execRef10Present at h
  cases h
  simp (maxDischargeDepth := 40) +contextual [keeps_refl]

theorem keeps_execRef10Absent (h : execRef10Absent s = .next nxt) :
    Keeps rst s nxt := by
  unfold execRef10Absent at h
  cases h
  simp (maxDischargeDepth := 40) +contextual [keeps_refl]

theorem keeps_execRef10GateEnd (error : ℤ) (h : execRef10GateEnd error s = .next nxt) :
    Keeps rst s nxt := by
  unfold execRef10GateEnd at h
  cases h
  simp (maxDischargeDepth := 40) +contextual [keeps_refl]

theorem keeps_execTimeBaseSecond (h : execTimeBaseSecond s = .next nxt) :
    Keeps rst s nxt := by
  unfold execTimeBaseSecond at h
  cases h
  dsimp only
  (repeat' split) <;> simp (maxDischargeDepth := 40) +contextual [keeps_refl]

theorem keeps_execAgeingDay (h : execAgeingDay s = .next nxt) :
    Keeps rst s nxt := by
  unfold execAgeingDay at h
  cases h
  simp (maxDischargeDepth := 40) +contextual [keeps_refl]

theorem keeps_execTimeSetImmediate (o : Origin) (tag : Word) (w1 : Word)
    (h : execTimeSetImmediate o tag w1 s = .next nxt) :
    Keeps rst s nxt := by
  unfold execTimeSetImmediate at h
  cases h
  simp (maxDischargeDepth := 40) +contextual [keeps_refl]

theorem keeps_execTimeSetNextPps (o : Origin) (tag : Word) (w1 : Word)
    (h : execTimeSetNextPps o tag w1 s = .next nxt) :
    Keeps rst s nxt := by
  unfold execTimeSetNextPps at h
  cases h
  simp (maxDischargeDepth := 40) +contextual [keeps_refl]

theorem keeps_execTimeSetChainSync (o : Origin) (tag : Word) (w1 : Word)
    (h : execTimeSetChainSync o tag w1 s = .next nxt) :
    Keeps rst s nxt := by
  unfold execTimeSetChainSync at h
  cases h
  simp (maxDischargeDepth := 40) +contextual [keeps_refl]

theorem keeps_execTimeLoadTimeout (h : execTimeLoadTimeout s = .next nxt) :
    Keeps rst s nxt := by
  unfold execTimeLoadTimeout at h
  cases h
  simp (maxDischargeDepth := 40) +contextual [keeps_refl]

theorem keeps_execTimeGet (o : Origin) (p : List Word) (h : execTimeGet o p s = .next nxt) :
    Keeps rst s nxt := by
  unfold execTimeGet at h
  cases h
  simp (maxDischargeDepth := 40) +contextual [keeps_refl]

theorem keeps_execTbSelect (o : Origin) (p : List Word) (h : execTbSelect o p s = .next nxt) :
    Keeps rst s nxt := by
  unfold execTbSelect at h
  cases h
  simp (maxDischargeDepth := 40) +contextual [keeps_refl]

theorem keeps_execTinEdge (n : ℕ) (falling : Bool) (h : execTinEdge n falling s = .next nxt) :
    Keeps rst s nxt := by
  unfold execTinEdge at h
  cases h
  simp (maxDischargeDepth := 40) +contextual [keeps_refl]

theorem keeps_execAwlConversionDone (n : ℕ) (count : ℕ) (h : execAwlConversionDone n count s = .next nxt) :
    Keeps rst s nxt := by
  unfold execAwlConversionDone at h
  cases h
  dsimp only
  split <;> simp (maxDischargeDepth := 40) +contextual [keeps_refl]

theorem keeps_execAwlPairTakeover (n : ℕ) (h : execAwlPairTakeover n s = .next nxt) :
    Keeps rst s nxt := by
  unfold execAwlPairTakeover at h
  cases h
  simp (maxDischargeDepth := 40) +contextual [keeps_refl]

theorem keeps_execTdcRead (o : Origin) (p : List Word) (h : execTdcRead o p s = .next nxt) :
    Keeps rst s nxt := by
  unfold execTdcRead at h
  cases h
  simp (maxDischargeDepth := 40) +contextual [keeps_refl]

theorem keeps_execTdcCfg (o : Origin) (p : List Word) (h : execTdcCfg o p s = .next nxt) :
    Keeps rst s nxt := by
  unfold execTdcCfg at h
  cases h
  simp (maxDischargeDepth := 40) +contextual [keeps_refl]

theorem keeps_execCalDriftCheck (temps : List Int) (h : execCalDriftCheck temps s = .next nxt) :
    Keeps rst s nxt := by
  unfold execCalDriftCheck at h
  cases h
  refine keeps_ite (keeps_refl _ _) (keeps_foldl _ _ (keeps_refl _ _) fun a g ha => ?_)
  split
  · exact keeps_ite (keeps_setFigure _ _ _ ha) ha
  · exact ha

theorem keeps_execCalRun (o : Origin) (p : List Word) (h : execCalRun o p s = .next nxt) :
    Keeps rst s nxt := by
  unfold execCalRun at h
  cases h
  simp (maxDischargeDepth := 40) +contextual [keeps_refl]

theorem keeps_execCalRunDone (h : execCalRunDone s = .next nxt) :
    Keeps rst s nxt := by
  unfold execCalRunDone at h
  cases h
  simp (maxDischargeDepth := 40) +contextual [keeps_refl]

theorem keeps_execBackgroundSliceTrim (n : ℕ) (trims : List Word) (figures : List ℕ)
    (h : execBackgroundSliceTrim n trims figures s = .next nxt) :
    Keeps rst s nxt := by
  unfold execBackgroundSliceTrim at h
  cases h
  simp (maxDischargeDepth := 40) +contextual [keeps_refl]

theorem keeps_execSliceSwap (n : ℕ) (h : execSliceSwap n s = .next nxt) :
    Keeps rst s nxt := by
  unfold execSliceSwap at h
  cases h
  dsimp only
  split <;> simp (maxDischargeDepth := 40) +contextual [keeps_refl]

theorem keeps_execAwlBackgroundCal (rings : List (ℕ × ℕ)) (nonlinearity : ℕ)
    (h : execAwlBackgroundCal rings nonlinearity s = .next nxt) :
    Keeps rst s nxt := by
  unfold execAwlBackgroundCal at h
  cases h
  simp (maxDischargeDepth := 40) +contextual [keeps_refl]

theorem keeps_execBackgroundRamanOffset (d : Side) (trims : List Word)
    (h : execBackgroundRamanOffset d trims s = .next nxt) :
    Keeps rst s nxt := by
  unfold execBackgroundRamanOffset at h
  cases h
  simp (maxDischargeDepth := 40) +contextual [keeps_refl]

theorem keeps_execCalRead (o : Origin) (p : List Word) (h : execCalRead o p s = .next nxt) :
    Keeps rst s nxt := by
  unfold execCalRead at h
  cases h
  simp (maxDischargeDepth := 40) +contextual [keeps_refl]

theorem keeps_execCalWrite (o : Origin) (p : List Word) (h : execCalWrite o p s = .next nxt) :
    Keeps rst s nxt := by
  unfold execCalWrite at h
  cases h
  simp (maxDischargeDepth := 40) +contextual [keeps_refl]

theorem keeps_execCalQuality (o : Origin) (p : List Word) (h : execCalQuality o p s = .next nxt) :
    Keeps rst s nxt := by
  unfold execCalQuality at h
  cases h
  simp (maxDischargeDepth := 40) +contextual [keeps_refl]

theorem keeps_execDeltaTraceForm (d : Side) (h : execDeltaTraceForm d s = .next nxt) :
    Keeps rst s nxt := by
  unfold execDeltaTraceForm at h
  cases h
  simp (maxDischargeDepth := 40) +contextual [keeps_refl]

theorem keeps_execHistoryDump (o : Origin) (p : List Word) (h : execHistoryDump o p s = .next nxt) :
    Keeps rst s nxt := by
  unfold execHistoryDump at h
  cases h
  simp (maxDischargeDepth := 40) +contextual [keeps_refl]

theorem keeps_execHistoryDumpDone (h : execHistoryDumpDone s = .next nxt) :
    Keeps rst s nxt := by
  unfold execHistoryDumpDone at h
  cases h
  dsimp only
  split <;> simp (maxDischargeDepth := 40) +contextual [keeps_refl]

theorem keeps_execDigestPeriod (d : Side) (h : execDigestPeriod d s = .next nxt) :
    Keeps rst s nxt := by
  unfold execDigestPeriod at h
  cases h
  simp (maxDischargeDepth := 40) +contextual [keeps_refl]

theorem keeps_execRouteSet (o : Origin) (p : List Word) (h : execRouteSet o p s = .next nxt) :
    Keeps rst s nxt := by
  unfold execRouteSet at h
  cases h
  simp (maxDischargeDepth := 40) +contextual [keeps_refl]

theorem keeps_execRouteGet (o : Origin) (p : List Word) (h : execRouteGet o p s = .next nxt) :
    Keeps rst s nxt := by
  unfold execRouteGet at h
  cases h
  simp (maxDischargeDepth := 40) +contextual [keeps_refl]

theorem keeps_execScanSet (o : Origin) (p : List Word) (h : execScanSet o p s = .next nxt) :
    Keeps rst s nxt := by
  unfold execScanSet at h
  cases h
  simp (maxDischargeDepth := 40) +contextual [keeps_refl]

theorem keeps_execScanGet (o : Origin) (p : List Word) (h : execScanGet o p s = .next nxt) :
    Keeps rst s nxt := by
  unfold execScanGet at h
  cases h
  simp (maxDischargeDepth := 40) +contextual [keeps_refl]

theorem keeps_execZoneSet (o : Origin) (p : List Word) (h : execZoneSet o p s = .next nxt) :
    Keeps rst s nxt := by
  unfold execZoneSet at h
  cases h
  simp (maxDischargeDepth := 40) +contextual [keeps_refl]

theorem keeps_execZoneGet (o : Origin) (p : List Word) (h : execZoneGet o p s = .next nxt) :
    Keeps rst s nxt := by
  unfold execZoneGet at h
  cases h
  simp (maxDischargeDepth := 40) +contextual [keeps_refl]

theorem keeps_execZoneClear (o : Origin) (p : List Word) (h : execZoneClear o p s = .next nxt) :
    Keeps rst s nxt := by
  unfold execZoneClear at h
  cases h
  simp (maxDischargeDepth := 40) +contextual [keeps_refl]

theorem keeps_execTrigSet (o : Origin) (p : List Word) (h : execTrigSet o p s = .next nxt) :
    Keeps rst s nxt := by
  unfold execTrigSet at h
  cases h
  simp (maxDischargeDepth := 40) +contextual [keeps_refl]

theorem keeps_execTrigGet (o : Origin) (p : List Word) (h : execTrigGet o p s = .next nxt) :
    Keeps rst s nxt := by
  unfold execTrigGet at h
  cases h
  simp (maxDischargeDepth := 40) +contextual [keeps_refl]

theorem keeps_execSlotSet (o : Origin) (p : List Word) (h : execSlotSet o p s = .next nxt) :
    Keeps rst s nxt := by
  unfold execSlotSet at h
  cases h
  simp (maxDischargeDepth := 40) +contextual [keeps_refl]

theorem keeps_execSlotGet (o : Origin) (p : List Word) (h : execSlotGet o p s = .next nxt) :
    Keeps rst s nxt := by
  unfold execSlotGet at h
  cases h
  simp (maxDischargeDepth := 40) +contextual [keeps_refl]

theorem keeps_execCurveLoad (o : Origin) (p : List Word) (h : execCurveLoad o p s = .next nxt) :
    Keeps rst s nxt := by
  unfold execCurveLoad at h
  cases h
  simp (maxDischargeDepth := 40) +contextual [keeps_refl]

theorem keeps_execAuxXptSet (o : Origin) (p : List Word) (h : execAuxXptSet o p s = .next nxt) :
    Keeps rst s nxt := by
  unfold execAuxXptSet at h
  cases h
  simp (maxDischargeDepth := 40) +contextual [keeps_refl]

theorem keeps_execAuxSeqLoad (o : Origin) (p : List Word) (h : execAuxSeqLoad o p s = .next nxt) :
    Keeps rst s nxt := by
  unfold execAuxSeqLoad at h
  cases h
  simp (maxDischargeDepth := 40) +contextual [keeps_refl]

theorem keeps_execAuxLimitSet (o : Origin) (p : List Word) (h : execAuxLimitSet o p s = .next nxt) :
    Keeps rst s nxt := by
  unfold execAuxLimitSet at h
  cases h
  simp (maxDischargeDepth := 40) +contextual [keeps_refl]

theorem keeps_execCommit (o : Origin) (p : List Word) (h : execCommit o p s = .next nxt) :
    Keeps rst s nxt := by
  unfold execCommit at h
  cases h
  simp (maxDischargeDepth := 40) +contextual [keeps_refl]

theorem keeps_execCommitValidationDone (h : execCommitValidationDone s = .next nxt) :
    Keeps rst s nxt := by
  unfold execCommitValidationDone at h
  cases h
  dsimp only
  split <;> simp (maxDischargeDepth := 40) +contextual [keeps_refl]

theorem keeps_execDiscard (o : Origin) (p : List Word) (h : execDiscard o p s = .next nxt) :
    Keeps rst s nxt := by
  unfold execDiscard at h
  cases h
  simp (maxDischargeDepth := 40) +contextual [keeps_refl]

theorem keeps_execTackLoad (o : Origin) (p : List Word) (h : execTackLoad o p s = .next nxt) :
    Keeps rst s nxt := by
  unfold execTackLoad at h
  cases h
  simp (maxDischargeDepth := 40) +contextual [keeps_refl]

theorem keeps_execTackSave (o : Origin) (p : List Word) (h : execTackSave o p s = .next nxt) :
    Keeps rst s nxt := by
  unfold execTackSave at h
  cases h
  simp (maxDischargeDepth := 40) +contextual [keeps_refl]

theorem keeps_execTackSaveDone (readBackOk : Bool) (h : execTackSaveDone readBackOk s = .next nxt) :
    Keeps rst s nxt := by
  unfold execTackSaveDone at h
  cases h
  dsimp only
  split <;> simp (maxDischargeDepth := 40) +contextual [keeps_refl]

theorem keeps_execTackErase (o : Origin) (p : List Word) (h : execTackErase o p s = .next nxt) :
    Keeps rst s nxt := by
  unfold execTackErase at h
  cases h
  simp (maxDischargeDepth := 40) +contextual [keeps_refl]

theorem keeps_execTackEraseDone (h : execTackEraseDone s = .next nxt) :
    Keeps rst s nxt := by
  unfold execTackEraseDone at h
  cases h
  dsimp only
  split <;> simp (maxDischargeDepth := 40) +contextual [keeps_refl]

theorem keeps_execTackInfo (o : Origin) (p : List Word) (h : execTackInfo o p s = .next nxt) :
    Keeps rst s nxt := by
  unfold execTackInfo at h
  cases h
  simp (maxDischargeDepth := 40) +contextual [keeps_refl]

theorem keeps_execGateLoadFault (d : Side) (short : Bool) (h : execGateLoadFault d short s = .next nxt) :
    Keeps rst s nxt := by
  unfold execGateLoadFault at h
  cases h
  dsimp only
  split <;> simp (maxDischargeDepth := 40) +contextual [keeps_refl]

theorem keeps_execDacFault (d : Side) (q : Bool) (h : execDacFault d q s = .next nxt) :
    Keeps rst s nxt := by
  unfold execDacFault at h
  cases h
  simp (maxDischargeDepth := 40) +contextual [keeps_refl]

theorem keeps_execLaserEnFall (widthNs : ℕ) (h : execLaserEnFall widthNs s = .next nxt) :
    Keeps rst s nxt := by
  unfold execLaserEnFall at h
  cases h
  simp (maxDischargeDepth := 40) +contextual [keeps_refl]

theorem keeps_execLaserEnRise (h : execLaserEnRise s = .next nxt) :
    Keeps rst s nxt := by
  unfold execLaserEnRise at h
  cases h
  simp (maxDischargeDepth := 40) +contextual [keeps_refl]

theorem keeps_execGatePulseEnd (d : Side) (heldNs : ℕ) (energy : ℕ)
    (h : execGatePulseEnd d heldNs energy s = .next nxt) :
    Keeps rst s nxt := by
  unfold execGatePulseEnd at h
  cases h
  dsimp only
  split <;> simp (maxDischargeDepth := 40) +contextual [keeps_refl]

theorem keeps_execProofPulse (d : Side) (h : execProofPulse d s = .next nxt) :
    Keeps rst s nxt := by
  unfold execProofPulse at h
  cases h
  simp (maxDischargeDepth := 40) +contextual [keeps_refl]

theorem keeps_execShotGroupBoundary (d : Side) (h : execShotGroupBoundary d s = .next nxt) :
    Keeps rst s nxt := by
  unfold execShotGroupBoundary at h
  cases h
  simp (maxDischargeDepth := 40) +contextual [keeps_refl]

theorem keeps_execLaunchGroupLaunch (d : Side) (h : execLaunchGroupLaunch d s = .next nxt) :
    Keeps rst s nxt := by
  unfold execLaunchGroupLaunch at h
  cases h
  simp (maxDischargeDepth := 40) +contextual [keeps_refl]

theorem keeps_execLaunchEdge (d : Side) (h : execLaunchEdge d s = .next nxt) :
    Keeps rst s nxt := by
  unfold execLaunchEdge at h
  cases h
  simp (maxDischargeDepth := 40) +contextual [keeps_refl]

theorem keeps_execLaunchMissing (d : Side) (h : execLaunchMissing d s = .next nxt) :
    Keeps rst s nxt := by
  unfold execLaunchMissing at h
  cases h
  split <;> simp (maxDischargeDepth := 40) +contextual [keeps_refl]

theorem keeps_execRouteBlankingStart (d : Side) (h : execRouteBlankingStart d s = .next nxt) :
    Keeps rst s nxt := by
  unfold execRouteBlankingStart at h
  cases h
  (repeat' split) <;> simp (maxDischargeDepth := 40) +contextual [keeps_refl]

theorem keeps_execSwitchStrobe (d : Side) (h : execSwitchStrobe d s = .next nxt) :
    Keeps rst s nxt := by
  unfold execSwitchStrobe at h
  cases h
  simp (maxDischargeDepth := 40) +contextual [keeps_refl]

theorem keeps_execRouteBlankingEnd (d : Side) (h : execRouteBlankingEnd d s = .next nxt) :
    Keeps rst s nxt := by
  unfold execRouteBlankingEnd at h
  cases h
  simp (maxDischargeDepth := 40) +contextual [keeps_refl]

theorem keeps_execSettlePeriodEnd (d : Side) (lanes : List (List ℤ)) (h : execSettlePeriodEnd d lanes s = .next nxt) :
    Keeps rst s nxt := by
  unfold execSettlePeriodEnd at h
  cases h
  simp (maxDischargeDepth := 40) +contextual [keeps_refl]

theorem keeps_execAprActivation (d : Side) (h : execAprActivation d s = .next nxt) :
    Keeps rst s nxt := by
  unfold execAprActivation at h
  cases h
  simp (maxDischargeDepth := 40) +contextual [keeps_refl]

theorem keeps_execWavelockAcquired (d : Side) (h : execWavelockAcquired d s = .next nxt) :
    Keeps rst s nxt := by
  unfold execWavelockAcquired at h
  cases h
  simp (maxDischargeDepth := 40) +contextual [keeps_refl]

theorem keeps_execWavelockLost (d : Side) (h : execWavelockLost d s = .next nxt) :
    Keeps rst s nxt := by
  unfold execWavelockLost at h
  cases h
  simp (maxDischargeDepth := 40) +contextual [keeps_refl]

theorem keeps_execLbiasLimitReached (d : Side) (upper : Bool) (h : execLbiasLimitReached d upper s = .next nxt) :
    Keeps rst s nxt := by
  unfold execLbiasLimitReached at h
  cases h
  simp (maxDischargeDepth := 40) +contextual [keeps_refl]

theorem keeps_execTecLimitReached (d : Side) (upper : Bool) (h : execTecLimitReached d upper s = .next nxt) :
    Keeps rst s nxt := by
  unfold execTecLimitReached at h
  cases h
  simp (maxDischargeDepth := 40) +contextual [keeps_refl]

theorem keeps_execLockSetOff (o : Origin) (w : Word) (h : execLockSetOff o w s = .next nxt) :
    Keeps rst s nxt := by
  unfold execLockSetOff at h
  cases h
  simp (maxDischargeDepth := 40) +contextual [keeps_refl]

theorem keeps_execLockSetOn (o : Origin) (w : Word) (h : execLockSetOn o w s = .next nxt) :
    Keeps rst s nxt := by
  unfold execLockSetOn at h
  cases h
  simp (maxDischargeDepth := 40) +contextual [keeps_refl]

theorem keeps_execLockSetManual (o : Origin) (w : Word) (h : execLockSetManual o w s = .next nxt) :
    Keeps rst s nxt := by
  unfold execLockSetManual at h
  cases h
  simp (maxDischargeDepth := 40) +contextual [keeps_refl]

theorem keeps_execEmitEnable (o : Origin) (p : List Word) (h : execEmitEnable o p s = .next nxt) :
    Keeps rst s nxt := by
  unfold execEmitEnable at h
  cases h
  simp (maxDischargeDepth := 40) +contextual [keeps_refl]

theorem keeps_execEmitDiagRead (o : Origin) (w : Word) (h : execEmitDiagRead o w s = .next nxt) :
    Keeps rst s nxt := by
  unfold execEmitDiagRead at h
  cases h
  simp (maxDischargeDepth := 40) +contextual [keeps_refl]

theorem keeps_execEmitDiagProof (o : Origin) (w : Word) (h : execEmitDiagProof o w s = .next nxt) :
    Keeps rst s nxt := by
  unfold execEmitDiagProof at h
  cases h
  simp (maxDischargeDepth := 40) +contextual [keeps_refl]

theorem keeps_execAcqStart (o : Origin) (p : List Word) (h : execAcqStart o p s = .next nxt) :
    Keeps rst s nxt := by
  unfold execAcqStart at h
  cases h
  simp (maxDischargeDepth := 40) +contextual [keeps_refl]

theorem keeps_execAcqStop (o : Origin) (p : List Word) (h : execAcqStop o p s = .next nxt) :
    Keeps rst s nxt := by
  unfold execAcqStop at h
  cases h
  simp (maxDischargeDepth := 40) +contextual [keeps_refl]

theorem keeps_execAcqStopped (d : Side) (h : execAcqStopped d s = .next nxt) :
    Keeps rst s nxt := by
  unfold execAcqStopped at h
  cases h
  simp (maxDischargeDepth := 40) +contextual [keeps_refl]

theorem keeps_execCurrierShotOutput (d : Side) (data : ShotData) (h : execCurrierShotOutput d data s = .next nxt) :
    Keeps rst s nxt := by
  unfold execCurrierShotOutput at h
  cases h
  dsimp only
  split <;> simp (maxDischargeDepth := 40) +contextual [keeps_refl]

theorem keeps_execBaselineCapture (o : Origin) (p : List Word) (h : execBaselineCapture o p s = .next nxt) :
    Keeps rst s nxt := by
  unfold execBaselineCapture at h
  cases h
  simp (maxDischargeDepth := 40) +contextual [keeps_refl]

theorem keeps_execBaselineCaptureDone (r : ℕ) (h : execBaselineCaptureDone r s = .next nxt) :
    Keeps rst s nxt := by
  unfold execBaselineCaptureDone at h
  cases h
  simp (maxDischargeDepth := 40) +contextual [keeps_refl]

theorem keeps_execHarnessCommaReceived (p : HPort) (h : execHarnessCommaReceived p s = .next nxt) :
    Keeps rst s nxt := by
  unfold execHarnessCommaReceived at h
  cases h
  simp (maxDischargeDepth := 40) +contextual [keeps_refl]

theorem keeps_execHarnessLinkLock (p : HPort) (h : execHarnessLinkLock p s = .next nxt) :
    Keeps rst s nxt := by
  unfold execHarnessLinkLock at h
  cases h
  simp (maxDischargeDepth := 40) +contextual [keeps_refl]

theorem keeps_execHarnessLinkLoss (p : HPort) (h : execHarnessLinkLoss p s = .next nxt) :
    Keeps rst s nxt := by
  unfold execHarnessLinkLoss at h
  cases h
  dsimp only
  (repeat' split) <;> simp (maxDischargeDepth := 40) +contextual [keeps_refl]

theorem keeps_execReplyPassingUp (k : Packet) (h : execReplyPassingUp k s = .next nxt) :
    Keeps rst s nxt := by
  unfold execReplyPassingUp at h
  cases h
  simp (maxDischargeDepth := 40) +contextual [keeps_refl]

theorem keeps_execChainEnumerate (o : Origin) (p : List Word) (h : execChainEnumerate o p s = .next nxt) :
    Keeps rst s nxt := by
  unfold execChainEnumerate at h
  cases h
  simp (maxDischargeDepth := 40) +contextual [keeps_refl]

theorem keeps_execChainAddrSet (o : Origin) (p : List Word) (h : execChainAddrSet o p s = .next nxt) :
    Keeps rst s nxt := by
  unfold execChainAddrSet at h
  cases h
  simp (maxDischargeDepth := 40) +contextual [keeps_refl]

theorem keeps_execChainDelayMeasure (o : Origin) (p : List Word) (h : execChainDelayMeasure o p s = .next nxt) :
    Keeps rst s nxt := by
  unfold execChainDelayMeasure at h
  cases h
  simp (maxDischargeDepth := 40) +contextual [keeps_refl]

theorem keeps_execChainDelayMeasureDone (meanRoundTrip : ℕ)
    (h : execChainDelayMeasureDone meanRoundTrip s = .next nxt) :
    Keeps rst s nxt := by
  unfold execChainDelayMeasureDone at h
  cases h
  simp (maxDischargeDepth := 40) +contextual [keeps_refl]

theorem keeps_execDelayProbeReceived (h : execDelayProbeReceived s = .next nxt) :
    Keeps rst s nxt := by
  unfold execDelayProbeReceived at h
  cases h
  simp (maxDischargeDepth := 40) +contextual [keeps_refl]

theorem keeps_execHopDelayUpReceived (delay : BitVec 32) (h : execHopDelayUpReceived delay s = .next nxt) :
    Keeps rst s nxt := by
  unfold execHopDelayUpReceived at h
  cases h
  simp (maxDischargeDepth := 40) +contextual [keeps_refl]

theorem keeps_execArmSymbolReceived (p : HPort) (t : TimingSym) (h : execArmSymbolReceived p t s = .next nxt) :
    Keeps rst s nxt := by
  unfold execArmSymbolReceived at h
  cases h
  simp (maxDischargeDepth := 40) +contextual [keeps_refl]

theorem keeps_execFireSymbolReceived (p : HPort) (t : TimingSym) (h : execFireSymbolReceived p t s = .next nxt) :
    Keeps rst s nxt := by
  unfold execFireSymbolReceived at h
  cases h
  simp (maxDischargeDepth := 40) +contextual [keeps_refl]

theorem keeps_execSyncSymbolReceived (p : HPort) (t : TimingSym) (h : execSyncSymbolReceived p t s = .next nxt) :
    Keeps rst s nxt := by
  unfold execSyncSymbolReceived at h
  cases h
  simp (maxDischargeDepth := 40) +contextual [keeps_refl]

theorem keeps_execTimingSymbolDiscard (p : HPort) (h : execTimingSymbolDiscard p s = .next nxt) :
    Keeps rst s nxt := by
  unfold execTimingSymbolDiscard at h
  cases h
  simp (maxDischargeDepth := 40) +contextual [keeps_refl]

theorem keeps_execPllChangeTimeout (h : execPllChangeTimeout s = .next nxt) :
    Keeps rst s nxt := by
  unfold execPllChangeTimeout at h
  cases h
  split <;> simp (maxDischargeDepth := 40) +contextual [keeps_refl]

theorem keeps_execRefChoice (refclkSeen : Bool) (freqCode : ℕ) (h : execRefChoice refclkSeen freqCode s = .next nxt) :
    Keeps rst s nxt := by
  unfold execRefChoice at h
  cases h
  simp (maxDischargeDepth := 40) +contextual [keeps_refl]

theorem keeps_execPllPhaseErrorLoss (h : execPllPhaseErrorLoss s = .next nxt) :
    Keeps rst s nxt := by
  unfold execPllPhaseErrorLoss at h
  cases h
  simp (maxDischargeDepth := 40) +contextual [keeps_refl]

theorem keeps_execPllRefEdgesMissing (h : execPllRefEdgesMissing s = .next nxt) :
    Keeps rst s nxt := by
  unfold execPllRefEdgesMissing at h
  cases h
  split <;> simp (maxDischargeDepth := 40) +contextual [keeps_refl]

theorem keeps_execPllRefPresent (h : execPllRefPresent s = .next nxt) :
    Keeps rst s nxt := by
  unfold execPllRefPresent at h
  cases h
  split <;> simp (maxDischargeDepth := 40) +contextual [keeps_refl]

theorem keeps_execPllRelockTimeout (h : execPllRelockTimeout s = .next nxt) :
    Keeps rst s nxt := by
  unfold execPllRelockTimeout at h
  cases h
  simp (maxDischargeDepth := 40) +contextual [keeps_refl]

theorem keeps_execPllLockDeclared (h : execPllLockDeclared s = .next nxt) :
    Keeps rst s nxt := by
  unfold execPllLockDeclared at h
  cases h
  dsimp only
  split <;> simp (maxDischargeDepth := 40) +contextual [keeps_refl]

theorem keeps_execSyncInEdge (h : execSyncInEdge s = .next nxt) :
    Keeps rst s nxt := by
  unfold execSyncInEdge at h
  cases h
  simp (maxDischargeDepth := 40) +contextual [keeps_refl]

theorem keeps_execSyncApply (pfdEdges : ℕ) (h : execSyncApply pfdEdges s = .next nxt) :
    Keeps rst s nxt := by
  unfold execSyncApply at h
  cases h
  dsimp only
  split <;> simp (maxDischargeDepth := 40) +contextual [keeps_refl]

theorem keeps_execDramRefreshDue (h : execDramRefreshDue s = .next nxt) :
    Keeps rst s nxt := by
  unfold execDramRefreshDue at h
  cases h
  simp (maxDischargeDepth := 40) +contextual [keeps_refl]

theorem keeps_execZqCalibrationDue (h : execZqCalibrationDue s = .next nxt) :
    Keeps rst s nxt := by
  unfold execZqCalibrationDue at h
  cases h
  simp (maxDischargeDepth := 40) +contextual [keeps_refl]

theorem keeps_execDqsTrackingDue (h : execDqsTrackingDue s = .next nxt) :
    Keeps rst s nxt := by
  unfold execDqsTrackingDue at h
  cases h
  simp (maxDischargeDepth := 40) +contextual [keeps_refl]

theorem keeps_execDramPanicBegin (need0 : ℕ) (need1 : ℕ) (h : execDramPanicBegin need0 need1 s = .next nxt) :
    Keeps rst s nxt := by
  unfold execDramPanicBegin at h
  cases h
  simp (maxDischargeDepth := 40) +contextual [keeps_refl]

theorem keeps_execDramPanicEnd (need0 : ℕ) (need1 : ℕ) (h : execDramPanicEnd need0 need1 s = .next nxt) :
    Keeps rst s nxt := by
  unfold execDramPanicEnd at h
  cases h
  simp (maxDischargeDepth := 40) +contextual [keeps_refl]

theorem keeps_execDramLongPanic (h : execDramLongPanic s = .next nxt) :
    Keeps rst s nxt := by
  unfold execDramLongPanic at h
  cases h
  simp (maxDischargeDepth := 40) +contextual [keeps_refl]

theorem keeps_execSelfRefreshEntry (h : execSelfRefreshEntry s = .next nxt) :
    Keeps rst s nxt := by
  unfold execSelfRefreshEntry at h
  cases h
  simp (maxDischargeDepth := 40) +contextual [keeps_refl]

theorem keeps_execPatrolScrub (errors : List (ℕ × Bool)) (h : execPatrolScrub errors s = .next nxt) :
    Keeps rst s nxt := by
  unfold execPatrolScrub at h
  cases h
  simp (maxDischargeDepth := 40) +contextual [keeps_refl]

theorem keeps_execBulkTimeout (fail : BusFail) (addr : ℕ) (words : ℕ)
    (h : execBulkTimeout fail addr words s = .next nxt) :
    Keeps rst s nxt := by
  unfold execBulkTimeout at h
  cases h
  dsimp only
  (repeat' split) <;> simp (maxDischargeDepth := 40) +contextual [keeps_refl]

theorem keeps_execMemRead (o : Origin) (p : List Word) (h : execMemRead o p s = .next nxt) :
    Keeps rst s nxt := by
  unfold execMemRead at h
  cases h
  simp (maxDischargeDepth := 40) +contextual [keeps_refl]

theorem keeps_execMemReadDone (slot : ℕ) (acc : Access) (h : execMemReadDone slot acc s = .next nxt) :
    Keeps rst s nxt := by
  unfold execMemReadDone at h
  cases h
  split <;> simp (maxDischargeDepth := 40) +contextual [keeps_refl]

theorem keeps_execMemWrite (o : Origin) (p : List Word) (h : execMemWrite o p s = .next nxt) :
    Keeps rst s nxt := by
  unfold execMemWrite at h
  cases h
  simp (maxDischargeDepth := 40) +contextual [keeps_refl]

theorem keeps_execMemFill (o : Origin) (p : List Word) (h : execMemFill o p s = .next nxt) :
    Keeps rst s nxt := by
  unfold execMemFill at h
  cases h
  simp (maxDischargeDepth := 40) +contextual [keeps_refl]

theorem keeps_execMemFillDone (acc : Access) (h : execMemFillDone acc s = .next nxt) :
    Keeps rst s nxt := by
  unfold execMemFillDone at h
  cases h
  split
  · exact keeps_refl _ _
  · refine keeps_ite (keeps_endOfFill _ (keeps_refl _ _)) ?_
    split
    · exact keeps_ite (keeps_fillOn _ (keeps_engineBurst _ (keeps_setTurn _ _ (keeps_refl _ _))))
        (keeps_engineBurst _ (keeps_setTurn _ _ (keeps_refl _ _)))
    · exact keeps_refl _ _

theorem keeps_execDmaBurst (acc : Access) (h : execDmaBurst acc s = .next nxt) :
    Keeps rst s nxt := by
  unfold execDmaBurst at h
  cases h
  split <;> simp (maxDischargeDepth := 40) +contextual [keeps_refl]

theorem keeps_execDmaDescriptorFetchDone (n : ℕ) (acc : Access) (h : execDmaDescriptorFetchDone n acc s = .next nxt) :
    Keeps rst s nxt := by
  unfold execDmaDescriptorFetchDone at h
  cases h
  simp (maxDischargeDepth := 40) +contextual [keeps_refl]

theorem keeps_execDmaDescriptorEnd (n : ℕ) (acc : Access) (h : execDmaDescriptorEnd n acc s = .next nxt) :
    Keeps rst s nxt := by
  unfold execDmaDescriptorEnd at h
  cases h
  refine keeps_ite (keeps_refl _ _) (keeps_ite (keeps_linkRead _ _ _ ?_ fun t ht => keeps_followLink _ ht)
    (keeps_ite (keeps_linkRead _ _ _ (keeps_refl _ _) fun t ht => keeps_relink _ ht) (keeps_refl _ _)))
  simp (maxDischargeDepth := 40) +contextual [keeps_refl]

theorem keeps_execDmaKickStart (o : Origin) (w : Word) (first : Word) (h : execDmaKickStart o w first s = .next nxt) :
    Keeps rst s nxt := by
  unfold execDmaKickStart at h
  cases h
  simp (maxDischargeDepth := 40) +contextual [keeps_refl]

theorem keeps_execDmaKickResume (o : Origin) (w : Word) (h : execDmaKickResume o w s = .next nxt) :
    Keeps rst s nxt := by
  unfold execDmaKickResume at h
  cases h
  simp (maxDischargeDepth := 40) +contextual [keeps_refl]

theorem keeps_execDmaAbort (o : Origin) (p : List Word) (h : execDmaAbort o p s = .next nxt) :
    Keeps rst s nxt := by
  unfold execDmaAbort at h
  cases h
  simp (maxDischargeDepth := 40) +contextual [keeps_refl]

theorem keeps_execDmaAbortDone (n : ℕ) (h : execDmaAbortDone n s = .next nxt) :
    Keeps rst s nxt := by
  unfold execDmaAbortDone at h
  cases h
  dsimp only
  (repeat' split) <;> simp (maxDischargeDepth := 40) +contextual [keeps_refl]

theorem keeps_execDmaStatus (o : Origin) (p : List Word) (h : execDmaStatus o p s = .next nxt) :
    Keeps rst s nxt := by
  unfold execDmaStatus at h
  cases h
  simp (maxDischargeDepth := 40) +contextual [keeps_refl]

theorem keeps_execUpdateBegin (o : Origin) (p : List Word) (h : execUpdateBegin o p s = .next nxt) :
    Keeps rst s nxt := by
  unfold execUpdateBegin at h
  cases h
  simp (maxDischargeDepth := 40) +contextual [keeps_refl]

theorem keeps_execUpdateBeginDone (h : execUpdateBeginDone s = .next nxt) :
    Keeps rst s nxt := by
  unfold execUpdateBeginDone at h
  cases h
  split <;> simp (maxDischargeDepth := 40) +contextual [keeps_refl]

theorem keeps_execUpdateChunk (o : Origin) (p : List Word) (h : execUpdateChunk o p s = .next nxt) :
    Keeps rst s nxt := by
  unfold execUpdateChunk at h
  cases h
  simp (maxDischargeDepth := 40) +contextual [keeps_refl]

theorem keeps_execUpdateChunkStored (h : execUpdateChunkStored s = .next nxt) :
    Keeps rst s nxt := by
  unfold execUpdateChunkStored at h
  cases h
  split <;> simp (maxDischargeDepth := 40) +contextual [keeps_refl]

theorem keeps_execUpdateEnd (o : Origin) (p : List Word) (h : execUpdateEnd o p s = .next nxt) :
    Keeps rst s nxt := by
  unfold execUpdateEnd at h
  cases h
  simp (maxDischargeDepth := 40) +contextual [keeps_refl]

theorem keeps_execUpdateEndDone (h : execUpdateEndDone s = .next nxt) :
    Keeps rst s nxt := by
  unfold execUpdateEndDone at h
  cases h
  split
  · refine keeps_leavePath _ (keeps_refl _ _) fun _ hs => ?_
    split
    · exact keeps_planes _ hs fun _ _ ht => keeps_judgeImage _ ht
    · exact keeps_failCrc _ hs
  · exact keeps_refl _ _

theorem keeps_execUpdateActivateTrial (o : Origin) (w : Word) (h : execUpdateActivateTrial o w s = .next nxt) :
    Keeps rst s nxt := by
  unfold execUpdateActivateTrial at h
  cases h
  simp (maxDischargeDepth := 40) +contextual [keeps_refl]

theorem keeps_execUpdateActivateConfirm (o : Origin) (w : Word) (h : execUpdateActivateConfirm o w s = .next nxt) :
    Keeps rst s nxt := by
  unfold execUpdateActivateConfirm at h
  cases h
  simp (maxDischargeDepth := 40) +contextual [keeps_refl]

theorem keeps_execUpdateActivateReject (o : Origin) (w : Word) (h : execUpdateActivateReject o w s = .next nxt) :
    Keeps rst s nxt := by
  unfold execUpdateActivateReject at h
  cases h
  simp (maxDischargeDepth := 40) +contextual [keeps_refl]

theorem keeps_execTrialTimerExpiry (h : execTrialTimerExpiry s = .next nxt) :
    Keeps rst s nxt := by
  unfold execTrialTimerExpiry at h
  cases h
  simp (maxDischargeDepth := 40) +contextual [keeps_refl]

theorem keeps_execClampDetection (domain : ℕ) (peakUa : ℕ) (h : execClampDetection domain peakUa s = .next nxt) :
    Keeps rst s nxt := by
  unfold execClampDetection at h
  cases h
  dsimp only
  (repeat' split) <;> simp (maxDischargeDepth := 40) +contextual [keeps_refl]

theorem keeps_execSurgeRecordClose (h : execSurgeRecordClose s = .next nxt) :
    Keeps rst s nxt := by
  unfold execSurgeRecordClose at h
  cases h
  dsimp only
  split <;> simp (maxDischargeDepth := 40) +contextual [keeps_refl]

theorem keeps_execSelftestStart (h : execSelftestStart s = .next nxt) :
    Keeps rst s nxt := by
  unfold execSelftestStart at h
  cases h
  dsimp only
  split <;> simp (maxDischargeDepth := 40) +contextual [keeps_refl]

theorem keeps_execCurrierTileTestSlotEnd (pass : Bool) (h : execCurrierTileTestSlotEnd pass s = .next nxt) :
    Keeps rst s nxt := by
  unfold execCurrierTileTestSlotEnd at h
  cases h
  (repeat' split) <;> simp (maxDischargeDepth := 40) +contextual [keeps_refl]

theorem keeps_execSelftestDone (analogFails : BitVec 13) (h : execSelftestDone analogFails s = .next nxt) :
    Keeps rst s nxt := by
  unfold execSelftestDone at h
  cases h
  dsimp only
  split <;> simp (maxDischargeDepth := 40) +contextual [keeps_refl]

theorem keeps_execLogEntryWrite (h : execLogEntryWrite s = .next nxt) :
    Keeps rst s nxt := by
  unfold execLogEntryWrite at h
  cases h
  simp (maxDischargeDepth := 40) +contextual [keeps_refl]

theorem keeps_execLogRead (o : Origin) (p : List Word) (h : execLogRead o p s = .next nxt) :
    Keeps rst s nxt := by
  unfold execLogRead at h
  cases h
  simp (maxDischargeDepth := 40) +contextual [keeps_refl]

theorem keeps_execLogClear (o : Origin) (p : List Word) (h : execLogClear o p s = .next nxt) :
    Keeps rst s nxt := by
  unfold execLogClear at h
  cases h
  simp (maxDischargeDepth := 40) +contextual [keeps_refl]

theorem keeps_execLogClearDone (h : execLogClearDone s = .next nxt) :
    Keeps rst s nxt := by
  unfold execLogClearDone at h
  cases h
  dsimp only
  split <;> simp (maxDischargeDepth := 40) +contextual [keeps_refl]

theorem keeps_execLifetimeUpdate (h : execLifetimeUpdate s = .next nxt) :
    Keeps rst s nxt := by
  unfold execLifetimeUpdate at h
  cases h
  simp (maxDischargeDepth := 40) +contextual [keeps_refl]

theorem keeps_execEquivHoursMinute (h : execEquivHoursMinute s = .next nxt) :
    Keeps rst s nxt := by
  unfold execEquivHoursMinute at h
  cases h
  simp (maxDischargeDepth := 40) +contextual [keeps_refl]

theorem keeps_execLifetimeRead (o : Origin) (p : List Word) (h : execLifetimeRead o p s = .next nxt) :
    Keeps rst s nxt := by
  unfold execLifetimeRead at h
  cases h
  simp (maxDischargeDepth := 40) +contextual [keeps_refl]

theorem keeps_execBreakIn (h : execBreakIn s = .next nxt) :
    Keeps rst s nxt := by
  unfold execBreakIn at h
  cases h
  simp (maxDischargeDepth := 40) +contextual [keeps_refl]

theorem keeps_execBreakInEnd (h : execBreakInEnd s = .next nxt) :
    Keeps rst s nxt := by
  unfold execBreakInEnd at h
  cases h
  simp (maxDischargeDepth := 40) +contextual [keeps_refl]

theorem keeps_execResetLevel0 (o : Origin) (w : Word) (h : execResetLevel0 o w s = .next nxt) :
    Keeps rst s nxt := by
  unfold execResetLevel0 at h
  cases h
  simp (maxDischargeDepth := 40) +contextual [keeps_refl]

theorem keeps_execResetLevel1 (o : Origin) (w : Word) (h : execResetLevel1 o w s = .next nxt) :
    Keeps rst s nxt := by
  unfold execResetLevel1 at h
  cases h
  simp (maxDischargeDepth := 40) +contextual [keeps_refl]

theorem keeps_execResetLevel2 (o : Origin) (w : Word) (h : execResetLevel2 o w s = .next nxt) :
    Keeps rst s nxt := by
  unfold execResetLevel2 at h
  cases h
  simp (maxDischargeDepth := 40) +contextual [keeps_refl]

theorem keeps_execResetLevel3 (o : Origin) (w : Word) (h : execResetLevel3 o w s = .next nxt) :
    Keeps rst s nxt := by
  unfold execResetLevel3 at h
  cases h
  simp (maxDischargeDepth := 40) +contextual [keeps_refl]

theorem keeps_execResetSoftDone (trainFail : Option (ℕ × ℕ)) (h : execResetSoftDone trainFail s = .next nxt) :
    Keeps rst s nxt := by
  unfold execResetSoftDone at h
  cases h
  dsimp only
  (repeat' split) <;> simp (maxDischargeDepth := 40) +contextual [keeps_refl]

theorem keeps_execResetStart (h : execResetStart s = .next nxt) :
    Keeps true s nxt := by
  unfold execResetStart at h
  cases h
  split <;> simp (maxDischargeDepth := 40) +contextual [keeps_refl]

theorem keeps_execResetOffTimeExpiry (vcoreFell : Bool) (h : execResetOffTimeExpiry vcoreFell s = .next nxt) :
    Keeps rst s nxt := by
  unfold execResetOffTimeExpiry at h
  cases h
  simp (maxDischargeDepth := 40) +contextual [keeps_refl]

theorem keeps_execVaonPowerOn (h : execVaonPowerOn s = .next nxt) :
    Keeps rst s nxt := by
  unfold execVaonPowerOn at h
  cases h
  simp (maxDischargeDepth := 40) +contextual [keeps_refl]

theorem keeps_execVaonGood (h : execVaonGood s = .next nxt) :
    Keeps rst s nxt := by
  unfold execVaonGood at h
  cases h
  simp (maxDischargeDepth := 40) +contextual [keeps_refl]

theorem keeps_execVaonLoss (h : execVaonLoss s = .next nxt) :
    Keeps true s nxt := by
  unfold execVaonLoss at h
  cases h
  simp (maxDischargeDepth := 40) +contextual [keeps_refl]

theorem keeps_execRailsGood (h : execRailsGood s = .next nxt) :
    Keeps rst s nxt := by
  unfold execRailsGood at h
  cases h
  simp (maxDischargeDepth := 40) +contextual [keeps_refl]

theorem keeps_execPorRelease (h : execPorRelease s = .next nxt) :
    Keeps rst s nxt := by
  unfold execPorRelease at h
  cases h
  simp (maxDischargeDepth := 40) +contextual [keeps_refl]

theorem keeps_execResetNLow (widthNs : ℕ) (h : execResetNLow widthNs s = .next nxt) :
    Keeps true s nxt := by
  unfold execResetNLow at h
  cases h
  simp (maxDischargeDepth := 40) +contextual [keeps_refl]

theorem keeps_execResetNRise (h : execResetNRise s = .next nxt) :
    Keeps rst s nxt := by
  unfold execResetNRise at h
  cases h
  simp (maxDischargeDepth := 40) +contextual [keeps_refl]

theorem keeps_execBrownout (monitor : ℕ) (h : execBrownout monitor s = .next nxt) :
    Keeps true s nxt := by
  unfold execBrownout at h
  cases h
  simp (maxDischargeDepth := 40) +contextual [keeps_refl]

theorem keeps_execStandbyEnter (o : Origin) (p : List Word) (h : execStandbyEnter o p s = .next nxt) :
    Keeps rst s nxt := by
  unfold execStandbyEnter at h
  cases h
  simp (maxDischargeDepth := 40) +contextual [keeps_refl]

theorem keeps_execStandbyPowerDown (h : execStandbyPowerDown s = .next nxt) : Keeps true s nxt := by
  unfold execStandbyPowerDown at h
  cases h
  (repeat' split) <;> simp (maxDischargeDepth := 40) [keeps_refl]

theorem keeps_execWakePinEdge (highUs : ℕ) (h : execWakePinEdge highUs s = .next nxt) :
    Keeps rst s nxt := by
  unfold execWakePinEdge at h
  cases h
  simp (maxDischargeDepth := 40) +contextual [keeps_refl]

theorem keeps_execWakeTimerExpiry (h : execWakeTimerExpiry s = .next nxt) :
    Keeps rst s nxt := by
  unfold execWakeTimerExpiry at h
  cases h
  split <;> simp (maxDischargeDepth := 40) +contextual [keeps_refl]

theorem keeps_execStandbyWake (h : execStandbyWake s = .next nxt) :
    Keeps rst s nxt := by
  unfold execStandbyWake at h
  cases h
  dsimp only
  split <;> simp (maxDischargeDepth := 40) +contextual [keeps_refl]

theorem keeps_execCantleBootVerifyDone (checkA : ℕ) (checkB : ℕ)
    (h : execCantleBootVerifyDone checkA checkB s = .next nxt) :
    Keeps rst s nxt := by
  unfold execCantleBootVerifyDone at h
  cases h
  simp (maxDischargeDepth := 40) +contextual [keeps_refl]

theorem keeps_execDramTrainingDone (fail : Option (ℕ × ℕ)) (fittedGib : ℕ)
    (h : execDramTrainingDone fail fittedGib s = .next nxt) :
    Keeps rst s nxt := by
  unfold execDramTrainingDone at h
  cases h
  dsimp only
  (repeat' split) <;> simp (maxDischargeDepth := 40) +contextual [keeps_refl]

theorem keeps_execCalStepDone (results : List StepResult) (h : execCalStepDone results s = .next nxt) :
    Keeps rst s nxt := by
  unfold execCalStepDone at h
  cases h
  simp (maxDischargeDepth := 40) +contextual [keeps_refl]

theorem keeps_execCalStepTimeout (group : ℕ) (h : execCalStepTimeout group s = .next nxt) :
    Keeps rst s nxt := by
  unfold execCalStepTimeout at h
  cases h
  simp (maxDischargeDepth := 40) +contextual [keeps_refl]

theorem keeps_execOvertempTrip (sensor : ℕ) (h : execOvertempTrip sensor s = .next nxt) :
    Keeps rst s nxt := by
  unfold execOvertempTrip at h
  cases h
  simp (maxDischargeDepth := 40) +contextual [keeps_refl]

theorem keeps_execMonitorSample (temps : List ℤ) (volts : List ℕ) (h : execMonitorSample temps volts s = .next nxt) :
    Keeps rst s nxt := by
  unfold execMonitorSample at h
  cases h
  simp (maxDischargeDepth := 40) +contextual [keeps_refl]

theorem keeps_execProcessMonitorSample (drifts : List ℤ) (h : execProcessMonitorSample drifts s = .next nxt) :
    Keeps rst s nxt := by
  unfold execProcessMonitorSample at h
  cases h
  simp (maxDischargeDepth := 40) +contextual [keeps_refl]

theorem keeps_execHealthDigestForm (h : execHealthDigestForm s = .next nxt) :
    Keeps rst s nxt := by
  unfold execHealthDigestForm at h
  cases h
  simp (maxDischargeDepth := 40) +contextual [keeps_refl]

theorem keeps_execHealthDigestEventTimer (h : execHealthDigestEventTimer s = .next nxt) :
    Keeps rst s nxt := by
  unfold execHealthDigestEventTimer at h
  cases h
  simp (maxDischargeDepth := 40) +contextual [keeps_refl]

theorem keeps_execHealthRead (o : Origin) (p : List Word) (h : execHealthRead o p s = .next nxt) :
    Keeps rst s nxt := by
  unfold execHealthRead at h
  cases h
  simp (maxDischargeDepth := 40) +contextual [keeps_refl]

theorem keeps_execCantleWatchdogExpiry (h : execCantleWatchdogExpiry s = .next nxt) :
    Keeps rst s nxt := by
  unfold execCantleWatchdogExpiry at h
  cases h
  simp (maxDischargeDepth := 40) +contextual [keeps_refl]

theorem keeps_execMramWriteTimeout (h : execMramWriteTimeout s = .next nxt) :
    Keeps rst s nxt := by
  unfold execMramWriteTimeout at h
  cases h
  simp (maxDischargeDepth := 40) +contextual [keeps_refl]

theorem keeps_execCantleRestartDone (h : execCantleRestartDone s = .next nxt) :
    Keeps rst s nxt := by
  unfold execCantleRestartDone at h
  cases h
  dsimp only
  split <;> simp (maxDischargeDepth := 40) +contextual [keeps_refl]

theorem keeps_execBridleHangCheck (hung : Bool) (h : execBridleHangCheck hung s = .next nxt) :
    Keeps rst s nxt := by
  unfold execBridleHangCheck at h
  cases h
  simp (maxDischargeDepth := 40) +contextual [keeps_refl]

theorem keeps_execMramScrub (region : ℕ) (corrected : ℕ) (bad : Option ℕ) (worn : Bool)
    (h : execMramScrub region corrected bad worn s = .next nxt) :
    Keeps rst s nxt := by
  unfold execMramScrub at h
  cases h
  dsimp only
  (repeat' split) <;> simp (maxDischargeDepth := 40) +contextual [keeps_refl]

theorem keeps_execXtalFaultCheck (stopped : Bool) (outside : Bool)
    (h : execXtalFaultCheck stopped outside s = .next nxt) :
    Keeps rst s nxt := by
  unfold execXtalFaultCheck at h
  cases h
  dsimp only
  (repeat' split) <;> simp (maxDischargeDepth := 40) +contextual [keeps_refl]

theorem keeps_execParamSet (o : Origin) (p : List Word) (h : execParamSet o p s = .next nxt) :
    Keeps rst s nxt := by
  unfold execParamSet at h
  cases h
  simp (maxDischargeDepth := 40) +contextual [keeps_refl]

theorem keeps_execStreamCfg (o : Origin) (p : List Word) (h : execStreamCfg o p s = .next nxt) :
    Keeps rst s nxt := by
  unfold execStreamCfg at h
  cases h
  simp (maxDischargeDepth := 40) +contextual [keeps_refl]

theorem keeps_execTackProtectWrite (o : Origin) (v : Word) (h : execTackProtectWrite o v s = .next nxt) :
    Keeps rst s nxt := by
  unfold execTackProtectWrite at h
  cases h
  simp (maxDischargeDepth := 40) +contextual [keeps_refl]

theorem keeps_execEvtMaskWrite (o : Origin) (lo : Word) (hi : Word) (h : execEvtMaskWrite o lo hi s = .next nxt) :
    Keeps rst s nxt := by
  unfold execEvtMaskWrite at h
  cases h
  simp (maxDischargeDepth := 40) +contextual [keeps_refl]

theorem keeps_execUartCfgWrite (o : Origin) (v : Word) (h : execUartCfgWrite o v s = .next nxt) :
    Keeps rst s nxt := by
  unfold execUartCfgWrite at h
  cases h
  simp (maxDischargeDepth := 40) +contextual [keeps_refl]

theorem keeps_execMemInitWrite (o : Origin) (v : Word) (h : execMemInitWrite o v s = .next nxt) :
    Keeps rst s nxt := by
  unfold execMemInitWrite at h
  cases h
  simp (maxDischargeDepth := 40) +contextual [keeps_refl]

theorem keeps_execMemPlanWrite (o : Origin) (v : Word) (h : execMemPlanWrite o v s = .next nxt) :
    Keeps rst s nxt := by
  unfold execMemPlanWrite at h
  cases h
  simp (maxDischargeDepth := 40) +contextual [keeps_refl]

theorem keeps_execAdcCheckWrite (o : Origin) (v : Word) (h : execAdcCheckWrite o v s = .next nxt) :
    Keeps rst s nxt := by
  unfold execAdcCheckWrite at h
  cases h
  simp (maxDischargeDepth := 40) +contextual [keeps_refl]

theorem keeps_execAuxSeqKick (o : Origin) (v : Word) (h : execAuxSeqKick o v s = .next nxt) :
    Keeps rst s nxt := by
  unfold execAuxSeqKick at h
  cases h
  simp (maxDischargeDepth := 40) +contextual [keeps_refl]

theorem keeps_execPllCfgIcpWrite (o : Origin) (icp : BitVec 6) (h : execPllCfgIcpWrite o icp s = .next nxt) :
    Keeps rst s nxt := by
  unfold execPllCfgIcpWrite at h
  cases h
  simp (maxDischargeDepth := 40) +contextual [keeps_refl]

theorem keeps_execPllDividerChange (o : Origin) (v : Word) (h : execPllDividerChange o v s = .next nxt) :
    Keeps rst s nxt := by
  unfold execPllDividerChange at h
  cases h
  simp (maxDischargeDepth := 40) +contextual [keeps_refl]

theorem keeps_execRequestReceived (k : Packet) (h : execRequestReceived k s = .next nxt)
    (hop : rst = false → k.opcode.toNat ≠ 9) : Keeps rst s nxt := by
  unfold execRequestReceived at h
  cases h
  refine keeps_ite (keeps_refl _ _) (keeps_ite (keeps_serveRequest _ _ (keeps_arrived _ (keeps_refl _ _)) hop) ?_)
  simp (maxDischargeDepth := 40) [keeps_refl]

theorem keeps_execHarnessPacketForward (p : HPort) (k : Packet) (h : execHarnessPacketForward p k s = .next nxt) :
    Keeps rst s nxt := by
  unfold execHarnessPacketForward at h
  cases h
  (repeat' split) <;> simp (maxDischargeDepth := 40) +contextual [keeps_refl]

theorem keeps_execUartPacketReceived (raw : List Byte) (h : execUartPacketReceived raw s = .next nxt)
    (hop : rst = false → (uartParse raw).opcode.toNat ≠ 9) : Keeps rst s nxt := by
  unfold execUartPacketReceived at h
  cases h
  refine keeps_ite (keeps_refl _ _) (keeps_ite (keeps_serveRequest _ _ (keeps_refl _ _) hop) ?_)
  simp (maxDischargeDepth := 40) [keeps_refl]

theorem keeps_execUartGapTimeout (h : execUartGapTimeout s = .next nxt) :
    Keeps rst s nxt := by
  unfold execUartGapTimeout at h
  cases h
  simp (maxDischargeDepth := 40) +contextual [keeps_refl]

theorem keeps_execUartFramingError (h : execUartFramingError s = .next nxt) :
    Keeps rst s nxt := by
  unfold execUartFramingError at h
  cases h
  simp (maxDischargeDepth := 40) +contextual [keeps_refl]

end Sys2Proof.Machine
end

