-- ==== Sys2Proof/Laws/State.lean ====
section
/-!
SUPPORT. What each operation on the state leaves of each field: one lemma for a field and an operation, so that no proof
unfolds a record update; and the parts of the two sides.
-/
namespace Sys2Proof.Machine

/-! ### Sides -/

@[simp] theorem Both.get_set_same {α : Type} (x : Both α) (d : Side) (v : α) : (x.set d v).get d = v := by cases d <;> rfl

@[simp] theorem Both.get_set_other {α : Type} (x : Both α) (d e : Side) (v : α) (h : e ≠ d) : (x.set d v).get e = x.get e := by
  cases d <;> cases e <;> first | rfl | exact absurd rfl h

@[simp] theorem Girth.side_setSide_same (g : Girth) (d : Side) (v : GirthSide) : (g.setSide d v).side d = v := by
  cases d <;> rfl

@[simp] theorem Girth.side_setSide_other (g : Girth) (d e : Side) (v : GirthSide) (h : e ≠ d) :
    (g.setSide d v).side e = g.side e := by cases d <;> cases e <;> first | rfl | exact absurd rfl h

@[simp] theorem Girth.setSide_ring (g : Girth) (d : Side) (v : GirthSide) : (g.setSide d v).ring = g.ring := by cases d <;> rfl
@[simp] theorem Girth.setSide_waiting (g : Girth) (d : Side) (v : GirthSide) : (g.setSide d v).waiting = g.waiting := by
  cases d <;> rfl
@[simp] theorem Girth.setSide_dump (g : Girth) (d : Side) (v : GirthSide) : (g.setSide d v).dump = g.dump := by cases d <;> rfl
@[simp] theorem Girth.setSide_used (g : Girth) (d : Side) (v : GirthSide) : (g.setSide d v).used = g.used := by cases d <;> rfl

variable (s : State)

/-! ### setPwr -/

section
variable (f : Power → Power)
@[simp] theorem setPwr_pwr : (setPwr f s).pwr = f s.pwr := rfl
@[simp] theorem setPwr_pll : (setPwr f s).pll = s.pll := rfl
@[simp] theorem setPwr_harn : (setPwr f s).harn = s.harn := rfl
@[simp] theorem setPwr_brg : (setPwr f s).brg = s.brg := rfl
@[simp] theorem setPwr_evq : (setPwr f s).evq = s.evq := rfl
@[simp] theorem setPwr_live : (setPwr f s).live = s.live := rfl
@[simp] theorem setPwr_draft : (setPwr f s).draft = s.draft := rfl
@[simp] theorem setPwr_rw : (setPwr f s).rw = s.rw := rfl
@[simp] theorem setPwr_nv : (setPwr f s).nv = s.nv := rfl
@[simp] theorem setPwr_tacks : (setPwr f s).tacks = s.tacks := rfl
@[simp] theorem setPwr_lash : (setPwr f s).lash = s.lash := rfl
@[simp] theorem setPwr_recv : (setPwr f s).recv = s.recv := rfl
@[simp] theorem setPwr_cur : (setPwr f s).cur = s.cur := rfl
@[simp] theorem setPwr_zones : (setPwr f s).zones = s.zones := rfl
@[simp] theorem setPwr_base : (setPwr f s).base = s.base := rfl
@[simp] theorem setPwr_therm : (setPwr f s).therm = s.therm := rfl
@[simp] theorem setPwr_girth : (setPwr f s).girth = s.girth := rfl
@[simp] theorem setPwr_tb : (setPwr f s).tb = s.tb := rfl
@[simp] theorem setPwr_awl : (setPwr f s).awl = s.awl := rfl
@[simp] theorem setPwr_aux : (setPwr f s).aux = s.aux := rfl
@[simp] theorem setPwr_strm : (setPwr f s).strm = s.strm := rfl
@[simp] theorem setPwr_tiles : (setPwr f s).tiles = s.tiles := rfl
@[simp] theorem setPwr_mem : (setPwr f s).mem = s.mem := rfl
@[simp] theorem setPwr_dma : (setPwr f s).dma = s.dma := rfl
@[simp] theorem setPwr_cal : (setPwr f s).cal = s.cal := rfl
@[simp] theorem setPwr_can : (setPwr f s).can = s.can := rfl
@[simp] theorem setPwr_drawn : (setPwr f s).drawn = s.drawn := rfl
@[simp] theorem setPwr_pending : (setPwr f s).pending = s.pending := rfl
end

/-! ### setPll -/

section
variable (f : Pll → Pll)
@[simp] theorem setPll_pwr : (setPll f s).pwr = s.pwr := rfl
@[simp] theorem setPll_pll : (setPll f s).pll = f s.pll := rfl
@[simp] theorem setPll_harn : (setPll f s).harn = s.harn := rfl
@[simp] theorem setPll_brg : (setPll f s).brg = s.brg := rfl
@[simp] theorem setPll_evq : (setPll f s).evq = s.evq := rfl
@[simp] theorem setPll_live : (setPll f s).live = s.live := rfl
@[simp] theorem setPll_draft : (setPll f s).draft = s.draft := rfl
@[simp] theorem setPll_rw : (setPll f s).rw = s.rw := rfl
@[simp] theorem setPll_nv : (setPll f s).nv = s.nv := rfl
@[simp] theorem setPll_tacks : (setPll f s).tacks = s.tacks := rfl
@[simp] theorem setPll_lash : (setPll f s).lash = s.lash := rfl
@[simp] theorem setPll_recv : (setPll f s).recv = s.recv := rfl
@[simp] theorem setPll_cur : (setPll f s).cur = s.cur := rfl
@[simp] theorem setPll_zones : (setPll f s).zones = s.zones := rfl
@[simp] theorem setPll_base : (setPll f s).base = s.base := rfl
@[simp] theorem setPll_therm : (setPll f s).therm = s.therm := rfl
@[simp] theorem setPll_girth : (setPll f s).girth = s.girth := rfl
@[simp] theorem setPll_tb : (setPll f s).tb = s.tb := rfl
@[simp] theorem setPll_awl : (setPll f s).awl = s.awl := rfl
@[simp] theorem setPll_aux : (setPll f s).aux = s.aux := rfl
@[simp] theorem setPll_strm : (setPll f s).strm = s.strm := rfl
@[simp] theorem setPll_tiles : (setPll f s).tiles = s.tiles := rfl
@[simp] theorem setPll_mem : (setPll f s).mem = s.mem := rfl
@[simp] theorem setPll_dma : (setPll f s).dma = s.dma := rfl
@[simp] theorem setPll_cal : (setPll f s).cal = s.cal := rfl
@[simp] theorem setPll_can : (setPll f s).can = s.can := rfl
@[simp] theorem setPll_drawn : (setPll f s).drawn = s.drawn := rfl
@[simp] theorem setPll_pending : (setPll f s).pending = s.pending := rfl
end

/-! ### setHarn -/

section
variable (f : Harness → Harness)
@[simp] theorem setHarn_pwr : (setHarn f s).pwr = s.pwr := rfl
@[simp] theorem setHarn_pll : (setHarn f s).pll = s.pll := rfl
@[simp] theorem setHarn_harn : (setHarn f s).harn = f s.harn := rfl
@[simp] theorem setHarn_brg : (setHarn f s).brg = s.brg := rfl
@[simp] theorem setHarn_evq : (setHarn f s).evq = s.evq := rfl
@[simp] theorem setHarn_live : (setHarn f s).live = s.live := rfl
@[simp] theorem setHarn_draft : (setHarn f s).draft = s.draft := rfl
@[simp] theorem setHarn_rw : (setHarn f s).rw = s.rw := rfl
@[simp] theorem setHarn_nv : (setHarn f s).nv = s.nv := rfl
@[simp] theorem setHarn_tacks : (setHarn f s).tacks = s.tacks := rfl
@[simp] theorem setHarn_lash : (setHarn f s).lash = s.lash := rfl
@[simp] theorem setHarn_recv : (setHarn f s).recv = s.recv := rfl
@[simp] theorem setHarn_cur : (setHarn f s).cur = s.cur := rfl
@[simp] theorem setHarn_zones : (setHarn f s).zones = s.zones := rfl
@[simp] theorem setHarn_base : (setHarn f s).base = s.base := rfl
@[simp] theorem setHarn_therm : (setHarn f s).therm = s.therm := rfl
@[simp] theorem setHarn_girth : (setHarn f s).girth = s.girth := rfl
@[simp] theorem setHarn_tb : (setHarn f s).tb = s.tb := rfl
@[simp] theorem setHarn_awl : (setHarn f s).awl = s.awl := rfl
@[simp] theorem setHarn_aux : (setHarn f s).aux = s.aux := rfl
@[simp] theorem setHarn_strm : (setHarn f s).strm = s.strm := rfl
@[simp] theorem setHarn_tiles : (setHarn f s).tiles = s.tiles := rfl
@[simp] theorem setHarn_mem : (setHarn f s).mem = s.mem := rfl
@[simp] theorem setHarn_dma : (setHarn f s).dma = s.dma := rfl
@[simp] theorem setHarn_cal : (setHarn f s).cal = s.cal := rfl
@[simp] theorem setHarn_can : (setHarn f s).can = s.can := rfl
@[simp] theorem setHarn_drawn : (setHarn f s).drawn = s.drawn := rfl
@[simp] theorem setHarn_pending : (setHarn f s).pending = s.pending := rfl
end

/-! ### setDraft -/

section
variable (f : Cfg → Cfg)
@[simp] theorem setDraft_pwr : (setDraft f s).pwr = s.pwr := rfl
@[simp] theorem setDraft_pll : (setDraft f s).pll = s.pll := rfl
@[simp] theorem setDraft_harn : (setDraft f s).harn = s.harn := rfl
@[simp] theorem setDraft_brg : (setDraft f s).brg = s.brg := rfl
@[simp] theorem setDraft_evq : (setDraft f s).evq = s.evq := rfl
@[simp] theorem setDraft_live : (setDraft f s).live = s.live := rfl
@[simp] theorem setDraft_draft : (setDraft f s).draft = f s.draft := rfl
@[simp] theorem setDraft_rw : (setDraft f s).rw = s.rw := rfl
@[simp] theorem setDraft_nv : (setDraft f s).nv = s.nv := rfl
@[simp] theorem setDraft_tacks : (setDraft f s).tacks = s.tacks := rfl
@[simp] theorem setDraft_lash : (setDraft f s).lash = s.lash := rfl
@[simp] theorem setDraft_recv : (setDraft f s).recv = s.recv := rfl
@[simp] theorem setDraft_cur : (setDraft f s).cur = s.cur := rfl
@[simp] theorem setDraft_zones : (setDraft f s).zones = s.zones := rfl
@[simp] theorem setDraft_base : (setDraft f s).base = s.base := rfl
@[simp] theorem setDraft_therm : (setDraft f s).therm = s.therm := rfl
@[simp] theorem setDraft_girth : (setDraft f s).girth = s.girth := rfl
@[simp] theorem setDraft_tb : (setDraft f s).tb = s.tb := rfl
@[simp] theorem setDraft_awl : (setDraft f s).awl = s.awl := rfl
@[simp] theorem setDraft_aux : (setDraft f s).aux = s.aux := rfl
@[simp] theorem setDraft_strm : (setDraft f s).strm = s.strm := rfl
@[simp] theorem setDraft_tiles : (setDraft f s).tiles = s.tiles := rfl
@[simp] theorem setDraft_mem : (setDraft f s).mem = s.mem := rfl
@[simp] theorem setDraft_dma : (setDraft f s).dma = s.dma := rfl
@[simp] theorem setDraft_cal : (setDraft f s).cal = s.cal := rfl
@[simp] theorem setDraft_can : (setDraft f s).can = s.can := rfl
@[simp] theorem setDraft_drawn : (setDraft f s).drawn = s.drawn := rfl
@[simp] theorem setDraft_pending : (setDraft f s).pending = s.pending := rfl
end

/-! ### putRw -/

section
variable (id : Nat) (v : Word)
@[simp] theorem putRw_pwr : (putRw id v s).pwr = s.pwr := rfl
@[simp] theorem putRw_pll : (putRw id v s).pll = s.pll := rfl
@[simp] theorem putRw_harn : (putRw id v s).harn = s.harn := rfl
@[simp] theorem putRw_brg : (putRw id v s).brg = s.brg := rfl
@[simp] theorem putRw_evq : (putRw id v s).evq = s.evq := rfl
@[simp] theorem putRw_live : (putRw id v s).live = s.live := rfl
@[simp] theorem putRw_draft : (putRw id v s).draft = s.draft := rfl
@[simp] theorem putRw_rw : (putRw id v s).rw = kvSet (pReset id) s.rw id v := rfl
@[simp] theorem putRw_nv : (putRw id v s).nv = s.nv := rfl
@[simp] theorem putRw_tacks : (putRw id v s).tacks = s.tacks := rfl
@[simp] theorem putRw_lash : (putRw id v s).lash = s.lash := rfl
@[simp] theorem putRw_recv : (putRw id v s).recv = s.recv := rfl
@[simp] theorem putRw_cur : (putRw id v s).cur = s.cur := rfl
@[simp] theorem putRw_zones : (putRw id v s).zones = s.zones := rfl
@[simp] theorem putRw_base : (putRw id v s).base = s.base := rfl
@[simp] theorem putRw_therm : (putRw id v s).therm = s.therm := rfl
@[simp] theorem putRw_girth : (putRw id v s).girth = s.girth := rfl
@[simp] theorem putRw_tb : (putRw id v s).tb = s.tb := rfl
@[simp] theorem putRw_awl : (putRw id v s).awl = s.awl := rfl
@[simp] theorem putRw_aux : (putRw id v s).aux = s.aux := rfl
@[simp] theorem putRw_strm : (putRw id v s).strm = s.strm := rfl
@[simp] theorem putRw_tiles : (putRw id v s).tiles = s.tiles := rfl
@[simp] theorem putRw_mem : (putRw id v s).mem = s.mem := rfl
@[simp] theorem putRw_dma : (putRw id v s).dma = s.dma := rfl
@[simp] theorem putRw_cal : (putRw id v s).cal = s.cal := rfl
@[simp] theorem putRw_can : (putRw id v s).can = s.can := rfl
@[simp] theorem putRw_drawn : (putRw id v s).drawn = s.drawn := rfl
@[simp] theorem putRw_pending : (putRw id v s).pending = s.pending := rfl
end

/-! ### setTack -/

section
variable (n : Nat) (f : TackSet → TackSet)
@[simp] theorem setTack_pwr : (setTack n f s).pwr = s.pwr := rfl
@[simp] theorem setTack_pll : (setTack n f s).pll = s.pll := rfl
@[simp] theorem setTack_harn : (setTack n f s).harn = s.harn := rfl
@[simp] theorem setTack_brg : (setTack n f s).brg = s.brg := rfl
@[simp] theorem setTack_evq : (setTack n f s).evq = s.evq := rfl
@[simp] theorem setTack_live : (setTack n f s).live = s.live := rfl
@[simp] theorem setTack_draft : (setTack n f s).draft = s.draft := rfl
@[simp] theorem setTack_rw : (setTack n f s).rw = s.rw := rfl
@[simp] theorem setTack_nv : (setTack n f s).nv = s.nv := rfl
@[simp] theorem setTack_tacks : (setTack n f s).tacks = { s.tacks with sets := upd s.tacks.sets n f } := rfl
@[simp] theorem setTack_lash : (setTack n f s).lash = s.lash := rfl
@[simp] theorem setTack_recv : (setTack n f s).recv = s.recv := rfl
@[simp] theorem setTack_cur : (setTack n f s).cur = s.cur := rfl
@[simp] theorem setTack_zones : (setTack n f s).zones = s.zones := rfl
@[simp] theorem setTack_base : (setTack n f s).base = s.base := rfl
@[simp] theorem setTack_therm : (setTack n f s).therm = s.therm := rfl
@[simp] theorem setTack_girth : (setTack n f s).girth = s.girth := rfl
@[simp] theorem setTack_tb : (setTack n f s).tb = s.tb := rfl
@[simp] theorem setTack_awl : (setTack n f s).awl = s.awl := rfl
@[simp] theorem setTack_aux : (setTack n f s).aux = s.aux := rfl
@[simp] theorem setTack_strm : (setTack n f s).strm = s.strm := rfl
@[simp] theorem setTack_tiles : (setTack n f s).tiles = s.tiles := rfl
@[simp] theorem setTack_mem : (setTack n f s).mem = s.mem := rfl
@[simp] theorem setTack_dma : (setTack n f s).dma = s.dma := rfl
@[simp] theorem setTack_cal : (setTack n f s).cal = s.cal := rfl
@[simp] theorem setTack_can : (setTack n f s).can = s.can := rfl
@[simp] theorem setTack_drawn : (setTack n f s).drawn = s.drawn := rfl
@[simp] theorem setTack_pending : (setTack n f s).pending = s.pending := rfl
end

/-! ### setLash -/

section
variable (d : Side) (f : Lash → Lash)
@[simp] theorem setLash_pwr : (setLash d f s).pwr = s.pwr := rfl
@[simp] theorem setLash_pll : (setLash d f s).pll = s.pll := rfl
@[simp] theorem setLash_harn : (setLash d f s).harn = s.harn := rfl
@[simp] theorem setLash_brg : (setLash d f s).brg = s.brg := rfl
@[simp] theorem setLash_evq : (setLash d f s).evq = s.evq := rfl
@[simp] theorem setLash_live : (setLash d f s).live = s.live := rfl
@[simp] theorem setLash_draft : (setLash d f s).draft = s.draft := rfl
@[simp] theorem setLash_rw : (setLash d f s).rw = s.rw := rfl
@[simp] theorem setLash_nv : (setLash d f s).nv = s.nv := rfl
@[simp] theorem setLash_tacks : (setLash d f s).tacks = s.tacks := rfl
@[simp] theorem setLash_lash : (setLash d f s).lash = s.lash.set d (f (s.lash.get d)) := rfl
@[simp] theorem setLash_recv : (setLash d f s).recv = s.recv := rfl
@[simp] theorem setLash_cur : (setLash d f s).cur = s.cur := rfl
@[simp] theorem setLash_zones : (setLash d f s).zones = s.zones := rfl
@[simp] theorem setLash_base : (setLash d f s).base = s.base := rfl
@[simp] theorem setLash_therm : (setLash d f s).therm = s.therm := rfl
@[simp] theorem setLash_girth : (setLash d f s).girth = s.girth := rfl
@[simp] theorem setLash_tb : (setLash d f s).tb = s.tb := rfl
@[simp] theorem setLash_awl : (setLash d f s).awl = s.awl := rfl
@[simp] theorem setLash_aux : (setLash d f s).aux = s.aux := rfl
@[simp] theorem setLash_strm : (setLash d f s).strm = s.strm := rfl
@[simp] theorem setLash_tiles : (setLash d f s).tiles = s.tiles := rfl
@[simp] theorem setLash_mem : (setLash d f s).mem = s.mem := rfl
@[simp] theorem setLash_dma : (setLash d f s).dma = s.dma := rfl
@[simp] theorem setLash_cal : (setLash d f s).cal = s.cal := rfl
@[simp] theorem setLash_can : (setLash d f s).can = s.can := rfl
@[simp] theorem setLash_drawn : (setLash d f s).drawn = s.drawn := rfl
@[simp] theorem setLash_pending : (setLash d f s).pending = s.pending := rfl
end

/-! ### setRecv -/

section
variable (f : Recv → Recv)
@[simp] theorem setRecv_pwr : (setRecv f s).pwr = s.pwr := rfl
@[simp] theorem setRecv_pll : (setRecv f s).pll = s.pll := rfl
@[simp] theorem setRecv_harn : (setRecv f s).harn = s.harn := rfl
@[simp] theorem setRecv_brg : (setRecv f s).brg = s.brg := rfl
@[simp] theorem setRecv_evq : (setRecv f s).evq = s.evq := rfl
@[simp] theorem setRecv_live : (setRecv f s).live = s.live := rfl
@[simp] theorem setRecv_draft : (setRecv f s).draft = s.draft := rfl
@[simp] theorem setRecv_rw : (setRecv f s).rw = s.rw := rfl
@[simp] theorem setRecv_nv : (setRecv f s).nv = s.nv := rfl
@[simp] theorem setRecv_tacks : (setRecv f s).tacks = s.tacks := rfl
@[simp] theorem setRecv_lash : (setRecv f s).lash = s.lash := rfl
@[simp] theorem setRecv_recv : (setRecv f s).recv = f s.recv := rfl
@[simp] theorem setRecv_cur : (setRecv f s).cur = s.cur := rfl
@[simp] theorem setRecv_zones : (setRecv f s).zones = s.zones := rfl
@[simp] theorem setRecv_base : (setRecv f s).base = s.base := rfl
@[simp] theorem setRecv_therm : (setRecv f s).therm = s.therm := rfl
@[simp] theorem setRecv_girth : (setRecv f s).girth = s.girth := rfl
@[simp] theorem setRecv_tb : (setRecv f s).tb = s.tb := rfl
@[simp] theorem setRecv_awl : (setRecv f s).awl = s.awl := rfl
@[simp] theorem setRecv_aux : (setRecv f s).aux = s.aux := rfl
@[simp] theorem setRecv_strm : (setRecv f s).strm = s.strm := rfl
@[simp] theorem setRecv_tiles : (setRecv f s).tiles = s.tiles := rfl
@[simp] theorem setRecv_mem : (setRecv f s).mem = s.mem := rfl
@[simp] theorem setRecv_dma : (setRecv f s).dma = s.dma := rfl
@[simp] theorem setRecv_cal : (setRecv f s).cal = s.cal := rfl
@[simp] theorem setRecv_can : (setRecv f s).can = s.can := rfl
@[simp] theorem setRecv_drawn : (setRecv f s).drawn = s.drawn := rfl
@[simp] theorem setRecv_pending : (setRecv f s).pending = s.pending := rfl
end

/-! ### setLane -/

section
variable (n : Nat) (f : Lane → Lane)
@[simp] theorem setLane_pwr : (setLane n f s).pwr = s.pwr := rfl
@[simp] theorem setLane_pll : (setLane n f s).pll = s.pll := rfl
@[simp] theorem setLane_harn : (setLane n f s).harn = s.harn := rfl
@[simp] theorem setLane_brg : (setLane n f s).brg = s.brg := rfl
@[simp] theorem setLane_evq : (setLane n f s).evq = s.evq := rfl
@[simp] theorem setLane_live : (setLane n f s).live = s.live := rfl
@[simp] theorem setLane_draft : (setLane n f s).draft = s.draft := rfl
@[simp] theorem setLane_rw : (setLane n f s).rw = s.rw := rfl
@[simp] theorem setLane_nv : (setLane n f s).nv = s.nv := rfl
@[simp] theorem setLane_tacks : (setLane n f s).tacks = s.tacks := rfl
@[simp] theorem setLane_lash : (setLane n f s).lash = s.lash := rfl
@[simp] theorem setLane_recv : (setLane n f s).recv = { s.recv with lanes := upd s.recv.lanes n f } := rfl
@[simp] theorem setLane_cur : (setLane n f s).cur = s.cur := rfl
@[simp] theorem setLane_zones : (setLane n f s).zones = s.zones := rfl
@[simp] theorem setLane_base : (setLane n f s).base = s.base := rfl
@[simp] theorem setLane_therm : (setLane n f s).therm = s.therm := rfl
@[simp] theorem setLane_girth : (setLane n f s).girth = s.girth := rfl
@[simp] theorem setLane_tb : (setLane n f s).tb = s.tb := rfl
@[simp] theorem setLane_awl : (setLane n f s).awl = s.awl := rfl
@[simp] theorem setLane_aux : (setLane n f s).aux = s.aux := rfl
@[simp] theorem setLane_strm : (setLane n f s).strm = s.strm := rfl
@[simp] theorem setLane_tiles : (setLane n f s).tiles = s.tiles := rfl
@[simp] theorem setLane_mem : (setLane n f s).mem = s.mem := rfl
@[simp] theorem setLane_dma : (setLane n f s).dma = s.dma := rfl
@[simp] theorem setLane_cal : (setLane n f s).cal = s.cal := rfl
@[simp] theorem setLane_can : (setLane n f s).can = s.can := rfl
@[simp] theorem setLane_drawn : (setLane n f s).drawn = s.drawn := rfl
@[simp] theorem setLane_pending : (setLane n f s).pending = s.pending := rfl
end

/-! ### setCur -/

section
variable (d : Side) (f : Currier → Currier)
@[simp] theorem setCur_pwr : (setCur d f s).pwr = s.pwr := rfl
@[simp] theorem setCur_pll : (setCur d f s).pll = s.pll := rfl
@[simp] theorem setCur_harn : (setCur d f s).harn = s.harn := rfl
@[simp] theorem setCur_brg : (setCur d f s).brg = s.brg := rfl
@[simp] theorem setCur_evq : (setCur d f s).evq = s.evq := rfl
@[simp] theorem setCur_live : (setCur d f s).live = s.live := rfl
@[simp] theorem setCur_draft : (setCur d f s).draft = s.draft := rfl
@[simp] theorem setCur_rw : (setCur d f s).rw = s.rw := rfl
@[simp] theorem setCur_nv : (setCur d f s).nv = s.nv := rfl
@[simp] theorem setCur_tacks : (setCur d f s).tacks = s.tacks := rfl
@[simp] theorem setCur_lash : (setCur d f s).lash = s.lash := rfl
@[simp] theorem setCur_recv : (setCur d f s).recv = s.recv := rfl
@[simp] theorem setCur_cur : (setCur d f s).cur = s.cur.set d (f (s.cur.get d)) := rfl
@[simp] theorem setCur_zones : (setCur d f s).zones = s.zones := rfl
@[simp] theorem setCur_base : (setCur d f s).base = s.base := rfl
@[simp] theorem setCur_therm : (setCur d f s).therm = s.therm := rfl
@[simp] theorem setCur_girth : (setCur d f s).girth = s.girth := rfl
@[simp] theorem setCur_tb : (setCur d f s).tb = s.tb := rfl
@[simp] theorem setCur_awl : (setCur d f s).awl = s.awl := rfl
@[simp] theorem setCur_aux : (setCur d f s).aux = s.aux := rfl
@[simp] theorem setCur_strm : (setCur d f s).strm = s.strm := rfl
@[simp] theorem setCur_tiles : (setCur d f s).tiles = s.tiles := rfl
@[simp] theorem setCur_mem : (setCur d f s).mem = s.mem := rfl
@[simp] theorem setCur_dma : (setCur d f s).dma = s.dma := rfl
@[simp] theorem setCur_cal : (setCur d f s).cal = s.cal := rfl
@[simp] theorem setCur_can : (setCur d f s).can = s.can := rfl
@[simp] theorem setCur_drawn : (setCur d f s).drawn = s.drawn := rfl
@[simp] theorem setCur_pending : (setCur d f s).pending = s.pending := rfl
end

/-! ### setZone -/

section
variable (z : Nat) (f : ZoneRun → ZoneRun)
@[simp] theorem setZone_pwr : (setZone z f s).pwr = s.pwr := rfl
@[simp] theorem setZone_pll : (setZone z f s).pll = s.pll := rfl
@[simp] theorem setZone_harn : (setZone z f s).harn = s.harn := rfl
@[simp] theorem setZone_brg : (setZone z f s).brg = s.brg := rfl
@[simp] theorem setZone_evq : (setZone z f s).evq = s.evq := rfl
@[simp] theorem setZone_live : (setZone z f s).live = s.live := rfl
@[simp] theorem setZone_draft : (setZone z f s).draft = s.draft := rfl
@[simp] theorem setZone_rw : (setZone z f s).rw = s.rw := rfl
@[simp] theorem setZone_nv : (setZone z f s).nv = s.nv := rfl
@[simp] theorem setZone_tacks : (setZone z f s).tacks = s.tacks := rfl
@[simp] theorem setZone_lash : (setZone z f s).lash = s.lash := rfl
@[simp] theorem setZone_recv : (setZone z f s).recv = s.recv := rfl
@[simp] theorem setZone_cur : (setZone z f s).cur = s.cur := rfl
@[simp] theorem setZone_zones : (setZone z f s).zones = kvSet ZoneRun.init s.zones z (f (zoneRun s z)) := rfl
@[simp] theorem setZone_base : (setZone z f s).base = s.base := rfl
@[simp] theorem setZone_therm : (setZone z f s).therm = s.therm := rfl
@[simp] theorem setZone_girth : (setZone z f s).girth = s.girth := rfl
@[simp] theorem setZone_tb : (setZone z f s).tb = s.tb := rfl
@[simp] theorem setZone_awl : (setZone z f s).awl = s.awl := rfl
@[simp] theorem setZone_aux : (setZone z f s).aux = s.aux := rfl
@[simp] theorem setZone_strm : (setZone z f s).strm = s.strm := rfl
@[simp] theorem setZone_tiles : (setZone z f s).tiles = s.tiles := rfl
@[simp] theorem setZone_mem : (setZone z f s).mem = s.mem := rfl
@[simp] theorem setZone_dma : (setZone z f s).dma = s.dma := rfl
@[simp] theorem setZone_cal : (setZone z f s).cal = s.cal := rfl
@[simp] theorem setZone_can : (setZone z f s).can = s.can := rfl
@[simp] theorem setZone_drawn : (setZone z f s).drawn = s.drawn := rfl
@[simp] theorem setZone_pending : (setZone z f s).pending = s.pending := rfl
end

/-! ### setBase -/

section
variable (r : Nat) (f : Baseline → Baseline)
@[simp] theorem setBase_pwr : (setBase r f s).pwr = s.pwr := rfl
@[simp] theorem setBase_pll : (setBase r f s).pll = s.pll := rfl
@[simp] theorem setBase_harn : (setBase r f s).harn = s.harn := rfl
@[simp] theorem setBase_brg : (setBase r f s).brg = s.brg := rfl
@[simp] theorem setBase_evq : (setBase r f s).evq = s.evq := rfl
@[simp] theorem setBase_live : (setBase r f s).live = s.live := rfl
@[simp] theorem setBase_draft : (setBase r f s).draft = s.draft := rfl
@[simp] theorem setBase_rw : (setBase r f s).rw = s.rw := rfl
@[simp] theorem setBase_nv : (setBase r f s).nv = s.nv := rfl
@[simp] theorem setBase_tacks : (setBase r f s).tacks = s.tacks := rfl
@[simp] theorem setBase_lash : (setBase r f s).lash = s.lash := rfl
@[simp] theorem setBase_recv : (setBase r f s).recv = s.recv := rfl
@[simp] theorem setBase_cur : (setBase r f s).cur = s.cur := rfl
@[simp] theorem setBase_zones : (setBase r f s).zones = s.zones := rfl
@[simp] theorem setBase_base : (setBase r f s).base = kvSet Baseline.none s.base r (f (baseline s r)) := rfl
@[simp] theorem setBase_therm : (setBase r f s).therm = s.therm := rfl
@[simp] theorem setBase_girth : (setBase r f s).girth = s.girth := rfl
@[simp] theorem setBase_tb : (setBase r f s).tb = s.tb := rfl
@[simp] theorem setBase_awl : (setBase r f s).awl = s.awl := rfl
@[simp] theorem setBase_aux : (setBase r f s).aux = s.aux := rfl
@[simp] theorem setBase_strm : (setBase r f s).strm = s.strm := rfl
@[simp] theorem setBase_tiles : (setBase r f s).tiles = s.tiles := rfl
@[simp] theorem setBase_mem : (setBase r f s).mem = s.mem := rfl
@[simp] theorem setBase_dma : (setBase r f s).dma = s.dma := rfl
@[simp] theorem setBase_cal : (setBase r f s).cal = s.cal := rfl
@[simp] theorem setBase_can : (setBase r f s).can = s.can := rfl
@[simp] theorem setBase_drawn : (setBase r f s).drawn = s.drawn := rfl
@[simp] theorem setBase_pending : (setBase r f s).pending = s.pending := rfl
end

/-! ### setTherm -/

section
variable (d : Side) (f : Thermal → Thermal)
@[simp] theorem setTherm_pwr : (setTherm d f s).pwr = s.pwr := rfl
@[simp] theorem setTherm_pll : (setTherm d f s).pll = s.pll := rfl
@[simp] theorem setTherm_harn : (setTherm d f s).harn = s.harn := rfl
@[simp] theorem setTherm_brg : (setTherm d f s).brg = s.brg := rfl
@[simp] theorem setTherm_evq : (setTherm d f s).evq = s.evq := rfl
@[simp] theorem setTherm_live : (setTherm d f s).live = s.live := rfl
@[simp] theorem setTherm_draft : (setTherm d f s).draft = s.draft := rfl
@[simp] theorem setTherm_rw : (setTherm d f s).rw = s.rw := rfl
@[simp] theorem setTherm_nv : (setTherm d f s).nv = s.nv := rfl
@[simp] theorem setTherm_tacks : (setTherm d f s).tacks = s.tacks := rfl
@[simp] theorem setTherm_lash : (setTherm d f s).lash = s.lash := rfl
@[simp] theorem setTherm_recv : (setTherm d f s).recv = s.recv := rfl
@[simp] theorem setTherm_cur : (setTherm d f s).cur = s.cur := rfl
@[simp] theorem setTherm_zones : (setTherm d f s).zones = s.zones := rfl
@[simp] theorem setTherm_base : (setTherm d f s).base = s.base := rfl
@[simp] theorem setTherm_therm : (setTherm d f s).therm = s.therm.set d (f (s.therm.get d)) := rfl
@[simp] theorem setTherm_girth : (setTherm d f s).girth = s.girth := rfl
@[simp] theorem setTherm_tb : (setTherm d f s).tb = s.tb := rfl
@[simp] theorem setTherm_awl : (setTherm d f s).awl = s.awl := rfl
@[simp] theorem setTherm_aux : (setTherm d f s).aux = s.aux := rfl
@[simp] theorem setTherm_strm : (setTherm d f s).strm = s.strm := rfl
@[simp] theorem setTherm_tiles : (setTherm d f s).tiles = s.tiles := rfl
@[simp] theorem setTherm_mem : (setTherm d f s).mem = s.mem := rfl
@[simp] theorem setTherm_dma : (setTherm d f s).dma = s.dma := rfl
@[simp] theorem setTherm_cal : (setTherm d f s).cal = s.cal := rfl
@[simp] theorem setTherm_can : (setTherm d f s).can = s.can := rfl
@[simp] theorem setTherm_drawn : (setTherm d f s).drawn = s.drawn := rfl
@[simp] theorem setTherm_pending : (setTherm d f s).pending = s.pending := rfl
end

/-! ### setGirth -/

section
variable (d : Side) (f : GirthSide → GirthSide)
@[simp] theorem setGirth_pwr : (setGirth d f s).pwr = s.pwr := rfl
@[simp] theorem setGirth_pll : (setGirth d f s).pll = s.pll := rfl
@[simp] theorem setGirth_harn : (setGirth d f s).harn = s.harn := rfl
@[simp] theorem setGirth_brg : (setGirth d f s).brg = s.brg := rfl
@[simp] theorem setGirth_evq : (setGirth d f s).evq = s.evq := rfl
@[simp] theorem setGirth_live : (setGirth d f s).live = s.live := rfl
@[simp] theorem setGirth_draft : (setGirth d f s).draft = s.draft := rfl
@[simp] theorem setGirth_rw : (setGirth d f s).rw = s.rw := rfl
@[simp] theorem setGirth_nv : (setGirth d f s).nv = s.nv := rfl
@[simp] theorem setGirth_tacks : (setGirth d f s).tacks = s.tacks := rfl
@[simp] theorem setGirth_lash : (setGirth d f s).lash = s.lash := rfl
@[simp] theorem setGirth_recv : (setGirth d f s).recv = s.recv := rfl
@[simp] theorem setGirth_cur : (setGirth d f s).cur = s.cur := rfl
@[simp] theorem setGirth_zones : (setGirth d f s).zones = s.zones := rfl
@[simp] theorem setGirth_base : (setGirth d f s).base = s.base := rfl
@[simp] theorem setGirth_therm : (setGirth d f s).therm = s.therm := rfl
@[simp] theorem setGirth_girth : (setGirth d f s).girth = s.girth.setSide d (f (s.girth.side d)) := rfl
@[simp] theorem setGirth_tb : (setGirth d f s).tb = s.tb := rfl
@[simp] theorem setGirth_awl : (setGirth d f s).awl = s.awl := rfl
@[simp] theorem setGirth_aux : (setGirth d f s).aux = s.aux := rfl
@[simp] theorem setGirth_strm : (setGirth d f s).strm = s.strm := rfl
@[simp] theorem setGirth_tiles : (setGirth d f s).tiles = s.tiles := rfl
@[simp] theorem setGirth_mem : (setGirth d f s).mem = s.mem := rfl
@[simp] theorem setGirth_dma : (setGirth d f s).dma = s.dma := rfl
@[simp] theorem setGirth_cal : (setGirth d f s).cal = s.cal := rfl
@[simp] theorem setGirth_can : (setGirth d f s).can = s.can := rfl
@[simp] theorem setGirth_drawn : (setGirth d f s).drawn = s.drawn := rfl
@[simp] theorem setGirth_pending : (setGirth d f s).pending = s.pending := rfl
end

/-! ### setTb -/

section
variable (f : TimeBase → TimeBase)
@[simp] theorem setTb_pwr : (setTb f s).pwr = s.pwr := rfl
@[simp] theorem setTb_pll : (setTb f s).pll = s.pll := rfl
@[simp] theorem setTb_harn : (setTb f s).harn = s.harn := rfl
@[simp] theorem setTb_brg : (setTb f s).brg = s.brg := rfl
@[simp] theorem setTb_evq : (setTb f s).evq = s.evq := rfl
@[simp] theorem setTb_live : (setTb f s).live = s.live := rfl
@[simp] theorem setTb_draft : (setTb f s).draft = s.draft := rfl
@[simp] theorem setTb_rw : (setTb f s).rw = s.rw := rfl
@[simp] theorem setTb_nv : (setTb f s).nv = s.nv := rfl
@[simp] theorem setTb_tacks : (setTb f s).tacks = s.tacks := rfl
@[simp] theorem setTb_lash : (setTb f s).lash = s.lash := rfl
@[simp] theorem setTb_recv : (setTb f s).recv = s.recv := rfl
@[simp] theorem setTb_cur : (setTb f s).cur = s.cur := rfl
@[simp] theorem setTb_zones : (setTb f s).zones = s.zones := rfl
@[simp] theorem setTb_base : (setTb f s).base = s.base := rfl
@[simp] theorem setTb_therm : (setTb f s).therm = s.therm := rfl
@[simp] theorem setTb_girth : (setTb f s).girth = s.girth := rfl
@[simp] theorem setTb_tb : (setTb f s).tb = f s.tb := rfl
@[simp] theorem setTb_awl : (setTb f s).awl = s.awl := rfl
@[simp] theorem setTb_aux : (setTb f s).aux = s.aux := rfl
@[simp] theorem setTb_strm : (setTb f s).strm = s.strm := rfl
@[simp] theorem setTb_tiles : (setTb f s).tiles = s.tiles := rfl
@[simp] theorem setTb_mem : (setTb f s).mem = s.mem := rfl
@[simp] theorem setTb_dma : (setTb f s).dma = s.dma := rfl
@[simp] theorem setTb_cal : (setTb f s).cal = s.cal := rfl
@[simp] theorem setTb_can : (setTb f s).can = s.can := rfl
@[simp] theorem setTb_drawn : (setTb f s).drawn = s.drawn := rfl
@[simp] theorem setTb_pending : (setTb f s).pending = s.pending := rfl
end

/-! ### setAwl -/

section
variable (n : Nat) (f : AwlInput → AwlInput)
@[simp] theorem setAwl_pwr : (setAwl n f s).pwr = s.pwr := rfl
@[simp] theorem setAwl_pll : (setAwl n f s).pll = s.pll := rfl
@[simp] theorem setAwl_harn : (setAwl n f s).harn = s.harn := rfl
@[simp] theorem setAwl_brg : (setAwl n f s).brg = s.brg := rfl
@[simp] theorem setAwl_evq : (setAwl n f s).evq = s.evq := rfl
@[simp] theorem setAwl_live : (setAwl n f s).live = s.live := rfl
@[simp] theorem setAwl_draft : (setAwl n f s).draft = s.draft := rfl
@[simp] theorem setAwl_rw : (setAwl n f s).rw = s.rw := rfl
@[simp] theorem setAwl_nv : (setAwl n f s).nv = s.nv := rfl
@[simp] theorem setAwl_tacks : (setAwl n f s).tacks = s.tacks := rfl
@[simp] theorem setAwl_lash : (setAwl n f s).lash = s.lash := rfl
@[simp] theorem setAwl_recv : (setAwl n f s).recv = s.recv := rfl
@[simp] theorem setAwl_cur : (setAwl n f s).cur = s.cur := rfl
@[simp] theorem setAwl_zones : (setAwl n f s).zones = s.zones := rfl
@[simp] theorem setAwl_base : (setAwl n f s).base = s.base := rfl
@[simp] theorem setAwl_therm : (setAwl n f s).therm = s.therm := rfl
@[simp] theorem setAwl_girth : (setAwl n f s).girth = s.girth := rfl
@[simp] theorem setAwl_tb : (setAwl n f s).tb = s.tb := rfl
@[simp] theorem setAwl_awl : (setAwl n f s).awl = upd s.awl n f := rfl
@[simp] theorem setAwl_aux : (setAwl n f s).aux = s.aux := rfl
@[simp] theorem setAwl_strm : (setAwl n f s).strm = s.strm := rfl
@[simp] theorem setAwl_tiles : (setAwl n f s).tiles = s.tiles := rfl
@[simp] theorem setAwl_mem : (setAwl n f s).mem = s.mem := rfl
@[simp] theorem setAwl_dma : (setAwl n f s).dma = s.dma := rfl
@[simp] theorem setAwl_cal : (setAwl n f s).cal = s.cal := rfl
@[simp] theorem setAwl_can : (setAwl n f s).can = s.can := rfl
@[simp] theorem setAwl_drawn : (setAwl n f s).drawn = s.drawn := rfl
@[simp] theorem setAwl_pending : (setAwl n f s).pending = s.pending := rfl
end

/-! ### setAux -/

section
variable (f : Aux → Aux)
@[simp] theorem setAux_pwr : (setAux f s).pwr = s.pwr := rfl
@[simp] theorem setAux_pll : (setAux f s).pll = s.pll := rfl
@[simp] theorem setAux_harn : (setAux f s).harn = s.harn := rfl
@[simp] theorem setAux_brg : (setAux f s).brg = s.brg := rfl
@[simp] theorem setAux_evq : (setAux f s).evq = s.evq := rfl
@[simp] theorem setAux_live : (setAux f s).live = s.live := rfl
@[simp] theorem setAux_draft : (setAux f s).draft = s.draft := rfl
@[simp] theorem setAux_rw : (setAux f s).rw = s.rw := rfl
@[simp] theorem setAux_nv : (setAux f s).nv = s.nv := rfl
@[simp] theorem setAux_tacks : (setAux f s).tacks = s.tacks := rfl
@[simp] theorem setAux_lash : (setAux f s).lash = s.lash := rfl
@[simp] theorem setAux_recv : (setAux f s).recv = s.recv := rfl
@[simp] theorem setAux_cur : (setAux f s).cur = s.cur := rfl
@[simp] theorem setAux_zones : (setAux f s).zones = s.zones := rfl
@[simp] theorem setAux_base : (setAux f s).base = s.base := rfl
@[simp] theorem setAux_therm : (setAux f s).therm = s.therm := rfl
@[simp] theorem setAux_girth : (setAux f s).girth = s.girth := rfl
@[simp] theorem setAux_tb : (setAux f s).tb = s.tb := rfl
@[simp] theorem setAux_awl : (setAux f s).awl = s.awl := rfl
@[simp] theorem setAux_aux : (setAux f s).aux = f s.aux := rfl
@[simp] theorem setAux_strm : (setAux f s).strm = s.strm := rfl
@[simp] theorem setAux_tiles : (setAux f s).tiles = s.tiles := rfl
@[simp] theorem setAux_mem : (setAux f s).mem = s.mem := rfl
@[simp] theorem setAux_dma : (setAux f s).dma = s.dma := rfl
@[simp] theorem setAux_cal : (setAux f s).cal = s.cal := rfl
@[simp] theorem setAux_can : (setAux f s).can = s.can := rfl
@[simp] theorem setAux_drawn : (setAux f s).drawn = s.drawn := rfl
@[simp] theorem setAux_pending : (setAux f s).pending = s.pending := rfl
end

/-! ### setStrm -/

section
variable (f : Stream → Stream)
@[simp] theorem setStrm_pwr : (setStrm f s).pwr = s.pwr := rfl
@[simp] theorem setStrm_pll : (setStrm f s).pll = s.pll := rfl
@[simp] theorem setStrm_harn : (setStrm f s).harn = s.harn := rfl
@[simp] theorem setStrm_brg : (setStrm f s).brg = s.brg := rfl
@[simp] theorem setStrm_evq : (setStrm f s).evq = s.evq := rfl
@[simp] theorem setStrm_live : (setStrm f s).live = s.live := rfl
@[simp] theorem setStrm_draft : (setStrm f s).draft = s.draft := rfl
@[simp] theorem setStrm_rw : (setStrm f s).rw = s.rw := rfl
@[simp] theorem setStrm_nv : (setStrm f s).nv = s.nv := rfl
@[simp] theorem setStrm_tacks : (setStrm f s).tacks = s.tacks := rfl
@[simp] theorem setStrm_lash : (setStrm f s).lash = s.lash := rfl
@[simp] theorem setStrm_recv : (setStrm f s).recv = s.recv := rfl
@[simp] theorem setStrm_cur : (setStrm f s).cur = s.cur := rfl
@[simp] theorem setStrm_zones : (setStrm f s).zones = s.zones := rfl
@[simp] theorem setStrm_base : (setStrm f s).base = s.base := rfl
@[simp] theorem setStrm_therm : (setStrm f s).therm = s.therm := rfl
@[simp] theorem setStrm_girth : (setStrm f s).girth = s.girth := rfl
@[simp] theorem setStrm_tb : (setStrm f s).tb = s.tb := rfl
@[simp] theorem setStrm_awl : (setStrm f s).awl = s.awl := rfl
@[simp] theorem setStrm_aux : (setStrm f s).aux = s.aux := rfl
@[simp] theorem setStrm_strm : (setStrm f s).strm = f s.strm := rfl
@[simp] theorem setStrm_tiles : (setStrm f s).tiles = s.tiles := rfl
@[simp] theorem setStrm_mem : (setStrm f s).mem = s.mem := rfl
@[simp] theorem setStrm_dma : (setStrm f s).dma = s.dma := rfl
@[simp] theorem setStrm_cal : (setStrm f s).cal = s.cal := rfl
@[simp] theorem setStrm_can : (setStrm f s).can = s.can := rfl
@[simp] theorem setStrm_drawn : (setStrm f s).drawn = s.drawn := rfl
@[simp] theorem setStrm_pending : (setStrm f s).pending = s.pending := rfl
end

/-! ### setMem -/

section
variable (f : Mem → Mem)
@[simp] theorem setMem_pwr : (setMem f s).pwr = s.pwr := rfl
@[simp] theorem setMem_pll : (setMem f s).pll = s.pll := rfl
@[simp] theorem setMem_harn : (setMem f s).harn = s.harn := rfl
@[simp] theorem setMem_brg : (setMem f s).brg = s.brg := rfl
@[simp] theorem setMem_evq : (setMem f s).evq = s.evq := rfl
@[simp] theorem setMem_live : (setMem f s).live = s.live := rfl
@[simp] theorem setMem_draft : (setMem f s).draft = s.draft := rfl
@[simp] theorem setMem_rw : (setMem f s).rw = s.rw := rfl
@[simp] theorem setMem_nv : (setMem f s).nv = s.nv := rfl
@[simp] theorem setMem_tacks : (setMem f s).tacks = s.tacks := rfl
@[simp] theorem setMem_lash : (setMem f s).lash = s.lash := rfl
@[simp] theorem setMem_recv : (setMem f s).recv = s.recv := rfl
@[simp] theorem setMem_cur : (setMem f s).cur = s.cur := rfl
@[simp] theorem setMem_zones : (setMem f s).zones = s.zones := rfl
@[simp] theorem setMem_base : (setMem f s).base = s.base := rfl
@[simp] theorem setMem_therm : (setMem f s).therm = s.therm := rfl
@[simp] theorem setMem_girth : (setMem f s).girth = s.girth := rfl
@[simp] theorem setMem_tb : (setMem f s).tb = s.tb := rfl
@[simp] theorem setMem_awl : (setMem f s).awl = s.awl := rfl
@[simp] theorem setMem_aux : (setMem f s).aux = s.aux := rfl
@[simp] theorem setMem_strm : (setMem f s).strm = s.strm := rfl
@[simp] theorem setMem_tiles : (setMem f s).tiles = s.tiles := rfl
@[simp] theorem setMem_mem : (setMem f s).mem = f s.mem := rfl
@[simp] theorem setMem_dma : (setMem f s).dma = s.dma := rfl
@[simp] theorem setMem_cal : (setMem f s).cal = s.cal := rfl
@[simp] theorem setMem_can : (setMem f s).can = s.can := rfl
@[simp] theorem setMem_drawn : (setMem f s).drawn = s.drawn := rfl
@[simp] theorem setMem_pending : (setMem f s).pending = s.pending := rfl
end

/-! ### wakeMem -/

@[simp] theorem wakeMem_pwr : (wakeMem s).pwr = s.pwr := rfl
@[simp] theorem wakeMem_pll : (wakeMem s).pll = s.pll := rfl
@[simp] theorem wakeMem_harn : (wakeMem s).harn = s.harn := rfl
@[simp] theorem wakeMem_brg : (wakeMem s).brg = s.brg := rfl
@[simp] theorem wakeMem_evq : (wakeMem s).evq = s.evq := rfl
@[simp] theorem wakeMem_live : (wakeMem s).live = s.live := rfl
@[simp] theorem wakeMem_draft : (wakeMem s).draft = s.draft := rfl
@[simp] theorem wakeMem_rw : (wakeMem s).rw = s.rw := rfl
@[simp] theorem wakeMem_nv : (wakeMem s).nv = s.nv := rfl
@[simp] theorem wakeMem_tacks : (wakeMem s).tacks = s.tacks := rfl
@[simp] theorem wakeMem_lash : (wakeMem s).lash = s.lash := rfl
@[simp] theorem wakeMem_recv : (wakeMem s).recv = s.recv := rfl
@[simp] theorem wakeMem_cur : (wakeMem s).cur = s.cur := rfl
@[simp] theorem wakeMem_zones : (wakeMem s).zones = s.zones := rfl
@[simp] theorem wakeMem_base : (wakeMem s).base = s.base := rfl
@[simp] theorem wakeMem_therm : (wakeMem s).therm = s.therm := rfl
@[simp] theorem wakeMem_girth : (wakeMem s).girth = s.girth := rfl
@[simp] theorem wakeMem_tb : (wakeMem s).tb = s.tb := rfl
@[simp] theorem wakeMem_awl : (wakeMem s).awl = s.awl := rfl
@[simp] theorem wakeMem_aux : (wakeMem s).aux = s.aux := rfl
@[simp] theorem wakeMem_strm : (wakeMem s).strm = s.strm := rfl
@[simp] theorem wakeMem_tiles : (wakeMem s).tiles = s.tiles := rfl
@[simp] theorem wakeMem_mem : (wakeMem s).mem = { s.mem with selfRefresh := false } := rfl
@[simp] theorem wakeMem_dma : (wakeMem s).dma = s.dma := rfl
@[simp] theorem wakeMem_cal : (wakeMem s).cal = s.cal := rfl
@[simp] theorem wakeMem_can : (wakeMem s).can = s.can := rfl
@[simp] theorem wakeMem_drawn : (wakeMem s).drawn = s.drawn := rfl
@[simp] theorem wakeMem_pending : (wakeMem s).pending = s.pending := rfl

/-! ### setBytes -/

section
variable (f : List Host.Cell → List Host.Cell)
@[simp] theorem setBytes_pwr : (setBytes f s).pwr = s.pwr := rfl
@[simp] theorem setBytes_pll : (setBytes f s).pll = s.pll := rfl
@[simp] theorem setBytes_harn : (setBytes f s).harn = s.harn := rfl
@[simp] theorem setBytes_brg : (setBytes f s).brg = s.brg := rfl
@[simp] theorem setBytes_evq : (setBytes f s).evq = s.evq := rfl
@[simp] theorem setBytes_live : (setBytes f s).live = s.live := rfl
@[simp] theorem setBytes_draft : (setBytes f s).draft = s.draft := rfl
@[simp] theorem setBytes_rw : (setBytes f s).rw = s.rw := rfl
@[simp] theorem setBytes_nv : (setBytes f s).nv = s.nv := rfl
@[simp] theorem setBytes_tacks : (setBytes f s).tacks = s.tacks := rfl
@[simp] theorem setBytes_lash : (setBytes f s).lash = s.lash := rfl
@[simp] theorem setBytes_recv : (setBytes f s).recv = s.recv := rfl
@[simp] theorem setBytes_cur : (setBytes f s).cur = s.cur := rfl
@[simp] theorem setBytes_zones : (setBytes f s).zones = s.zones := rfl
@[simp] theorem setBytes_base : (setBytes f s).base = s.base := rfl
@[simp] theorem setBytes_therm : (setBytes f s).therm = s.therm := rfl
@[simp] theorem setBytes_girth : (setBytes f s).girth = s.girth := rfl
@[simp] theorem setBytes_tb : (setBytes f s).tb = s.tb := rfl
@[simp] theorem setBytes_awl : (setBytes f s).awl = s.awl := rfl
@[simp] theorem setBytes_aux : (setBytes f s).aux = s.aux := rfl
@[simp] theorem setBytes_strm : (setBytes f s).strm = s.strm := rfl
@[simp] theorem setBytes_tiles : (setBytes f s).tiles = s.tiles := rfl
@[simp] theorem setBytes_mem : (setBytes f s).mem = { s.mem with bytes := f s.mem.bytes } := rfl
@[simp] theorem setBytes_dma : (setBytes f s).dma = s.dma := rfl
@[simp] theorem setBytes_cal : (setBytes f s).cal = s.cal := rfl
@[simp] theorem setBytes_can : (setBytes f s).can = s.can := rfl
@[simp] theorem setBytes_drawn : (setBytes f s).drawn = s.drawn := rfl
@[simp] theorem setBytes_pending : (setBytes f s).pending = s.pending := rfl
end

/-! ### setChan -/

section
variable (n : Nat) (f : DmaChan → DmaChan)
@[simp] theorem setChan_pwr : (setChan n f s).pwr = s.pwr := rfl
@[simp] theorem setChan_pll : (setChan n f s).pll = s.pll := rfl
@[simp] theorem setChan_harn : (setChan n f s).harn = s.harn := rfl
@[simp] theorem setChan_brg : (setChan n f s).brg = s.brg := rfl
@[simp] theorem setChan_evq : (setChan n f s).evq = s.evq := rfl
@[simp] theorem setChan_live : (setChan n f s).live = s.live := rfl
@[simp] theorem setChan_draft : (setChan n f s).draft = s.draft := rfl
@[simp] theorem setChan_rw : (setChan n f s).rw = s.rw := rfl
@[simp] theorem setChan_nv : (setChan n f s).nv = s.nv := rfl
@[simp] theorem setChan_tacks : (setChan n f s).tacks = s.tacks := rfl
@[simp] theorem setChan_lash : (setChan n f s).lash = s.lash := rfl
@[simp] theorem setChan_recv : (setChan n f s).recv = s.recv := rfl
@[simp] theorem setChan_cur : (setChan n f s).cur = s.cur := rfl
@[simp] theorem setChan_zones : (setChan n f s).zones = s.zones := rfl
@[simp] theorem setChan_base : (setChan n f s).base = s.base := rfl
@[simp] theorem setChan_therm : (setChan n f s).therm = s.therm := rfl
@[simp] theorem setChan_girth : (setChan n f s).girth = s.girth := rfl
@[simp] theorem setChan_tb : (setChan n f s).tb = s.tb := rfl
@[simp] theorem setChan_awl : (setChan n f s).awl = s.awl := rfl
@[simp] theorem setChan_aux : (setChan n f s).aux = s.aux := rfl
@[simp] theorem setChan_strm : (setChan n f s).strm = s.strm := rfl
@[simp] theorem setChan_tiles : (setChan n f s).tiles = s.tiles := rfl
@[simp] theorem setChan_mem : (setChan n f s).mem = s.mem := rfl
@[simp] theorem setChan_dma : (setChan n f s).dma = { s.dma with chans := upd s.dma.chans n f } := rfl
@[simp] theorem setChan_cal : (setChan n f s).cal = s.cal := rfl
@[simp] theorem setChan_can : (setChan n f s).can = s.can := rfl
@[simp] theorem setChan_drawn : (setChan n f s).drawn = s.drawn := rfl
@[simp] theorem setChan_pending : (setChan n f s).pending = s.pending := rfl
end

/-! ### setCal -/

section
variable (g : Nat) (f : CalGroup → CalGroup)
@[simp] theorem setCal_pwr : (setCal g f s).pwr = s.pwr := rfl
@[simp] theorem setCal_pll : (setCal g f s).pll = s.pll := rfl
@[simp] theorem setCal_harn : (setCal g f s).harn = s.harn := rfl
@[simp] theorem setCal_brg : (setCal g f s).brg = s.brg := rfl
@[simp] theorem setCal_evq : (setCal g f s).evq = s.evq := rfl
@[simp] theorem setCal_live : (setCal g f s).live = s.live := rfl
@[simp] theorem setCal_draft : (setCal g f s).draft = s.draft := rfl
@[simp] theorem setCal_rw : (setCal g f s).rw = s.rw := rfl
@[simp] theorem setCal_nv : (setCal g f s).nv = s.nv := rfl
@[simp] theorem setCal_tacks : (setCal g f s).tacks = s.tacks := rfl
@[simp] theorem setCal_lash : (setCal g f s).lash = s.lash := rfl
@[simp] theorem setCal_recv : (setCal g f s).recv = s.recv := rfl
@[simp] theorem setCal_cur : (setCal g f s).cur = s.cur := rfl
@[simp] theorem setCal_zones : (setCal g f s).zones = s.zones := rfl
@[simp] theorem setCal_base : (setCal g f s).base = s.base := rfl
@[simp] theorem setCal_therm : (setCal g f s).therm = s.therm := rfl
@[simp] theorem setCal_girth : (setCal g f s).girth = s.girth := rfl
@[simp] theorem setCal_tb : (setCal g f s).tb = s.tb := rfl
@[simp] theorem setCal_awl : (setCal g f s).awl = s.awl := rfl
@[simp] theorem setCal_aux : (setCal g f s).aux = s.aux := rfl
@[simp] theorem setCal_strm : (setCal g f s).strm = s.strm := rfl
@[simp] theorem setCal_tiles : (setCal g f s).tiles = s.tiles := rfl
@[simp] theorem setCal_mem : (setCal g f s).mem = s.mem := rfl
@[simp] theorem setCal_dma : (setCal g f s).dma = s.dma := rfl
@[simp] theorem setCal_cal : (setCal g f s).cal = { s.cal with groups := upd s.cal.groups g f } := rfl
@[simp] theorem setCal_can : (setCal g f s).can = s.can := rfl
@[simp] theorem setCal_drawn : (setCal g f s).drawn = s.drawn := rfl
@[simp] theorem setCal_pending : (setCal g f s).pending = s.pending := rfl
end

/-! ### setCan -/

section
variable (f : Cantle → Cantle)
@[simp] theorem setCan_pwr : (setCan f s).pwr = s.pwr := rfl
@[simp] theorem setCan_pll : (setCan f s).pll = s.pll := rfl
@[simp] theorem setCan_harn : (setCan f s).harn = s.harn := rfl
@[simp] theorem setCan_brg : (setCan f s).brg = s.brg := rfl
@[simp] theorem setCan_evq : (setCan f s).evq = s.evq := rfl
@[simp] theorem setCan_live : (setCan f s).live = s.live := rfl
@[simp] theorem setCan_draft : (setCan f s).draft = s.draft := rfl
@[simp] theorem setCan_rw : (setCan f s).rw = s.rw := rfl
@[simp] theorem setCan_nv : (setCan f s).nv = s.nv := rfl
@[simp] theorem setCan_tacks : (setCan f s).tacks = s.tacks := rfl
@[simp] theorem setCan_lash : (setCan f s).lash = s.lash := rfl
@[simp] theorem setCan_recv : (setCan f s).recv = s.recv := rfl
@[simp] theorem setCan_cur : (setCan f s).cur = s.cur := rfl
@[simp] theorem setCan_zones : (setCan f s).zones = s.zones := rfl
@[simp] theorem setCan_base : (setCan f s).base = s.base := rfl
@[simp] theorem setCan_therm : (setCan f s).therm = s.therm := rfl
@[simp] theorem setCan_girth : (setCan f s).girth = s.girth := rfl
@[simp] theorem setCan_tb : (setCan f s).tb = s.tb := rfl
@[simp] theorem setCan_awl : (setCan f s).awl = s.awl := rfl
@[simp] theorem setCan_aux : (setCan f s).aux = s.aux := rfl
@[simp] theorem setCan_strm : (setCan f s).strm = s.strm := rfl
@[simp] theorem setCan_tiles : (setCan f s).tiles = s.tiles := rfl
@[simp] theorem setCan_mem : (setCan f s).mem = s.mem := rfl
@[simp] theorem setCan_dma : (setCan f s).dma = s.dma := rfl
@[simp] theorem setCan_cal : (setCan f s).cal = s.cal := rfl
@[simp] theorem setCan_can : (setCan f s).can = f s.can := rfl
@[simp] theorem setCan_drawn : (setCan f s).drawn = s.drawn := rfl
@[simp] theorem setCan_pending : (setCan f s).pending = s.pending := rfl
end

/-! ### occupy -/

section
variable (k : Nat) (r : Res)
@[simp] theorem occupy_pwr : (occupy k r s).pwr = s.pwr := rfl
@[simp] theorem occupy_pll : (occupy k r s).pll = s.pll := rfl
@[simp] theorem occupy_harn : (occupy k r s).harn = s.harn := rfl
@[simp] theorem occupy_brg : (occupy k r s).brg = { s.brg with slots := s.brg.slots.set k (.running r) } := rfl
@[simp] theorem occupy_evq : (occupy k r s).evq = s.evq := rfl
@[simp] theorem occupy_live : (occupy k r s).live = s.live := rfl
@[simp] theorem occupy_draft : (occupy k r s).draft = s.draft := rfl
@[simp] theorem occupy_rw : (occupy k r s).rw = s.rw := rfl
@[simp] theorem occupy_nv : (occupy k r s).nv = s.nv := rfl
@[simp] theorem occupy_tacks : (occupy k r s).tacks = s.tacks := rfl
@[simp] theorem occupy_lash : (occupy k r s).lash = s.lash := rfl
@[simp] theorem occupy_recv : (occupy k r s).recv = s.recv := rfl
@[simp] theorem occupy_cur : (occupy k r s).cur = s.cur := rfl
@[simp] theorem occupy_zones : (occupy k r s).zones = s.zones := rfl
@[simp] theorem occupy_base : (occupy k r s).base = s.base := rfl
@[simp] theorem occupy_therm : (occupy k r s).therm = s.therm := rfl
@[simp] theorem occupy_girth : (occupy k r s).girth = s.girth := rfl
@[simp] theorem occupy_tb : (occupy k r s).tb = s.tb := rfl
@[simp] theorem occupy_awl : (occupy k r s).awl = s.awl := rfl
@[simp] theorem occupy_aux : (occupy k r s).aux = s.aux := rfl
@[simp] theorem occupy_strm : (occupy k r s).strm = s.strm := rfl
@[simp] theorem occupy_tiles : (occupy k r s).tiles = s.tiles := rfl
@[simp] theorem occupy_mem : (occupy k r s).mem = s.mem := rfl
@[simp] theorem occupy_dma : (occupy k r s).dma = s.dma := rfl
@[simp] theorem occupy_cal : (occupy k r s).cal = s.cal := rfl
@[simp] theorem occupy_can : (occupy k r s).can = s.can := rfl
@[simp] theorem occupy_drawn : (occupy k r s).drawn = s.drawn := rfl
@[simp] theorem occupy_pending : (occupy k r s).pending = s.pending := rfl
end

/-! ### postAt -/

section
variable (n d : Nat) (t : Word)
@[simp] theorem postAt_pwr : (postAt n d t s).pwr = s.pwr := rfl
@[simp] theorem postAt_pll : (postAt n d t s).pll = s.pll := rfl
@[simp] theorem postAt_harn : (postAt n d t s).harn = s.harn := rfl
@[simp] theorem postAt_brg : (postAt n d t s).brg = s.brg := rfl
@[simp] theorem postAt_live : (postAt n d t s).live = s.live := rfl
@[simp] theorem postAt_draft : (postAt n d t s).draft = s.draft := rfl
@[simp] theorem postAt_rw : (postAt n d t s).rw = s.rw := rfl
@[simp] theorem postAt_nv : (postAt n d t s).nv = s.nv := rfl
@[simp] theorem postAt_tacks : (postAt n d t s).tacks = s.tacks := rfl
@[simp] theorem postAt_lash : (postAt n d t s).lash = s.lash := rfl
@[simp] theorem postAt_recv : (postAt n d t s).recv = s.recv := rfl
@[simp] theorem postAt_cur : (postAt n d t s).cur = s.cur := rfl
@[simp] theorem postAt_zones : (postAt n d t s).zones = s.zones := rfl
@[simp] theorem postAt_base : (postAt n d t s).base = s.base := rfl
@[simp] theorem postAt_therm : (postAt n d t s).therm = s.therm := rfl
@[simp] theorem postAt_girth : (postAt n d t s).girth = s.girth := rfl
@[simp] theorem postAt_tb : (postAt n d t s).tb = s.tb := rfl
@[simp] theorem postAt_awl : (postAt n d t s).awl = s.awl := rfl
@[simp] theorem postAt_aux : (postAt n d t s).aux = s.aux := rfl
@[simp] theorem postAt_strm : (postAt n d t s).strm = s.strm := rfl
@[simp] theorem postAt_tiles : (postAt n d t s).tiles = s.tiles := rfl
@[simp] theorem postAt_mem : (postAt n d t s).mem = s.mem := rfl
@[simp] theorem postAt_dma : (postAt n d t s).dma = s.dma := rfl
@[simp] theorem postAt_cal : (postAt n d t s).cal = s.cal := rfl
@[simp] theorem postAt_can : (postAt n d t s).can = s.can := rfl
@[simp] theorem postAt_drawn : (postAt n d t s).drawn = s.drawn := rfl
@[simp] theorem postAt_pending : (postAt n d t s).pending = s.pending := rfl
end

/-! ### post -/

section
variable (n d : Nat)
@[simp] theorem post_pwr : (post n d s).pwr = s.pwr := rfl
@[simp] theorem post_pll : (post n d s).pll = s.pll := rfl
@[simp] theorem post_harn : (post n d s).harn = s.harn := rfl
@[simp] theorem post_brg : (post n d s).brg = s.brg := rfl
@[simp] theorem post_live : (post n d s).live = s.live := rfl
@[simp] theorem post_draft : (post n d s).draft = s.draft := rfl
@[simp] theorem post_rw : (post n d s).rw = s.rw := rfl
@[simp] theorem post_nv : (post n d s).nv = s.nv := rfl
@[simp] theorem post_tacks : (post n d s).tacks = s.tacks := rfl
@[simp] theorem post_lash : (post n d s).lash = s.lash := rfl
@[simp] theorem post_recv : (post n d s).recv = s.recv := rfl
@[simp] theorem post_cur : (post n d s).cur = s.cur := rfl
@[simp] theorem post_zones : (post n d s).zones = s.zones := rfl
@[simp] theorem post_base : (post n d s).base = s.base := rfl
@[simp] theorem post_therm : (post n d s).therm = s.therm := rfl
@[simp] theorem post_girth : (post n d s).girth = s.girth := rfl
@[simp] theorem post_tb : (post n d s).tb = s.tb := rfl
@[simp] theorem post_awl : (post n d s).awl = s.awl := rfl
@[simp] theorem post_aux : (post n d s).aux = s.aux := rfl
@[simp] theorem post_strm : (post n d s).strm = s.strm := rfl
@[simp] theorem post_tiles : (post n d s).tiles = s.tiles := rfl
@[simp] theorem post_mem : (post n d s).mem = s.mem := rfl
@[simp] theorem post_dma : (post n d s).dma = s.dma := rfl
@[simp] theorem post_cal : (post n d s).cal = s.cal := rfl
@[simp] theorem post_can : (post n d s).can = s.can := rfl
@[simp] theorem post_drawn : (post n d s).drawn = s.drawn := rfl
@[simp] theorem post_pending : (post n d s).pending = s.pending := rfl
end

/-! ### logRecord -/

section
variable (c d : Nat) (t : Word) (l : List Word)
@[simp] theorem logRecord_pwr : (logRecord c d t l s).pwr = s.pwr := rfl
@[simp] theorem logRecord_pll : (logRecord c d t l s).pll = s.pll := rfl
@[simp] theorem logRecord_harn : (logRecord c d t l s).harn = s.harn := rfl
@[simp] theorem logRecord_brg : (logRecord c d t l s).brg = s.brg := rfl
@[simp] theorem logRecord_live : (logRecord c d t l s).live = s.live := rfl
@[simp] theorem logRecord_draft : (logRecord c d t l s).draft = s.draft := rfl
@[simp] theorem logRecord_rw : (logRecord c d t l s).rw = s.rw := rfl
@[simp] theorem logRecord_nv : (logRecord c d t l s).nv = s.nv := rfl
@[simp] theorem logRecord_tacks : (logRecord c d t l s).tacks = s.tacks := rfl
@[simp] theorem logRecord_lash : (logRecord c d t l s).lash = s.lash := rfl
@[simp] theorem logRecord_recv : (logRecord c d t l s).recv = s.recv := rfl
@[simp] theorem logRecord_cur : (logRecord c d t l s).cur = s.cur := rfl
@[simp] theorem logRecord_zones : (logRecord c d t l s).zones = s.zones := rfl
@[simp] theorem logRecord_base : (logRecord c d t l s).base = s.base := rfl
@[simp] theorem logRecord_therm : (logRecord c d t l s).therm = s.therm := rfl
@[simp] theorem logRecord_girth : (logRecord c d t l s).girth = s.girth := rfl
@[simp] theorem logRecord_tb : (logRecord c d t l s).tb = s.tb := rfl
@[simp] theorem logRecord_awl : (logRecord c d t l s).awl = s.awl := rfl
@[simp] theorem logRecord_aux : (logRecord c d t l s).aux = s.aux := rfl
@[simp] theorem logRecord_strm : (logRecord c d t l s).strm = s.strm := rfl
@[simp] theorem logRecord_tiles : (logRecord c d t l s).tiles = s.tiles := rfl
@[simp] theorem logRecord_mem : (logRecord c d t l s).mem = s.mem := rfl
@[simp] theorem logRecord_dma : (logRecord c d t l s).dma = s.dma := rfl
@[simp] theorem logRecord_cal : (logRecord c d t l s).cal = s.cal := rfl
@[simp] theorem logRecord_can : (logRecord c d t l s).can = s.can := rfl
@[simp] theorem logRecord_drawn : (logRecord c d t l s).drawn = s.drawn := rfl
@[simp] theorem logRecord_pending : (logRecord c d t l s).pending = s.pending := rfl
end

/-! ### postIf -/

section
variable (c : Bool) (n d : Nat)
@[simp] theorem postIf_pwr : (postIf c n d s).pwr = s.pwr := by cases c <;> rfl
@[simp] theorem postIf_pll : (postIf c n d s).pll = s.pll := by cases c <;> rfl
@[simp] theorem postIf_harn : (postIf c n d s).harn = s.harn := by cases c <;> rfl
@[simp] theorem postIf_brg : (postIf c n d s).brg = s.brg := by cases c <;> rfl
@[simp] theorem postIf_live : (postIf c n d s).live = s.live := by cases c <;> rfl
@[simp] theorem postIf_draft : (postIf c n d s).draft = s.draft := by cases c <;> rfl
@[simp] theorem postIf_rw : (postIf c n d s).rw = s.rw := by cases c <;> rfl
@[simp] theorem postIf_nv : (postIf c n d s).nv = s.nv := by cases c <;> rfl
@[simp] theorem postIf_tacks : (postIf c n d s).tacks = s.tacks := by cases c <;> rfl
@[simp] theorem postIf_lash : (postIf c n d s).lash = s.lash := by cases c <;> rfl
@[simp] theorem postIf_recv : (postIf c n d s).recv = s.recv := by cases c <;> rfl
@[simp] theorem postIf_cur : (postIf c n d s).cur = s.cur := by cases c <;> rfl
@[simp] theorem postIf_zones : (postIf c n d s).zones = s.zones := by cases c <;> rfl
@[simp] theorem postIf_base : (postIf c n d s).base = s.base := by cases c <;> rfl
@[simp] theorem postIf_therm : (postIf c n d s).therm = s.therm := by cases c <;> rfl
@[simp] theorem postIf_girth : (postIf c n d s).girth = s.girth := by cases c <;> rfl
@[simp] theorem postIf_tb : (postIf c n d s).tb = s.tb := by cases c <;> rfl
@[simp] theorem postIf_awl : (postIf c n d s).awl = s.awl := by cases c <;> rfl
@[simp] theorem postIf_aux : (postIf c n d s).aux = s.aux := by cases c <;> rfl
@[simp] theorem postIf_strm : (postIf c n d s).strm = s.strm := by cases c <;> rfl
@[simp] theorem postIf_tiles : (postIf c n d s).tiles = s.tiles := by cases c <;> rfl
@[simp] theorem postIf_mem : (postIf c n d s).mem = s.mem := by cases c <;> rfl
@[simp] theorem postIf_dma : (postIf c n d s).dma = s.dma := by cases c <;> rfl
@[simp] theorem postIf_cal : (postIf c n d s).cal = s.cal := by cases c <;> rfl
@[simp] theorem postIf_can : (postIf c n d s).can = s.can := by cases c <;> rfl
@[simp] theorem postIf_drawn : (postIf c n d s).drawn = s.drawn := by cases c <;> rfl
@[simp] theorem postIf_pending : (postIf c n d s).pending = s.pending := by cases c <;> rfl
end

/-! ### slotDone -/

section
variable (k st : Nat) (l : List Word)
@[simp] theorem slotDone_pwr : (slotDone k st l s).pwr = s.pwr := rfl
@[simp] theorem slotDone_pll : (slotDone k st l s).pll = s.pll := rfl
@[simp] theorem slotDone_harn : (slotDone k st l s).harn = s.harn := rfl
@[simp] theorem slotDone_live : (slotDone k st l s).live = s.live := rfl
@[simp] theorem slotDone_draft : (slotDone k st l s).draft = s.draft := rfl
@[simp] theorem slotDone_rw : (slotDone k st l s).rw = s.rw := rfl
@[simp] theorem slotDone_nv : (slotDone k st l s).nv = s.nv := rfl
@[simp] theorem slotDone_tacks : (slotDone k st l s).tacks = s.tacks := rfl
@[simp] theorem slotDone_lash : (slotDone k st l s).lash = s.lash := rfl
@[simp] theorem slotDone_recv : (slotDone k st l s).recv = s.recv := rfl
@[simp] theorem slotDone_cur : (slotDone k st l s).cur = s.cur := rfl
@[simp] theorem slotDone_zones : (slotDone k st l s).zones = s.zones := rfl
@[simp] theorem slotDone_base : (slotDone k st l s).base = s.base := rfl
@[simp] theorem slotDone_therm : (slotDone k st l s).therm = s.therm := rfl
@[simp] theorem slotDone_girth : (slotDone k st l s).girth = s.girth := rfl
@[simp] theorem slotDone_tb : (slotDone k st l s).tb = s.tb := rfl
@[simp] theorem slotDone_awl : (slotDone k st l s).awl = s.awl := rfl
@[simp] theorem slotDone_aux : (slotDone k st l s).aux = s.aux := rfl
@[simp] theorem slotDone_strm : (slotDone k st l s).strm = s.strm := rfl
@[simp] theorem slotDone_tiles : (slotDone k st l s).tiles = s.tiles := rfl
@[simp] theorem slotDone_mem : (slotDone k st l s).mem = s.mem := rfl
@[simp] theorem slotDone_dma : (slotDone k st l s).dma = s.dma := rfl
@[simp] theorem slotDone_cal : (slotDone k st l s).cal = s.cal := rfl
@[simp] theorem slotDone_can : (slotDone k st l s).can = s.can := rfl
@[simp] theorem slotDone_drawn : (slotDone k st l s).drawn = s.drawn := rfl
@[simp] theorem slotDone_pending : (slotDone k st l s).pending = s.pending := rfl
end

/-! ### finish -/

section
variable (r : Res) (st : Nat) (l : List Word)
@[simp] theorem finish_pwr : (finish r st l s).pwr = s.pwr := by unfold finish; split <;> rfl
@[simp] theorem finish_pll : (finish r st l s).pll = s.pll := by unfold finish; split <;> rfl
@[simp] theorem finish_harn : (finish r st l s).harn = s.harn := by unfold finish; split <;> rfl
@[simp] theorem finish_live : (finish r st l s).live = s.live := by unfold finish; split <;> rfl
@[simp] theorem finish_draft : (finish r st l s).draft = s.draft := by unfold finish; split <;> rfl
@[simp] theorem finish_rw : (finish r st l s).rw = s.rw := by unfold finish; split <;> rfl
@[simp] theorem finish_nv : (finish r st l s).nv = s.nv := by unfold finish; split <;> rfl
@[simp] theorem finish_tacks : (finish r st l s).tacks = s.tacks := by unfold finish; split <;> rfl
@[simp] theorem finish_lash : (finish r st l s).lash = s.lash := by unfold finish; split <;> rfl
@[simp] theorem finish_recv : (finish r st l s).recv = s.recv := by unfold finish; split <;> rfl
@[simp] theorem finish_cur : (finish r st l s).cur = s.cur := by unfold finish; split <;> rfl
@[simp] theorem finish_zones : (finish r st l s).zones = s.zones := by unfold finish; split <;> rfl
@[simp] theorem finish_base : (finish r st l s).base = s.base := by unfold finish; split <;> rfl
@[simp] theorem finish_therm : (finish r st l s).therm = s.therm := by unfold finish; split <;> rfl
@[simp] theorem finish_girth : (finish r st l s).girth = s.girth := by unfold finish; split <;> rfl
@[simp] theorem finish_tb : (finish r st l s).tb = s.tb := by unfold finish; split <;> rfl
@[simp] theorem finish_awl : (finish r st l s).awl = s.awl := by unfold finish; split <;> rfl
@[simp] theorem finish_aux : (finish r st l s).aux = s.aux := by unfold finish; split <;> rfl
@[simp] theorem finish_strm : (finish r st l s).strm = s.strm := by unfold finish; split <;> rfl
@[simp] theorem finish_tiles : (finish r st l s).tiles = s.tiles := by unfold finish; split <;> rfl
@[simp] theorem finish_mem : (finish r st l s).mem = s.mem := by unfold finish; split <;> rfl
@[simp] theorem finish_dma : (finish r st l s).dma = s.dma := by unfold finish; split <;> rfl
@[simp] theorem finish_cal : (finish r st l s).cal = s.cal := by unfold finish; split <;> rfl
@[simp] theorem finish_can : (finish r st l s).can = s.can := by unfold finish; split <;> rfl
@[simp] theorem finish_drawn : (finish r st l s).drawn = s.drawn := by unfold finish; split <;> rfl
@[simp] theorem finish_pending : (finish r st l s).pending = s.pending := by unfold finish; split <;> rfl
end

/-! ### dropStored -/

section
variable (p : Port)
@[simp] theorem dropStored_pwr : (dropStored p s).pwr = s.pwr := by cases p <;> rfl
@[simp] theorem dropStored_pll : (dropStored p s).pll = s.pll := by cases p <;> rfl
@[simp] theorem dropStored_harn : (dropStored p s).harn = s.harn := by cases p <;> rfl
@[simp] theorem dropStored_evq : (dropStored p s).evq = s.evq := by cases p <;> rfl
@[simp] theorem dropStored_live : (dropStored p s).live = s.live := by cases p <;> rfl
@[simp] theorem dropStored_draft : (dropStored p s).draft = s.draft := by cases p <;> rfl
@[simp] theorem dropStored_rw : (dropStored p s).rw = s.rw := by cases p <;> rfl
@[simp] theorem dropStored_nv : (dropStored p s).nv = s.nv := by cases p <;> rfl
@[simp] theorem dropStored_tacks : (dropStored p s).tacks = s.tacks := by cases p <;> rfl
@[simp] theorem dropStored_lash : (dropStored p s).lash = s.lash := by cases p <;> rfl
@[simp] theorem dropStored_recv : (dropStored p s).recv = s.recv := by cases p <;> rfl
@[simp] theorem dropStored_cur : (dropStored p s).cur = s.cur := by cases p <;> rfl
@[simp] theorem dropStored_zones : (dropStored p s).zones = s.zones := by cases p <;> rfl
@[simp] theorem dropStored_base : (dropStored p s).base = s.base := by cases p <;> rfl
@[simp] theorem dropStored_therm : (dropStored p s).therm = s.therm := by cases p <;> rfl
@[simp] theorem dropStored_girth : (dropStored p s).girth = s.girth := by cases p <;> rfl
@[simp] theorem dropStored_tb : (dropStored p s).tb = s.tb := by cases p <;> rfl
@[simp] theorem dropStored_awl : (dropStored p s).awl = s.awl := by cases p <;> rfl
@[simp] theorem dropStored_aux : (dropStored p s).aux = s.aux := by cases p <;> rfl
@[simp] theorem dropStored_strm : (dropStored p s).strm = s.strm := by cases p <;> rfl
@[simp] theorem dropStored_tiles : (dropStored p s).tiles = s.tiles := by cases p <;> rfl
@[simp] theorem dropStored_mem : (dropStored p s).mem = s.mem := by cases p <;> rfl
@[simp] theorem dropStored_dma : (dropStored p s).dma = s.dma := by cases p <;> rfl
@[simp] theorem dropStored_cal : (dropStored p s).cal = s.cal := by cases p <;> rfl
@[simp] theorem dropStored_can : (dropStored p s).can = s.can := by cases p <;> rfl
@[simp] theorem dropStored_drawn : (dropStored p s).drawn = s.drawn := by cases p <;> rfl
@[simp] theorem dropStored_pending : (dropStored p s).pending = s.pending := by cases p <;> rfl
end

/-! ### deliver -/

section
variable (o : Origin) (op : Nat) (r : Reply)
@[simp] theorem deliver_pwr : (deliver o op r s).pwr = s.pwr := by unfold deliver; repeat first | rfl | split
@[simp] theorem deliver_pll : (deliver o op r s).pll = s.pll := by unfold deliver; repeat first | rfl | split
@[simp] theorem deliver_evq : (deliver o op r s).evq = s.evq := by unfold deliver; repeat first | rfl | split
@[simp] theorem deliver_live : (deliver o op r s).live = s.live := by unfold deliver; repeat first | rfl | split
@[simp] theorem deliver_draft : (deliver o op r s).draft = s.draft := by unfold deliver; repeat first | rfl | split
@[simp] theorem deliver_rw : (deliver o op r s).rw = s.rw := by unfold deliver; repeat first | rfl | split
@[simp] theorem deliver_nv : (deliver o op r s).nv = s.nv := by unfold deliver; repeat first | rfl | split
@[simp] theorem deliver_tacks : (deliver o op r s).tacks = s.tacks := by unfold deliver; repeat first | rfl | split
@[simp] theorem deliver_lash : (deliver o op r s).lash = s.lash := by unfold deliver; repeat first | rfl | split
@[simp] theorem deliver_recv : (deliver o op r s).recv = s.recv := by unfold deliver; repeat first | rfl | split
@[simp] theorem deliver_cur : (deliver o op r s).cur = s.cur := by unfold deliver; repeat first | rfl | split
@[simp] theorem deliver_zones : (deliver o op r s).zones = s.zones := by unfold deliver; repeat first | rfl | split
@[simp] theorem deliver_base : (deliver o op r s).base = s.base := by unfold deliver; repeat first | rfl | split
@[simp] theorem deliver_therm : (deliver o op r s).therm = s.therm := by unfold deliver; repeat first | rfl | split
@[simp] theorem deliver_girth : (deliver o op r s).girth = s.girth := by unfold deliver; repeat first | rfl | split
@[simp] theorem deliver_tb : (deliver o op r s).tb = s.tb := by unfold deliver; repeat first | rfl | split
@[simp] theorem deliver_awl : (deliver o op r s).awl = s.awl := by unfold deliver; repeat first | rfl | split
@[simp] theorem deliver_aux : (deliver o op r s).aux = s.aux := by unfold deliver; repeat first | rfl | split
@[simp] theorem deliver_strm : (deliver o op r s).strm = s.strm := by unfold deliver; repeat first | rfl | split
@[simp] theorem deliver_tiles : (deliver o op r s).tiles = s.tiles := by unfold deliver; repeat first | rfl | split
@[simp] theorem deliver_mem : (deliver o op r s).mem = s.mem := by unfold deliver; repeat first | rfl | split
@[simp] theorem deliver_dma : (deliver o op r s).dma = s.dma := by unfold deliver; repeat first | rfl | split
@[simp] theorem deliver_cal : (deliver o op r s).cal = s.cal := by unfold deliver; repeat first | rfl | split
@[simp] theorem deliver_can : (deliver o op r s).can = s.can := by unfold deliver; repeat first | rfl | split
@[simp] theorem deliver_drawn : (deliver o op r s).drawn = s.drawn := by unfold deliver; repeat first | rfl | split
@[simp] theorem deliver_pending : (deliver o op r s).pending = s.pending := by unfold deliver; repeat first | rfl | split
end

/-! ### Events -/

/-- A posting that is not discarded and finds room enters at the end. -/
theorem post_queue (n d : Nat) (h : discarded s n = false) (hq : s.evq.q.length < 1024) :
    (post n d s).evq.q = s.evq.q ++
      [{ tag := now s, event := n, unset := !s.tb.set, detail := BitVec.ofNat 16 d, qseq := s.evq.next }] := by
  have : ¬ 1024 ≤ s.evq.q.length := by omega
  simp [post, postAt, Events.push, h, this]

/-- A completed slot: its status and result stand in it. -/
theorem slotDone_slots (k st : Nat) (l : List Word) :
    (slotDone k st l s).brg.slots = s.brg.slots.set k (.done (BitVec.ofNat 8 st) l) := rfl

end Sys2Proof.Machine
end

