-- ==== Sys2Proof/Laws/Requests.lean ====
section
/-!
SUPPORT. What a request can do, said once for every handler: an immediate command that passes its checks runs, a deferred
one takes the lowest FREE slot, and everything else is one of the refusals of R96.
-/
namespace Sys2Proof.Machine

@[simp] theorem okReply_status (p : List Word) : (okReply p).status = 0 := rfl
@[simp] theorem okReply_detail (p : List Word) : (okReply p).detail = 0 := rfl
@[simp] theorem okReply_payload (p : List Word) : (okReply p).payload = p := rfl

variable (h : Handler) {o : Origin} {p : List Word} {s : State}

/-- An immediate command that passes steps 3 to 8 of R96 runs, and its reply leaves. -/
theorem request_run (hr : reaches s o = true) (hst : (isReady s || (inRecovery s && h.recov)) = true)
    (hl : h.lenOk p = true) (hv : h.value s p = none) (hb : h.badState s o p = false) (hd : h.denied s p = false)
    (hf : h.defers s p = none) (hc : (h.run o p s).1.status ≠ 0x14 ∨ h.op = 0x0A) :
    request h o p s = deliver o h.op (h.run o p s).1 (dropStored o.port (h.run o p s).2) := by
  have hn : (decide ((h.run o p s).1.status = 0x14) && decide (h.op ≠ 0x0A)) = false := by
    rcases hc with hc | hc
    · rw [decide_eq_false hc, Bool.false_and]
    · simp [hc]
  have hx : answer h false o p s = h.run o p s := by
    simp only [answer, hst, hl, hv, hb, hd, hf, hn, Bool.not_true, Bool.false_eq_true, if_false]
  simp only [request, hr, hx, if_true]

/-- A deferred command that passes steps 3 to 8 of R96 takes the lowest FREE slot and starts (R101). -/
theorem request_start {r : Res} {k : Nat} (hr : reaches s o = true)
    (hst : (isReady s || (inRecovery s && h.recov)) = true) (hl : h.lenOk p = true) (hv : h.value s p = none)
    (hb : h.badState s o p = false) (hd : h.denied s p = false) (hf : h.defers s p = some r) (hk : freeSlot s = some k) :
    request h o p s = accepted o h.op k (h.start o p (occupy k r s)) := by
  have hx : answer h false o p s = (reply stAccepted k [], h.start o p (occupy k r s)) := by
    simp only [answer, hst, hl, hv, hb, hd, hf, hk, Bool.not_true, Bool.false_eq_true, if_false, occupy]
  simp only [request, hr, hx, if_true, accepted]

/-- A request that its checks refuse: its status and DETAIL leave. -/
theorem request_refused (st d : Nat) (hr : reaches s o = true) (hx : answer h false o p s = refuse h.op st d s) :
    request h o p s = refused o h.op st d s := by
  simp only [request, hr, hx, if_true, refused]

/-- Every outcome of the checks: a refusal, no slot, a start, or a run with or without a conflict. -/
theorem answer_cases (hdr : Bool) (o : Origin) (p : List Word) (s : State) :
    (∃ st d, answer h hdr o p s = refuse h.op st d s) ∨
    (∃ r, h.defers s p = some r ∧ freeSlot s = none ∧
      answer h hdr o p s = (reply stBusy 0 [], post evDeferredOverflow h.op s)) ∨
    (∃ r k, h.defers s p = some r ∧ freeSlot s = some k ∧
      answer h hdr o p s = (reply stAccepted k [], h.start o p (occupy k r s))) ∨
    (h.defers s p = none ∧ answer h hdr o p s = h.run o p s) ∨
    (h.defers s p = none ∧
      answer h hdr o p s = (reply stConflict 0 [], (refuse h.op stConflict 0 (h.run o p s).2).2)) := by
  unfold answer
  split
  · exact .inl ⟨_, _, rfl⟩
  split
  · exact .inl ⟨_, _, rfl⟩
  split
  · exact .inl ⟨_, _, rfl⟩
  split
  · exact .inl ⟨_, _, rfl⟩
  split
  · exact .inl ⟨_, _, rfl⟩
  split
  · exact .inl ⟨_, _, rfl⟩
  split
  · rename_i r hf
    split
    · exact .inr (.inl ⟨r, hf, ‹_›, rfl⟩)
    · exact .inr (.inr (.inl ⟨r, _, hf, ‹_›, rfl⟩))
  · rename_i hf
    dsimp only
    split
    · exact .inr (.inr (.inr (.inr ⟨hf, rfl⟩)))
    · exact .inr (.inr (.inr (.inl ⟨hf, rfl⟩)))

/-- A request for another unit, or on a dead port, changes nothing. -/
theorem request_elsewhere (hr : reaches s o = false) (hn : noneLeft s o.addr = false ∨ o.port = .uart) :
    request h o p s = s := by
  rcases hn with hn | hn <;> simp [request, hr, hn]

end Sys2Proof.Machine
end

