-- ==== Sys2Proof/WellFormed.lean ====
section
/-!
DEFINITION. Well-formed commands: the operands that can reach the device at all. A request's header holds a 6-bit
address and at most 32 payload words; indices name something that exists. Ill-formed commands still have a meaning.
-/
namespace Sys2Proof

/-- A request's address field and payload fit a packet (Table 06-1, R95). -/
def reqOk (o : Origin) (p : List Word) : Bool := decide (o.addr < 64) && decide (p.length ≤ 32)

/-- The operands of a command exist on the device. -/
def Instr.wellFormed : Instr → Bool
  | .nop o p | .identify o p | .status o p | .paramGet o p | .paramSet o p | .commit o p | .discard o p
  | .eventRead o p | .eventAck o p | .result o p | .tackLoad o p | .tackSave o p | .tackInfo o p | .tackErase o p
  | .chainEnumerate o p | .chainAddrSet o p | .chainDelayMeasure o p | .chainLoopback o p | .routeSet o p
  | .routeGet o p | .scanSet o p | .scanGet o p | .zoneSet o p | .zoneGet o p | .zoneClear o p
  | .baselineCapture o p | .acqStart o p | .acqStop o p | .arm o p | .disarm o p | .force o p | .trigSet o p
  | .trigGet o p | .historyDump o p | .slotSet o p | .slotGet o p | .curveLoad o p | .emitEnable o p
  | .auxXptSet o p | .auxSeqLoad o p | .auxRead o p | .auxLimitSet o p | .dtsRefSet o p | .timeGet o p
  | .tbSelect o p | .tdcCfg o p | .tdcRead o p | .streamCfg o p | .streamTrain o p | .dmaAbort o p | .dmaStatus o p
  | .memRead o p | .memWrite o p | .memFill o p | .calRun o p | .calRead o p | .calWrite o p | .calQuality o p
  | .healthRead o p | .logRead o p | .logClear o p | .updateBegin o p | .updateChunk o p | .updateEnd o p
  | .standbyEnter o p | .lifetimeRead o p => reqOk o p
  | .resetLevel0 o _ | .resetLevel1 o _ | .resetLevel2 o _ | .resetLevel3 o _ | .tackProtectWrite o _ | .lockSetOff o _
  | .lockSetOn o _ | .lockSetManual o _ | .emitDiagRead o _ | .emitDiagProof o _ | .auxSeqKick o _ | .adcCheckSet o _ _
  | .adcCheckWrite o _ | .adcCheckRetire o _ _ | .adcCheckRestore o _ _ | .adcCheckClear o _ _
  | .timeSetImmediate o _ _ | .timeSetNextPps o _ _ | .timeSetChainSync o _ _ | .dmaKickStart o _ _ | .dmaKickResume o _
  | .memInitWrite o _ | .memPlanWrite o _ | .updateActivateTrial o _ | .updateActivateConfirm o _
  | .updateActivateReject o _ | .pllCfgIcpWrite o _ | .pllDividerChange o _ | .uartCfgWrite o _
  | .evtMaskWrite o _ _ => decide (o.addr < 64)
  | .baselineCaptureDone r => decide (r < 8)
  | .dmaAbortDone c | .dmaDescriptorFetchDone c _ | .dmaDescriptorEnd c _ => decide (c < 16)
  | .memReadDone k _ => decide (k < 16)
  | .calStepTimeout g => decide (g < 17)
  | .tinEdge i _ | .awlConversionDone i _ | .awlPairTakeover i => decide (i < 11)
  | .holdoffElapsed z => decide (z < 512)
  | .backgroundSliceTrim l _ _ | .sliceSwap l => decide (l < 8)
  | .brownout m => decide (1 ≤ m ∧ m < 13)
  | .overtempTrip n => decide (n < 12)
  | .clampDetection d _ => decide (d < 8)
  | .mramScrub r _ _ _ => decide (r < 5)
  | .refChoice _ f => decide (f < 12)
  | .cantleBootVerifyDone a b => decide (a < 9 ∧ b < 9)
  | .dramPanicBegin a b | .dramPanicEnd a b => decide (a ≤ 16 ∧ b ≤ 16)
  | .creditGrant n => decide (n < 256)
  | .calStepDone rs => rs.all fun r => decide (r.group < 17)
  | .monitorSample ts vs => decide (ts.length = 12 ∧ vs.length = 16)
  | .processMonitorSample ds => decide (ds.length = 8)
  | .requestReceived p | .harnessPacketForward _ p | .replyPassingUp p => decide (p.payload.length ≤ 32)
  | _ => true

end Sys2Proof
end

