-- ==== Sys2Proof/Tests/Slice0.lean ====
section
/-!
SUPPORT. The model's own tests: ill-formed commands that the check refuses, commands on small states against the spec's
worked values, and for each statement with hypotheses a state and operands that meet them, clause by clause.
-/
namespace Sys2Proof.Tests
open Sys2Proof.Machine

set_option linter.unusedSimpArgs false
-- one theorem after the other: each waits for the kernel to have checked those before it
set_option Elab.async false

/-! ### Small states -/

/-- A unit in READY at address 1, its UP link and its PLL locked, Cantle running, DRAM usable. -/
def ready : State :=
  { State.reset with
    pwr := { Power.init with dev := .ready, address := 1, laserEn := true, vcore := true, pwrEn := true }
    pll := { Pll.init with state := .locked, refclk := true, freqCode := 8, refPresent := true, cfg := pllReset 8 }
    mem := { Mem.init with usable := true }
    can := { Cantle.init with running := true }
    harn := { Harness.init with up := .locked } }

/-- A request by the harness to address 1. -/
def toOne : Origin := ⟨.harness, 1⟩

/-- A sealed request packet. -/
def req (op : BitVec 8) (p : List Word) : Packet :=
  reseal { addr := 1, isReply := false, retry := false, seq := 7, opcode := op, length := BitVec.ofNat 8 p.length,
           status := 0, detail := 0, reserved := 0, payload := p, crc := 0, cut := false }

def start (n : Nat) : State := { State.reset with pwr := { Power.init with dev := .starting n } }

/-- The next state, if there is one. -/
def next (r : Out) : Option State := match r with | .next t => some t | _ => none

/-! ### Ill-formed commands -/

theorem test_illformed_requests :
    (Instr.nop ⟨.harness, 64⟩ []).wellFormed = false ∧ (Instr.paramGet toOne (List.replicate 33 0)).wellFormed = false ∧
    (Instr.resetLevel0 ⟨.uart, 64⟩ 0).wellFormed = false ∧ (Instr.nop toOne []).wellFormed = true := by decide

theorem test_illformed_indices :
    (Instr.baselineCaptureDone 8).wellFormed = false ∧ (Instr.dmaAbortDone 16).wellFormed = false ∧
    (Instr.memReadDone 16 .ok).wellFormed = false ∧ (Instr.calStepTimeout 17).wellFormed = false ∧
    (Instr.tinEdge 11 false).wellFormed = false ∧ (Instr.holdoffElapsed 512).wellFormed = false ∧
    (Instr.sliceSwap 8).wellFormed = false ∧ (Instr.brownout 13).wellFormed = false ∧ (Instr.brownout 0).wellFormed = false ∧
    (Instr.overtempTrip 12).wellFormed = false ∧ (Instr.clampDetection 8 0).wellFormed = false ∧
    (Instr.mramScrub 5 0 none false).wellFormed = false := by decide

theorem test_illformed_values :
    (Instr.refChoice true 12).wellFormed = false ∧ (Instr.cantleBootVerifyDone 9 0).wellFormed = false ∧
    (Instr.dramPanicBegin 17 0).wellFormed = false ∧ (Instr.creditGrant 256).wellFormed = false ∧
    (Instr.calStepDone [{ group := 17, trims := [], temp := 0, figures := [], slices := [], rings := [] }]).wellFormed = false ∧
    (Instr.monitorSample [] []).wellFormed = false ∧ (Instr.processMonitorSample []).wellFormed = false ∧
    (Instr.requestReceived (req 0 (List.replicate 33 0))).wellFormed = false := by decide +kernel

/-! ### Single commands -/

/-- 0xE3069283 over "123456789" (R94). -/
theorem test_crc : crc32c [0x31, 0x32, 0x33, 0x34, 0x35, 0x36, 0x37, 0x38, 0x39] = 0xE3069283 := by decide +kernel

/-- The island after VAON power-on (R44). -/
theorem test_vaon : next (step { State.reset with pending := [.vaonPowerOn] }) = some State.reset := by decide +kernel

/-- The square root that a number of 60 binary digits gives, and arg of 1 + j: one eighth of a cycle (R177). -/
theorem test_functions : isqrt (2 * 10 ^ 12) = 1414213 ∧ angle40 (5, 5) = 2 ^ 37 ∧ angle40 (0, -3) = -2 ^ 38 ∧
    angle40 (-1, 0) = 2 ^ 39 ∧ log2Q 8 2 = 2 * 2 ^ 40 := by decide +kernel

/-- K28.5, the comma of the harness, at both disparities; K28.1 is no symbol of the timing pair (Table 05-1). -/
theorem test_symbols : (Symbol.k 28 5).encode false = (0b0011111010, true) ∧
    (Symbol.k 28 5).encode true = (0b1100000101, false) ∧ decodeSymbol dataControls false 0b0011111010 = some (.k 28 5) ∧
    decodeSymbol timingControls false ((Symbol.k 28 1).encode false).1 = none := by decide +kernel

/-- Byte i of a hide word goes to lane i (R308); an ALIGN stands after 128 columns (R309). -/
theorem test_columns : ((Column.data 0x0807060504030201).lane 2).byte = 3 ∧
    (withAlign 0 (List.replicate 129 Column.idle)).getD 128 .idle = .align := by decide +kernel

/-- Five cycles of TMS = 1 reset the TAP from every state (IEEE 1149.1, R38). -/
theorem test_tap : ∀ t ∈ [Tap.shiftDr, .shiftIr, .pauseIr, .captureDr, .updateIr, .exit2Dr, .runTestIdle],
    (List.range 5).foldl (fun t _ => t.next true) t = .testLogicReset := by decide

/-- With BYPASS in force a bit of TDI reaches TDO one period of TCK later (IEEE 1149.1, R38). -/
theorem test_bypass : pinTdo (tckPeriod true false true { State.reset with pwr := { State.reset.pwr with
    tap := { state := .shiftDr, instr := some [true, true], shift := [false] } } }) = .high := by decide

/-- SHA-256 over "abc", its first bytes (R393). -/
theorem test_sha256 : (sha256 [0x61, 0x62, 0x63]).take 4 = [0xba, 0x78, 0x16, 0xbf] := by decide +kernel

/-- The pins stand in their reset states after reset (R30). -/
theorem test_reset_pins : PinsInReset State.reset ∧ LinesInReset State.reset ∧ pinTdo State.reset = .hiZ := by
  refine ⟨⟨fun d => ?_, by decide, fun n => rfl, by decide, rfl, fun n => rfl, rfl, rfl, fun n => rfl,
    fun p n h => by rcases h with h | h | h <;> subst h <;> rfl⟩, ⟨by decide, by decide, fun p b => by cases p <;> cases b <;> decide⟩, by decide⟩
  cases d <;> exact ⟨rfl, rfl, rfl, rfl, rfl, fun i => congrArg PinLevel.drive (Nat.zero_testBit i), rfl, rfl⟩

theorem test_step_front : next (step { ready with pending := [.hopDelayUpReceived 5, .latFcLock] }) =
    some { ready with harn := { ready.harn with hopUp := 5 }, pending := [.latFcLock] } := by decide +kernel

/-- An undefined opcode is BAD_OPCODE (R96). -/
theorem test_bad_opcode : (respond toOne (req 0x14 []) ready).1.status = 0x10 := by decide +kernel

/-- A NOP by packet is answered OK with its SEQ kept for a retry (R98). -/
theorem test_nop_packet : (next (exec (.requestReceived (req 0 [])) ready)).bind (fun t =>
    t.brg.storedH.map fun e => (e.seq, e.reply.status)) = some (7, 0) := by decide +kernel

/-! ### Witnesses: queue, reset, control plane -/

theorem witness_StepRunsFront : { ready with pending := [.latFcLock] }.pending = Instr.latFcLock :: [] := rfl

theorem witness_EmptyQueueTicks : ready.pending = [] ∧ ready.strm.trainWait = false ∧ anyAcquiring ready = false := by
  decide

theorem witness_OwnersOfState : ∃ t, exec .latFcLock ready = .next t := ⟨_, rfl⟩

theorem ready_sound : Sound ready where
  mem := by decide
  queue := by decide
  qseq := trivial
  lost := by decide
  slots := rfl
  sets := rfl
  results := rfl
  awl := rfl
  lanes := rfl
  chans := rfl
  groups := rfl

theorem witness_StepKeepsSound : Sound ready ∧ ∃ t, step ready = .next t := ⟨ready_sound, _, rfl⟩

theorem witness_CrcOfPackets : (31 : Nat) < 32 ∧ (List.replicate 12 (0 : Byte)).length = 12 + 8 * ((List.replicate 12 (0 : Byte)).getD 3 0).toNat := by
  decide

def entry : EvEntry := { tag := 0, event := 0, unset := true, detail := 0, qseq := 0 }
/-- The queue full. -/
def full : State := { ready with evq := { Events.init with q := List.replicate 1024 entry, next := 1024 } }
def discards : State := { ready with rw := [(0x52, 1)] }

theorem witness_PostingOrder : ready.evq.q.length < 1024 ∧ discarded ready 127 = false ∧ 1024 ≤ full.evq.q.length ∧
    discarded full 0 = false ∧ discarded discards 0 = true := by decide +kernel

theorem witness_EventsStayQueued : (∃ t, exec .latFcLock full = .next t) ∧
    (∃ t, exec (.requestReceived (req 8 [0])) full = .next t) ∧ (req 8 [0]).opcode ≠ 9 ∧
    (∃ t, exec (.uartPacketReceived [1]) full = .next t) ∧ (uartParse [1]).opcode ≠ 9 :=
  ⟨⟨_, rfl⟩, ⟨_, rfl⟩, by decide +kernel, ⟨_, rfl⟩, by decide +kernel⟩

theorem witness_RejectionChangesNothing : let k := req 0x14 []
    k.isReply = false ∧ portLive ready .harness = true ∧ mine ready k = true ∧ packetOk k = true ∧
    retryOf ready .harness k = none ∧ k.opcode ≠ 0x0A ∧
    (respond (originOf .harness k) k (arrived k ready)).1.status.toNat ∈ [0x02, 0x10, 0x11, 0x12, 0x13, 0x30, 0x40] := by
  decide +kernel

/-- RESULT of a FREE slot is rejected, and delivers nothing. -/
theorem witness_RejectedResult : let k := req 0x0A [2]
    k.isReply = false ∧ mine ready k = true ∧ packetOk k = true ∧ retryOf ready .harness k = none ∧
    (respond (originOf .harness k) k (arrived k ready)).1.status = 0x13 ∧ within 0xF (wd k.payload 0) = true ∧
    (arrived k ready).brg.slots.getD (fld (wd k.payload 0) 3 0) .free = .free := by
  decide +kernel

def bytesOf (k : Packet) : List Byte := wordBytes (packetHeader k) ++ k.payload.flatMap wordBytes ++
  (wordBytes (k.crc.setWidth 64)).take 4
/-- The UART on, and an answered NOP kept. -/
def uart : State :=
  { ready with
    rw := [(0x9000, 0x14)]
    brg := { ready.brg with storedH := some { seq := 7, op := 0, crc := matchCrc (req 0 []), addr := 1, reply := okReply [] } } }

theorem witness_PacketsAnswered : let k := req 0 []; let bad := { req 0 [] with crc := 0 }
    let again := reseal { req 0 [] with retry := true }
    k.isReply = false ∧ portLive uart .harness = true ∧ mine uart k = true ∧ packetOk k = true ∧
    retryOf uart .harness k = none ∧ mine uart again = true ∧ packetOk again = true ∧
    (retryOf uart .harness again).isSome = true ∧ portLive uart .uart = true ∧
    uartParse (bytesOf k) = k ∧ retryOf uart .uart k = none ∧ packetOk bad = false ∧ mine uart bad = true ∧
    bad.addr ≠ 62 ∧ uart.harn.upBusy ≤ uart.tb.mono ∧ packetOk (uartParse [1]) = false ∧ (uartParse [1]).isReply = false := by
  decide +kernel

/-- A rejected request by UART, and a RESULT of a FREE slot. -/
theorem witness_RejectedUart : portLive uart .uart = true ∧ ∀ k ∈ [req 0x14 [], req 0x0A [2]], bytesOf k ≠ [] ∧
    uartParse (bytesOf k) = k ∧ k.isReply = false ∧ packetOk k = true ∧ retryOf uart .uart k = none ∧
    (respond (originOf .uart k) k uart).1.status.toNat ∈ [0x10, 0x13] ∧ uart.brg.slots.getD 2 .free = .free := by
  decide +kernel

/-! ### Witnesses: frames -/

theorem witness_ReadsLeaveState : Instr.nop toOne [] ∈ [Instr.nop toOne [], .identify toOne []] ∧
    ∃ t, exec (.nop toOne []) ready = .next t := ⟨by decide, _, rfl⟩

theorem witness_DraftWritersLeaveRest : (∃ t, exec (.discard toOne []) ready = .next t) ∧
    draftLocked { ready with brg := { ready.brg with gate := .validating none } } = true := ⟨⟨_, rfl⟩, by decide⟩

theorem witness_MemWriteFrame : Sound ready ∧ (next (exec (.memWrite toOne [0x8000000, 1]) ready)).map (·.mem.bytes) = some [(0x8000000, 1)] ∧
    ready.mem.bytes = [] := ⟨ready_sound, by decide +kernel⟩

/-! ### Witnesses: requests -/

theorem served : Served ready toOne := ⟨by decide, by decide⟩
theorem single : Single toOne := .inr (by decide)
/-- The unit in RECOVERY, address 1. -/
def recov : State := { ready with pwr := { ready.pwr with dev := .recovery }, can := Cantle.init }
theorem servedAlways : ServedAlways ready toOne ∧ ServedAlways recov toOne :=
  ⟨⟨.inl (by decide), by decide⟩, .inr (by decide), by decide⟩
/-- Slot 0 DONE. -/
def doneSlot (s : State) : State :=
  { s with brg := { s.brg with slots := s.brg.slots.set 0 (.done 0 []), recent := [0] } }
/-- One log entry, a slot running, one event held. -/
def busy : State :=
  { ready with
    brg := { ready.brg with slots := (ready.brg.slots.set 0 (.done 0 [])).set 1 (.running .log), recent := [0] }
    evq := { Events.init with q := [entry], next := 1 }
    can := { ready.can with log := [{ word0 := 0, word1 := 0 }], logNext := 1 } }
theorem busy_served : Served busy toOne := ⟨by decide, by decide⟩

theorem witness_QueriesAnswer : Served ready toOne ∧ (List.replicate 32 (0 : Word)).length ≤ 32 ∧
    inRecovery recov = true ∧ reaches recov toOne = true ∧ lastDone recov = none ∧
    lastDone (doneSlot recov) = some (0, 0) := ⟨served, by decide⟩

theorem witness_RecordsAnswer : Served ready toOne ∧ within 0x10007 0x10007 = true ∧ within 0x10001 0x10001 = true ∧
    within 0x101FF 0x101FF = true ∧ within 0x1000F 0x1000F = true ∧
    (within 0x1F3F 0xF31 = true ∧ fld 0xF31 12 8 ≤ 15 ∧ fld 0xF31 5 0 + fld 0xF31 12 8 ≤ 64) ∧
    (within 0x1FF 0x100 = true ∧ fld 0x100 3 0 + fld 0x100 8 4 ≤ 16) ∧ (within 0x1F 0x10 = true ∧ fld 0x10 4 0 ≤ 16) ∧
    within 3 3 = true ∧ within 0xFFFFFFFFF 0xFFFFFFFF = true ∧ fld 0xFFFFFFFF 35 32 = 0 ∧ within 0xFFFFFFFFF 0x100000005 = true ∧
    fld 0x100000005 35 32 ≠ 0 ∧ logSkip busy (BitVec.ofNat 32 (fld 0x100000005 31 0)) = none ∧
    logSkip busy (BitVec.ofNat 32 (fld 0x100000000 31 0)) = some 0 := ⟨served, by decide +kernel⟩

theorem witness_EventReadAndAck : Served busy toOne ∧ Single toOne ∧ within 0xF 0xF = true ∧ within 0xFFFF 0 = true ∧
    ackDistance busy 0 < busy.evq.q.length ∧
    (busy.evq.q.length ≤ ackDistance busy 0xFFFF ∧ 64512 ≤ ackDistance busy 0xFFFF) ∧
    (busy.evq.q.length ≤ ackDistance busy 1 ∧ ackDistance busy 1 < 64512) := ⟨busy_served, single, by decide +kernel⟩

theorem witness_ResultDelivers : Served busy toOne ∧ Single toOne ∧ within 0xF 2 = true ∧
    busy.brg.slots.getD (fld 0 3 0) .free = .done 0 [] ∧ busy.brg.slots.getD (fld 1 3 0) .free = .running .log ∧
    busy.brg.slots.getD (fld 2 3 0) .free = .free := ⟨busy_served, single, by decide +kernel⟩

/-- A route, a full scan, a zone, a slot and an aux limit with the fields that their tables ask for. -/
def route : List Word := [mk [(0, 3, 7), (8, 17, 88000)], mk [(0, 18, 155000)]]
def scan : List Word := mk [(8, 5, 16)] :: List.replicate 16 0xFFFF0003
def zone : List Word := [mk [(0, 9, 511), (16, 7, 64)], mk [(0, 27, 88000000), (32, 16, 300)], 0]
def slot : List Word := [mk [(0, 4, 15), (8, 12, 2400), (24, 15, 20000), (40, 12, 1), (52, 5, 16)], mk [(0, 12, 1)]]
def limit : List Word := [0x1F, 0]

theorem witness_DraftWrites : Served ready toOne ∧ draftLocked ready = false ∧
    (route.length = 2 ∧ routeBad (wd route 0) (wd route 1) = none) ∧
    (scan.length = 1 + fld (wd scan 0) 12 8 ∧ within 0x1F01 (wd scan 0) = true ∧ fld (wd scan 0) 12 8 ≤ 16 ∧
      (scan.drop 1).findIdx? scanBad = none) ∧
    (lenTimes 3 10 zone = true ∧ recordsFault 3 zoneKey (fun r => zoneBad (wd r 0) (wd r 1) (wd r 2)) zone = none) ∧
    (lenTimes 2 16 (trigDefault 5) = true ∧
      recordsFault 2 zoneKey (fun r => trigBad (wd r 0) (wd r 1)) (trigDefault 5) = none) ∧
    (lenTimes 2 16 slot = true ∧ recordsFault 2 slotKey (fun r => slotBad (wd r 0) (wd r 1)) slot = none) ∧
    ([16].length = 1 + curveWords (wd [16] 0) ∧ curveBad (wd [16] 0) = false ∧ curveTail [16] = 0) ∧
    ([0x1F, 0].length = 1 + fld (wd [0x1F, 0] 0) 8 4 ∧ within 0x1FF (wd [0x1F, 0] 0) = true ∧
      fld (wd [0x1F, 0] 0) 3 0 + fld (wd [0x1F, 0] 0) 8 4 ≤ 16 ∧ ([0] : List Word).findIdx? (fun w => !xptOk w) = none) ∧
    ([0x13F, 0].length = 1 + fld (wd [0x13F, 0] 0) 13 8 ∧ within 0x3F3F (wd [0x13F, 0] 0) = true ∧
      fld (wd [0x13F, 0] 0) 5 0 + fld (wd [0x13F, 0] 0) 13 8 ≤ 64 ∧ ([0] : List Word).findIdx? seqBad = none) ∧
    (limit.length = 1 + limCount limit + 4 * fld (wd limit 0) 16 16 ∧ within 0x101FF (wd limit 0) = true ∧
      fld (wd limit 0) 3 0 + limCount limit ≤ 16 ∧ pOk 0x5840 (wd limit 1) = true) :=
  ⟨served, by decide +kernel⟩

theorem witness_ZonesCleared : Served ready toOne ∧ within 0x3FF01FF 0x2000000 = true ∧
    fld 0x2000000 8 0 + fld 0x2000000 25 16 ≤ 512 ∧ draftLocked ready = false ∧ within 0x3FF01FF 0x2000001 = true ∧
    512 < fld 0x2000001 8 0 + fld 0x2000001 25 16 ∧
    draftLocked { ready with brg := { ready.brg with gate := .validating none } } = true := ⟨served, by decide +kernel⟩

theorem witness_ParameterAccess : Served ready toOne ∧
    (within 0x1FFFF 0x15020 = true ∧ (pRow (fld 0x15020 15 0)).isSome = true) ∧
    (accessOf 0x5860 = .rws ∧ pOk 0x5860 0 = true) ∧ (accessOf 0x0031 = .nv ∧ pOk 0x0031 0xF = true) ∧
    (pOk 0x0011 5 = true ∧ pOk 0x0012 5 = true) ∧ (accessOf 0x0052 = .rw ∧ pOk 0x0052 1 = true ∧
      pBase 0x0052 ∉ [0x4021, 0x5040, 0x6000, 0x6001, 0x7000, 0x7102, 0x8001]) ∧
    (pairFault ready (pairs [0x0011, 1, 0x0012, 2]) = none ∧ (pairs [0x0011, 1, 0x0012, 2]).any (pairBusy ready) = false ∧
      movesPll ready [0x0011, 1, 0x0012, 2] = false ∧ pairsConflict ready (pairs [0x0011, 1, 0x0012, 2]) = false) ∧
    pairFault ready (pairs [0x0011, 1, 0x0011, 2]) = some 2 := ⟨served, by decide +kernel⟩

theorem witness_OwnRowWrites : Served ready toOne ∧ within 0xF 0xF = true ∧ (within 0x1F 0x17 = true ∧ fld 0x17 3 0 ≤ 7) ∧
    within 7 7 = true ∧ (within 0xFFFF 0 = true ∧ planBusy ready = false ∧ planConflict ready 0 = false) ∧
    pOk 0x5040 (pReset 0x5040) = true ∧ within 1 1 = true ∧ pOk 0x6000 0x03E80006 = true ∧
    (within 0xF 0xA = true ∧ fld 0xA 3 0 ≤ 10 ∧ pOk (0x6020 + fld 0xA 3 0) (pReset 0x602A) = true) ∧
    (pOk 0x7000 (pReset 0x7000) = true ∧ ready.mem.usable = true ∧ streamBusy ready (pReset 0x7000) = false ∧
      pairsConflict ready [(0x7000, pReset 0x7000)] = false) ∧
    (pllLocked ready = true ∧ ready.pll.change = none ∧
      pllOk ready (mk [(0, 10, pllN ready.pll.cfg), (10, 2, pllMult ready.pll.cfg), (12, 6, 32)]) = true) ∧
    (pllOk ready (mk [(0, 10, 2 * pllN ready.pll.cfg), (10, 2, 2), (12, 6, 16)]) = true ∧
      pllMoves ready (mk [(0, 10, 2 * pllN ready.pll.cfg), (10, 2, 2), (12, 6, 16)]) = true ∧ anyAcquiring ready = false ∧
      anyAccumulating ready = false ∧ Room ready .pll 0) := by
  refine ⟨served, ?_⟩
  simp only [Room]
  decide +kernel

/-- A finished accumulation. -/
def accumulated : State := setTherm .a (fun t => { t with shots := 65536 }) ready

theorem witness_ReferenceTemperatureSet : Served ready toOne ∧
    (within 0xFFFFFFFF00000001 0x61A8000000001 = true ∧ 200000 ≤ fld 0x61A8000000001 63 32 ∧
      fld 0x61A8000000001 63 32 ≤ 400000) ∧ within 0xFFFFFFFF00000001 2 = false ∧ fld 1 63 32 < 200000 ∧
    400000 < fld 0x61A8100000001 63 32 ∧ ([] : List Word).length ≠ 1 ∧
    (thShots (cfgOf accumulated .a) .a ≤ (accumulated.therm.get .a).shots ∧ (accumulated.therm.get .a).comp = none) :=
  ⟨served, by decide +kernel⟩

def toAll : Origin := ⟨.harness, 62⟩

theorem witness_AddressRequests : Served ready toAll ∧ Broadcast toAll ∧ within 1 1 = true ∧ Served ready toOne ∧
    ¬ Broadcast toOne ∧ Single toOne ∧
    (within 0x3F 31 = true ∧ 1 ≤ fld 31 5 0 ∧ fld 31 5 0 ≤ 31 ∧ ready.pwr.address.toNat ≠ fld 31 5 0) ∧
    ready.pwr.address.toNat = fld 1 5 0 ∧ fld 0 5 0 = 0 ∧ 32 ≤ fld 32 5 0 :=
  ⟨⟨by decide, by decide⟩, ⟨rfl, rfl⟩, by decide, served, by simp [Broadcast, toOne], single, by decide⟩

/-! ### Witnesses: requests that start work -/

theorem room (s : State) (r : Res) (k : Nat) (h : freeSlot s = some k ∧ held s r = false) : Room s r k := h

/-- DOWN locked. -/
def linked : State := { ready with harn := { ready.harn with down := .locked } }
/-- Every slot taken. -/
def taken : State := { ready with brg := { ready.brg with slots := List.replicate 16 (.running (.memRead 0 1)) } }

theorem witness_DeferredStarts : Served ready toOne ∧ draftLocked ready = false ∧ Room ready .draft 0 ∧
    ready.can.running = true ∧ within 0x103 0x103 = true ∧ Room ready .tack 0 ∧ within 0x303 0x303 = true ∧
    tackProtected ready (fld 0x303 1 0) = false ∧ within 3 3 = true ∧ tackProtected ready (fld 3 1 0) = false ∧
    Room ready .log 0 ∧ within 0xFFFFFFFF 0xFFFFFFFF = true ∧ Single toOne ∧ Room ready .delay 0 ∧ toOne.port = .harness ∧
    linked.harn.down = .locked ∧ Served linked toOne ∧ Room linked .delay 0 ∧ ready.harn.down ≠ .locked ∧
    Served taken toOne ∧ freeSlot taken = none ∧ taken.can.running = true ∧ draftLocked taken = false ∧
    held taken .draft = false ∧ held taken .log = false :=
  ⟨served, by decide, by simp only [Room]; decide, by decide, by decide, by simp only [Room]; decide, by decide, by decide,
    by decide, by decide, by simp only [Room]; decide, by decide, single, by simp only [Room]; decide, rfl, rfl,
    ⟨by decide, by decide⟩, by simp only [Room]; decide, by decide, ⟨by decide, by decide⟩, by decide, by decide, by decide,
    by decide, by decide⟩

/-- The oscillator of the wake timer has failed. -/
def noTimer : State := { ready with pwr := { ready.pwr with xtFault := some false } }

theorem witness_ResetAndStandbyRequests : ServedAlways ready toOne ∧ ServedAlways recov toOne ∧ ready.pwr.soft = none ∧
    (0xFF : Word) &&& ~~~ (0xFF : Word) = 0 ∧ ready.pwr.hard = none ∧ isReady ready = true ∧ Room ready .reset 0 ∧
    inRecovery recov = true ∧ recov.pwr.soft = none ∧ within 0xFFFFFFFF 0xFFFFFFFF = true ∧ ready.pwr.xtFault = none ∧
    Served noTimer toOne ∧ (1 : Word) ≠ 0 ∧ noTimer.pwr.xtFault ≠ none :=
  ⟨servedAlways.1, servedAlways.2, by decide, by decide, by decide, by decide, by simp only [Room]; decide, by decide,
    by decide, by decide, by decide, ⟨by decide, by decide⟩, by decide, by decide⟩

/-- One route scanned on each side, an acoustic zone with history on side A, both emitters on. -/
def plan : Cfg :=
  { Cfg.factory with
    routes := [(0, [mk [(8, 17, 1000)], 146820]), (4, [mk [(0, 3, 4), (8, 17, 1000)], 146820])]
    scans := [(0, [0xFFFF0000]), (1, [0xFFFF0000])]
    zones := [(5, [mk [(0, 9, 5), (16, 7, 8)], mk [(0, 27, 10000), (32, 16, 300)], 0x50000])] }
def planned : State := { ready with live := plan, draft := plan, lash := .same { Lash.init with enabled := true } }
/-- Side A acquires. -/
def acq : State := setGirth .a (fun g => { g with acquiring := true }) planned
def dump : List Word := [5, 0x100000000, 0, 1]

theorem witness_AcquisitionRequests : Served planned toOne ∧ within 3 3 = true ∧ fld 3 1 0 ≠ 0 ∧
    planned.mem.usable = true ∧ pllLocked planned = true ∧
    (∀ d ∈ [Side.a, Side.b], namesSide 3 d = true ∧ acquiring planned d = false ∧ (planned.lash.get d).enabled = true ∧
      scanOf (cfgOf planned d) d ≠ []) ∧
    overload planned (cfgOf planned .a) (cfgOf planned .b) (namesSide 3 .a || acquiring planned .a)
      (namesSide 3 .b || acquiring planned .b) = false ∧ within 0xFF03 0xFF03 = true ∧ fld 0xFF03 1 0 ≠ 0 ∧
    Served acq toOne ∧ acq.mem.usable = true ∧ within 0xFFFF0007 0xFFFF0000 = true ∧ fld 0xFFFF0000 31 16 ≠ 0 ∧
    acquiring acq (routeSide (fld 0xFFFF0000 2 0)) = true ∧
    (scanRoutes (cfgOf acq (routeSide (fld 0xFFFF0000 2 0))) (routeSide (fld 0xFFFF0000 2 0))).contains
      (fld 0xFFFF0000 2 0) = true ∧ (baseline acq (fld 0xFFFF0000 2 0)).state ≠ 1 ∧
    Room acq (.baseline (fld 0xFFFF0000 2 0)) 0 ∧ dump.length = 4 ∧ dumpFault acq dump = none ∧ dumpsOpen acq dump = false ∧
    (let c := cfgOf acq (zoneSide (cfgFree acq) (fld (wd dump 0) 8 0))
     zoneDefined c (fld (wd dump 0) 8 0) = true ∧ zoneAcoustic c (fld (wd dump 0) 8 0) = true ∧
      zoneHistory c (fld (wd dump 0) 8 0) = true) ∧ Room acq .history 0 := by
  simp only [Served, Room]
  decide +kernel

/-- Slice 9 of lane 0 retired. -/
def retired : State := setLane 0 (fun l => { l with retired := 0x200 }) ready

theorem witness_EmitterRequests : Served ready toOne ∧ within 0xF03 0xF02 = true ∧ bit 0xF02 1 = true ∧
    ready.pwr.laserEn = true ∧ (ready.lash.get .a).dacFault = false ∧ bit 0xF01 1 = false ∧ acquiring ready .b = false ∧
    within 0xFFFFFFFF0007 0xFFFFFFFF0007 = true ∧ within 7 7 = true ∧ (planned.lash.get .b).enabled = true ∧
    Served planned toOne ∧ Room planned (.proof .b) 0 ∧ pOk 0x5040 (pReset 0x5040) = true ∧ within 0xF707 0x9701 = true ∧
    fld 0x9701 15 12 ≤ 9 ∧ (lane ready (fld 0x9701 10 8)).retired.getLsbD (fld 0x9701 15 12) = false ∧
    (lane ready (fld 0x9701 10 8)).live (fld 0x9701 15 12) = false ∧
    (lane ready 0).live 0 = true ∧ (lane ready 0).spares.filter (· ≠ 0) ≠ [] ∧
    Served retired toOne ∧ (lane retired (fld 0x9001 10 8)).retired.getLsbD (fld 0x9001 15 12) = true := by
  simp only [Served, Room]
  decide +kernel

/-- PPS present; the chain's SYNC enabled. -/
def timed : State :=
  { ready with tb := { ready.tb with ppsUp := true }, rw := [(0x0022, 2)] }

theorem witness_TimeRequests : Served timed toOne ∧ tagOk 0x4000_0000 = true ∧ (3 : Word) &&& ~~~ (3 : Word) = 0 ∧
    held timed .loader = false ∧ fld 0x4000_0000 29 0 = 0 ∧ timed.tb.ppsUp = true ∧ Room timed .loader 0 ∧
    toOne.port = .harness ∧ lineSyncOn timed = true ∧ Single toOne ∧ within 0x10F0F 0x10F0A = true ∧ fld 0x10F0A 3 0 ≤ 10 := by
  refine ⟨⟨by decide, by decide⟩, ?_⟩
  simp only [Room]
  exact ⟨by decide, by decide, by decide, by decide, by decide, by decide, rfl, by decide, single, by decide, by decide⟩

/-- The stream enabled; a frame in progress. -/
def streams : State := { ready with rw := [(0x7000, pReset 0x7000 ||| 4)] }
def sending : State :=
  { streams with strm := { streams.strm with state := .up, sending := some (Frame.bare 0 0 [], 0), sendEnd := 1 } }
def chanIn (x : DmaState) : State := setChan 0 (fun c => { c with state := x }) ready

theorem witness_StreamAndDmaRequests : Served streams toOne ∧ streams.mem.usable = true ∧ streamOn streams = true ∧
    Room streams .stream 0 ∧ streams.strm.state = .down ∧ Served sending toOne ∧ sending.strm.state = .up ∧
    inProgress sending = true ∧ Room sending .stream 0 ∧ streamOn sending = true ∧ within 0x10F 0x10F = true ∧
    descPlace ready 0x8000000 = true ∧ (chan ready 15).state ≠ .running ∧ (chan ready 15).state ≠ .idleAtEnd ∧
    (let s := { sending with strm := { sending.strm with sending := none, sendEnd := 0 } }
     Served s toOne ∧ s.strm.state = .up ∧ inProgress s = false ∧ Room s .stream 0 ∧ streamOn s = true) ∧
    Served (chanIn .running) toOne ∧ (chan (chanIn .running) (fld 0x100 3 0)).state = .running ∧
    (chan (chanIn .idleAtEnd) (fld 0 3 0)).state = .idleAtEnd ∧ within 0xF 0 = true ∧ freeSlot (chanIn .running) = some 0 := by
  simp only [Served, Room]
  decide +kernel

theorem witness_MemoryRequests : Served ready toOne ∧ readFault ready [0x8000000, 0] = none ∧
    readFault ready [0x8000000, 32] = none ∧ freeSlot ready = some 0 ∧ zoneOf 0x8000000 = .dram ∧ ready.mem.usable = true ∧
    (let p : List Word := 0x8000000 :: List.replicate 31 5
     1 < p.length ∧ p.length ≤ 32 ∧ (wd p 0).toNat % 8 = 0 ∧ mapped ready (wd p 0).toNat (8 * (p.length - 1)) = true ∧
      writable ready (wd p 0).toNat (8 * (p.length - 1)) = true ∧ sramBusy ready (wd p 0).toNat = false) ∧
    (let p : List Word := [0x8000000, 8, 5]
     (wd p 1).toNat ≠ 0 ∧ (wd p 1).toNat % 8 = 0 ∧ mapped ready (wd p 0).toNat 0 = true ∧
      writable ready (wd p 0).toNat 8 = true ∧ mapped ready (wd p 0).toNat (wd p 1).toNat = true ∧
      writable ready (wd p 0).toNat (wd p 1).toNat = true ∧ ready.mem.fill = none ∧ Room ready .fill 0) := by
  simp only [Served, Room]
  decide +kernel

/-- The header of a record of group 9. -/
def calHead (v d : Nat) : Word := mk [(0, 5, 9), (8, 8, 6), (16, 8, v), (32, 16, d)]

theorem calHead_toNat (v d : Nat) (h : v < 256) :
    (calHead v d).toNat = 1545 + v * 65536 + d % 65536 * 4294967296 := by
  have e : ∀ (l : List (Nat × Nat × Nat)) (a : Nat), l.foldl (fun a f => a + f.2.2 % 2 ^ f.2.1 * 2 ^ f.1) a =
      a + (l.map fun f => f.2.2 % 2 ^ f.2.1 * 2 ^ f.1).sum := by
    intro l
    induction l with
    | nil => exact fun _ => rfl
    | cons x l ih => intro a; rw [List.foldl_cons, ih, List.map_cons, List.sum_cons, Nat.add_assoc]
  have f : ∀ a b c d e f g h i j k l : Nat, (mk [(a, b, c), (d, e, f), (g, h, i), (j, k, l)]).toNat =
      (c % 2 ^ b * 2 ^ a + (f % 2 ^ e * 2 ^ d + (i % 2 ^ h * 2 ^ g + l % 2 ^ k * 2 ^ j))) % 2 ^ 64 := by
    intros
    rw [mk, e, BitVec.toNat_ofNat, Nat.zero_add]
    rfl
  rw [calHead, f]
  omega

theorem calHead_fields (v d : Nat) (h : v < 256) : fld (calHead v d) 4 0 = 9 ∧ fld (calHead v d) 15 8 = 6 ∧
    fld (calHead v d) 23 16 = v ∧ fld (calHead v d) 47 32 = d % 65536 := by
  unfold fld
  rw [calHead_toNat v d h]
  omega

theorem calHead_within (v d : Nat) (h : v < 256) : within 0xFFFFFFFF00FFFF1F (calHead v d) = true := by
  have h3 := calHead_toNat v d h
  revert h3
  generalize calHead v d = w
  intro h3
  rw [within, beq_iff_eq]
  apply BitVec.eq_of_getLsbD_eq
  intro i hi
  rw [BitVec.getLsbD_and, ← BitVec.testBit_toNat, h3, Nat.testBit_eq_decide_div_mod_eq]
  interval_cases i <;> first | (simp; done) | (simp; omega)

/-- A record of group 9 of this die, whatever its number and its calibration version. -/
def calRec : List Word :=
  let w := [calHead Config.calVersion.toNat Config.dieId.toNat, 0, 0, 0, 0]
  w ++ [mk [(0, 32, (crcWords w).toNat)]]

theorem calRec_good : calRec.length = calWords (fld (wd calRec 0) 4 0) ∧ recordFault calRec = none ∧
    recordConflict ready calRec = false ∧ held ready (.cal (groupMask (pairOf (fld (wd calRec 0) 4 0)))) = false := by
  have h0 : wd calRec 0 = calHead Config.calVersion.toNat Config.dieId.toNat := rfl
  have hw := calHead_within _ Config.dieId.toNat Config.calVersion.isLt
  obtain ⟨h1, h2, h3, h4⟩ := calHead_fields _ Config.dieId.toNat Config.calVersion.isLt
  have h5 : wd calRec (calRec.length - 1) = mk [(0, 32, (crcWords calRec.dropLast).toNat)] := rfl
  refine ⟨?_, ?_, ?_, ?_⟩
  · rw [h0, h1]; rfl
  · simp only [recordFault, h0, hw, h1, h2, h3, h5]
    simp [calWords]
  · simp [recordConflict, h0, h1, h4]
  · rw [h0, h1]; decide

/-- A session of 256 bytes whose second chunk arrives, and one that is whole. -/
def chunk : List Word := [mk [(0, 16, 1), (32, 32, (crc32c (List.replicate 8 0)).toNat)], 0]
def sess : Session := { slotB := true, total := 256, crc := 0, data := [] }
def whole : Session := { slotB := true, total := 256, crc := 0, data := [(0, List.replicate 31 0), (1, [0])] }
def withSess (x : Session) : State := { ready with can := { ready.can with session := some x, slotB := .part } }
def begins : List Word := [mk [(0, 1, 1), (32, 32, 2097152)], 0xFFFFFFFF]
def slotIn (x : SlotState) : State := { ready with can := { ready.can with slotA := x } }

theorem witness_CalibrationAndUpdateRequests :
    ((Served ready toOne ∧ [0x101FFFF].length = 1 ∧ within 0x101FFFF (wd [0x101FFFF] 0) = true ∧ ready.can.running = true ∧
      runConflict ready [0x101FFFF] = false ∧ acquiring ready .a = false ∧ acquiring ready .b = false ∧
      Room ready (.cal (runMask [0x101FFFF])) 0) ∧
     calRec.length = calWords (fld (wd calRec 0) 4 0) ∧ recordFault calRec = none ∧ recordConflict ready calRec = false ∧
     held ready (.cal (groupMask (pairOf (fld (wd calRec 0) 4 0)))) = false) ∧
    ServedAlways ready toOne ∧
    (begins.length = 2 ∧ within 0xFFFFFFFF00000003 (wd begins 0) = true ∧ 256 ≤ beginTotal begins ∧
      beginTotal begins ≤ 2097152 ∧ within 0xFFFFFFFF (wd begins 1) = true ∧ beginSlot begins = true ∧ (if beginSlot begins then ready.can.slotA else ready.can.slotB) ≠ .part ∧
      beginResume begins = false ∧ Room ready .update 0) ∧
    (Served (withSess sess) toOne ∧ chunk.length = 2 ∧ within 0xFFFFFFFF0000FFFF (wd chunk 0) = true ∧
      (withSess sess).can.session = some sess ∧ chunkFits sess chunk = true ∧ (withSess sess).can.buffer.length < 64 ∧
      held (withSess sess) .update = false) ∧
    (Served (withSess whole) toOne ∧ (withSess whole).can.buffer = [] ∧ (withSess whole).can.session = some whole ∧
      chunkCount whole.total ≤ whole.data.length ∧ Room (withSess whole) .update 0) ∧
    (Served (slotIn .stored) toOne ∧ (3 : Word) &&& ~~~ (3 : Word) = 0 ∧ (slotIn .stored).can.slotA = .stored) ∧
    (Served (slotIn .trial) toOne ∧ onTrial (slotIn .trial) = true) := by
  refine ⟨⟨?_, calRec_good⟩, servedAlways.1, ?_⟩
  · simp only [Served, Room]; decide +kernel
  · simp only [Served, Room]; decide +kernel

/-- Every slot of a state taken. -/
def fullOf (s : State) : State := { s with brg := { s.brg with slots := List.replicate 16 (.running (.memRead 0 1)) } }

/-- With every slot taken, each row that may be deferred reaches step 9 of R96. -/
theorem witness_Busy : (∀ s ∈ [ready, acq, planned, timed, streams, chanIn .running, withSess whole], freeSlot (fullOf s) = none) ∧
    MayDefer hCommit toOne [] (fullOf ready) ∧ MayDefer hTackLoad toOne [0x103] (fullOf ready) ∧
    MayDefer hTackSave toOne [0x303] (fullOf ready) ∧ MayDefer hTackErase toOne [3] (fullOf ready) ∧
    MayDefer hLogClear toOne [0xFFFFFFFF] (fullOf ready) ∧ MayDefer hChainDelayMeasure toOne [] (fullOf ready) ∧
    MayDefer hReset toOne [withLevel 0 0] (fullOf ready) ∧ MayDefer hReset toOne [withLevel 1 0] (fullOf ready) := by
  simp only [MayDefer]
  decide +kernel

theorem witness_BusyPaths : MayDefer hBaselineCapture toOne [0xFFFF0000] (fullOf acq) ∧ MayDefer hHistoryDump toOne dump (fullOf acq) ∧
    MayDefer hEmitDiag toOne [withAct2 1 1] (fullOf planned) ∧
    MayDefer hTimeSet toOne [0x40000000, withMode 1 0] (fullOf timed) ∧
    MayDefer hTimeSet toOne [0x40000000, withMode 2 0] (fullOf timed) ∧
    MayDefer hStreamTrain toOne [] (fullOf streams) ∧ MayDefer hDmaAbort toOne [0] (fullOf (chanIn .running)) := by
  simp only [MayDefer]
  decide +kernel

theorem witness_BusyRest : MayDefer hMemFill toOne [0x8000000, 8, 5] (fullOf ready) ∧
    MayDefer hCalRun toOne [0x101FFFF] (fullOf ready) ∧ MayDefer hUpdateBegin toOne begins (fullOf ready) ∧
    MayDefer hUpdateEnd toOne [] (fullOf (withSess whole)) := by
  simp only [MayDefer]
  decide +kernel

/-! ### Witnesses: power, start-up, clocks -/

def standing (sec : Nat) (src : BitVec 3) (dev : DevState) : State :=
  { ready with pwr := { ready.pwr with stand := some { seconds := sec, sources := src }, dev := dev } }
def waitsRails : State := { ready with pwr := { ready.pwr with dev := .railsWait } }
def offTime : State := { ready with pwr := { ready.pwr with dev := .offTime } }
def scheduled (n : Nat) : State := { ready with pwr := { ready.pwr with hard := some n } }

theorem witness_PowerRails : (standing 1 0 .standby).pwr.stand = some { seconds := 1, sources := 0 } ∧
    (standing 1 0 .standby).pwr.dev = .standby ∧ (1 : Nat) ≠ 0 ∧ (standing 1 0 .standby).pwr.xtFault = none ∧ offTime.pwr.dev = .offTime := by decide

theorem witness_ResetsOfDomains : (∃ t, exec .vaonLoss ready = .next t) ∧
    (1000 ≤ 1000 ∧ ready.pwr.stand = none ∧ pinReset ready.pwr.dev = some (.starting 0) ∧ powered ready.pwr.dev = true ∧
      ∃ t, exec (.resetNLow 1000) ready = .next t) ∧ (waitsRails.pwr.stand = none ∧ waitsRails.pwr.dev = .railsWait) ∧
    (powered ready.pwr.dev = true ∧ ∃ t, exec (.brownout 1) ready = .next t) ∧ ((scheduled 2).pwr.hard = some 2 ∧ (scheduled 2).pwr.stand = none ∧
      ∃ t, exec .resetStart (scheduled 2) = .next t) ∧ (scheduled 3).pwr.hard = some 3 ∧ 99 < 100 :=
  ⟨⟨_, rfl⟩, ⟨by decide, rfl, rfl, by decide, _, rfl⟩, ⟨rfl, rfl⟩, ⟨by decide, _, rfl⟩, ⟨rfl, rfl, _, rfl⟩, rfl, by decide⟩

theorem witness_StandbyPowerAndWake : (standing 0 0 .ready).pwr.stand = some { seconds := 0, sources := 0 } ∧
    (standing 0 0 .ready).pwr.dev ≠ .standby ∧ (standing 0 1 .standby).pwr.dev = .standby ∧ (1 : BitVec 3) ≠ 0 := by decide

/-- Step 6 of the start-up in a phase. -/
def calibrating (phase : Nat) (running : BitVec 17) : State :=
  { start 6 with cal := { Cal.init with phase := phase, running := running } }
def result (g : Nat) : StepResult := { group := g, trims := [], temp := 250, figures := [], slices := [], rings := [] }

theorem witness_StartUp : (start 1).pwr.dev = .starting 1 ∧ 11 ≤ 11 ∧ (3 ≤ 7 ∧ 7 ≤ 7) ∧ (start 3).pwr.dev = .starting 3 ∧
    ¬ ((start 3).can.slotA = .trial ∧ 2 ≤ (start 3).can.attempts) ∧
    bootCheck (start 3).can (start 3).can.slotA (start 3).can.imageA 0 = 0 ∧
    bootCheck (start 3).can (start 3).can.slotA (start 3).can.imageA 5 ≠ 0 ∧
    bootCheck (start 3).can (start 3).can.slotB (start 3).can.imageBi 0 = 0 ∧
    bootCheck (start 3).can (start 3).can.slotB (start 3).can.imageBi 7 ≠ 0 ∧ (start 4).pwr.dev = .starting 4 ∧
    ready.cal.phase = 0 ∧ ((calibrating 1 1).cal.phase = 1 ∧ (∀ g, (calibrating 1 1).cal.running.getLsbD g = true → g < 17 →
      ∃ r ∈ [result 0], r.group = g)) ∧ (calibrating 0 1).cal.phase = 0 ∧ (calibrating 0 1).cal.running.getLsbD 0 = true ∧
    (calibrating 2 0x100).cal.phase = 2 ∧ (calibrating 2 0x100).cal.running = 0x100 ∧ (result 8).group = 8 := by
  refine ⟨rfl, by decide, by decide, rfl, by decide, by decide, by decide, by decide, by decide, rfl, rfl, ⟨rfl, ?_⟩, rfl,
    by decide, rfl, rfl, rfl⟩
  intro g h hg
  refine ⟨result 0, by simp, ?_⟩
  interval_cases g <;> first | rfl | exact absurd h (by decide)

def loop (x : LoopState) : State := { ready with pll := { ready.pll with state := x } }
def change (r : Bool) : State := { ready with pll := { ready.pll with change := some { old := ready.pll.cfg, restoring := r } } }
def first : State := { start 2 with pll := { Pll.init with state := .start } }
/-- A SYNC that waits, with the dividers' phase known. -/
def syncing : State := { ready with pll := { ready.pll with syncWait := [{ line := false, due := 0 }], phaseKnown := true } }
/-- The same while side A acquires, without APPLY_WHILE_ACQ. -/
def syncAcq : State := { acq with pll := { syncing.pll with phaseKnown := false } }

theorem witness_PllAndSync : pllLocked ready = true ∧ ready.pll.change = none ∧ (loop .hold).pll.state = .hold ∧
    (loop .relock).pll.state = .relock ∧ first.pll.state = .start ∧ first.pwr.dev = .starting 2 ∧
    (change false).pll.state = .locked ∧ (change false).pll.change = some { old := ready.pll.cfg, restoring := false } ∧
    nextSync syncing.tb.mono syncing.pll.syncWait = some ({ line := false, due := 0 }, []) ∧ pllLocked syncing = true ∧ syncing.pll.change = none ∧
    anyAcquiring syncing = false ∧ anyAccumulating syncing = false ∧ syncing.pll.phaseKnown = true ∧
    24 * pllN syncing.pll.cfg % 24 = 0 ∧ 
    nextSync syncAcq.tb.mono syncAcq.pll.syncWait = some ({ line := false, due := 0 }, []) ∧
    (anyAcquiring syncAcq || anyAccumulating syncAcq) = true ∧ bit (rwGet syncAcq 0x0022) 2 = false ∧
    pllLocked (loop .hold) = false := by
  decide +kernel

/-! ### Witnesses: work that ends -/

def validating (l : Option TackLoad) (c : Cfg) : State :=
  { ready with draft := c, brg := { ready.brg with gate := .validating l } }
def tacking (x : TackOp) : State := { ready with tacks := { ready.tacks with op := some x } }

theorem witness_CommitAndTackEnds : (validating none Cfg.factory).brg.gate = .validating none ∧
    (validating none Cfg.factory).draft = (validating none Cfg.factory).live ∧
    (validating (some { set := 3, withCal := true }) Cfg.factory).brg.gate = .validating (some { set := 3, withCal := true }) ∧
    ((validating none Cfg.factory).tacks.sets.getD 3 TackSet.empty).state ≠ 1 ∧
    (validating none plan).draft ≠ (validating none plan).live ∧
    validate (validating none plan) (validating none plan).draft true = some { code := 2, sides := 1, index := 5 } ∧
    (tacking (.save 0 true true)).tacks.op = some (.save 0 true true) ∧ (tacking (.erase 3)).tacks.op = some (.erase 3) := by
  decide +kernel

def scanned : Cfg := { plan with zones := [] }

theorem witness_CommitApplies : (validating none scanned).brg.gate = .validating none ∧
    (validating none scanned).draft ≠ (validating none scanned).live ∧
    validate (validating none scanned) (validating none scanned).draft true = none ∧
    acquiring (validating none scanned) .a = false ∧ acquiring (validating none scanned) .b = false := by
  decide +kernel

def measuring : State := { linked with harn := { linked.harn with measuring := true } }
def loading : State := { ready with tb := { ready.tb with loader := some (.nextPps 0) } }
def clearing : State := { ready with can := { ready.can with clear := [5] } }
def free0 : State := { ready with rw := [(0x6000, 0x03E80004)] }
def timing : State := { slotIn .trial with can := { (slotIn .trial).can with trialAt := some 0 } }
def soft (n : Nat) : State := { ready with pwr := { ready.pwr with soft := some n } }
def stopping : State := setGirth .a (fun g => { g with acquiring := true, stopping := true }) ready
def calEnds : State := { ready with cal := { ready.cal with runs := [{ mask := 1, left := 0, late := 0, low := 0 }] } }
def aborting : State := setChan 15 (fun c => { c with state := .running, abort := true, phase := .burst, desc := 0x8000000 }) ready

theorem witness_DeferredWorkEnds : (soft 0).pwr.soft = some 0 ∧ acquiring (soft 0) .a = false ∧ acquiring (soft 0) .b = false ∧
    (soft 1).pwr.soft = some 1 ∧ measuring.harn.measuring = true ∧
    loading.tb.loader.isSome = true ∧
    clearing.can.clear = 5 :: [] ∧ acquiring stopping .a = true ∧
    (stopping.girth.side .a).stopping = true ∧ (stopping.lash.get .a).shots = [] ∧
    (stopping.girth.waiting.any fun o => o.side == .a) = false ∧
    calEnds.cal.runs = [{ mask := 1, left := 0, late := 0, low := 0 }] ∧ (15 < 16 ∧ (chan aborting 15).state = .running ∧
      (chan aborting 15).abort = true ∧ (chan aborting 15).phase ≠ .fetch ∧ descPlace aborting (chan aborting 15).desc = true) := by
  decide +kernel

def captured : State := setBase 7 (fun b => { b with state := 1, want := 1, done := 1 }) ready
def dumping (l : List Frame) (dram : Bool) : State :=
  { ready with girth := { ready.girth with dump := some ⟨5, 0, 1, 0, 1, dram, l, 0, false, false, none, 0, 0⟩ } }
def inSlot (r : Res) : State := { ready with brg := { ready.brg with slots := ready.brg.slots.set 15 (.running r) } }
def filling : State := { ready with mem := { ready.mem with fill := some (0x8000000, 8, 5) } }
def session (x : Session) (f : Cantle → Cantle) : State := { ready with can := f { ready.can with session := some x } }
/-- A short session whose CRC fits its one chunk, and one whose CRC does not. -/
def small : Session := { slotB := false, total := 8, crc := crc32c (List.replicate 8 0), data := [(0, [0])] }
def broken : Session := { small with crc := 1 }

theorem witness_TransferAndUpdateEnds : (baseline captured 7).state = 1 ∧ (baseline captured 7).want ≤ (baseline captured 7).done ∧
    (dumping [] false).girth.dump.isSome = true ∧ ((dumping [Frame.bare 0 0 []] false).girth.dump.map (·.left)) ≠ some [] ∧
    (inSlot (.memRead 0 1)).brg.slots[15]? = some (.running (.memRead 0 1)) ∧ filling.mem.fill = some (0x8000000, 8, 5) ∧
    ((session small fun c => { c with works := [.begins begins] }).can.works = [.begins begins]) ∧
    ((session small fun c => { c with works := [.begins begins, .ends] }).can.works = .begins begins :: .ends :: []) ∧
    ((session small fun c => { c with works := [.ends, .begins begins] }).can.works = .ends :: .begins begins :: []) ∧
    ((session small fun c => { c with buffer := [(0, [0])] }).can.buffer = (0, [0]) :: []) ∧
    (session small fun c => { c with buffer := [(0, [0])] }).can.running = true ∧
    (session small fun c => { c with works := [.ends] }).can.works = [.ends] ∧ crc32c (sessionBytes broken) ≠ broken.crc ∧
    crc32c (sessionBytes small) = small.crc ∧ (imageIn (session small id) small.slotB).bad = false ∧
    (let s := setImage false { ready.can.imageA with bad := true } (session small id); (imageIn s small.slotB).bad = true) ∧
    onTrial timing = true ∧
    timing.can.trialAt.isSome = true := by
  decide +kernel

/-! ### Witnesses: time base, Awl, harness -/

def pps (up : Bool) (at_ : Option Nat) (mono : Nat) : State :=
  { ready with tb := { ready.tb with ppsUp := up, ppsAt := at_, mono := mono } }
/-- PPS alone steers, LOCKED. -/
def steered : State := { pps true (some 0) 0 with tb := { (pps true (some 0) 0).tb with state := .locked }, rw := [(0x6000, 1)] }
def ref10 : State := { ready with tb := { ready.tb with refUp := true, refIn := true } }
def lockedFree : State := { ready with tb := { ready.tb with state := .locked } }
def oscBad : State := { ready with pwr := { ready.pwr with xtFault := some true } }

theorem witness_TimeBaseEvents : (!tbFalling ready) ≠ tbFalling ready ∧ ready.tb.ppsAt = none ∧
    ((pps true (some 0) 400000000).tb.ppsAt = some 0 ∧ aSecondApart 0 (pps true (some 0) 400000000).tb.mono = true) ∧
    aSecondApart 0 (pps true (some 0) 1).tb.mono = false ∧ steered.tb.ppsUp = true ∧ tbSource steered = 1 ∧
    steered.tb.state = .locked ∧ ready.tb.refUp = false ∧ ref10.tb.refUp = true ∧ pllLocked ref10 = true ∧
    ref10.tb.refIn = true ∧ (-90000000 : Int).natAbs ≤ 90000000 ∧ pllLocked (loop .hold) = false ∧
    free0.tb.state = .free ∧ tbSource free0 = 0 ∧
    lockedFree.tb.state = .locked ∧ refSteers lockedFree = false ∧ ready.can.running = true ∧ ready.pwr.xtFault = none ∧
    oscBad.pwr.xtFault = some true ∧ recov.can.running = false := by
  decide +kernel

/-- Input 0 enabled for both edges with QUEUE; a conversion in progress on it. -/
def awlOn : State := { ready with rw := [(0x6020, 0x2D), (0x6040, 0x8000000A)] }
def awlConv (n : Nat) : State :=
  setAwl n (fun a => { a with conv := some { falling := false, tc := 0, half := 0, unset := true, degraded := false, cfg := 0x2D } }) awlOn
theorem awlConv_sound (n : Nat) : Sound (awlConv n) where
  mem := rfl
  queue := Nat.zero_le _
  qseq := trivial
  lost := Nat.zero_le _
  slots := rfl
  sets := rfl
  results := rfl
  awl := by simp [awlConv, setAwl, upd]; rfl
  lanes := rfl
  chans := rfl
  groups := rfl

theorem witness_AwlEdges : Sound (awlConv 10) ∧ Sound (awlConv 8) ∧
    (7 < 8 ∧ bit (tdcCfg awlOn 0) 0 = true ∧ edgeWanted (tdcCfg awlOn 0) false = true ∧ holdOver awlOn 0 = true ∧
      awlBusy awlOn 0 = false ∧ awlBusy (awlConv 0) 0 = true ∧ holdOver (awlConv 0) 0 = true) ∧
    (10 < 11 ∧ (awlIn (awlConv 10) 10).conv.isSome = true ∧ 320 ≤ 320) ∧
    awlBusy ready 10 = false ∧
    (let s := setAwl 10 (fun a => { a with takeover := true, second := some 4300 }) ready
     (awlIn s 10).takeover = true ∧ (awlIn s 10).conv = none ∧ (awlIn s 10).second = some 4300 ∧ deltaOk 4300 = true) ∧
    (fld (rwGet awlOn 0x6040) 15 0 ≠ 0 ∧ bgOn awlOn = true ∧ foreground awlOn 15 = false ∧
      deltaOk ([(3500, 3500)].getD 0 (0, 0)).1 = true) :=
  ⟨awlConv_sound _, awlConv_sound _, by decide +kernel⟩

def link (u d : LinkState) : State := { ready with harn := { ready.harn with up := u, down := d } }
def low : State := link .noLink .noLink
def broken91 : State := { ready with harn := { ready.harn with breakIn := true } }
def blocked : State := { ready with rw := [(0x1001, 1)] }
def both : State := link .locked .locked
/-- A retry of the request with SEQ 7, to the next unassigned unit. -/
def to63 : Packet := reseal { req 0 [] with addr := 63, retry := true }
/-- A time load that waits for the chain's SYNC. -/
def awaitsSync : State := { timed with tb := { timed.tb with loader := some (.chainSync 0) } }

theorem witness_LinksAndBreakIn : answers low = true ∧ low.harn.up = .noLink ∧ low.harn.down = .noLink ∧
    answers (link .align .align) = true ∧ (link .align .align).harn.up = .align ∧ (link .align .align).harn.down = .align ∧
    both.harn.up = .locked ∧ both.harn.down = .locked ∧ both.cal.phase = 0 ∧ broken91.harn.breakIn = true ∧
    both.harn.breakIn = false ∧ answers both = true ∧ keepsBack both (req 0 []) = false ∧ downBlock both = false ∧
    packetOk (req 0 []) = true ∧ answers State.reset = false := by
  decide +kernel

/-- The request of that retry is kept with its reply. -/
def assigned : State :=
  { both with
    brg := { ready.brg with storedH := some { seq := 7, op := 0, crc := matchCrc to63, addr := 1, reply := okReply [] } } }
/-- An enumeration with CLEAR whose reply is awaited. -/
def enumerating : State :=
  { both with harn := { both.harn with own := some { op := 0x18, seq := some 7, status := 0, detail := 0 }, clearDue := true } }
def enumReply : Packet := reseal { req 0x18 [0] with isReply := true, addr := 62 }

theorem witness_HarnessTraffic : forwards both .up = true ∧ keepsBack both (req 0 []) = false ∧
    keepsBack assigned to63 = true ∧ forwards assigned .up = true ∧ forwards low .up = false ∧
    forwards both .down = true ∧ downBlock both = false ∧ forwards low .down = false ∧
    downBlock blocked = true ∧ (∃ x, enumerating.harn.own = some x ∧ x.fits enumReply = true ∧ x.op = 0x18 ∧ x.status = 0) ∧
    enumerating.harn.clearDue = true ∧ packetOk enumReply = true ∧ forwards enumerating .down = true ∧
    both.harn.own = none ∧ awaitsSync.tb.loader = some (.chainSync 0) ∧ lineSyncOn awaitsSync = true ∧
    bit (girthCtrl ready .a) 3 = false ∧ bit (girthCtrl ready .b) 3 = false ∧ answers State.reset = false ∧ packetOk (req 0 []) = true ∧ packetOk { req 0 [] with crc := 0 } = false ∧
    answers ready = true ∧ lineSyncOn { ready with rw := [(0x0022, 0)] } = false ∧ lineSyncOn timed = true ∧ timed.tb.loader = none := by
  decide +kernel

/-! ### Witnesses: probe emitter, scan, data plane -/

def dark : State := { ready with pwr := { ready.pwr with laserEn := false } }
/-- A pulse in progress on side A, and what holds of its gate. -/
def pulsing (code : Nat) (g : GateState) : State := setLash .a (fun l => { l with pulse := some code, gate := g }) planned
def dacBad : State := setLash .a (fun l => { l with dacFault := true }) ready

theorem witness_LaserInterlock : 50 ≤ 50 ∧ ready.pwr.laserEn = true ∧ answers ready = true ∧ 49 < 50 ∧
    dark.pwr.laserEn = false ∧ answers dark = true := by decide

theorem witness_LightStopsOnFaults : ((pulsing 546 .verified).lash.get .a).pulse = some 546 ∧ proofCode ≤ 546 ∧
    ((pulsing 545 .verified).lash.get .a).pulse = some 545 ∧ 545 < proofCode ∧ (ready.lash.get .a).dacFault = false ∧
    (dacBad.lash.get .a).dacFault = true := by decide

def wave (x : WlState) : State := setLash .b (fun l => { l with wl := x }) ready
/-- Side A acquires on one route with time kept for a proof, after its first shot group. -/
def proving : State :=
  let c : Cfg := { plan with zones := [], params := [(0x4006, mk [(0, 16, 8000), (16, 16, 1)])] }
  setGirth .a (fun g => { g with acquiring := true })
    (setLash .a (fun l => { l with number := 1 }) { planned with live := c, draft := c })

theorem witness_GatePulsesAndLock : (ready.lash.get .a).pulse = none ∧
    (((pulsing 546 .unverified).lash.get .a).pulse = some 546 ∧ ((pulsing 546 .unverified).lash.get .a).proof = false ∧
      ((pulsing 546 .unverified).lash.get .a).cut = false ∧ 48 ≤ 48 ∧ proofCode ≤ 546 ∧
      ((pulsing 546 .unverified).lash.get .a).gate = .unverified) ∧
    (47 < 48 ∧ ((pulsing 546 .verified).lash.get .a).gate = .verified) ∧
    ((proving.lash.get .a).enabled = true ∧ proving.pwr.laserEn = true ∧ (proving.lash.get .a).pulse = none ∧
      proofTime proving .a = true ∧ (proving.lash.get .a).gate = .unverified) ∧ (ready.lash.get .a).enabled = false ∧
    ((wave .acquiring).lash.get .b).wl = .acquiring ∧ ((wave .locked).lash.get .b).wl = .locked ∧
    lockOn ((wave .locked).lash.get .b) = true ∧ lockOn (ready.lash.get .b) = false := by
  decide +kernel

/-- Side A acquires in a dwell of two shot groups left. -/
def dwelling2 : State := setLash .a (fun l => { l with dwellLeft := 2, running := true, launched := 1 }) acq
/-- The same with two launch groups. -/
def twoGroups : State :=
  let c : Cfg := { plan with params := [(0x4000, 0x22)] }
  { dwelling2 with live := c, draft := c }
def shot : Shot := { group := 0, number := 1, route := 0, cycle := 0, tag := 0, est := false, unlocked := false, settle := false, discard := false, held := false, late := false, visit := 0, moved := false, align := none, edge := none, cfg := plan, via := [] }
def shots : State := setLash .a (fun l => { l with shots := [shot] }) acq

theorem witness_Launches : (acquiring dwelling2 .a = true ∧ (dwelling2.girth.side .a).stopping = false ∧
      (dwelling2.lash.get .a).seq = .none ∧ waits dwelling2 .a = false ∧ 2 ≤ (dwelling2.lash.get .a).dwellLeft) ∧
    acquiring ready .a = false ∧ (acquiring twoGroups .a = true ∧ (twoGroups.girth.side .a).stopping = false ∧
      (twoGroups.lash.get .a).seq = .none ∧ (twoGroups.lash.get .a).running = true ∧ (twoGroups.lash.get .a).launched ≠ 0 ∧
      (twoGroups.lash.get .a).launched < groupCount (cfgOf twoGroups .a) .a) ∧ Sound (awlConv 0) ∧
    (awlBusy (awlConv 0) (8 + Side.b.num) = false ∧ ((awlConv 0).lash.get .b).proof = false) ∧ (shots.lash.get .a).shots = [] ++ [shot] :=
  ⟨by decide +kernel, by decide, by decide +kernel, awlConv_sound 0, by decide +kernel, rfl⟩

def sequenced (x : SwitchSeq) : State := setLash .a (fun l => { l with seq := x }) acq
def settling : State :=
  let c : Cfg := { plan with params := [(0x5010, mk [(8, 4, 1), (16, 12, 1)])] }
  setLash .a (fun l => { l with settleLeft := 1, dwellLeft := 2 }) { acq with live := c, draft := c }
/-- The same without the check. -/
def untold : State :=
  let c : Cfg := { plan with params := [(0x5010, mk [(8, 4, 1)])] }
  { settling with live := c, draft := c }
/-- Route 0 of side A broken, with APR on. -/
def cutOff : State :=
  { acq with
    rw := [(0x4009, 1)]
    girth := { acq.girth with delta := [(0, { Delta.init with broken := true })] } }
def transfers (x : SwitchSeq) (p : List Parked) : State :=
  setTherm .a (fun t => { t with transfer := true, parked := p }) (sequenced x)

/-- A lane far from its offset, whatever that is. -/
def offLanes : List (List Int) := [[Config.laneOffset (calTrims settling 0) + 100]]
theorem witness_settling : (offLanes.zipIdx.any fun x => laneOff settling .a x.2 x.1) = true := by
  have h1 : settleTol (cfgOf settling .a) .a = 1 := by decide +kernel
  have h2 : groupGuarded (cfgOf settling .a) .a 0 = false := by decide +kernel
  have h3 : bit (sideGet (cfgOf settling .a) .a 0x5000) 0 = false := by decide +kernel
  simp [offLanes, laneOff, h1, h2, h3, Side.num, inverted]

theorem witness_RouteSwitch : (acquiring (sequenced .draining) .a = true ∧ ((sequenced .draining).lash.get .a).seq = .draining ∧
      ((sequenced .draining).therm.get .a).transfer = false ∧
      entryFrom (sequenced .draining) .a ((sequenced .draining).lash.get .a).entry = some (0, 0xFFFF0000)) ∧
    ((sequenced (.blanking false)).lash.get .a).seq = .blanking false ∧ (ready.lash.get .a).seq ≠ .blanking false ∧
    (let s := sequenced (.blanking true)
     acquiring s .a = true ∧ (s.lash.get .a).seq = .blanking true ∧ (s.girth.side .a).stopping = false ∧ waits s .a = false ∧
      entryFrom s .a (s.lash.get .a).entry = some (0, 0xFFFF0000) ∧ entryRoute .a 0xFFFF0000 = presentRoute s .a) ∧
    (acquiring settling .a = true ∧ (settling.lash.get .a).seq = .none ∧ (settling.lash.get .a).settleLeft = 1 ∧
      settleTol (cfgOf settling .a) .a ≠ 0 ∧ (settling.lash.get .a).extra < settleExtra (cfgOf settling .a) .a ∧ 1 < (settling.lash.get .a).dwellLeft) ∧
    (acquiring untold .a = true ∧ (untold.lash.get .a).seq = .none ∧ (untold.lash.get .a).settleLeft = 1 ∧
      settleTol (cfgOf untold .a) .a = 0) ∧ (([] : List (List Int)).zipIdx.any fun x => laneOff settling .a x.2 x.1) = false ∧
    ((cutOff.girth.side .a).breakRoute = 0 ∧ routeSide 0 = .a ∧ bit (rwGet cutOff (sid .a 0x4009)) 0 = true ∧
      (deltaOf cutOff 0).broken = true ∧ (cutOff.lash.get .a).blocked.getLsbD (0 % 4) = false) ∧
    (((transfers .draining []).therm.get .a).transfer = true ∧ ((transfers .draining []).lash.get .a).seq = .draining ∧
      ((transfers .draining []).therm.get .a).shots = 0) ∧
    (let s := setTherm .a (fun t => { t with shots := 9 }) (transfers .draining [])
     (s.therm.get .a).transfer = true ∧ (s.lash.get .a).seq = .draining ∧ (s.therm.get .a).shots ≠ 0) ∧
    (((transfers .none [⟨0, 5, 0, 0, false⟩]).therm.get .a).transfer = true ∧ ((transfers .none [⟨0, 5, 0, 0, false⟩]).lash.get .a).seq ≠ .draining ∧
      ((transfers .none [⟨0, 5, 0, 0, false⟩]).therm.get .a).parked.find?
        (·.route = ((transfers .none [⟨0, 5, 0, 0, false⟩]).therm.get .a).route) = some ⟨0, 5, 0, 0, false⟩) ∧
    (ready.therm.get .a).transfer = false := by
  decide +kernel

def zoneIn (x : ZoneState) : State := setZone 5 (fun r => { r with state := x }) acq
/-- An output instant waits. -/
def output : ZoneOut := { side := .a, zone := 5, tag := 0, at' := 0, visit := 0, cfg := plan, samples := [] }
def waitsOut : State := { acq with girth := { acq.girth with waiting := [output] } }
/-- AUTO of side A, an envelope interval and a delta trace that are due, digests on. -/
def periods : State :=
  let c : Cfg := { plan with params := [(0x3000, 0xFFFFFFFFFFFFFFFF), (0x3002, 0xFFFF), (0x3003, 0xFFFF), (0x3004, 0xFFFFFFFF)] }
  setDelta 0 (fun x => { x with done := 65535 }) <| setBase 0 (fun b => { b with state := 2 }) <|
  setGirth .a (fun g => { g with acquiring := true, envStart := some (0, 0) })
    { planned with live := c, draft := c, rw := [(0x3001, 0xFFFFFFFFFFFFFFFF), (0x3005, 0xFFFF), (0x3006, 0xFFFF)],
                   tb := { planned.tb with mono := 2 ^ 60 } }

theorem witness_AcousticEvents : (shots.lash.get .a).shots = shot :: [] ∧ (acq.lash.get .a).shots = [] ∧
    waitsOut.girth.waiting = output :: [] ∧
    (zoneRun (zoneIn .holdoff) 5).state = .holdoff ∧ (zoneRun (zoneIn .armed) 5).state ≠ .holdoff ∧
    (fld (rwGet periods (sid .a 0x3001)) 15 0 ≠ 0 ∧ triggersOn periods .a = true ∧
      fld (rwGet periods (sid .a 0x3001)) 15 0 * sCycles ≤ periods.tb.mono - (periods.girth.side .a).autoAt) ∧
    (acquiring periods .a = true ∧ envPeriod (cfgOf periods .a) .a ≠ 0 ∧ (periods.girth.side .a).envStart = some (0, 0)) ∧
    (deltaGroups (cfgOf periods .a) .a ≠ 0 ∧ (baseline periods (presentRoute periods .a)).state = 2 ∧
      deltaGroups (cfgOf periods .a) .a ≤ (deltaOf periods (presentRoute periods .a)).done) ∧ periods.mem.ecc = false ∧
    (let s := { periods with mem := { periods.mem with ecc := true } }
     deltaGroups (cfgOf s .a) .a ≠ 0 ∧ (baseline s (presentRoute s .a)).state = 2 ∧
      deltaGroups (cfgOf s .a) .a ≤ (deltaOf s (presentRoute s .a)).done ∧ s.mem.ecc = true ∧ kvWf Baseline.none none s.base = true) ∧
    digestSecs periods ≠ 0 ∧ acquiring periods .b = false := by
  decide +kernel

/-- A running accumulation on side A. -/
def raman : State :=
  let c : Cfg := { plan with params := [(0xA000, 1)] }
  setTherm .a (fun t => { t with running := true }) { acq with live := c, draft := c }
def computes : State := setTherm .a (fun t => { t with
  comp := some { route := 0, first := 0, last := 0, done := 0, tref := 0, age := 0, cfg := plan, held := false, stale := false, chans := [], gone := [] } }) ready

theorem witness_ThermalEvents : ramanReady raman .a = true ∧ ramanReady ready .a = false ∧
    thShots (cfgOf accumulated .a) .a ≤ (accumulated.therm.get .a).shots ∧ (accumulated.therm.get .a).computing = false ∧
    (computes.therm.get .a).comp ≠ none ∧ (ready.therm.get .a).comp = none := by
  decide +kernel

/-- The first lanes over-ranged in one sample. -/
def burst (n : Nat) : List OverSample := (List.range n).map fun k => { lane := k, instant := 0 }
/-- The spare 8 of lane 7 is out. -/
def spareOut : State := setLane 7 (fun l => { l with out := some 8 }) ready

theorem upd_sound (n : Nat) (f : Lane → Lane) : Sound (setLane n f ready) where
  mem := rfl
  queue := Nat.zero_le _
  qseq := trivial
  lost := Nat.zero_le _
  slots := rfl
  sets := rfl
  results := rfl
  awl := rfl
  lanes := by simp [setLane, upd]; rfl
  chans := rfl
  groups := rfl

theorem acq_sound : Sound acq :=
  ⟨rfl, Nat.zero_le _, trivial, Nat.zero_le _, rfl, rfl, rfl, rfl, rfl, rfl, rfl⟩

theorem witness_ConverterEvents : Sound ready ∧ Sound acq ∧ Sound spareOut ∧
    (burstLanes ready ≠ 0 ∧ findBurst ready (burst 4) [] = some (0x0F, false) ∧ findBurst ready (burst 3) [] = none ∧
      ready.recv.burstAt = none) ∧ dwelling acq = true ∧ dwelling ready = false ∧
    (7 < 8 ∧ bgOn ready = true ∧ sliceMs ready ≠ 0 ∧ (lane ready 7).degraded = 0 ∧ foreground ready 7 = false ∧
      ready.recv.suspect = false ∧ ready.recv.borrowed = false ∧ (lane ready 7).out = none ∧ (lane ready 7).trimmable ≠ []) ∧
    (lane spareOut 7).out = some 8 ∧ ramanSecs ready ≠ 0 ∧ foreground ready (9 + Side.b.num) = false ∧
    foreground (calibrating 0 0x400) (9 + Side.b.num) = true ∧ foreground (calibrating 0 0x80) 7 = true ∧
    fld (rwGet ready 0x8000) 31 24 ≠ 0 ∧ (16 < 17 ∧ (List.replicate 17 (999 : Int))[16]? = some 999 ∧
      10 * fld (rwGet ready 0x8000) 31 24 < ((999 : Int) - (calGroup ready 16).temp).natAbs) :=
  ⟨ready_sound, acq_sound, upd_sound _ _, by decide +kernel⟩

/-! ### Witnesses: aux, stream, memory, Lace -/

def auxIn (x : SeqPhase) (f : Aux → Aux) : State := { ready with aux := f { ready.aux with phase := x, entry := 63 } }
/-- Triggered runs by the timer. -/
def timer (x : SeqPhase) (f : Aux → Aux) : State :=
  let c : Cfg := { Cfg.factory with params := [(0x5800, mk [(7, 1, 1), (8, 2, 2), (32, 16, 1)])] }
  { auxIn x f with live := c, draft := c }

theorem witness_AuxEvents : (auxIn .settling id).aux.phase = .settling ∧ (auxIn .settling id).aux.paused = false ∧
    (auxIn .settling fun a => { a with paused := true }).aux.paused = true ∧ ready.aux.phase ≠ .settling ∧
    ((auxIn .converting id).aux.phase = .converting ∧ (auxIn .converting id).aux.entry < 64 ∧
      (auxIn .converting id).aux.results.length = 64) ∧ ready.aux.phase ≠ .converting ∧
    (let s := timer .waiting id
     auxSource (cfgFree s) = 2 ∧ auxPeriod (cfgFree s) ≠ 0 ∧ auxTriggered (cfgFree s) = true ∧ isReady s = true ∧
      s.aux.phase = .waiting ∧ s.aux.paused = false) ∧
    (let s := timer .converting id
     s.aux.phase = .converting ∧ s.aux.pendingTr = false ∧ auxTriggered (cfgFree s) = true ∧ isReady s = true) ∧
    (let s := timer .converting fun a => { a with pendingTr := true, overrunUp := true }
     s.aux.phase = .converting ∧ s.aux.pendingTr = true ∧ s.aux.overrunUp = true ∧ auxSource (cfgFree s) = 2) := by
  decide +kernel

def strm (f : Stream → Stream) : State := { ready with strm := f ready.strm }
def frame : Frame := Frame.bare 0 0 []

theorem witness_StreamEvents : (strm fun t => { t with state := .up }).strm.state = .up ∧ ready.strm.state ≠ .up ∧
    (let s := strm fun t => { t with state := .up, trainWait := true }
     s.strm.state = .up ∧ s.strm.trainWait = true) ∧ inProgress sending = true ∧ (strm fun t => { t with fcLocked := true }).strm.fcLocked = true ∧
    (let s := strm fun t => { t with state := .training, fcLocked := true, okRun := 63 }
     s.strm.fcLocked = true ∧ s.strm.state = .training ∧ 63 ≤ s.strm.okRun) ∧ (0xFE : BitVec 8) ≠ 0xFF ∧
    ready.strm.fcLocked = false ∧ ready.strm.state ≠ .training ∧ (255 ≠ 0 ∧ 255 ≤ 255) ∧
    (let s := strm fun t => { t with state := .up, credits := 1, fifo := [frame] }
     s.strm.state = .up ∧ s.strm.credits ≠ 0 ∧ s.strm.trainWait = false ∧ inProgress s = false ∧ s.strm.resend = none ∧ s.strm.fifo = frame :: []) ∧
    (let s := strm fun t => { t with state := .up, credits := 1, resend := some (frame, 2047) }
     s.strm.state = .up ∧ s.strm.credits ≠ 0 ∧ s.strm.trainWait = false ∧ inProgress s = false ∧ s.strm.resend = some (frame, 2047)) ∧
    (let s := strm fun t => { t with state := .up, fifo := [frame] }
     s.strm.state = .up ∧ s.strm.credits = 0 ∧ s.strm.fifo ≠ [] ∧ fld (rwGet s 0x7000) 47 32 ≠ 0 ∧ s.strm.stallUp = false) := by
  decide +kernel

def mem (f : Mem → Mem) : State := { ready with mem := f ready.mem }

theorem witness_DramEvents :
    (let s := mem fun m => { m with panic := true, postponed := 7 }
     s.mem.usable = true ∧ s.mem.panic = true ∧ s.mem.postponed < 8 ∧ s.mem.panicTold = false ∧ 6 ≤ panicLo s) ∧
    (ready.mem.panic = false ∧ ready.mem.usable = true ∧ panicHi ready ≠ 0 ∧ inNeed ready 12 0 ≠ 0 ∧ srIdle ready ≠ 0 ∧
      ready.mem.selfRefresh = false) ∧ State.reset.mem.usable = false ∧
    (let s := mem fun m => { m with ecc := true }
     s.mem.usable = true ∧ s.mem.ecc = true ∧ scrubHours s ≠ 0 ∧ usableCap s - 1 < usableCap s) := by
  decide +kernel

def desc (dst : Word) : List Word := [mk [(0, 32, 256)], 0, 0x8000000, dst, 0, 0, 0, 0]
/-- Channel 15 with a COPY in a phase. -/
def lace (p : DmaPhase) (w : List Word) (at_ : Nat) : State :=
  setChan 15 (fun c => { c with state := .running, phase := p, words := w, desc := at_ }) ready

theorem lace_sound (p : DmaPhase) (w : List Word) (a : Nat) : Sound (lace p w a) where
  mem := rfl
  queue := Nat.zero_le _
  qseq := trivial
  lost := Nat.zero_le _
  slots := rfl
  sets := rfl
  results := rfl
  awl := rfl
  lanes := rfl
  chans := by simp [lace, setChan, upd]; rfl
  groups := rfl

theorem witness_LaceEvents : 15 < 16 ∧ Sound ready ∧ (∀ p w a, Sound (lace p w a)) ∧
    (serve (lace .burst (desc 0x9000000) 0)).map (·.2.1) = some 15 ∧ (serve (lace .burst (desc 0) 0)).map (·.2.1) = some 15 ∧
    (nextBurst (lace .burst (desc 0x9000000) 0) (chan (lace .burst (desc 0x9000000) 0) 15)).cause = 0 ∧
    (nextBurst (lace .burst (desc 0) 0) (chan (lace .burst (desc 0) 0) 15)).cause ≠ 0 ∧ serve ready = none ∧
    (let s := lace .fetch [] 0x8000000
     (chan s 15).state = .running ∧ (chan s 15).phase = .fetch ∧ (chan s 15).abort = false ∧ descPlace s (chan s 15).desc = true) ∧
    descPlace (lace .fetch [] 1) (chan (lace .fetch [] 1) 15).desc = false ∧
    (chan (lace .ending (desc 0) 0) 15).phase = .ending ∧ (chan ready 15).state ≠ .running :=
  ⟨by decide, ready_sound, lace_sound, by decide +kernel⟩

/-- Channel 15 at one more reading of a LINK word that ends its chain. -/
def linking (x : DmaState) : State :=
  setChan 15 (fun c => { c with state := x, phase := .link, desc := 0x8000000 })
    (mem fun m => { m with bytes := memPutWords [] 0x8000020 [1] })

theorem witness_LinkReads : (chan (lace .ending (desc 0) 0x8000000) 15).phase = .ending ∧
    stalled (lace .ending (desc 0) 0x8000000) 0x8000000 = false ∧ inHost (lace .ending (desc 0) 0x8000000) 0x8000000 64 = true ∧
    (∀ x ∈ [DmaState.running, .idleAtEnd], (chan (linking x) 15).state = x ∧ (chan (linking x) 15).phase = .link ∧
      (chan (linking x) 15).kick = false ∧ (chan (linking x) 15).abort = false ∧
      stalled (linking x) (chan (linking x) 15).desc = false) ∧
    (chan ready 15).state ≠ .running ∧ (chan ready 15).phase ≠ .link := by
  decide +kernel

theorem witness_linkEnd (x : DmaState) : bit (hostWord (linking x) ((chan (linking x) 15).desc + 32) 0) 0 = true := by
  cases x <;> decide +kernel

/-- DRAM in panic. -/
def panicking : State := mem fun m => { m with panic := true, zqWaits := some 7, dqsWaits := some 6, postponed := 8 }

theorem witness_Stalled : stalled panicking 0x8000000 = true ∧ panicking.mem.postponed = 8 ∧
    panicking.mem.zqWaits = some 7 ∧ panicking.mem.dqsWaits = some 6 ∧
    (let s := { panicking with brg := { ready.brg with slots := List.replicate 16 (.running (.memRead 0x8000000 1)) } }
     s.brg.slots[0]? = some (.running (.memRead 0x8000000 1)) ∧ stalled s 0x8000000 = true) ∧
    (let s := { panicking with mem := { panicking.mem with fill := some (0x8000000, 8, 5) } }
     s.mem.fill = some (0x8000000, 8, 5) ∧ stalled s 0x8000000 = true) := by
  decide +kernel

theorem witness_BusyRead : MayDefer hMemRead toOne [0x8000000, 1] (fullOf panicking) := by
  have h : hMemRead.defers (fullOf panicking) [0x8000000, 1] = some (.memRead 0x8000000 1) := by
    have : stalled (fullOf panicking) (memAddr [0x8000000, 1]) = true := by decide +kernel
    simp only [hMemRead, this, Bool.or_true, Bool.and_true]
    rfl
  refine ⟨by decide +kernel, by decide +kernel, by decide +kernel, by decide +kernel, ?_, by decide +kernel, ?_⟩
  · rw [Handler.badState, h]
    decide +kernel
  · rw [h]
    exact Option.some_ne_none _

theorem witness_BusyPll : let v := mk [(0, 10, 2 * pllN ready.pll.cfg), (10, 2, 2), (12, 6, 16)]
    MayDefer hParamSet toOne [0x0021, v] (fullOf ready) := by
  simp only [MayDefer]
  decide +kernel

theorem witness_PllLossInChange : pllLocked (change false) = true ∧
    (change false).pll.change = some { old := ready.pll.cfg, restoring := false } ∧ (loop .relock).pll.change = none ∧
    (let s := { change true with pll := { (change true).pll with state := .relock } }
     s.pll.state = .relock ∧ s.pll.change = some { old := ready.pll.cfg, restoring := true }) := by
  decide +kernel

/-- R336: RT first, a bulk burst after 16 RT grants, Cantle ahead of bulk after 64 bulk grants but never ahead of RT. -/
theorem test_nextPort : nextPort false true true true true 15 64 = some .rt0 ∧ nextPort false true false true true 16 0 = some .bulk ∧
    nextPort false false false true true 0 64 = some .cantle ∧ nextPort false false false true true 0 63 = some .bulk ∧
    nextPort true false false true true 16 64 = none := by
  decide

/-- Tables 16-1 and 16-4: of 16 GiB, MAP2 puts the second rank at the top address bit. -/
theorem test_dramPlace_rank : dramPlace (mem fun m => { m with fitted := 16, map := 2 }) 0x200002300 =
    { channel := 1, rank := 1, bank := 1, row := 0, column := 0x100 } := by
  decide +kernel

/-- R332, R320: the oldest frame of the mark area lies in its slot, its TIME the second word. -/
theorem test_markWord : markWord { ready with strm := { ready.strm with marks := [Frame.bare 3 77 []], markAt := 5 } } 0x288 =
    some 77 := by
  decide +kernel

/-! ### Witnesses: further clauses -/

theorem calibrating_sound (n : Nat) (b : BitVec 17) : Sound (calibrating n b) where
  mem := rfl
  queue := Nat.zero_le _
  qseq := trivial
  lost := Nat.zero_le _
  slots := rfl
  sets := rfl
  results := rfl
  awl := rfl
  lanes := rfl
  chans := rfl
  groups := rfl

theorem witness_StartUpTimeout : Sound (calibrating 1 0x81) ∧ Sound (calibrating 2 0x100) ∧
    ((calibrating 1 0x81).cal.phase ≠ 0 ∧ (calibrating 1 0x81).cal.running.getLsbD 7 = true ∧ 7 < 17 ∧
      (calibrating 1 0x81).cal.phase = 1) ∧
    (calibrating 2 0x100).cal.phase ≠ 0 ∧ (calibrating 2 0x100).cal.running.getLsbD 8 = true ∧ 8 < 17 :=
  ⟨calibrating_sound _ _, calibrating_sound _ _, by decide⟩

/-- A VALID Tack set with a configuration and a record of trims. -/
def validSet (c : Cfg) (l : Option Table) : TackSet :=
  TackSet.seal { TackSet.empty with erased := false, format := Config.tackFormat.toNat, member := 0x4880, cfg := c, cal := l }

theorem validSet_state (c : Cfg) (l : Option Table) : (validSet c l).state = 1 := by
  have h : (validSet c l).crc = tackCrc (validSet c l) := rfl
  rw [TackSet.state, if_neg (show ¬ (validSet c l).erased = true from Bool.false_ne_true), if_neg (not_not.mpr h), if_neg]
  rintro (x | x)
  · exact x rfl
  · exact x rfl

/-- A TACK_LOAD of that set under validation. -/
def tackLoads (c : Cfg) (l : Option Table) : State :=
  let s := validating (some { set := 3, withCal := true }) Cfg.factory
  { s with tacks := { s.tacks with sets := s.tacks.sets.set 3 (validSet c l) } }

theorem tackLoads_set (c : Cfg) (l : Option Table) : (tackLoads c l).tacks.sets.getD 3 TackSet.empty = validSet c l := rfl

theorem tackLoads_sound (c : Cfg) (l : Option Table) : Sound (tackLoads c l) where
  mem := rfl
  queue := Nat.zero_le _
  qseq := trivial
  lost := Nat.zero_le _
  slots := rfl
  sets := rfl
  results := rfl
  awl := rfl
  lanes := rfl
  chans := rfl
  groups := rfl

theorem witness_TackLoads :
    plan ≠ (tackLoads plan none).live ∧ validate { tackLoads plan none with draft := plan } plan true ≠ none ∧
    validate { tackLoads scanned none with draft := scanned } scanned true = none ∧
    Cfg.factory = (tackLoads Cfg.factory none).live ∧
    (∀ d ∈ [Side.a, Side.b], acquiring (tackLoads scanned none) d = false) ∧ (tackLoads scanned none).cal.writes = [] := by
  decide +kernel

theorem witness_TackTrims : (validSet scanned (some [(9, calRec)])).cal = some [(9, calRec)] ∧
    recordFault calRec = none ∧ fld (wd calRec 0) 4 0 = 9 ∧
    recordConflict (tackLoads scanned (some [(9, calRec)])) calRec = false ∧
    held (tackLoads scanned (some [(9, calRec)])) (.cal (groupMask (pairOf 9))) = false ∧ recordFault [] ≠ none :=
  ⟨rfl, calRec_good.2.1, (calHead_fields _ Config.dieId.toNat Config.calVersion.isLt).1, calRec_good.2.2.1, by decide,
    by simp [recordFault, wd, within, fld, calWords]⟩

/-- Side A acquires and waits for its boundary to take another scan; side B waits too, or not. -/
def freezes (wb : Bool) (x : SwitchSeq) : State :=
  let c : Cfg := { scanned with scans := [(0, [0x00100000])] }
  setLash .a (fun l => { l with seq := x })
    { acq with draft := c, brg := { (inSlot .draft).brg with gate := .frozen none true wb true wb } }

theorem witness_CommitBoundary :
    (let s := { acq with draft := scanned, brg := { acq.brg with gate := .validating none } }
     s.draft ≠ s.live ∧ validate s s.draft true = none ∧ acquiring s .a = true ∧ affected s.live s.draft .a = true) ∧
    Served (freezes false .none) toOne ∧ within 0xFFFF 0x5860 = true ∧ pOk (fld 0x5860 15 0) 0 = true ∧
    (acquiring (freezes false .none) .a = true ∧ waits (freezes false .none) .a = true ∧
      waits (freezes false .none) .b = false ∧ waits (freezes true .none) .b = true ∧
      ((freezes false .none).girth.side .a).stopping = false ∧ ((freezes false .none).lash.get .a).seq = .none ∧
      scanOf (freezes false .none).live .a ≠ scanOf (freezes false .none).draft .a) ∧
    ((next (exec (.shotGroupBoundary .a) (freezes false .none))).bind (entryFrom · .a 0)).isSome = true ∧
    (freezes false .none).brg.slots.findIdx? (· == .running .draft) = some 15 ∧
    ((freezes false (.blanking true)).lash.get .a).seq = .blanking true ∧
    (let s := setGirth .a (fun g => { g with stopping := true }) (freezes false .none)
     (s.girth.side .a).stopping = true ∧ (s.lash.get .a).shots = [] ∧ (s.girth.waiting.any fun o => o.side == .a) = false) := by
  simp only [Served]
  decide +kernel

/-- A MEM_READ of DRAM that waits, and a fill of DRAM under way; a channel of a level above. -/
def hostFirst : State := { filling with brg := { ready.brg with slots := ready.brg.slots.set 15 (.running (.memRead 0x8000000 1)) } }
def laceFirst : State := { lace .burst (desc 0x9000000) 0 with mem := filling.mem }

theorem witness_LaterWork : (baseline (setBase 7 (fun b => { b with later := [4] }) captured) 7).later = 4 :: [] ∧
    (let s := { dumping [] false with girth := { (dumping [] false).girth with dumpQ := [⟨5, 0, 1, 0, 1, false, [], 0, false, false, none, 0, 0⟩] } }
     s.girth.dumpQ ≠ []) ∧ bulkWaits hostFirst 0x8000000 = true ∧ hostFirst.mem.fill = some (0x8000000, 8, 5) ∧
    ((serve laceFirst).map (·.2.1)) = some 15 ∧ laceFirst.mem.fill = some (0x8000000, 8, 5) ∧
    (filling.mem.panic = false ∧ hostWaits filling = false ∧ (List.range 16).all (fun n => !burstPending filling n) = true) ∧
    bulkWaits aborting (chan aborting 15).desc = false ∧
    (let s := { clearing with can := { clearing.can with clear := [5, 6] } }
     s.can.clear = 5 :: [6] ∧ ([6] : List (BitVec 32)) ≠ []) ∧ (inSlot .log).brg.slots.findIdx? (· == .running .log) = some 15 := by
  decide +kernel

theorem witness_TimeAndAwl : (let s := { loop .hold with tb := { ready.tb with state := .locked } }
      pllLocked s = false ∧ s.tb.state = .locked) ∧ pllLocked (loop .hold) = false ∧ (loop .hold).tb.state = .free ∧
    (let s := { awlOn with cal := { awlOn.cal with awlRound := some (0, 0) } }
     s.cal.awlRound.isSome = true) ∧ awlOn.cal.awlRound = none ∧
    (ready.lash.get .a).enabled = false ∧ acquiring ready .a = false := by
  decide +kernel

/-- One shot of an acoustic zone, its channels all with histories of quality 0. -/
theorem witness_ShotOutput : kvWf ZoneRun.init none shots.zones = true ∧
    (∀ ch ∈ (zoneRun shots 5).chans, ∀ h ∈ ch.hist, h.quality ≤ 3) ∧ (zoneRun shots 5).gates = [] ∧ shot.held = false ∧
    (acousticOn shot.cfg shot.route).filter (fun z => (shots.cur.get .a).groups % 2 ^ zoneRate shot.cfg z =
      2 ^ zoneRate shot.cfg z - 1) = [5] := by
  decide +kernel

/-- The STA/LTA detector of zone 5 with one channel that turns on now. -/
def detects : Cfg :=
  { plan with trigs := [(5, [mk [(0, 9, 5), (9, 2, 1), (36, 4, 8), (40, 16, 1024)], mk [(16, 8, 1), (56, 8, 10)]])] }
def trigOut : ZoneOut :=
  { side := .a, zone := 5, tag := 0, at' := 0, visit := 0, cfg := detects
    samples := [{ value := 0, v := 100, quality := 0, fade := 0 }] }
def detected : State :=
  setZone 5 (fun r => { r with
      state := .armed
      chans := [{ Channel.init with det := { Channel.init.det with lta := 16, count := 256 } }] })
    { acq with girth := { acq.girth with waiting := [trigOut] } }

theorem witness_DetectorTrigger : detected.girth.waiting = trigOut :: [] ∧ kvWf ZoneRun.init none detected.zones = true ∧
    (let old := (zoneRun detected 5).chans
     let new := detect detects 5 (fadeGate detected .a) old trigOut.samples
     detectorActive detects 5 old = false ∧ detectorActive detects 5 new = true ∧
       earliest detects 5 old new (clusters detects 5 new) ≠ none) ∧
    (zoneRun detected 5).state = .armed ∧ triggersOn detected .a = true ∧ detected.girth.used < 128 ∧
    markRoom detected = true ∧ trigOut.at' < mono4 detected 0 + 4 * trigMax detects 5 := by
  decide +kernel

/-- A GATHER whose index table lies in DRAM with inline ECC, its data in a scratch SRAM. -/
def gathers : State :=
  let s := lace .burst [mk [(0, 32, 256), (32, 3, 1)], 0, 0, 0x9000000, 0, 0x8000000, mk [(0, 32, 1), (32, 16, 256)], 0] 0x8000000
  { s with mem := { s.mem with ecc := true, bytes := memPutWords [] 0x8000000 [BitVec.ofNat 64 thermalBase] } }

theorem witness_IndexRead : (serve gathers).map (·.2.1) = some 15 ∧ indexAt (chan gathers 15) = some 0x8000000 ∧
    readCause gathers 0x8000000 8 = 0 ∧ found gathers 0x8000000 .ecc = .ecc ∧
    (let b := nextBurst gathers (chan gathers 15); b.cause ≠ 0 ∨ found gathers (dataAt b) .ecc = .ok) ∧
    bulkWaits ready (chan ready 3).desc = false ∧
    (let s := { lace .burst (desc 0x9000000) 0x8000000 with mem := panicking.mem }
     bulkWaits s (chan s 15).desc = true ∧ descPlace s (chan s 15).desc = true) ∧ panicking.mem.panic = true := by
  decide +kernel

/-! ### Witnesses: Cantle -/

def can (f : Cantle → Cantle) : State := { ready with can := f ready.can }
def surge : Surge := newSurge ready
def test : SelfTest := { domains := 1, record := surge, cycle := 0, tiles := 63, tileBad := false, laneBad := 0 }

theorem witness_MonitorAndSurge : ready.can.running = true ∧ (List.replicate 12 (0 : Int)).length = 12 ∧
    (List.replicate 16 0).length = 16 ∧ (List.replicate 8 (0 : Int)).length = 8 ∧ recov.can.running = false ∧
    powered ready.pwr.dev = true ∧ ready.pwr.stand = none ∧ (6 < 7 ∧ 1000 ≤ 1000) ∧ (7 < 8 ∧ 1000 < 1001) ∧
    (can fun c => { c with surge := some surge }).can.surge = some surge ∧
    surge.domains.toNat &&& selftestMask ready = 0 ∧ ({ surge with domains := 1 } : Surge).domains.toNat &&& selftestMask ready ≠ 0 ∧
    ready.can.test = none ∧ (can fun c => { c with due := some test }).can.due = some test ∧ ready.can.due = none ∧
    (can fun c => { c with test := some test }).can.test = some test ∧ test.tiles < 64 ∧
    (can fun c => { c with tested := 63 }).can.tested < 64 := by
  decide +kernel

def item : LogItem := { tag := 0, type := 0, code := 8, unset := true, detail := 0, data := [] }

theorem witness_CantleEvents : ready.can.running = true ∧ recov.can.running = false ∧
    (can fun c => { c with restart := some 0 }).can.restart = some 0 ∧ ready.can.restart = none ∧
    fld (nvGet ready 0x9002) 15 0 ≠ 0 ∧
    (let s := { ready with evq := { ready.evq with logQ := [item] } }
     mramAlive s = true ∧ s.evq.logQ = item :: [] ∧ s.tb.mono < s.can.logSec + sCycles ∧
      s.can.logRate + item.entries.length ≤ logPerSecond ∧ s.can.log.length + item.entries.length ≤ logSize) := by
  decide +kernel

end Sys2Proof.Tests
end

section
/-!
SUPPORT. The rules of CRC-32C (R94). `crcFeed` takes one bit of the message into the reflected register as `crcBit` does;
`crcDivide` is one step of the polynomial division, whose register is the reflected one with its bits in the other order.
A byte of the running CRC is eight fed bits, and the bytes of a hide word are read back bit by bit.
-/
namespace Sys2Proof.Machine

/-! ### The running CRC, a bit at a time -/

/-- One message bit enters the reflected register. -/
def crcFeed (c : BitVec 32) (b : Bool) : BitVec 32 :=
  (c >>> 1) ^^^ (if c.getLsbD 0 != b then 0x82F63B78 else 0)

/-- One message bit enters the register of the division by 0x1EDC6F41 (R94). -/
def crcDivide (r : BitVec 32) (b : Bool) : BitVec 32 :=
  (r <<< 1) ^^^ (if r.getLsbD 31 != b then 0x1EDC6F41 else 0)

/-- The bits of bytes in transmission order, least significant of each byte first. -/
def bitsOf (l : List Byte) : List Bool := l.flatMap fun b => (List.range 8).map fun i => b.getLsbD i

theorem crcBit_eq_crcFeed (c : BitVec 32) : crcBit c = crcFeed c false := by
  unfold crcBit crcFeed
  cases c.getLsbD 0 <;> simp

/-- Only the lowest bit of what is added to the register decides on the polynomial; the rest shifts through. -/
theorem crcBit_xor (c v : BitVec 32) : crcBit (c ^^^ v) = crcFeed c (v.getLsbD 0) ^^^ (v >>> 1) := by
  rw [crcBit_eq_crcFeed, crcFeed, crcFeed, BitVec.ushiftRight_xor_distrib, BitVec.getLsbD_xor, Bool.bne_false]
  rw [BitVec.xor_assoc, BitVec.xor_assoc, BitVec.xor_comm (v >>> 1)]

/-- n steps of the register with v added at once are n fed bits of v; the rest of v stays added. -/
theorem repeat_crcBit_xor (c v : BitVec 32) (n : Nat) :
    Nat.repeat crcBit n (c ^^^ v) = ((List.range n).map fun i => v.getLsbD i).foldl crcFeed c ^^^ (v >>> n) := by
  induction n with
  | zero => simp [Nat.repeat]
  | succ n ih =>
    simp only [Nat.repeat, ih, crcBit_xor, List.range_succ, List.map_append, List.foldl_append]
    simp [BitVec.shiftRight_add]

theorem crcByte_eq_foldl (c : BitVec 32) (b : Byte) :
    crcByte c b = ((List.range 8).map fun i => b.getLsbD i).foldl crcFeed c := by
  have hshift : b.zeroExtend 32 >>> 8 = 0#32 := by
    ext i hi
    simp
  have hbits : ((List.range 8).map fun i => (b.zeroExtend 32).getLsbD i) = (List.range 8).map fun i => b.getLsbD i :=
    List.map_congr_left fun i hi => by
      have := List.mem_range.1 hi
      simp [BitVec.getLsbD_setWidth]; omega
  rw [crcByte, repeat_crcBit_xor, hshift, hbits, BitVec.xor_zero]

theorem crcRun_eq_foldl (c : BitVec 32) (l : List Byte) : crcRun c l = (bitsOf l).foldl crcFeed c := by
  rw [crcRun, bitsOf, List.foldl_flatMap]
  exact congrArg (fun f => l.foldl f c) (funext₂ crcByte_eq_foldl)

/-! ### The division and the reflected register -/

theorem reverse_xor {n : Nat} (x y : BitVec n) : (x ^^^ y).reverse = x.reverse ^^^ y.reverse := by
  ext i hi
  simp [← BitVec.getLsbD_eq_getElem, BitVec.getLsbD_reverse]

theorem reverse_shiftLeft_one {n : Nat} (r : BitVec n) : (r <<< 1).reverse = r.reverse >>> 1 := by
  ext i hi
  simp only [← BitVec.getLsbD_eq_getElem, BitVec.getLsbD_reverse, BitVec.getLsbD_ushiftRight, BitVec.getMsbD_shiftLeft]
  rw [Nat.add_comm]

/-- Feeding the reflected register is one step of the division. -/
theorem crcFeed_reverse (r : BitVec 32) (b : Bool) : crcFeed r.reverse b = (crcDivide r b).reverse := by
  have hpoly : (0x1EDC6F41 : BitVec 32).reverse = 0x82F63B78 := by decide +kernel
  have hzero : (0 : BitVec 32).reverse = 0 := by decide +kernel
  have hlow : r.reverse.getLsbD 0 = r.getLsbD 31 := by
    rw [BitVec.getLsbD_reverse, BitVec.getMsbD_eq_getLsbD]; rfl
  rw [crcFeed, crcDivide, reverse_xor, reverse_shiftLeft_one, hlow, apply_ite BitVec.reverse, hpoly, hzero]

theorem crcRun_reverse (r : BitVec 32) (l : List Byte) :
    crcRun r.reverse l = ((bitsOf l).foldl crcDivide r).reverse := by
  rw [crcRun_eq_foldl, List.foldl_hom BitVec.reverse crcFeed_reverse]

/-- The CRC-32C is the remainder of the division, reflected and inverted. -/
theorem getLsbD_crc32c (l : List Byte) {i : Nat} (hi : i < 32) :
    (crc32c l).getLsbD i = !((bitsOf l).foldl crcDivide 0xFFFFFFFF).getLsbD (31 - i) := by
  have hinit : (0xFFFFFFFF : BitVec 32).reverse = 0xFFFFFFFF := by decide +kernel
  have hrun : crcRun 0xFFFFFFFF l = ((bitsOf l).foldl crcDivide 0xFFFFFFFF).reverse := by
    rw [← crcRun_reverse, hinit]
  rw [crc32c, hrun, BitVec.getLsbD_not, BitVec.getLsbD_reverse, BitVec.getMsbD_eq_getLsbD]
  simp [hi]

/-! ### What a packet's CRC covers -/

theorem packetCrc_eq_crc32c (k : Packet) :
    packetCrc k = crc32c (wordBytes (packetHeader k) ++ k.payload.flatMap wordBytes) := rfl

theorem reseal_crc (k : Packet) : (reseal k).crc = packetCrc (reseal k) := rfl

/-! ### Bits of a hide word by its bytes -/

/-- Byte i / 8 of a little-endian number holds its bit i. -/
theorem testBit_foldr_bytes (l : List Byte) (i : Nat) :
    (l.foldr (fun (b : Byte) a => b.toNat + 256 * a) 0).testBit i = (l.getD (i / 8) 0).getLsbD (i % 8) := by
  induction l generalizing i with
  | nil => simp
  | cons b l ih =>
    rw [List.foldr_cons, Nat.add_comm, show 256 = 2 ^ 8 from rfl, Nat.testBit_two_pow_mul_add _ b.isLt]
    split
    next h => rw [Nat.div_eq_of_lt h, Nat.mod_eq_of_lt h, List.getD_cons_zero, BitVec.testBit_toNat]
    next h =>
      obtain ⟨j, rfl⟩ := Nat.exists_eq_add_of_le' (Nat.le_of_not_lt h)
      simp [ih]

theorem getLsbD_bytesWord (l : List Byte) {i : Nat} (hi : i < 64) :
    (bytesWord l).getLsbD i = (l.getD (i / 8) 0).getLsbD (i % 8) := by
  have h : i / 8 < 8 := by omega
  simp only [bytesWord, BitVec.getLsbD_ofNat, testBit_foldr_bytes, List.getD_eq_getElem?_getD,
    List.getElem?_take_of_lt h, hi, decide_true, Bool.true_and]

/-- A byte-aligned field of eight bits is a byte. -/
theorem fld_bytesWord (l : List Byte) {n : Nat} (hn : n < 8) :
    fld (bytesWord l) (8 * n + 7) (8 * n) = (l.getD n 0).toNat := by
  refine Nat.eq_of_testBit_eq fun i => ?_
  rw [fld, show 8 * n + 7 + 1 - 8 * n = 8 by omega, Nat.testBit_mod_two_pow, Nat.testBit_div_two_pow,
    BitVec.testBit_toNat, BitVec.testBit_toNat]
  by_cases h : i < 8
  · rw [getLsbD_bytesWord l (by omega), show (i + 8 * n) / 8 = n by omega, show (i + 8 * n) % 8 = i by omega]
    simp [h]
  · simp [h, BitVec.getLsbD_of_ge _ i (Nat.le_of_not_lt h)]

/-- LENGTH of a received packet is its fourth byte (Table 06-1). -/
theorem fld_length_bytesWord (l : List Byte) : fld (bytesWord (l.take 8)) 31 24 = (l.getD 3 0).toNat := by
  rw [fld_bytesWord (l.take 8) (n := 3) (by omega), List.getD_eq_getElem?_getD,
    List.getElem?_take_of_lt (by omega), ← List.getD_eq_getElem?_getD]

theorem uartPacket_crc (l : List Byte) (w : Bool) :
    (uartPacket l w).crc = (bytesWord ((l.drop (8 + 8 * (l.getD 3 0).toNat)).take 4)).setWidth 32 := by
  rw [← fld_length_bytesWord]; rfl

/-- The CRC of a received packet stands least significant byte first behind its header and payload (R94). -/
theorem getLsbD_uartPacket_crc (l : List Byte) (w : Bool) {i : Nat}
    (hl : l.length = 12 + 8 * (l.getD 3 0).toNat) (hi : i < 32) :
    (uartPacket l w).crc.getLsbD i = (l.getD (l.length - 4 + i / 8) 0).getLsbD (i % 8) := by
  have hstart : l.length - 4 = 8 + 8 * (l.getD 3 0).toNat := by omega
  rw [uartPacket_crc, ← hstart, BitVec.getLsbD_setWidth, getLsbD_bytesWord _ (by omega)]
  simp only [hi, decide_true, Bool.true_and, List.getD_eq_getElem?_getD,
    List.getElem?_take_of_lt (show i / 8 < 4 by omega), List.getElem?_drop]

/-! ### The statement -/

/-- Settles O7: the reflected register follows the division bit by bit, and a received CRC is read byte by byte. -/
theorem crcOfPackets : Obligations.CrcOfPackets := by
  refine ⟨fun l _ hi => getLsbD_crc32c l hi, ?_, fun k a r => ⟨packetCrc_eq_crc32c k, reseal_crc _⟩,
    fun l w _ hl hi => getLsbD_uartPacket_crc l w hl hi⟩
  decide +kernel

end Sys2Proof.Machine
end

section
/-!
SUPPORT. The replies and refusals of a request for any handler, with the port's stored entry left open; what a list reads
after entries are removed by key; and ZONE_CLEAR (R202), which removes its zones from the draft copy so.
-/
namespace Sys2Proof.Machine

/-! ### Lists with defaults: entries removed by key -/

/-- Entries removed by their keys read the default; every other key reads as before. -/
theorem kvGet_filter_key {α : Type} (d : α) (keep : Nat → Bool) (l : List (Nat × α)) (a : Nat) :
    kvGet d (l.filter fun x => keep x.1) a = if keep a then kvGet d l a else d := by
  induction l with
  | nil => simp [kvGet]
  | cons x l ih =>
    obtain ⟨k, v⟩ := x
    by_cases hak : a = k
    · subst hak
      cases hk : keep a <;> simp [kvGet, hk, ih]
    · cases hk : keep k <;> simp [kvGet, hk, hak, ih]

/-! ### Replies and refusals of any request -/

/-- The stored entry that a request row drops is one of those left open (log 3). -/
theorem repliesWith_dropStored (o : Origin) (op : Nat) (r : Reply) (t : State) :
    RepliesWith o op r t (deliver o op r (dropStored o.port t)) := by
  rcases o with ⟨_ | _, addr⟩
  · exact ⟨none, t.brg.storedU, rfl⟩
  · exact ⟨t.brg.storedH, none, rfl⟩

section
variable (h : Handler) {o : Origin} {p : List Word} {s : State}

/-- A unit that is READY passes step 3 of R96, whether RECOVERY serves the opcode or not. -/
theorem Served.passes_step3 (hs : Served s o) : (isReady s || (inRecovery s && h.recov)) = true := by
  rw [hs.1, Bool.true_or]

/-- Step 6 of R96 refuses a payload word at fault with its index. -/
theorem answer_badValue {i : Nat} (hst : (isReady s || (inRecovery s && h.recov)) = true) (hl : h.lenOk p = true)
    (hv : h.value s p = some i) : answer h false o p s = refuse h.op stBadValue i s := by
  simp only [answer, hst, hl, hv, Bool.not_true, Bool.false_eq_true, if_false]

/-- Step 7 of R96 refuses what a state forbids. -/
theorem answer_badState (hst : (isReady s || (inRecovery s && h.recov)) = true) (hl : h.lenOk p = true)
    (hv : h.value s p = none) (hb : h.badState s o p = true) : answer h false o p s = refuse h.op stBadState 0 s := by
  simp only [answer, hst, hl, hv, hb, Bool.not_true, Bool.false_eq_true, if_false, if_true]

/-- An instruction that is a request ends refused as its checks answer. -/
theorem refusedWith_of_answer {c : Instr} {st d : Nat} (hc : exec c s = .next (request h o p s)) (hr : reaches s o = true)
    (hx : answer h false o p s = refuse h.op st d s) : RefusedWith c o h.op st d s :=
  ⟨_, hc, request_refused h st d hr hx ▸ repliesWith_dropStored o h.op _ _⟩

end

/-! ### ZONE_CLEAR -/

/-- A zone that ZONE_CLEAR leaves as it stands. -/
def clearKeeps (w : Word) (z : Nat) : Bool := z < clearFirst w || clearFirst w + clearCount w ≤ z

theorem exec_zoneClear (o : Origin) (p : List Word) (s : State) :
    exec (.zoneClear o p) s = .next (request hZoneClear o p s) := rfl

theorem hZoneClear_run (o : Origin) (w : Word) (s : State) : hZoneClear.run o [w] s =
    (okReply [], { s with draft := { s.draft with zones := s.draft.zones.filter fun x => clearKeeps w x.1 } }) := rfl

theorem hZoneClear_value (s : State) {w : Word} (hw : within 0x3FF01FF w = true) :
    hZoneClear.value s [w] = if fld w 8 0 + fld w 25 16 ≤ 512 then none else some 0 := by
  have hvalue : hZoneClear.value s [w] =
      if within 0x3FF01FF w && clearFirst w + clearCount w ≤ 512 then none else some 0 := rfl
  rw [hvalue, hw, clearFirst, clearCount]
  simp only [Bool.true_and, decide_eq_true_eq]

/-- Nothing but a locked draft forbids ZONE_CLEAR: it is served by broadcast and needs neither Cantle nor DRAM. -/
theorem hZoneClear_badState (s : State) (o : Origin) (p : List Word) : hZoneClear.badState s o p = draftLocked s := by
  simp [Handler.badState, hZoneClear, Handler.draft, Handler.plain]

/-- The zones FIRST to FIRST + COUNT − 1 read as undefined after ZONE_CLEAR, the others as before. -/
theorem kvGet_clearKeeps (w : Word) (l : Table) (z : Nat) : kvGet [] (l.filter fun x => clearKeeps w x.1) z =
    if fld w 8 0 ≤ z ∧ z < fld w 8 0 + fld w 25 16 then [] else kvGet [] l z := by
  have hkeep : clearKeeps w z = true ↔ ¬ (fld w 8 0 ≤ z ∧ z < fld w 8 0 + fld w 25 16) := by
    simp only [clearKeeps, Bool.or_eq_true, decide_eq_true_eq]
    unfold clearFirst clearCount
    omega
  simp only [kvGet_filter_key, hkeep, ite_not]

section
variable {o : Origin} {w : Word} {s : State} (hs : Served s o) (hw : within 0x3FF01FF w = true)
include hs hw

theorem zoneClear_clears (hle : fld w 8 0 + fld w 25 16 ≤ 512) (hd : draftLocked s = false) :
    ∃ zs u, exec (.zoneClear o [w]) s = .next u ∧
      RepliesWith o 0x26 (okReply []) { s with draft := { s.draft with zones := zs } } u ∧
      ∀ z, kvGet [] zs z = if fld w 8 0 ≤ z ∧ z < fld w 8 0 + fld w 25 16 then [] else kvGet [] s.draft.zones z := by
  have hrun := request_run hZoneClear (p := [w]) hs.2 (hs.passes_step3 _) rfl (by rw [hZoneClear_value s hw, if_pos hle])
    ((hZoneClear_badState s o [w]).trans hd) rfl rfl (.inl (by simp [hZoneClear_run]))
  refine ⟨_, _, (exec_zoneClear o [w] s).trans (congrArg _ hrun), ?_, kvGet_clearKeeps w _⟩
  rw [hZoneClear_run]
  exact repliesWith_dropStored o 0x26 _ _

theorem zoneClear_badValue (hgt : 512 < fld w 8 0 + fld w 25 16) : RefusedWith (.zoneClear o [w]) o 0x26 0x12 0 s :=
  refusedWith_of_answer hZoneClear (exec_zoneClear o [w] s) hs.2 <|
    answer_badValue hZoneClear (hs.passes_step3 _) rfl (by rw [hZoneClear_value s hw, if_neg (Nat.not_le.2 hgt)])

theorem zoneClear_badState (hle : fld w 8 0 + fld w 25 16 ≤ 512) (hd : draftLocked s = true) :
    RefusedWith (.zoneClear o [w]) o 0x26 0x13 0 s :=
  refusedWith_of_answer hZoneClear (exec_zoneClear o [w] s) hs.2 <|
    answer_badState hZoneClear (hs.passes_step3 _) rfl (by rw [hZoneClear_value s hw, if_pos hle])
      ((hZoneClear_badState s o [w]).trans hd)

end

/-- Settles O21: the draft's zones are filtered by key, and steps 6 and 7 of R96 give the two refusals. -/
theorem zonesCleared : Obligations.ZonesCleared := fun _ _ _ hs hw =>
  ⟨zoneClear_clears hs hw, zoneClear_badValue hs hw, zoneClear_badState hs hw⟩

end Sys2Proof.Machine
end

section
/-!
SUPPORT. Step 5 of R96 and the answer of an immediate request, for any handler; DTS_REF_SET (R229) over them, and the
reference that a completion latches.
-/
namespace Sys2Proof.Machine

/-! ### Step 5 of R96, and an immediate request that is served -/

section
variable (h : Handler) {o : Origin} {p : List Word} {s : State}

/-- Step 5 of R96 refuses a payload of another LENGTH. -/
theorem answer_badLength (hst : (isReady s || (inRecovery s && h.recov)) = true) (hl : h.lenOk p = false) :
    answer h false o p s = refuse h.op stBadLength 0xFF s := by
  simp only [answer, hst, hl, Bool.not_true, Bool.not_false, Bool.false_eq_true, if_false, if_true]

/-- An immediate command that passes steps 3 to 8 of R96 replies from the state it has run to. -/
theorem request_repliesWith (hr : reaches s o = true) (hst : (isReady s || (inRecovery s && h.recov)) = true)
    (hl : h.lenOk p = true) (hv : h.value s p = none) (hb : h.badState s o p = false) (hd : h.denied s p = false)
    (hf : h.defers s p = none) (hc : (h.run o p s).1.status ≠ 0x14 ∨ h.op = 0x0A) :
    RepliesWith o h.op (h.run o p s).1 (h.run o p s).2 (request h o p s) :=
  request_run h hr hst hl hv hb hd hf hc ▸ repliesWith_dropStored o h.op _ _

end

/-! ### DTS_REF_SET -/

theorem exec_dtsRefSet (o : Origin) (p : List Word) (s : State) :
    exec (.dtsRefSet o p) s = .next (request hDtsRefSet o p s) := rfl

theorem hDtsRefSet_run (o : Origin) (w : Word) (s : State) : hDtsRefSet.run o [w] s = (okReply [],
    setTherm (sideOf (fld w 0 0)) (fun t => { t with tref := fld w 63 32, refAt := s.tb.mono, staleUp := false }) s) := rfl

theorem hDtsRefSet_value (w : Word) (s : State) : hDtsRefSet.value s [w] =
    if within 0xFFFFFFFF00000001 w = true ∧ 200000 ≤ fld w 63 32 ∧ fld w 63 32 ≤ 400000 then none else some 0 := by
  have hvalue : hDtsRefSet.value s [w] =
      if within 0xFFFFFFFF00000001 w && rng (fld w 63 32) 200000 400000 then none else some 0 := rfl
  simp only [hvalue, rng, Bool.and_eq_true, decide_eq_true_eq]

/-- No state forbids DTS_REF_SET: it is served by broadcast and needs neither Cantle nor DRAM. -/
theorem hDtsRefSet_badState (s : State) (o : Origin) (p : List Word) : hDtsRefSet.badState s o p = false := by
  simp [Handler.badState, hDtsRefSet, Handler.plain]

section
variable {o : Origin} {s : State} (hs : Served s o)
include hs

theorem dtsRefSet_replaces {w : Word} (hw : within 0xFFFFFFFF00000001 w = true) (hlo : 200000 ≤ fld w 63 32)
    (hhi : fld w 63 32 ≤ 400000) : ∃ u, exec (.dtsRefSet o [w]) s = .next u ∧ RepliesWith o 0x55 (okReply [])
      (setTherm (sideOf (fld w 0 0)) (fun t => { t with tref := fld w 63 32, refAt := s.tb.mono, staleUp := false }) s)
      u := by
  have hreply := request_repliesWith hDtsRefSet (p := [w]) hs.2 (hs.passes_step3 _) rfl
    (by rw [hDtsRefSet_value, if_pos ⟨hw, hlo, hhi⟩]) (hDtsRefSet_badState s o [w]) rfl rfl
    (.inl (by simp [hDtsRefSet_run]))
  rw [hDtsRefSet_run] at hreply
  exact ⟨_, exec_dtsRefSet o [w] s, hreply⟩

theorem dtsRefSet_badValue {w : Word}
    (hw : within 0xFFFFFFFF00000001 w = false ∨ fld w 63 32 < 200000 ∨ 400000 < fld w 63 32) :
    RefusedWith (.dtsRefSet o [w]) o 0x55 0x12 0 s := by
  have hbad : ¬ (within 0xFFFFFFFF00000001 w = true ∧ 200000 ≤ fld w 63 32 ∧ fld w 63 32 ≤ 400000) := by
    rintro ⟨hin, hlo, hhi⟩
    rcases hw with hout | hlt | hgt
    · exact Bool.false_ne_true (hout.symm.trans hin)
    · exact Nat.not_le.2 hlt hlo
    · exact Nat.not_le.2 hgt hhi
  exact refusedWith_of_answer hDtsRefSet (exec_dtsRefSet o [w] s) hs.2 <|
    answer_badValue hDtsRefSet (hs.passes_step3 _) rfl (by rw [hDtsRefSet_value, if_neg hbad])

theorem dtsRefSet_badLength {p : List Word} (hp : p.length ≠ 1) : RefusedWith (.dtsRefSet o p) o 0x55 0x11 0xFF s :=
  refusedWith_of_answer hDtsRefSet (exec_dtsRefSet o p s) hs.2 <|
    answer_badLength hDtsRefSet (hs.passes_step3 _) (decide_eq_false hp)

end

/-! ### The completion's reference -/

/-- A complete accumulation whose accumulators are free latches Tref and its age; the two events it posts leave the thermal
path alone. -/
theorem accumulationComplete_latches_reference {d : Side} {s : State}
    (hshots : thShots (cfgOf s d) d ≤ (s.therm.get d).shots) (hfree : (s.therm.get d).computing = false) :
    ∃ t x, exec (.accumulationComplete d) s = .next t ∧ (t.therm.get d).comp = some x ∧
      x.tref = (s.therm.get d).tref ∧ x.age = refAge s d := by
  have hguard : (thShots (cfgOf s d) d ≤ (s.therm.get d).shots && !(s.therm.get d).computing) = true := by
    rw [decide_eq_true hshots, hfree]; rfl
  refine ⟨_, ?latched, congrArg Host.Outcome.next (if_pos hguard), ?stored, ?reference⟩
  case stored => rw [postIf_therm, post_therm, setTherm_therm, Both.get_set_same]
  case reference => exact ⟨rfl, rfl⟩

/-- Settles O24: the checks of DTS_REF_SET are its one word's mask and range, and a completion copies Tref and the age. -/
theorem referenceTemperatureSet : Obligations.ReferenceTemperatureSet := fun _ _ _ hs =>
  ⟨dtsRefSet_replaces hs, dtsRefSet_badValue hs, fun _ => dtsRefSet_badLength hs,
    fun _ hshots hcomp => accumulationComplete_latches_reference hshots (by rw [Thermal.computing, hcomp]; rfl)⟩

end Sys2Proof.Machine
end

section
/-!
SUPPORT. What every step keeps: the lemmas of Laws/KeepsExec, one for each meaning, brought together over the dispatch, and
the statements about the queue of commands, the invariant and the event queue that follow from them.
-/
namespace Sys2Proof.Machine

-- one theorem after the other: the threads of many at once need more memory than the check has
set_option Elab.async false

/-- The commands that take events out of the queue: EVENT_ACK, as a request row or by packet, and what resets the queue. -/
def removesEvents : Instr → Bool
  | .eventAck _ _ | .vaonLoss | .resetNLow _ | .brownout _ | .resetStart | .standbyPowerDown => true
  | .requestReceived k => decide (k.opcode = 9)
  | .uartPacketReceived raw => decide ((uartParse raw).opcode = 9)
  | _ => false

/-- Every command keeps what `Keeps` says, by the lemma of its meaning. -/
theorem exec_keeps {s t : State} : ∀ c : Instr, exec c s = .next t → Keeps (removesEvents c) s t
  | .nop _ _, h => keeps_execNop _ _ h | .identify _ _, h => keeps_execIdentify _ _ h
  | .status _ _, h => keeps_execStatus _ _ h | .resetLevel0 _ _, h => keeps_execResetLevel0 _ _ h
  | .resetLevel1 _ _, h => keeps_execResetLevel1 _ _ h | .resetLevel2 _ _, h => keeps_execResetLevel2 _ _ h
  | .resetLevel3 _ _, h => keeps_execResetLevel3 _ _ h | .resetStart, h => keeps_execResetStart h
  | .resetOffTimeExpiry _, h => keeps_execResetOffTimeExpiry _ h | .resetSoftDone _, h => keeps_execResetSoftDone _ h
  | .paramGet _ _, h => keeps_execParamGet _ _ h | .paramSet _ _, h => keeps_execParamSet _ _ h
  | .commit _ _, h => keeps_execCommit _ _ h | .commitValidationDone, h => keeps_execCommitValidationDone h
  | .discard _ _, h => keeps_execDiscard _ _ h | .eventRead _ _, h => keeps_execEventRead _ _ h
  | .eventAck _ _, h => keeps_execEventAck _ _ h | .result _ _, h => keeps_execResult _ _ h
  | .tackLoad _ _, h => keeps_execTackLoad _ _ h | .tackSave _ _, h => keeps_execTackSave _ _ h
  | .tackSaveDone _, h => keeps_execTackSaveDone _ h | .tackInfo _ _, h => keeps_execTackInfo _ _ h
  | .tackErase _ _, h => keeps_execTackErase _ _ h | .tackEraseDone, h => keeps_execTackEraseDone h
  | .tackProtectWrite _ _, h => keeps_execTackProtectWrite _ _ h | .chainEnumerate _ _, h => keeps_execChainEnumerate _ _ h
  | .chainAddrSet _ _, h => keeps_execChainAddrSet _ _ h | .chainDelayMeasure _ _, h => keeps_execChainDelayMeasure _ _ h
  | .chainDelayMeasureDone _, h => keeps_execChainDelayMeasureDone _ h
  | .delayProbeReceived, h => keeps_execDelayProbeReceived h | .hopDelayUpReceived _, h => keeps_execHopDelayUpReceived _ h
  | .chainLoopback _ _, h => keeps_execChainLoopback _ _ h | .routeSet _ _, h => keeps_execRouteSet _ _ h
  | .routeGet _ _, h => keeps_execRouteGet _ _ h | .scanSet _ _, h => keeps_execScanSet _ _ h
  | .scanGet _ _, h => keeps_execScanGet _ _ h | .zoneSet _ _, h => keeps_execZoneSet _ _ h
  | .zoneGet _ _, h => keeps_execZoneGet _ _ h | .zoneClear _ _, h => keeps_execZoneClear _ _ h
  | .baselineCapture _ _, h => keeps_execBaselineCapture _ _ h
  | .baselineCaptureDone _, h => keeps_execBaselineCaptureDone _ h | .acqStart _ _, h => keeps_execAcqStart _ _ h
  | .acqStop _ _, h => keeps_execAcqStop _ _ h | .acqStopped _, h => keeps_execAcqStopped _ h
  | .arm _ _, h => keeps_execArm _ _ h | .disarm _ _, h => keeps_execDisarm _ _ h | .force _ _, h => keeps_execForce _ _ h
  | .trigSet _ _, h => keeps_execTrigSet _ _ h | .trigGet _ _, h => keeps_execTrigGet _ _ h
  | .historyDump _ _, h => keeps_execHistoryDump _ _ h | .historyDumpDone, h => keeps_execHistoryDumpDone h
  | .slotSet _ _, h => keeps_execSlotSet _ _ h | .slotGet _ _, h => keeps_execSlotGet _ _ h
  | .curveLoad _ _, h => keeps_execCurveLoad _ _ h | .emitEnable _ _, h => keeps_execEmitEnable _ _ h
  | .lockSetOff _ _, h => keeps_execLockSetOff _ _ h | .lockSetOn _ _, h => keeps_execLockSetOn _ _ h
  | .lockSetManual _ _, h => keeps_execLockSetManual _ _ h | .emitDiagRead _ _, h => keeps_execEmitDiagRead _ _ h
  | .emitDiagProof _ _, h => keeps_execEmitDiagProof _ _ h | .auxXptSet _ _, h => keeps_execAuxXptSet _ _ h
  | .auxSeqLoad _ _, h => keeps_execAuxSeqLoad _ _ h | .auxRead _ _, h => keeps_execAuxRead _ _ h
  | .auxLimitSet _ _, h => keeps_execAuxLimitSet _ _ h | .auxSeqKick _ _, h => keeps_execAuxSeqKick _ _ h
  | .adcCheckSet _ _ _, h => keeps_execAdcCheckSet _ _ _ h | .adcCheckWrite _ _, h => keeps_execAdcCheckWrite _ _ h
  | .adcCheckRetire _ _ _, h => keeps_execAdcCheckRetire _ _ _ h
  | .adcCheckRestore _ _ _, h => keeps_execAdcCheckRestore _ _ _ h
  | .adcCheckClear _ _ _, h => keeps_execAdcCheckClear _ _ _ h | .dtsRefSet _ _, h => keeps_execDtsRefSet _ _ h
  | .timeSetImmediate _ _ _, h => keeps_execTimeSetImmediate _ _ _ h
  | .timeSetNextPps _ _ _, h => keeps_execTimeSetNextPps _ _ _ h
  | .timeSetChainSync _ _ _, h => keeps_execTimeSetChainSync _ _ _ h | .timeLoadTimeout, h => keeps_execTimeLoadTimeout h
  | .timeGet _ _, h => keeps_execTimeGet _ _ h | .tbSelect _ _, h => keeps_execTbSelect _ _ h
  | .tdcCfg _ _, h => keeps_execTdcCfg _ _ h | .tdcRead _ _, h => keeps_execTdcRead _ _ h
  | .streamCfg _ _, h => keeps_execStreamCfg _ _ h | .streamTrain _ _, h => keeps_execStreamTrain _ _ h
  | .dmaKickStart _ _ _, h => keeps_execDmaKickStart _ _ _ h | .dmaKickResume _ _, h => keeps_execDmaKickResume _ _ h
  | .dmaAbort _ _, h => keeps_execDmaAbort _ _ h | .dmaAbortDone _, h => keeps_execDmaAbortDone _ h
  | .dmaStatus _ _, h => keeps_execDmaStatus _ _ h | .memRead _ _, h => keeps_execMemRead _ _ h
  | .memReadDone _ _, h => keeps_execMemReadDone _ _ h | .memWrite _ _, h => keeps_execMemWrite _ _ h
  | .memFill _ _, h => keeps_execMemFill _ _ h | .memFillDone _, h => keeps_execMemFillDone _ h
  | .memInitWrite _ _, h => keeps_execMemInitWrite _ _ h | .memPlanWrite _ _, h => keeps_execMemPlanWrite _ _ h
  | .calRun _ _, h => keeps_execCalRun _ _ h | .calRunDone, h => keeps_execCalRunDone h
  | .calRead _ _, h => keeps_execCalRead _ _ h | .calWrite _ _, h => keeps_execCalWrite _ _ h
  | .calQuality _ _, h => keeps_execCalQuality _ _ h | .healthRead _ _, h => keeps_execHealthRead _ _ h
  | .logRead _ _, h => keeps_execLogRead _ _ h | .logClear _ _, h => keeps_execLogClear _ _ h
  | .logClearDone, h => keeps_execLogClearDone h | .updateBegin _ _, h => keeps_execUpdateBegin _ _ h
  | .updateBeginDone, h => keeps_execUpdateBeginDone h | .updateChunk _ _, h => keeps_execUpdateChunk _ _ h
  | .updateChunkStored, h => keeps_execUpdateChunkStored h | .updateEnd _ _, h => keeps_execUpdateEnd _ _ h
  | .updateEndDone, h => keeps_execUpdateEndDone h | .updateActivateTrial _ _, h => keeps_execUpdateActivateTrial _ _ h
  | .updateActivateConfirm _ _, h => keeps_execUpdateActivateConfirm _ _ h
  | .updateActivateReject _ _, h => keeps_execUpdateActivateReject _ _ h
  | .trialTimerExpiry, h => keeps_execTrialTimerExpiry h | .standbyEnter _ _, h => keeps_execStandbyEnter _ _ h
  | .standbyPowerDown, h => keeps_execStandbyPowerDown h | .lifetimeRead _ _, h => keeps_execLifetimeRead _ _ h
  | .pllCfgIcpWrite _ _, h => keeps_execPllCfgIcpWrite _ _ h | .pllDividerChange _ _, h => keeps_execPllDividerChange _ _ h
  | .pllChangeTimeout, h => keeps_execPllChangeTimeout h | .uartCfgWrite _ _, h => keeps_execUartCfgWrite _ _ h
  | .evtMaskWrite _ _ _, h => keeps_execEvtMaskWrite _ _ _ h | .vaonPowerOn, h => keeps_execVaonPowerOn h
  | .vaonGood, h => keeps_execVaonGood h | .railsGood, h => keeps_execRailsGood h | .porRelease, h => keeps_execPorRelease h
  | .refChoice _ _, h => keeps_execRefChoice _ _ h | .pllLockDeclared, h => keeps_execPllLockDeclared h
  | .cantleBootVerifyDone _ _, h => keeps_execCantleBootVerifyDone _ _ h
  | .dramTrainingDone _ _, h => keeps_execDramTrainingDone _ _ h | .calStepDone _, h => keeps_execCalStepDone _ h
  | .calStepTimeout _, h => keeps_execCalStepTimeout _ h | .resetNLow _, h => keeps_execResetNLow _ h
  | .resetNRise, h => keeps_execResetNRise h | .brownout _, h => keeps_execBrownout _ h
  | .wakePinEdge _, h => keeps_execWakePinEdge _ h | .wakeTimerExpiry, h => keeps_execWakeTimerExpiry h
  | .standbyWake, h => keeps_execStandbyWake h | .laserEnFall _, h => keeps_execLaserEnFall _ h
  | .laserEnRise, h => keeps_execLaserEnRise h | .pllPhaseErrorLoss, h => keeps_execPllPhaseErrorLoss h
  | .pllRefEdgesMissing, h => keeps_execPllRefEdgesMissing h | .pllRefPresent, h => keeps_execPllRefPresent h
  | .pllRelockTimeout, h => keeps_execPllRelockTimeout h | .syncInEdge, h => keeps_execSyncInEdge h
  | .syncApply _, h => keeps_execSyncApply _ h | .ppsEdge _, h => keeps_execPpsEdge _ h
  | .ppsAbsentTimeout, h => keeps_execPpsAbsentTimeout h | .ref10Present, h => keeps_execRef10Present h
  | .ref10Absent, h => keeps_execRef10Absent h | .ref10GateEnd _, h => keeps_execRef10GateEnd _ h
  | .timeBaseSecond, h => keeps_execTimeBaseSecond h | .ageingDay, h => keeps_execAgeingDay h
  | .tinEdge _ _, h => keeps_execTinEdge _ _ h | .awlConversionDone _ _, h => keeps_execAwlConversionDone _ _ h
  | .awlBackgroundCal _ _, h => keeps_execAwlBackgroundCal _ _ h | .awlPairTakeover _, h => keeps_execAwlPairTakeover _ h
  | .xtalFaultCheck _ _, h => keeps_execXtalFaultCheck _ _ h
  | .harnessCommaReceived _, h => keeps_execHarnessCommaReceived _ h
  | .harnessLinkLock _, h => keeps_execHarnessLinkLock _ h | .harnessLinkLoss _, h => keeps_execHarnessLinkLoss _ h
  | .breakIn, h => keeps_execBreakIn h | .breakInEnd, h => keeps_execBreakInEnd h
  | .requestReceived _, h => keeps_execRequestReceived _ h fun hop e => of_decide_eq_false hop (BitVec.eq_of_toNat_eq e)
  | .harnessPacketForward _ _, h => keeps_execHarnessPacketForward _ _ h
  | .replyPassingUp _, h => keeps_execReplyPassingUp _ h | .armSymbolReceived _ _, h => keeps_execArmSymbolReceived _ _ h
  | .fireSymbolReceived _ _, h => keeps_execFireSymbolReceived _ _ h
  | .syncSymbolReceived _ _, h => keeps_execSyncSymbolReceived _ _ h
  | .timingSymbolDiscard _, h => keeps_execTimingSymbolDiscard _ h
  | .uartPacketReceived _, h => keeps_execUartPacketReceived _ h fun hop e => of_decide_eq_false hop (BitVec.eq_of_toNat_eq e)
  | .uartGapTimeout, h => keeps_execUartGapTimeout h | .uartFramingError, h => keeps_execUartFramingError h
  | .shotGroupBoundary _, h => keeps_execShotGroupBoundary _ h | .launchGroupLaunch _, h => keeps_execLaunchGroupLaunch _ h
  | .launchEdge _, h => keeps_execLaunchEdge _ h | .launchMissing _, h => keeps_execLaunchMissing _ h
  | .gateLoadFault _ _, h => keeps_execGateLoadFault _ _ h | .gatePulseEnd _ _ _, h => keeps_execGatePulseEnd _ _ _ h
  | .proofPulse _, h => keeps_execProofPulse _ h | .wavelockAcquired _, h => keeps_execWavelockAcquired _ h
  | .wavelockLost _, h => keeps_execWavelockLost _ h | .lbiasLimitReached _ _, h => keeps_execLbiasLimitReached _ _ h
  | .tecLimitReached _ _, h => keeps_execTecLimitReached _ _ h | .dacFault _ _, h => keeps_execDacFault _ _ h
  | .thermalParkingDone _ _, h => keeps_execThermalParkingDone _ _ h
  | .routeBlankingStart _, h => keeps_execRouteBlankingStart _ h | .switchStrobe _, h => keeps_execSwitchStrobe _ h
  | .routeBlankingEnd _, h => keeps_execRouteBlankingEnd _ h | .settlePeriodEnd _ _, h => keeps_execSettlePeriodEnd _ _ h
  | .aprActivation _, h => keeps_execAprActivation _ h | .currierShotOutput _ _, h => keeps_execCurrierShotOutput _ _ h
  | .girthEvaluation, h => keeps_execGirthEvaluation h | .holdoffElapsed _, h => keeps_execHoldoffElapsed _ h
  | .autoTimeout _, h => keeps_execAutoTimeout _ h | .envelopeIntervalEnd _, h => keeps_execEnvelopeIntervalEnd _ h
  | .deltaTraceForm _, h => keeps_execDeltaTraceForm _ h | .digestPeriod _, h => keeps_execDigestPeriod _ h
  | .overrangeBurst _ _, h => keeps_execOverrangeBurst _ _ h | .shadowDwellEnd _, h => keeps_execShadowDwellEnd _ h
  | .backgroundSliceTrim _ _ _, h => keeps_execBackgroundSliceTrim _ _ _ h | .sliceSwap _, h => keeps_execSliceSwap _ h
  | .backgroundRamanOffset _ _, h => keeps_execBackgroundRamanOffset _ _ h
  | .calDriftCheck _, h => keeps_execCalDriftCheck _ h | .ramanShot _ _, h => keeps_execRamanShot _ _ h
  | .accumulationComplete _, h => keeps_execAccumulationComplete _ h
  | .thermalComputationDone _, h => keeps_execThermalComputationDone _ h
  | .auxSettleDelayEnd, h => keeps_execAuxSettleDelayEnd h | .auxConversionEnd _, h => keeps_execAuxConversionEnd _ h
  | .auxTimerTrigger, h => keeps_execAuxTimerTrigger h | .latFcLock, h => keeps_execLatFcLock h
  | .latFcLoss, h => keeps_execLatFcLoss h | .latFcTrainingStatus _, h => keeps_execLatFcTrainingStatus _ h
  | .streamTrainingTimeout, h => keeps_execStreamTrainingTimeout h | .creditGrant _, h => keeps_execCreditGrant _ h
  | .creditStallTimeout, h => keeps_execCreditStallTimeout h | .frameSend, h => keeps_execFrameSend h
  | .idleFrameTimeout, h => keeps_execIdleFrameTimeout h | .statusFrameTimer, h => keeps_execStatusFrameTimer h
  | .dropFrameTimer, h => keeps_execDropFrameTimer h | .dramRefreshDue, h => keeps_execDramRefreshDue h
  | .zqCalibrationDue, h => keeps_execZqCalibrationDue h | .dqsTrackingDue, h => keeps_execDqsTrackingDue h
  | .dramPanicBegin _ _, h => keeps_execDramPanicBegin _ _ h | .dramPanicEnd _ _, h => keeps_execDramPanicEnd _ _ h
  | .dramLongPanic, h => keeps_execDramLongPanic h | .bulkTimeout _ _ _, h => keeps_execBulkTimeout _ _ _ h
  | .selfRefreshEntry, h => keeps_execSelfRefreshEntry h | .patrolScrub _, h => keeps_execPatrolScrub _ h
  | .dmaBurst _, h => keeps_execDmaBurst _ h | .dmaDescriptorFetchDone _ _, h => keeps_execDmaDescriptorFetchDone _ _ h
  | .dmaDescriptorEnd _ _, h => keeps_execDmaDescriptorEnd _ _ h | .monitorSample _ _, h => keeps_execMonitorSample _ _ h
  | .processMonitorSample _, h => keeps_execProcessMonitorSample _ h | .overtempTrip _, h => keeps_execOvertempTrip _ h
  | .clampDetection _ _, h => keeps_execClampDetection _ _ h | .surgeRecordClose, h => keeps_execSurgeRecordClose h
  | .selftestStart, h => keeps_execSelftestStart h | .currierTileTestSlotEnd _, h => keeps_execCurrierTileTestSlotEnd _ h
  | .selftestDone _, h => keeps_execSelftestDone _ h | .cantleWatchdogExpiry, h => keeps_execCantleWatchdogExpiry h
  | .mramWriteTimeout, h => keeps_execMramWriteTimeout h | .cantleRestartDone, h => keeps_execCantleRestartDone h
  | .bridleHangCheck _, h => keeps_execBridleHangCheck _ h | .healthDigestForm, h => keeps_execHealthDigestForm h
  | .healthDigestEventTimer, h => keeps_execHealthDigestEventTimer h | .lifetimeUpdate, h => keeps_execLifetimeUpdate h
  | .equivHoursMinute, h => keeps_execEquivHoursMinute h | .mramScrub _ _ _ _, h => keeps_execMramScrub _ _ _ _ h
  | .logEntryWrite, h => keeps_execLogEntryWrite h | .vaonLoss, h => keeps_execVaonLoss h

/-- The state after reset: memory is empty, and the lists stand at their lengths. -/
theorem sound_reset : Sound State.reset :=
  ⟨rfl, by decide, trivial, by decide, rfl, rfl, rfl, rfl, rfl, rfl, rfl⟩

theorem sound_of_pending {s : State} (l : List Instr) (h : Sound s) : Sound { s with pending := l } :=
  ⟨h.mem, h.queue, h.qseq, h.lost, h.slots, h.sets, h.results, h.awl, h.lanes, h.chans, h.groups⟩

theorem step_of_pending {c : Instr} {rest : List Instr} {s : State} (h : s.pending = c :: rest) :
    step s = exec c { s with pending := rest } := by
  rw [step, h]

theorem step_of_empty {s : State} (h : s.pending = []) : step s = .next (idle s) := by
  rw [step, h]

/-- Settles O1: the queue's front decides the step. -/
theorem stepRunsFront : Obligations.StepRunsFront := fun _ _ _ h => step_of_pending h

/-- Settles O5. -/
theorem resetSound : Obligations.ResetSound := sound_reset

/-- Settles O6: a command keeps the invariant by `exec_keeps`, a core cycle by `keeps_idle`. -/
theorem stepKeepsSound : Obligations.StepKeepsSound := by
  intro s t hs hstep
  cases hp : s.pending with
  | nil =>
    rw [step_of_empty hp] at hstep
    cases hstep
    exact (keeps_idle (keeps_refl true s)).sound hs
  | cons c rest =>
    rw [step_of_pending hp] at hstep
    exact (exec_keeps c hstep).sound (sound_of_pending rest hs)

/-- Settles O9: a command outside `removesEvents` keeps what is queued at the front. -/
theorem eventsStayQueued : Obligations.EventsStayQueued := by
  intro c s t h hc
  have hkeep : removesEvents c = false := by
    cases c
    case eventAck | vaonLoss | resetNLow | brownout | resetStart | standbyPowerDown => exact hc.elim
    case requestReceived k => exact decide_eq_false hc
    case uartPacketReceived raw => exact decide_eq_false hc
    all_goals rfl
  obtain ⟨-, -, hqueue⟩ : Keeps false s t := hkeep ▸ exec_keeps c h
  exact hqueue rfl
end Sys2Proof.Machine
end

section
/-!
SUPPORT. The event queue after a posting (R17, R396), the two status pins (R141, R398), and one core cycle with no command
waiting (log 1).
-/
namespace Sys2Proof.Machine

-- one theorem after the other: the threads of many at once need more memory than the check has
set_option Elab.async false

/-! ### Postings -/

theorem postAt_accepted {n d : Nat} {tag : Word} {s : State} (hd : discarded s n = false) (hq : s.evq.q.length < 1024) :
    (postAt n d tag s).evq.q = s.evq.q ++
        [{ tag := tag, event := n, unset := !s.tb.set, detail := BitVec.ofNat 16 d, qseq := s.evq.next }] ∧
      (postAt n d tag s).evq.next = s.evq.next + 1 ∧ (postAt n d tag s).evq.lost = s.evq.lost := by
  have hroom : ¬ 1024 ≤ s.evq.q.length := Nat.not_le.2 hq
  simp [postAt, Events.push, hd, hroom]

theorem postAt_full {n d : Nat} {tag : Word} {s : State} (hd : discarded s n = false) (hq : 1024 ≤ s.evq.q.length) :
    (postAt n d tag s).evq.q = s.evq.q ∧ (postAt n d tag s).evq.next = s.evq.next ∧
      (postAt n d tag s).evq.lost = min (s.evq.lost + 1) 65535 := by
  simp [postAt, Events.push, hd, hq, sat]

theorem postAt_discarded {n d : Nat} {tag : Word} {s : State} (hd : discarded s n = true) :
    (postAt n d tag s).evq.q = s.evq.q ∧ (postAt n d tag s).evq.next = s.evq.next ∧
      (postAt n d tag s).evq.lost = s.evq.lost := by
  simp [postAt, Events.push, hd]

/-- Settles O8: a posting is accepted, finds the queue full, or is discarded. -/
theorem postingOrder : Obligations.PostingOrder := fun _ _ _ _ =>
  ⟨fun hq hd => postAt_accepted hd hq, fun hq hd => postAt_full hd hq, postAt_discarded⟩

/-! ### Status pins -/

/-- What holds of both sides, by side. -/
theorem forall_side {p : Side → Prop} : (∀ d, p d) ↔ p .a ∧ p .b :=
  ⟨fun h => ⟨h .a, h .b⟩, fun h d => by cases d; exacts [h.1, h.2]⟩

theorem laserOk_iff (s : State) : laserOk s = true ↔ s.pwr.laserEn = true ∧ s.pll.state = .locked ∧ s.pwr.vcore = true ∧
    ∀ d, (s.lash.get d).gate ≠ .openLoad ∧ (s.lash.get d).gate ≠ .short ∧ (s.lash.get d).dacFault = false := by
  rw [forall_side]
  simp [laserOk, pllLocked, Both.get, and_assoc]

theorem attn_iff (s : State) : attn s = true ↔
    s.pwr.dev = .ready ∧ ∃ e ∈ s.evq.q, pairBit (rwGet s 0x0050) (rwGet s 0x0051) e.event = false := by
  simp [attn, isReady]

/-- Settles O12: each pin is the conjunction that its definition evaluates. -/
theorem statusPins : Obligations.StatusPins := fun s => ⟨laserOk_iff s, attn_iff s⟩

/-! ### A core cycle -/

/-- t is s but for the Currier array, the zones and the events. -/
def FadesOnly (s t : State) : Prop := t = { s with cur := t.cur, zones := t.zones, evq := t.evq }

theorem fadesOnly_trans {s t u : State} (h : FadesOnly s t) (h' : FadesOnly t u) : FadesOnly s u := by
  unfold FadesOnly at *
  rw [h', h]

theorem fadesOnly_postIf (c : Bool) (n d : Nat) (s : State) : FadesOnly s (postIf c n d s) := by
  cases c <;> exact rfl

theorem fadesOnly_setZone (z : Nat) (f : ZoneRun → ZoneRun) (s : State) : FadesOnly s (setZone z f s) := rfl

theorem fadesOnly_setCur (d : Side) (f : Currier → Currier) (s : State) : FadesOnly s (setCur d f s) := rfl

theorem fadesOnly_fadeZone (pct z : Nat) (s : State) : FadesOnly s (fadeZone pct z s) := by
  unfold fadeZone
  dsimp only
  exact fadesOnly_trans (fadesOnly_setZone _ _ _) (fadesOnly_postIf _ _ _ _)

theorem fadesOnly_foldl (pct : Nat) (l : List Nat) (s : State) :
    FadesOnly s (l.foldl (fun s z => fadeZone pct z s) s) := by
  induction l generalizing s with
  | nil => exact rfl
  | cons z l ih => exact fadesOnly_trans (fadesOnly_fadeZone pct z s) (ih _)

theorem fadesOnly_fadeSecond (d : Side) (s : State) : FadesOnly s (fadeSecond d s) := by
  unfold fadeSecond
  dsimp only
  split
  · exact rfl
  · exact fadesOnly_trans (fadesOnly_setCur _ _ _) (fadesOnly_foldl _ _ _)

/-- Only the 1 s intervals of acquiring sides end (R180). -/
theorem fadesOnly_fadeSeconds (s : State) : FadesOnly s (fadeSeconds s) := by
  have hside : ∀ d s, FadesOnly s (if acquiring s d then fadeSecond d s else s) := fun d s => by
    split
    · exact fadesOnly_fadeSecond d s
    · exact rfl
  exact fadesOnly_trans (hside .a s) (hside .b _)

theorem fadeSeconds_of_idle_sides {s : State} (h : anyAcquiring s = false) : fadeSeconds s = s := by
  obtain ⟨ha, hb⟩ : acquiring s .a = false ∧ acquiring s .b = false := by simpa [anyAcquiring] using h
  simp [fadeSeconds, bothSides, ha, hb]

/-- Training that waits is all that the stream port does of itself. -/
theorem drainTraining_eq (s : State) :
    drainTraining s = { s with strm := (drainTraining s).strm, evq := (drainTraining s).evq } := by
  unfold drainTraining
  split <;> rfl

theorem drainTraining_of_not_waiting {s : State} (h : s.strm.trainWait = false) : drainTraining s = s := by
  simp [drainTraining, h]

/-- What an idle cycle leaves, its parts named by themselves. -/
theorem idle_eq (s : State) : idle s = { drainTiming (tick s) with
    strm := (idle s).strm, cur := (idle s).cur, zones := (idle s).zones, evq := (idle s).evq } := by
  have hf : FadesOnly (drainTraining (drainTiming (tick s))) (idle s) := fadesOnly_fadeSeconds _
  have ht := drainTraining_eq (drainTiming (tick s))
  rw [FadesOnly] at hf
  rw [hf, ht]

/-- Settles O2: the cycle ticks the counters, drains what waits and ends the 1 s intervals. -/
theorem emptyQueueTicks : Obligations.EmptyQueueTicks := by
  intro s hs
  have hidle := idle_eq s
  have hwait : s.strm.trainWait = false → idle s = fadeSeconds (drainTiming (tick s)) := fun h =>
    congrArg fadeSeconds (drainTraining_of_not_waiting h)
  refine ⟨idle s, step_of_empty hs, ?mono, ?now, ?drawn, ?part, ?frame, ?strm, ?quiet⟩
  case mono | now | drawn | part => rw [hidle]; rfl
  case frame => rw [hidle]; rfl
  case strm =>
    intro h
    have := fadesOnly_fadeSeconds (drainTiming (tick s))
    rw [hwait h, this]; rfl
  case quiet =>
    intro h
    have hdrain : idle s = drainTraining (drainTiming (tick s)) := by
      refine fadeSeconds_of_idle_sides ?_
      rw [drainTraining_eq]; exact h
    rw [hdrain]
    refine ⟨?_, ?_, fun hw => ?_⟩
    · rw [drainTraining_eq]; rfl
    · rw [drainTraining_eq]; rfl
    · rw [drainTraining_of_not_waiting (s := drainTiming (tick s)) hw]; rfl

end Sys2Proof.Machine
end

section
/-!
SUPPORT. The frames of requests: what an answer may touch, for any handler, and the requests that read, that write the draft
copy (R27), and MEM_WRITE (R343) over it.
-/
namespace Sys2Proof.Machine

-- one theorem after the other: the threads of many at once need more memory than the check has
set_option Elab.async false

/-! ### Answers -/

/-- t is s after replies and postings alone: no slot has changed, and no event has left the queue. -/
structure AnswersOnly (s t : State) : Prop where
  eq : t = repliesOnly s t
  slots : t.brg.slots = s.brg.slots
  queue : s.evq.q <+: t.evq.q

theorem answersOnly_refl (s : State) : AnswersOnly s s := ⟨rfl, rfl, List.prefix_refl _⟩

theorem AnswersOnly.trans {s t u : State} (h : AnswersOnly s t) (h' : AnswersOnly t u) : AnswersOnly s u :=
  ⟨by have h1 := h.eq
      have h2 := h'.eq
      unfold repliesOnly at h1 h2 ⊢
      rw [h2, h1], h'.slots.trans h.slots, h.queue.trans h'.queue⟩

theorem answersOnly_post (n d : Nat) (s : State) : AnswersOnly s (post n d s) := ⟨rfl, rfl, push_prefix ..⟩

theorem answersOnly_refuse (op st d : Nat) (s : State) : AnswersOnly s (refuse op st d s).2 := by
  unfold refuse postIf
  dsimp only
  split
  · exact answersOnly_post _ _ _
  · exact answersOnly_refl _

theorem answersOnly_dropStored (p : Port) (s : State) : AnswersOnly s (dropStored p s) := by
  cases p <;> exact ⟨rfl, rfl, List.prefix_refl _⟩

theorem answersOnly_deliver (o : Origin) (op : Nat) (r : Reply) (s : State) : AnswersOnly s (deliver o op r s) := by
  unfold deliver
  (repeat' split) <;> exact ⟨rfl, rfl, List.prefix_refl _⟩

theorem answersOnly_answerNone (recov : Bool) (op : Nat) (s : State) : AnswersOnly s (answerNone recov op s).2 := by
  unfold answerNone
  split <;> exact answersOnly_refuse _ _ _ _

/-- The checks of a command that is not deferred refuse it, or let it run. -/
theorem answer_answersOnly {h : Handler} {hdr : Bool} {o : Origin} {p : List Word} {s : State} (hd : h.defers s p = none) :
    AnswersOnly s (answer h hdr o p s).2 ∨ h.lenOk p = true ∧ h.value s p = none ∧ h.badState s o p = false ∧
      AnswersOnly (h.run o p s).2 (answer h hdr o p s).2 := by
  unfold answer
  split
  · exact .inl (answersOnly_refuse _ _ _ _)
  split
  · exact .inl (answersOnly_refuse _ _ _ _)
  split
  · exact .inl (answersOnly_refuse _ _ _ _)
  split
  · exact .inl (answersOnly_refuse _ _ _ _)
  split
  · exact .inl (answersOnly_refuse _ _ _ _)
  split
  · exact .inl (answersOnly_refuse _ _ _ _)
  rename_i hlen _ _ hvalue hbad _
  rw [hd]
  refine .inr ⟨by simpa using hlen, hvalue, by simpa using hbad, ?_⟩
  dsimp only
  split
  · exact answersOnly_refuse _ _ _ _
  · exact answersOnly_refl _

/-- A request that is not deferred is answered from the state it finds, or, its checks passed, from the one it runs to. -/
theorem request_answersOnly {h : Handler} {o : Origin} {p : List Word} {s : State} (hd : h.defers s p = none) :
    AnswersOnly s (request h o p s) ∨ h.lenOk p = true ∧ h.value s p = none ∧ h.badState s o p = false ∧
      AnswersOnly (h.run o p s).2 (request h o p s) := by
  unfold request
  split
  · have hleaves : ∀ t, AnswersOnly t (deliver o h.op (answer h false o p s).1 (dropStored o.port t)) := fun t =>
      (answersOnly_dropStored _ _).trans (answersOnly_deliver _ _ _ _)
    rcases answer_answersOnly (hdr := false) (o := o) hd with hs | ⟨hl, hv, hb, hrun⟩
    · exact .inl (hs.trans (hleaves _))
    · exact .inr ⟨hl, hv, hb, hrun.trans (hleaves _)⟩
  · split
    · exact .inl ((answersOnly_answerNone _ _ _).trans ((answersOnly_dropStored _ _).trans (answersOnly_deliver _ _ _ _)))
    · exact .inl (answersOnly_refl _)

/-! ### Requests that read -/

/-- A command that is never deferred and whose run leaves the state only answers. -/
theorem request_reads {h : Handler} {o : Origin} {p : List Word} {s t : State} (hd : h.defers s p = none)
    (hrun : (h.run o p s).2 = s) (ht : request h o p s = t) : AnswersOnly s t := by
  subst ht
  rcases request_answersOnly (o := o) hd with hs | ⟨_, _, _, hr⟩
  · exact hs
  · rwa [hrun] at hr

theorem hLogRead_run (o : Origin) (p : List Word) (s : State) : (hLogRead.run o p s).2 = s := by
  simp only [hLogRead, Handler.plain]
  split
  · rfl
  · split <;> rfl

/-- A field of a word as a slice of its bits. -/
theorem fld_eq_extract (w : Word) (hi lo : Nat) : fld w hi lo = (w.extractLsb' lo (hi + 1 - lo)).toNat := by
  rw [fld, BitVec.extractLsb'_toNat, Nat.shiftRight_eq_div_pow]

/-- ACTION of a word whose ACTION is given. -/
theorem fld_withAct2 (w : Word) {a : Nat} (ha : a < 4) : fld (withAct2 a w) 2 1 = a := by
  have hclear : (~~~6 : Word).extractLsb' 1 2 = 0#2 := by decide
  rw [fld_eq_extract, withAct2, BitVec.extractLsb'_or, BitVec.extractLsb'_and, hclear]
  simp only [Nat.reduceAdd, Nat.reduceSub]
  rw [BitVec.and_zero, BitVec.zero_or, BitVec.extractLsb'_toNat, BitVec.toNat_ofNat]
  omega

theorem hEmitDiag_defers_read (w : Word) (s : State) : hEmitDiag.defers s [withAct2 0 w] = none := by
  simp [hEmitDiag, wd, fld_withAct2]

/-- Settles O13: none of the twenty is deferred, and each runs to the state it finds. -/
theorem readsLeaveState : Obligations.ReadsLeaveState := by
  intro o p w c s t hc ht
  suffices h : AnswersOnly s t from ⟨h.eq, h.slots, h.queue⟩
  have hplain : ∀ (x : Handler) (q : List Word), exec c s = .next (request x o q s) → x.defers s q = none →
      (x.run o q s).2 = s → AnswersOnly s t := fun x q hx hd hrun =>
    request_reads hd hrun (Host.Outcome.next.inj (hx.symm.trans ht))
  simp only [List.mem_cons, List.not_mem_nil, or_false] at hc
  rcases hc with rfl | rfl | rfl | rfl | rfl | rfl | rfl | rfl | rfl | rfl | rfl | rfl | rfl | rfl | rfl | rfl | rfl |
    rfl | rfl | rfl
  · exact hplain hNop p rfl rfl rfl
  · exact hplain hIdentify p rfl rfl rfl
  · exact hplain hParamGet p rfl rfl rfl
  · exact hplain hEventRead p rfl rfl rfl
  · exact hplain hTackInfo p rfl rfl rfl
  · exact hplain hChainLoopback p rfl rfl rfl
  · exact hplain hRouteGet p rfl rfl rfl
  · exact hplain hScanGet p rfl rfl rfl
  · exact hplain hZoneGet p rfl rfl rfl
  · exact hplain hTrigGet p rfl rfl rfl
  · exact hplain hSlotGet p rfl rfl rfl
  · exact hplain hEmitDiag [withAct2 0 w] rfl (hEmitDiag_defers_read w s) rfl
  · exact hplain hAuxRead p rfl rfl rfl
  · exact hplain hTimeGet p rfl rfl rfl
  · exact hplain hDmaStatus p rfl rfl rfl
  · exact hplain hCalRead p rfl rfl rfl
  · exact hplain hCalQuality p rfl rfl rfl
  · exact hplain hHealthRead p rfl rfl rfl
  · exact hplain hLogRead p rfl rfl (hLogRead_run o p s)
  · exact hplain hLifetimeRead p rfl rfl rfl

/-! ### Requests that write the draft copy -/

/-- A command whose run enters a draft, and which a locked draft refuses, leaves everything else. -/
theorem request_writesDraft {h : Handler} {o : Origin} {p : List Word} {s t : State} {d : Cfg} (hd : h.defers s p = none)
    (hrun : (h.run o p s).2 = { s with draft := d }) (hlock : draftLocked s = true → h.badState s o p = true)
    (ht : request h o p s = t) :
    t = { repliesOnly s t with draft := t.draft } ∧ t.brg.slots = s.brg.slots ∧
      (draftLocked s = true → t.draft = s.draft) := by
  subst ht
  rcases request_answersOnly (o := o) hd with hs | ⟨_, _, hb, hr⟩
  · refine ⟨?_, hs.slots, fun _ => ?_⟩
    · rw [hs.eq]; rfl
    · rw [hs.eq]; rfl
  · rw [hrun] at hr
    refine ⟨?_, hr.slots, fun hl => absurd (hlock hl) (by simp [hb])⟩
    rw [hr.eq]; rfl

/-- A locked draft forbids every command of `Handler.draft`'s state rule. -/
theorem badState_of_locked {h : Handler} {s : State} {o : Origin} {p : List Word} (hbad : h.bad s o p = draftLocked s)
    (hl : draftLocked s = true) : h.badState s o p = true := by
  simp [Handler.badState, hbad, hl]

/-- Settles O14: each of the eleven enters a draft and is refused while it is locked. -/
theorem draftWritersLeaveRest : Obligations.DraftWritersLeaveRest := by
  intro o p c s t hc ht
  have hwrites : ∀ (x : Handler) (d : Cfg), exec c s = .next (request x o p s) → x.defers s p = none →
      (x.run o p s).2 = { s with draft := d } → x.bad s o p = draftLocked s →
      t = { repliesOnly s t with draft := t.draft } ∧ t.brg.slots = s.brg.slots ∧
        (draftLocked s = true → t.draft = s.draft) := fun x d hx hd hrun hbad =>
    request_writesDraft hd hrun (badState_of_locked hbad) (Host.Outcome.next.inj (hx.symm.trans ht))
  simp only [List.mem_cons, List.not_mem_nil, or_false] at hc
  rcases hc with rfl | rfl | rfl | rfl | rfl | rfl | rfl | rfl | rfl | rfl | rfl
  · exact hwrites hRouteSet _ rfl rfl rfl rfl
  · exact hwrites hScanSet _ rfl rfl rfl rfl
  · exact hwrites hZoneSet _ rfl rfl rfl rfl
  · exact hwrites hZoneClear _ rfl rfl rfl rfl
  · exact hwrites hTrigSet _ rfl rfl rfl rfl
  · exact hwrites hSlotSet _ rfl rfl rfl rfl
  · exact hwrites hCurveLoad _ rfl rfl rfl rfl
  · exact hwrites hAuxXptSet _ rfl rfl rfl rfl
  · exact hwrites hAuxSeqLoad _ rfl rfl rfl rfl
  · exact hwrites hAuxLimitSet _ rfl rfl rfl rfl
  · exact hwrites hDiscard _ rfl rfl rfl rfl

/-! ### MEM_WRITE -/

/-- A write leaves every other key as it is, whatever the list. -/
theorem kvGet_set_of_ne {α : Type} [DecidableEq α] (d : α) (l : List (Nat × α)) (v : α) {a b : Nat} (h : b ≠ a) :
    kvGet d (kvSet d l a v) b = kvGet d l b := by
  induction l with
  | nil => unfold kvSet; split <;> simp [kvGet, h]
  | cons x l ih =>
    obtain ⟨k, w⟩ := x
    unfold kvSet
    split
    · split <;> simp [kvGet, h]
    · split
      · rename_i hak
        subst hak
        split <;> simp [kvGet, h]
      · simp [kvGet, ih]

/-- Bytes outside a run that is written read as before, whatever the memory. -/
theorem memGet_put_outside {a b : Nat} {l : List Byte} (m : List Host.Cell) (h : b < a ∨ a + l.length ≤ b) :
    memGet (memPut m a l) b = memGet m b := by
  induction l generalizing m a with
  | nil => rfl
  | cons x l ih =>
    rw [List.length_cons] at h
    rw [memPut, ih (memSet m a x) (by omega)]
    exact kvGet_set_of_ne 0 m x (by omega)

theorem length_flatMap_wordBytes (ws : List Word) : (ws.flatMap wordBytes).length = 8 * ws.length := by
  induction ws with
  | nil => rfl
  | cons w ws ih => simp only [List.flatMap_cons, List.length_append, ih, wordBytes, List.length_map, List.length_range,
      List.length_cons]; omega

theorem hostPut_bytes (a : Nat) (ws : List Word) (s : State) :
    (hostPut a ws s).mem.bytes = memPutWords s.mem.bytes a ws := by
  unfold hostPut wakeAt ownTiles
  dsimp only
  split <;> split <;> rfl

theorem hostPut_eq (a : Nat) (ws : List Word) (s : State) : hostPut a ws s = { s with mem := { s.mem with
    bytes := (hostPut a ws s).mem.bytes, tileOwn := (hostPut a ws s).mem.tileOwn
    selfRefresh := (hostPut a ws s).mem.selfRefresh } } := by
  unfold hostPut wakeAt ownTiles
  dsimp only
  split <;> split <;> rfl

/-- MEM_WRITE answers only, or answers from the state with its words in memory. -/
theorem memWrite_cases {o : Origin} {p : List Word} {s t : State} (ht : exec (.memWrite o p) s = .next t) :
    AnswersOnly s t ∨ AnswersOnly (hostPut (memAddr p) (p.drop 1) s) t := by
  have ht : request hMemWrite o p s = t := Host.Outcome.next.inj ht
  subst ht
  rcases request_answersOnly (h := hMemWrite) (o := o) (p := p) (s := s) rfl with hs | ⟨_, _, _, hr⟩
  · exact .inl hs
  · exact .inr hr

/-- Settles O15: memory changes only by the words put at the address. -/
theorem memWriteFrame : Obligations.MemWriteFrame := by
  intro o p s t ht
  have hlen : ((p.drop 1).flatMap wordBytes).length = 8 * (p.length - 1) := by
    rw [length_flatMap_wordBytes, List.length_drop]
  rcases memWrite_cases ht with h | h
  · have hmem : t.mem = s.mem := by rw [h.eq]; rfl
    refine ⟨fun a _ => by rw [hmem], fun hne => absurd (by rw [hmem]) hne, ?_⟩
    rw [h.eq]; rfl
  · have hmem : t.mem = (hostPut (memAddr p) (p.drop 1) s).mem := by rw [h.eq]; rfl
    have hbytes : t.mem.bytes = memPut s.mem.bytes (memAddr p) ((p.drop 1).flatMap wordBytes) := by
      rw [hmem, hostPut_bytes]; rfl
    refine ⟨fun a ha => ?outside, fun _ hs i hi => ?inside, ?frame⟩
    case outside => rw [hbytes, memGet_put_outside _ (by rwa [hlen])]
    case inside =>
      rw [hbytes, memGet_put _ _ _ hs.mem, if_pos (by omega)]
      congr 1
      omega
    case frame =>
      rw [h.eq, hostPut_eq]; rfl

end Sys2Proof.Machine
end

section
/-!
SUPPORT. Requests as whole packets (R96 to R99, R114): what a handler's run may answer, what a refusal touches, and how a
reply leaves its port.
-/
namespace Sys2Proof.Machine

-- one theorem after the other: the threads of many at once need more memory than the check has
set_option Elab.async false

/-! ### What a run answers -/

/-- A command that has passed its checks answers OK, CONFLICT or INTERNAL. -/
def RunAnswers (h : Handler) : Prop :=
  ∀ o p s, (h.run o p s).1.status = 0 ∨ (h.run o p s).1.status = 0x14 ∨ (h.run o p s).1.status = 0xFF

theorem runAnswers_ok {h : Handler} (hok : ∀ o p s, (h.run o p s).1.status = 0) : RunAnswers h :=
  fun o p s => .inl (hok o p s)

theorem runPairs_status (l : List (Word × Word)) (s : State) :
    (runPairs l s).1.status = 0 ∨ (runPairs l s).1.status = 0x14 ∨ (runPairs l s).1.status = 0xFF := by
  unfold runPairs
  split
  · exact .inr (.inl rfl)
  · exact .inl rfl

theorem runAnswers_hParamSet : RunAnswers hParamSet := fun _ _ _ => runPairs_status _ _
theorem runAnswers_hStreamCfg : RunAnswers hStreamCfg := fun _ _ _ => runPairs_status _ _

theorem runAnswers_hAcqStart : RunAnswers hAcqStart := by
  intro o p s
  simp only [hAcqStart, Handler.plain]
  split
  · exact .inr (.inl rfl)
  · exact .inl rfl

theorem runAnswers_hAdcCheckSet : RunAnswers hAdcCheckSet := by
  intro o p s
  simp only [hAdcCheckSet, Handler.plain]
  split
  · exact .inr (.inl rfl)
  · exact .inl rfl

theorem runAnswers_hMemRead : RunAnswers hMemRead := by
  intro o p s
  simp only [hMemRead, Handler.plain, readNow]
  split
  · exact .inr (.inr rfl)
  · exact .inl rfl

theorem runAnswers_hCalRun : RunAnswers hCalRun := fun _ _ _ => .inr (.inl rfl)

theorem runAnswers_hCalWrite : RunAnswers hCalWrite := by
  intro o p s
  simp only [hCalWrite, Handler.plain]
  split
  · exact .inr (.inl rfl)
  · exact .inl rfl

theorem runAnswers_hLogRead : RunAnswers hLogRead := by
  intro o p s
  simp only [hLogRead, Handler.plain]
  split
  · exact .inl rfl
  · split <;> exact .inl rfl

/-- Every opcode but RESULT. -/
theorem runAnswers_handlerOf {op : Nat} {h : Handler} (hop : op ≠ 0x0A) (hh : handlerOf op = some h) : RunAnswers h := by
  unfold handlerOf at hh
  split at hh
  · unfold handlerLow at hh
    split at hh <;> cases hh
    case h_6 => exact runAnswers_hParamSet
    case h_11 => exact absurd rfl hop
    case h_28 => exact runAnswers_hAcqStart
    all_goals exact runAnswers_ok fun _ _ _ => rfl
  · unfold handlerHigh at hh
    split at hh <;> cases hh
    case h_11 => exact runAnswers_hAdcCheckSet
    case h_18 => exact runAnswers_hStreamCfg
    case h_23 => exact runAnswers_hMemRead
    case h_26 => exact runAnswers_hCalRun
    case h_28 => exact runAnswers_hCalWrite
    case h_31 => exact runAnswers_hLogRead
    all_goals exact runAnswers_ok fun _ _ _ => rfl

/-! ### Refusals -/

@[simp] theorem reply_status (st d : Nat) (p : List Word) : (reply st d p).status = BitVec.ofNat 8 st := rfl

/-- The statuses of a rejected request (R96, Table 06-2). -/
abbrev rejections : List Nat := [0x02, 0x10, 0x11, 0x12, 0x13, 0x30, 0x40]

/-- t is s but for events. -/
def EventsOnly (s t : State) : Prop := t = { s with evq := t.evq }

theorem eventsOnly_refl (s : State) : EventsOnly s s := rfl

theorem eventsOnly_refuse (op st d : Nat) (s : State) : EventsOnly s (refuse op st d s).2 := by
  unfold refuse postIf EventsOnly
  dsimp only
  split <;> rfl

theorem eventsOnly_answerNone (recov : Bool) (op : Nat) (s : State) : EventsOnly s (answerNone recov op s).2 := by
  unfold answerNone
  split <;> exact eventsOnly_refuse _ _ _ _

theorem RunAnswers.not_rejected {h : Handler} (hr : RunAnswers h) (o : Origin) (p : List Word) (s : State) :
    (h.run o p s).1.status.toNat ∉ rejections := by
  rcases hr o p s with e | e | e <;> rw [e] <;> decide

/-- Checks that end in a rejection leave the state, where the command itself answers none. -/
theorem answer_rejected {h : Handler} {hdr : Bool} {o : Origin} {p : List Word} {s : State}
    (hst : (answer h hdr o p s).1.status.toNat ∈ rejections)
    (hrun : h.lenOk p = true → hdr = false → h.value s p = none → h.badState s o p = false →
      (h.run o p s).1.status.toNat ∉ rejections) : EventsOnly s (answer h hdr o p s).2 := by
  revert hst
  unfold answer
  split
  · exact fun _ => eventsOnly_refuse _ _ _ _
  split
  · exact fun _ => eventsOnly_refuse _ _ _ _
  split
  · exact fun _ => eventsOnly_refuse _ _ _ _
  split
  · exact fun _ => eventsOnly_refuse _ _ _ _
  split
  · exact fun _ => eventsOnly_refuse _ _ _ _
  split
  · exact fun _ => eventsOnly_refuse _ _ _ _
  split
  · split
    · exact fun _ => rfl
    · intro hst
      rw [reply_status] at hst
      exact absurd hst (by decide)
  · rename_i hlen hhdr _ hvalue hbad _ _ _
    dsimp only
    split
    · intro hst
      rw [reply_status] at hst
      exact absurd hst (by decide)
    · exact fun hst => absurd hst (hrun (by simpa using hlen) (by simpa using hhdr) hvalue (by simpa using hbad))

/-- What a RESULT by packet needs to be run: the word of its slot, and one address (R412). -/
theorem hResult_checks {o : Origin} {p : List Word} {s : State} (hl : hResult.lenOk p = true)
    (hv : hResult.value s p = none) (hb : hResult.badState s o p = false) :
    p.length = 1 ∧ within 0xF (wd p 0) = true ∧ Single o ∧ s.brg.slots.getD (fld (wd p 0) 3 0) .free ≠ .free := by
  refine ⟨by simpa [hResult, Handler.plain] using hl, ?mask, ?single, ?slot⟩
  case mask => simpa [hResult, maskFault, List.range_succ] using hv
  case single =>
    obtain ⟨port, addr⟩ := o
    cases port <;> simp_all [Single, hResult, Handler.plain, Handler.badState]
  case slot => simp_all [hResult, Handler.plain, Handler.badState]

/-- RESULT of a slot that is not DONE answers no rejection. -/
theorem hResult_not_rejected {o : Origin} {p : List Word} {s : State}
    (hdone : ∀ st res, s.brg.slots.getD (fld (wd p 0) 3 0) .free ≠ .done st res) :
    (hResult.run o p s).1.status.toNat ∉ rejections := by
  have haccepts : hResult.run o p s = (reply stAccepted (fld (wd p 0) 3 0) [], s) := by
    simp only [hResult, Handler.plain]
  rw [haccepts, reply_status]
  decide

/-- A rejected packet leaves the state it finds but for events and the count of free values. -/
theorem respond_rejected {o : Origin} {k : Packet} {s : State} (hst : (respond o k s).1.status.toNat ∈ rejections)
    (hresult : k.opcode = 0x0A → k.payload.length = 1 → within 0xF (wd k.payload 0) = true → headerBad k = false →
      Single o → ∀ st res, s.brg.slots.getD (fld (wd k.payload 0) 3 0) .free ≠ .done st res) :
    EventsOnly { s with drawn := s.drawn + 1 } (respond o k s).2 := by
  revert hst
  unfold respond
  dsimp only
  split
  · exact fun _ => eventsOnly_answerNone _ _ _
  split
  · rename_i h hh
    refine fun hst => answer_rejected hst fun hl hhdr hv hb => ?_
    by_cases hop : k.opcode.toNat = 0x0A
    · rw [hop] at hh
      obtain rfl : hResult = h := Option.some.inj hh
      obtain ⟨hlen, hmask, hone, _⟩ := hResult_checks hl hv hb
      exact hResult_not_rejected (hresult (BitVec.eq_of_toNat_eq hop) hlen hmask hhdr hone)
    · exact (runAnswers_handlerOf hop hh).not_rejected _ _ _
  · split <;> exact fun _ => eventsOnly_refuse _ _ _ _

/-! ### Replies as packets -/

/-- What the reply of a packet touches on the harness. -/
theorem sendReply_harness {o : Origin} (ho : o.port = .harness) (k : Packet) (a : BitVec 6) (r : Reply) (s : State) :
    sendReply o k a r s = { s with
      brg := { s.brg with replyH := (sendReply o k a r s).brg.replyH }
      harn := { s.harn with
        own := (sendReply o k a r s).harn.own, replyDrop := (sendReply o k a r s).harn.replyDrop
        outUp := (sendReply o k a r s).harn.outUp, lineUp := (sendReply o k a r s).harn.lineUp } } := by
  unfold sendReply deliver
  rw [ho]
  dsimp only
  split
  · rfl
  · split <;> rfl

/-- What the reply of a packet touches on the UART. -/
theorem sendReply_uart {o : Origin} (ho : o.port = .uart) (k : Packet) (a : BitVec 6) (r : Reply) (s : State) :
    sendReply o k a r s = { s with brg := { s.brg with
      replyU := some r, sentU := (sendReply o k a r s).brg.sentU, lineU := (sendReply o k a r s).brg.lineU } } := by
  unfold sendReply deliver
  rw [ho]
  dsimp only
  split <;> rfl

/-! ### A packet comes -/

/-- The mark of a claimed request is all that its arrival touches. -/
theorem arrived_eq (k : Packet) (s : State) :
    arrived k s = { s with harn := { s.harn with claim := (arrived k s).harn.claim } } := by
  unfold arrived
  split <;> rfl

theorem serveRequest_retry {o : Origin} {k : Packet} {s : State} {e : Stored} (h : retryOf s o.port k = some e) :
    serveRequest o k s = sendReply o k e.addr e.reply (againDue o k e.reply { s with drawn := s.drawn + 1 }) := by
  simp only [serveRequest, h]

/-- The address that the reply to a fresh request carries (R80). -/
def replyAddress (o : Origin) (k : Packet) (s : State) : BitVec 6 :=
  if k.opcode = 0x19 then (respond o k s).2.pwr.address else s.pwr.address

/-- What a fresh request leaves in its port's stored entry (R98). -/
def storedEntry (o : Origin) (k : Packet) (s : State) : Stored :=
  { seq := k.seq, op := k.opcode, crc := matchCrc k, addr := replyAddress o k s, reply := (respond o k s).1 }

theorem serveRequest_fresh {o : Origin} {k : Packet} {s : State} (h : retryOf s o.port k = none) :
    serveRequest o k s = sendReply o k (replyAddress o k s) (respond o k s).1
      (store o.port (storedEntry o k s) (respond o k s).2) := by
  simp only [serveRequest, h]
  rfl

section
variable {k : Packet} {s : State} (hk : k.isReply = false) (hl : portLive s .harness = true) (hm : mine s k = true)
include hk hl hm

/-- An intact packet for this unit is served. -/
theorem exec_requestReceived_intact (hc : packetOk k = true) :
    exec (.requestReceived k) s = .next (serveRequest (originOf .harness k) k (arrived k s)) := by
  simp [exec, execRequestReceived, hk, hl, hm, hc]

/-- A broken one is counted, told and answered CRC_ERROR. -/
theorem exec_requestReceived_broken (hc : packetOk k = false) :
    exec (.requestReceived k) s = .next (sendReply (originOf .harness k) k s.pwr.address (reply stCrcError 0 [])
      (post evChainCrc 0 (setHarn (fun h => { h with upCrc := sat 16 (h.upCrc + 1) }) (arrived k s)))) := by
  simp [exec, execRequestReceived, hk, hl, hm, hc]

end

section
variable {raw : List Byte} {s : State} (hraw : raw ≠ []) (hk : (uartParse raw).isReply = false)
  (hl : portLive s .uart = true)
include hraw hk hl

theorem exec_uartPacketReceived_intact (hc : packetOk (uartParse raw) = true) : exec (.uartPacketReceived raw) s =
    .next (serveRequest (originOf .uart (uartParse raw)) (uartParse raw) s) := by
  simp [exec, execUartPacketReceived, hraw, hk, hl, hc]

theorem exec_uartPacketReceived_broken (hc : packetOk (uartParse raw) = false) : exec (.uartPacketReceived raw) s =
    .next (sendReply (originOf .uart (uartParse raw)) (uartParse raw) s.pwr.address (reply stCrcError 0 [])
      (post evMgtUartErr 2 s)) := by
  simp [exec, execUartPacketReceived, hraw, hk, hl, hc]

end

/-- Settles O10: a rejected packet posts, and its reply leaves. -/
theorem rejectionChangesNothing : Obligations.RejectionChangesNothing := by
  refine ⟨fun k s hk hl hm hc hr hrej => ?_, fun raw s hraw hk hl hc hr hrej => ?_⟩
  · have hresp := respond_rejected hrej.1 hrej.2
    refine ⟨_, exec_requestReceived_intact hk hl hm hc, ?_⟩
    rw [serveRequest_fresh (by rw [arrived_eq]; exact hr), sendReply_harness rfl, hresp, arrived_eq]
    rfl
  · have hresp := respond_rejected hrej.1 hrej.2
    refine ⟨_, exec_uartPacketReceived_intact hraw hk hl hc, ?_⟩
    rw [serveRequest_fresh hr, sendReply_uart rfl, hresp]
    rfl

/-! ### Replies on the two ports -/

/-- A reply by the UART is kept; its packet leaves on MGT_TX, framed and stuffed, while MGT.UART_CFG.ENABLE is 1 (R114). -/
theorem sendReply_uart_leaves {o : Origin} (ho : o.port = .uart) {k : Packet} {a : BitVec 6} {r : Reply} {s t : State}
    (ht : sendReply o k a r s = t) : t.brg.storedU = s.brg.storedU ∧ t.brg.replyU = some r ∧
      (portLive t .uart = true → ∃ x, t.brg.sentU = some x ∧ t.brg.lineU = uartFrame x ∧ x.payload = r.payload) ∧
      (bit (rwGet t 0x9000) 4 = false → t.brg.lineU = []) := by
  have hrw : t.rw = s.rw := by rw [← ht, sendReply_uart ho]
  have henable : bit (rwGet t 0x9000) 4 = bit (rwGet s 0x9000) 4 := by rw [rwGet, hrw, rwGet]
  refine ⟨by rw [← ht, sendReply_uart ho], by rw [← ht, sendReply_uart ho], fun hlive => ?_, fun hoff => ?_⟩
  · have hon := henable ▸ (Bool.and_eq_true_iff.1 hlive).2
    refine ⟨replyPacket k a r, ?_, ?_, rfl⟩ <;> simp [← ht, sendReply, ho, hon]
  · rw [henable] at hoff
    simp [← ht, sendReply, ho, hoff]

/-- A reply to one unit whose UP port is not forwarding leaves on the harness (R77). -/
theorem sendReply_harness_replyH {k : Packet} (a : BitVec 6) (r : Reply) {s : State} (hk : k.addr ≠ 62)
    (hb : s.harn.upBusy ≤ s.tb.mono) : (sendReply (originOf .harness k) k a r s).brg.replyH = some r := by
  have haddr : k.addr.toNat ≠ 62 := fun e => hk (BitVec.eq_of_toNat_eq e)
  have hfree : ¬ s.tb.mono < s.harn.upBusy := Nat.not_lt.2 hb
  simp [sendReply, deliver, originOf, haddr, hfree, setHarn]

/-- Settles O11: an intact packet is served afresh or as a retry, a broken one counted. -/
theorem packetsAnswered : Obligations.PacketsAnswered := by
  refine ⟨fun s => ⟨?fresh, ?retry, ?reply, ?uart⟩, fun s => ⟨?crc, ?uartCrc, ?lines⟩⟩
  case fresh =>
    intro k hk hl hm hc hr
    refine ⟨_, exec_requestReceived_intact hk hl hm hc, ?_⟩
    have haddr : (arrived k s).pwr.address = s.pwr.address := by rw [arrived_eq]
    rw [serveRequest_fresh (by rw [arrived_eq]; exact hr), sendReply_harness rfl]
    simp only [storedEntry, replyAddress, haddr]
    rfl
  case retry =>
    intro k e hk hl hm hc hr
    have hsame : retryOf (arrived k s) (originOf .harness k).port k = some e := by rw [arrived_eq]; exact hr
    have hdrawn : (arrived k s).drawn = s.drawn := by rw [arrived_eq]
    rw [exec_requestReceived_intact hk hl hm hc, serveRequest_retry hsame, hdrawn]
  case reply =>
    intro k hk
    simp [exec, execRequestReceived, hk]
  case uart =>
    intro raw hraw hk hl hc hr
    refine ⟨_, exec_uartPacketReceived_intact hraw hk hl hc, ?_⟩
    obtain ⟨hstored, hreply, hsent, hsilent⟩ := sendReply_uart_leaves (o := originOf .uart (uartParse raw)) rfl
      (serveRequest_fresh (o := originOf .uart (uartParse raw)) hr).symm
    exact ⟨by rw [hstored]; rfl, hreply, hsent, hsilent⟩
  case crc =>
    intro k hk hl hm hc
    refine ⟨_, exec_requestReceived_broken hk hl hm hc, ?_⟩
    refine ⟨?_, ?_, ?_, ?_, fun ha hb => ?_⟩
    case refine_5 => exact sendReply_harness_replyH _ _ ha (by rw [arrived_eq]; exact hb)
    all_goals rw [sendReply_harness rfl, arrived_eq]; rfl
  case uartCrc =>
    intro raw hraw hk hl hc
    refine ⟨_, exec_uartPacketReceived_broken hraw hk hl hc, ?_⟩
    rw [sendReply_uart rfl]
    exact ⟨rfl, rfl, rfl, rfl⟩
  case lines =>
    intro hl
    simp [exec, execUartGapTimeout, execUartFramingError, hl]

end Sys2Proof.Machine
end

section
/-!
SUPPORT. A request row that passes the checks of R96, for any handler: the answer of an immediate command, the start of a
deferred one; and the requests that report and that read records over it.
-/
namespace Sys2Proof.Machine

-- one theorem after the other: the threads of many at once need more memory than the check has
set_option Elab.async false

/-! ### Passing the checks -/

/-- The request reaches its command: steps 3 to 8 of R96 let it through. -/
structure Passes (h : Handler) (o : Origin) (p : List Word) (s : State) : Prop where
  reach : reaches s o = true
  serves : (isReady s || (inRecovery s && h.recov)) = true
  len : h.lenOk p = true
  value : h.value s p = none
  state : h.badState s o p = false
  denied : h.denied s p = false

/-- Column 62 lets a request through: broadcast or not, to one unit, or by broadcast alone. -/
def BcastOk (b : Bcast) (o : Origin) : Prop :=
  match b with
  | .yes => True
  | .no => Single o
  | .only => o.port = .uart ∨ o.addr = 62

/-- Step 7 of R96 part by part: column 62, marks C and M, the command's own rule, the resource. -/
theorem badState_eq_false {h : Handler} {o : Origin} {p : List Word} {s : State} (hcast : BcastOk h.bcast o)
    (hcantle : h.cantle = true → s.can.running = true) (hdram : h.dram p = true → s.mem.usable = true)
    (hbad : h.bad s o p = false) (hheld : ∀ r, h.defers s p = some r → held s r = false) :
    h.badState s o p = false := by
  have hc : (o.port == .harness && ((h.bcast == .no && decide (o.addr = 62)) ||
      (h.bcast == .only && decide (o.addr ≠ 62)))) = false := by
    obtain ⟨port, addr⟩ := o
    cases port <;> cases hb : h.bcast <;> simp_all [BcastOk, Single]
  have hk : (h.cantle && !s.can.running && !inRecovery s) = false := by
    cases hx : h.cantle
    · rfl
    · simp [hcantle hx]
  have hm : (h.dram p && !s.mem.usable) = false := by
    cases hx : h.dram p
    · rfl
    · simp [hdram hx]
  have hr : (match h.defers s p with | some r => held s r | none => false) = false := by
    cases hx : h.defers s p with
    | none => rfl
    | some r => exact hheld r hx
  unfold Handler.badState
  rw [hc, hk, hm, hbad]
  exact hr

/-- The state rule of a command that Table 20-1 marks neither C nor M, open to broadcast and not deferred. -/
theorem badState_eq_bad {h : Handler} {o : Origin} {p : List Word} {s : State} (hcast : BcastOk h.bcast o)
    (hcantle : h.cantle = false) (hdram : h.dram p = false) (hdef : h.defers s p = none)
    (hbad : h.bad s o p = false) : h.badState s o p = false :=
  badState_eq_false hcast (by simp [hcantle]) (by simp [hdram]) hbad (by simp [hdef])

theorem Served.passes {h : Handler} {o : Origin} {p : List Word} {s : State} (hs : Served s o) (hl : h.lenOk p = true)
    (hv : h.value s p = none) (hb : h.badState s o p = false) (hd : h.denied s p = false) : Passes h o p s :=
  ⟨hs.2, hs.passes_step3 h, hl, hv, hb, hd⟩

theorem ServedAlways.passes {h : Handler} {o : Origin} {p : List Word} {s : State} (hs : ServedAlways s o)
    (hrec : h.recov = true) (hl : h.lenOk p = true) (hv : h.value s p = none) (hb : h.badState s o p = false)
    (hd : h.denied s p = false) : Passes h o p s :=
  ⟨hs.2, by rcases hs.1 with hr | hr <;> simp [hr, hrec], hl, hv, hb, hd⟩

/-- An immediate command that passes answers OK from the state it runs to. -/
theorem exec_answered {c : Instr} {h : Handler} {o : Origin} {p : List Word} {s t : State} {payload : List Word}
    (hc : exec c s = .next (request h o p s)) (hp : Passes h o p s) (hd : h.defers s p = none)
    (hrun : h.run o p s = (okReply payload, t)) : exec c s = .next (answered o h.op payload t) := by
  rw [hc, request_run h hp.reach hp.serves hp.len hp.value hp.state hp.denied hd (.inl (by simp [hrun])), hrun]
  rfl

/-- A deferred command that passes takes the lowest FREE slot and starts. -/
theorem exec_accepted {c : Instr} {h : Handler} {o : Origin} {p : List Word} {s t : State} {r : Res} {k : Nat}
    (hc : exec c s = .next (request h o p s)) (hp : Passes h o p s) (hd : h.defers s p = some r)
    (hk : freeSlot s = some k) (hstart : h.start o p (occupy k r s) = t) : exec c s = .next (accepted o h.op k t) := by
  rw [hc, request_start h hp.reach hp.serves hp.len hp.value hp.state hp.denied hd hk, hstart]

/-- A request that its checks refuse. -/
theorem exec_refused {c : Instr} {h : Handler} {o : Origin} {p : List Word} {s : State} {st d : Nat}
    (hc : exec c s = .next (request h o p s)) (hr : reaches s o = true)
    (hx : answer h false o p s = refuse h.op st d s) : exec c s = .next (refused o h.op st d s) := by
  rw [hc, request_refused h st d hr hx]

/-- The mask of a payload of one word. -/
theorem maskFault_one (m : Word) (p : List Word) :
    maskFault [m] p = if within m (wd p 0) = true then none else some 0 := by
  cases hw : within m (wd p 0) <;> simp [maskFault, List.range_succ, hw]

theorem maskFault_one_none {m w : Word} (h : within m w = true) : maskFault [m] [w] = none := by
  rw [maskFault_one, wd, List.getD_cons_zero, if_pos h]

/-- An immediate command that Table 20-1 marks neither C nor M: its LENGTH, value and state
rules let it through, and it answers OK. -/
theorem Served.answers {c : Instr} (h : Handler) {o : Origin} (p : List Word) {s t : State} {payload : List Word}
    (hs : Served s o) (hrun : h.run o p s = (okReply payload, t)) (hv : h.value s p = none := by rfl)
    (hl : h.lenOk p = true := by rfl) (hbad : h.bad s o p = false := by rfl)
    (hc : exec c s = .next (request h o p s) := by rfl) (hcast : BcastOk h.bcast o := by exact trivial)
    (hcantle : h.cantle = false := by rfl) (hdram : h.dram p = false := by rfl) (hdef : h.defers s p = none := by rfl)
    (hd : h.denied s p = false := by rfl) : exec c s = .next (answered o h.op payload t) :=
  exec_answered hc (hs.passes hl hv (badState_eq_bad hcast hcantle hdram hdef hbad) hd) hdef hrun

/-- The same for an opcode that RECOVERY serves too. -/
theorem ServedAlways.answers {c : Instr} (h : Handler) {o : Origin} (p : List Word) {s t : State} {payload : List Word}
    (hs : ServedAlways s o) (hrun : h.run o p s = (okReply payload, t)) (hv : h.value s p = none := by rfl)
    (hl : h.lenOk p = true := by rfl) (hbad : h.bad s o p = false := by rfl)
    (hc : exec c s = .next (request h o p s) := by rfl) (hrec : h.recov = true := by rfl)
    (hcast : BcastOk h.bcast o := by exact trivial) (hcantle : h.cantle = false := by rfl) (hdram : h.dram p = false := by rfl)
    (hdef : h.defers s p = none := by rfl) (hd : h.denied s p = false := by rfl) :
    exec c s = .next (answered o h.op payload t) :=
  exec_answered hc (hs.passes hrec hl hv (badState_eq_bad hcast hcantle hdram hdef hbad) hd) hdef hrun

/-! ### Queries -/

theorem Served.not_inRecovery {s : State} {o : Origin} (hs : Served s o) : inRecovery s = false := by
  have hr := hs.1
  simp_all [isReady, inRecovery]

/-- STATUS frees the slot that LAST_SLOT names in RECOVERY alone (R410). -/
theorem hStatus_run_ready {s : State} (h : inRecovery s = false) (o : Origin) (p : List Word) :
    hStatus.run o p s = (okReply (statusWords s), s) := by
  simp only [hStatus, Handler.plain, h]
  cases lastDone s <;> rfl

theorem hStatus_run_none {s : State} (h : lastDone s = none) (o : Origin) (p : List Word) :
    hStatus.run o p s = (okReply (statusWords s), s) := by
  simp only [hStatus, Handler.plain, h]

theorem hStatus_run_recovery {s : State} {x : Nat × BitVec 8} (h : inRecovery s = true) (hx : lastDone s = some x)
    (o : Origin) (p : List Word) : hStatus.run o p s = (okReply (statusWords s), slotFree x.1 s) := by
  simp only [hStatus, Handler.plain, hx, h, if_true]

/-- Settles O16: each query's run leaves the state, but for the slot that STATUS frees in RECOVERY. -/
theorem queriesAnswer : Obligations.QueriesAnswer := by
  refine ⟨fun o s hs => ⟨?nop, ?identify, ?status, ?tackInfo, ?timeGet, ?lifetime, ?loopback⟩, fun o s hrec hr => ?recovery⟩
  case nop => exact hs.answers hNop [] rfl
  case identify => exact hs.answers hIdentify [] rfl
  case status => exact hs.answers hStatus [] (hStatus_run_ready hs.not_inRecovery o [])
  case tackInfo => exact hs.answers hTackInfo [] rfl
  case timeGet => exact hs.answers hTimeGet [] rfl
  case lifetime => exact hs.answers hLifetimeRead [] rfl
  case loopback => exact fun p hp => hs.answers hChainLoopback p rfl (hl := decide_eq_true hp)
  case recovery =>
    have hs : ServedAlways s o := ⟨.inr hrec, hr⟩
    exact ⟨hs.answers hIdentify [] rfl, fun hx => hs.answers hStatus [] (hStatus_run_none hx o []),
      fun x hx => hs.answers hStatus [] (hStatus_run_recovery hrec hx o [])⟩

/-! ### Records -/

/-- A value rule of one condition on the payload. -/
theorem valueRule_of {c : Prop} [Decidable c] {i : Nat} (h : c) : (if c then none else some i) = none := if_pos h

section
variable {o : Origin} {w : Word} {s : State} (hs : ServedAlways s o) (hw : within 0xFFFFFFFFF w = true)
include hs hw

/-- LOG_READ with COUNT 0 tells the oldest index. -/
theorem logRead_oldest (hn : fld w 35 32 = 0) :
    exec (.logRead o [w]) s = .next (answered o 0xA1 [mk [(0, 32, (logOldest s).toNat)]] s) :=
  hs.answers hLogRead [w] (by simp only [hLogRead, Handler.plain, wd, List.getD_cons_zero, hn, if_true]) (maskFault_one_none hw)

theorem logRead_ahead (hn : fld w 35 32 ≠ 0) (hk : logSkip s (BitVec.ofNat 32 (fld w 31 0)) = none) :
    exec (.logRead o [w]) s = .next (answered o 0xA1 [mk [(0, 32, s.can.logNext.toNat)]] s) :=
  hs.answers hLogRead [w] (by simp only [hLogRead, Handler.plain, wd, List.getD_cons_zero, hn, if_false, hk]) (maskFault_one_none hw)

theorem logRead_entries {k : Nat} (hn : fld w 35 32 ≠ 0) (hk : logSkip s (BitVec.ofNat 32 (fld w 31 0)) = some k) :
    exec (.logRead o [w]) s = .next (answered o 0xA1
      (mk [(0, 32, (logOldest s + BitVec.ofNat 32 k).toNat), (32, 4, ((s.can.log.drop k).take (fld w 35 32)).length)] ::
        ((s.can.log.drop k).take (fld w 35 32)).flatMap fun e => [e.word0, e.word1]) s) :=
  hs.answers hLogRead [w] (by simp only [hLogRead, Handler.plain, wd, List.getD_cons_zero, hn, if_false, hk]) (maskFault_one_none hw)

end

/-- Settles O17: a word inside its mask and ranges selects what the run reads. -/
theorem recordsAnswer : Obligations.RecordsAnswer := by
  refine ⟨fun o w s hs => ⟨?route, ?scan, ?zone, ?trig, ?slot, ?aux, ?dma, ?cal, ?health⟩, fun o w s hs =>
    ⟨fun hw hn => logRead_oldest hs hw hn, fun hw hn hk => logRead_ahead hs hw hn hk,
      fun k hw hn hk => logRead_entries hs hw hn hk⟩⟩
  case route => exact fun hw => hs.answers hRouteGet [w] rfl (maskFault_one_none hw)
  case scan => exact fun hw => hs.answers hScanGet [w] rfl (maskFault_one_none hw)
  case zone => exact fun hw => hs.answers hZoneGet [w] rfl (maskFault_one_none hw)
  case trig => exact fun hw => hs.answers hTrigGet [w] rfl (maskFault_one_none hw)
  case slot => exact fun hw => hs.answers hSlotGet [w] rfl (maskFault_one_none hw)
  case aux => exact fun hw hn hf => hs.answers hAuxRead [w] rfl (valueRule_of (by simpa [wd] using ⟨⟨hw, hn⟩, hf⟩))
  case dma => exact fun hw hn => hs.answers hDmaStatus [w] rfl (valueRule_of (by simpa [wd] using ⟨hw, hn⟩))
  case cal =>
    exact fun hw hg => ⟨hs.answers hCalRead [w] rfl (valueRule_of (by simpa [wd] using ⟨hw, hg⟩)),
      hs.answers hCalQuality [w] rfl (valueRule_of (by simpa [wd] using ⟨hw, hg⟩))⟩
  case health => exact fun hw => hs.answers hHealthRead [w] rfl (maskFault_one_none hw)

end Sys2Proof.Machine
end

section
/-!
SUPPORT. EVENT_READ and EVENT_ACK (R396, R397), RESULT (R412), and the requests that write the draft copy (R27) or copy the
live one back (R108).
-/
namespace Sys2Proof.Machine

-- one theorem after the other: the threads of many at once need more memory than the check has
set_option Elab.async false

/-! ### Events -/

theorem hEventRead_run (o : Origin) (w : Word) (s : State) : hEventRead.run o [w] s =
    (okReply (eventWord s (min (fld w 3 0) s.evq.q.length) :: (s.evq.q.take (fld w 3 0)).flatMap entryWords), s) := by
  have htake : s.evq.q.take (min (fld w 3 0) s.evq.q.length) = s.evq.q.take (fld w 3 0) := by
    rw [← List.take_take, List.take_length]
  simp only [hEventRead, Handler.plain, wd, List.getD_cons_zero, htake]

section
variable {o : Origin} {w : Word} {s : State}

/-- UPTO names an entry held. -/
theorem hEventAck_run_held (h : ackDistance s w < s.evq.q.length) :
    hEventAck.run o [w] s = (okReply [eventWord { s with evq := { s.evq with
      q := s.evq.q.drop (ackDistance s w + 1) } } 0], { s with evq := { s.evq with
      q := s.evq.q.drop (ackDistance s w + 1) } }) := by
  simp only [hEventAck, Handler.plain, wd, List.getD_cons_zero, h, if_true]

/-- UPTO lies behind the oldest entry. -/
theorem hEventAck_run_behind (h : s.evq.q.length ≤ ackDistance s w) :
    hEventAck.run o [w] s = (okReply [eventWord s 0], s) := by
  simp only [hEventAck, Handler.plain, wd, List.getD_cons_zero, Nat.not_lt.2 h, if_false]

theorem hEventAck_value (hw : within 0xFFFF w = true) : hEventAck.value s [w] =
    if ackDistance s w < s.evq.q.length ∨ 64512 ≤ ackDistance s w then none else some 0 := by
  simp only [hEventAck, Handler.plain, maskFault_one_none hw, wd, List.getD_cons_zero, Bool.or_eq_true, decide_eq_true_eq]

end

/-- Settles O18: the distance of UPTO from the oldest entry decides the acknowledgement. -/
theorem eventReadAndAck : Obligations.EventReadAndAck := by
  refine fun o w s hs => ⟨fun hw => ?read, fun hw ho hd => ?held, fun hw ho hq hd => ?behind, fun hw ho hq hd => ?ahead⟩
  case read => exact hs.answers hEventRead [w] (hEventRead_run o w s) (maskFault_one_none hw)
  case held =>
    exact hs.answers hEventAck [w] (hEventAck_run_held hd) ((hEventAck_value hw).trans (if_pos (.inl hd))) (hcast := ho)
  case behind =>
    exact hs.answers hEventAck [w] (hEventAck_run_behind hq) ((hEventAck_value hw).trans (if_pos (.inr hd))) (hcast := ho)
  case ahead =>
    refine exec_refused (h := hEventAck) (p := [w]) rfl hs.2 (answer_badValue hEventAck (hs.passes_step3 _) rfl ?_)
    exact (hEventAck_value hw).trans (if_neg (by omega))

/-! ### RESULT -/

section
variable {o : Origin} {w : Word} {s : State} (hs : Served s o) (ho : Single o) (hw : within 0xF w = true)
include hs ho hw

/-- A slot that is not FREE lets RESULT through. -/
theorem hResult_passes (hslot : s.brg.slots.getD (fld w 3 0) .free ≠ .free) : Passes hResult o [w] s :=
  hs.passes rfl (maskFault_one_none hw)
    (badState_eq_bad ho rfl rfl rfl (beq_eq_false_iff_ne.2 (by simpa [wd] using hslot))) rfl

theorem result_done {st : BitVec 8} {res : List Word} (hslot : s.brg.slots.getD (fld w 3 0) .free = .done st res) :
    exec (.result o [w]) s = .next (deliver o 0x0A { status := st, detail := 0, payload := res }
      (dropStored o.port (slotFree (fld w 3 0) s))) := by
  have hp := hResult_passes hs ho hw (by rw [hslot]; exact Slot.noConfusion)
  have hrun : hResult.run o [w] s = ({ status := st, detail := 0, payload := res }, slotFree (fld w 3 0) s) := by
    simp only [hResult, Handler.plain, wd, List.getD_cons_zero, hslot]
  have hx := request_run hResult hp.reach hp.serves hp.len hp.value hp.state hp.denied rfl (.inr rfl)
  rw [hrun] at hx
  exact congrArg Host.Outcome.next hx

theorem result_running {r : Res} (hslot : s.brg.slots.getD (fld w 3 0) .free = .running r) :
    exec (.result o [w]) s = .next (accepted o 0x0A (fld w 3 0) s) := by
  have hp := hResult_passes hs ho hw (by rw [hslot]; exact Slot.noConfusion)
  have hrun : hResult.run o [w] s = (reply stAccepted (fld w 3 0) [], s) := by
    simp only [hResult, Handler.plain, wd, List.getD_cons_zero, hslot]
  have hx := request_run hResult hp.reach hp.serves hp.len hp.value hp.state hp.denied rfl (.inr rfl)
  rw [hrun] at hx
  exact congrArg Host.Outcome.next hx

omit ho in
theorem result_free (hslot : s.brg.slots.getD (fld w 3 0) .free = .free) :
    exec (.result o [w]) s = .next (refused o 0x0A 0x13 0 s) :=
  exec_refused (h := hResult) (p := [w]) rfl hs.2 <|
    answer_badState hResult (hs.passes_step3 _) rfl (maskFault_one_none hw) <| by
      simp only [Handler.badState, hResult, Handler.plain, wd, List.getD_cons_zero, hslot, beq_self_eq_true, Bool.or_true,
        Bool.true_or]

end

/-- Settles O19: the state of the slot named decides. -/
theorem resultDelivers : Obligations.ResultDelivers := fun _ _ _ hs ho hw =>
  ⟨fun _ _ => result_done hs ho hw, fun _ => result_running hs ho hw, result_free hs hw⟩

/-! ### The draft copy -/

/-- A value rule that names word 0, then the first of the words behind it that is bad. -/
theorem valueRule_words {c : Bool} {x : Option Nat} (h : c = true) (hx : x = none) :
    (if !c then some 0 else x.map (1 + ·)) = none := by
  rw [h, hx]; rfl

theorem hAuxLimitSet_value {p : List Word} (s : State) (hw : within 0x101FF (wd p 0) = true)
    (hc : fld (wd p 0) 3 0 + limCount p ≤ 16)
    (hok : ∀ i, 0 < i → i < p.length → pOk (if i ≤ limCount p then 0x5840 else 0x5860) (wd p i) = true) :
    hAuxLimitSet.value s p = none := by
  have hfind : ((List.range p.length).drop 1).find? (fun i =>
      !(if i ≤ limCount p then pOk 0x5840 (wd p i) else pOk 0x5860 (wd p i))) = none := by
    refine List.find?_eq_none.2 fun i hi => ?_
    rw [List.range_eq_range', List.drop_range'] at hi
    have hrange := List.mem_range'_1.1 hi
    have := hok i (by omega) (by omega)
    split <;> simp_all
  simp only [hAuxLimitSet, hw, hc, hfind, decide_true, Bool.and_self, Bool.not_true, Bool.false_eq_true, if_false]

/-- Settles O20: each record passes its value rule and enters the draft. -/
theorem draftWrites : Obligations.DraftWrites := by
  refine fun o p s hs hlock => ⟨?route, ?scan, ?zone, ?trig, ?slot, ?curve, ?xpt, ?seq, ?limit, ?discard⟩
  case route => exact fun hl hv => hs.answers hRouteSet p rfl hv (decide_eq_true hl) hlock
  case scan =>
    exact fun hl hw hn hx => hs.answers hScanSet p rfl (valueRule_words (by simpa using ⟨hw, hn⟩) hx) (decide_eq_true hl)
      hlock
  case zone => exact fun hl hv => hs.answers hZoneSet p rfl hv hl hlock
  case trig => exact fun hl hv => hs.answers hTrigSet p rfl hv hl hlock
  case slot => exact fun hl hv => hs.answers hSlotSet p rfl hv hl hlock
  case curve =>
    intro hl hb ht
    refine hs.answers hCurveLoad p rfl ?_ (decide_eq_true hl) hlock
    simp only [hCurveLoad, hb, ht, Bool.false_eq_true, if_false, ne_eq, not_true_eq_false]
  case xpt =>
    exact fun hl hw hn hx => hs.answers hAuxXptSet p rfl (valueRule_words (by simpa using ⟨hw, hn⟩) hx)
      (decide_eq_true hl) hlock
  case seq =>
    exact fun hl hw hn hx => hs.answers hAuxSeqLoad p rfl (valueRule_words (by simpa using ⟨hw, hn⟩) hx)
      (decide_eq_true hl) hlock
  case limit =>
    exact fun hl hw hn hok => hs.answers hAuxLimitSet p rfl (hAuxLimitSet_value s hw hn hok) (decide_eq_true hl) hlock
  case discard => rintro rfl; exact hs.answers hDiscard [] rfl (hbad := hlock)

end Sys2Proof.Machine
end

section
/-!
SUPPORT. Power and resets: the pins of a device whose domains are reset, the rails, standby, and the resets of Table 03-4.
-/
namespace Sys2Proof.Machine

-- one theorem after the other: the threads of many at once need more memory than the check has
set_option Elab.async false

/-! ### Pins in reset -/

/-- A state in which the switched domains stand as `resetDomains` leaves them, as far as the pins look at them. -/
structure DomainsReset (t : State) : Prop where
  dac  : dacOn t = false
  lash : ∀ d, ∃ n, t.lash.get d = { Lash.init with count := n }
  cal  : t.cal = Cal.init
  evq  : t.evq = Events.init
  aux  : t.aux = Aux.init
  live : t.live = Cfg.factory
  brg  : t.brg = Bridle.init
  strm : t.strm = Stream.init
  mem  : t.mem.driven = false

theorem pinAux_init {t : State} (haux : t.aux = Aux.init) {p : Nat} (hp : p < 16) : pinAux t p = 0 := by
  have hoff : ∀ k, driven (cfgFree t) 0 (fld 0 (4 * k + 3) (4 * k)) = 0 := fun k => by
    unfold driven
    split <;> simp [fld]
  have hx : ((t.aux.phase == .settling || t.aux.phase == .converting) = true) = False := by simp [haux, Aux.init]
  simp only [pinAux, auxRoles, hx, if_false, hoff, List.getD_eq_getElem?_getD, List.getElem?_map, List.getElem?_range hp,
    Option.map_some, Option.getD_some]

theorem DomainsReset.pins {t : State} (h : DomainsReset t) : PinsInReset t := by
  refine ⟨fun d => ?_, ?_, fun n => ?_, fun p hp => pinAux_init h.aux hp, ?_, fun n => ?_, ?_, ?_, fun n => ?_,
    fun p n hp => ?_⟩
  · obtain ⟨n, hn⟩ := h.lash d
    refine ⟨?_, ?_, ?_, ?_, ?_, fun i => ?_, ?_, ?_⟩
    · simp only [pinDac, h.dac, Bool.not_false, if_true]
    · simp [pinGate, hn, h.cal, Lash.init, Cal.init]
    · simp only [pinLbias, hn, Lash.init]
    · simp [pinTec, hn, Lash.init]
    · simp [mpdReset, hn, Lash.init]
    · simp [pinSw, hn, Lash.init, PinLevel.drive]
    · simp [pinStrobe, hn, Lash.init, PinLevel.drive]
    · simp [pinDtsTrig, hn, Lash.init, PinLevel.drive]
  · simp [pinAttn, attn, h.evq, Events.init, PinLevel.pull]
  · simp [pinLim, h.aux, Aux.init, PinLevel.pull]
  · simp [latDriven, h.strm, Stream.init]
  · simp [pinMgtTx, h.brg, Bridle.init, PinLevel.drive]
  · simp [pinMemReset, h.mem, PinLevel.drive]
  · simp [pinCke, h.mem, PinLevel.drive]
  · simp [pinDram, h.mem]
  · rcases hp with rfl | rfl | rfl <;> simp [pinDram, h.mem]

theorem bootLash_count (c : Cantle) (d : Side) : ∃ n, bootLash c d = { Lash.init with count := n } := ⟨_, rfl⟩

/-- A reset of the domains, followed by a change of the island, the PLL or the harness alone. -/
theorem domainsReset_of {s t : State} (hdev : dacOn t = false)
    (ht : t = { resetDomains s with pwr := t.pwr, pll := t.pll, harn := t.harn }) : DomainsReset t := by
  rw [ht]
  exact ⟨by rw [← ht]; exact hdev, fun d => by cases d <;> exact ⟨_, rfl⟩, rfl, rfl, rfl, rfl, rfl, rfl, rfl⟩

/-- The pins that stand while the PLL is off and forwarding is not live. -/
theorem linesInReset_of {t : State} (hpll : t.pll = Pll.init) (ha : answers t = false) : LinesInReset t :=
  ⟨by simp [chargePump, hpll, Pll.init], by simp [pinLaserOk, laserOk, pllLocked, hpll, Pll.init, PinLevel.drive],
    fun p b => by simp [pinHarness, harnessDriven, ha]⟩

/-- Settles O4: the reset state written out; the parameter tables by evaluation. -/
theorem resetValues : Obligations.ResetValues := by
  have hd : DomainsReset State.reset :=
    ⟨by decide, fun d => by cases d <;> exact ⟨0, rfl⟩, rfl, rfl, rfl, rfl, rfl, rfl, rfl⟩
  exact ⟨rfl, rfl, rfl, rfl, rfl, rfl, rfl, rfl, rfl, rfl, rfl, rfl, rfl, rfl, hd.pins, linesInReset_of rfl rfl, rfl,
    by decide +kernel, by decide +kernel, by decide +kernel⟩

/-! ### Rails -/

/-- Settles O34: each row's guard decides. -/
theorem powerRails : Obligations.PowerRails := by
  refine fun s => ⟨?on, ?good, ?rails, fun h => ?tdo, ?por, ?rise, fun us => ?pin, fun x hx hd hn hf => ?timer,
    fun b hd => ?off⟩
  case on => simp only [exec, execVaonPowerOn, setPwr, Bool.or_eq_true, beq_iff_eq]
  case good => simp only [exec, execVaonGood, startUp, setPwr, beq_iff_eq]
  case rails => simp only [exec, execRailsGood, setCan, setPwr, beq_iff_eq]
  case tdo => exact ⟨_, rfl, by simp [h, setCan, setPwr, pinTdo, tdoDriven, Jtag.init, PinLevel.driveIf]⟩
  case por => simp only [exec, execPorRelease, sampleStraps, setPwr, Bool.and_eq_true, Bool.not_eq_true', beq_iff_eq]
  case rise =>
    simp only [exec, execResetNRise, sampleStraps, setPwr, Bool.and_eq_true, beq_iff_eq]
    rfl
  case pin => rfl
  case timer => simp [exec, execWakeTimerExpiry, wakeSource, setPwr, hx, hd, hn, hf]
  case off => cases b <;> simp [exec, execResetOffTimeExpiry, setPwr, hd]

/-! ### Resets of the domains -/

/-- What every reset of the switched domains leaves. -/
theorem resetDomains_leaves {s t : State} (hdev : dacOn t = false)
    (ht : t = { resetDomains s with pwr := t.pwr, pll := t.pll, harn := t.harn }) :
     t.nv = s.nv ∧ t.tacks.sets = s.tacks.sets ∧ t.can.log = s.can.log ∧ t.can.logNext = s.can.logNext ∧
     t.can.life = s.can.life ∧ t.can.surges = s.can.surges ∧ t.can.slotA = s.can.slotA ∧ t.can.slotB = s.can.slotB ∧
     t.can.imageA = s.can.imageA ∧ t.can.imageBi = s.can.imageBi ∧ t.can.session = s.can.session ∧
     t.can.svnFloor = s.can.svnFloor ∧ t.can.revoked = s.can.revoked ∧ t.tiles = s.tiles ∧ t.tb.mono = s.tb.mono ∧
     t.evq = Events.init ∧ t.live = Cfg.factory ∧ t.draft = Cfg.factory ∧ t.rw = [] ∧ t.brg = Bridle.init ∧
     t.mem.bytes = [] ∧ t.mem.usable = false ∧ t.zones = [] ∧ t.base = [] ∧ t.strm = Stream.init ∧ t.dma = Dma.init ∧
     t.aux = Aux.init ∧ t.girth = Girth.init ∧ t.tb.set = false ∧ t.can.running = false ∧ t.cal = Cal.init ∧
     t.can.endured = s.can.endured ∧ PinsInReset t := by
  have hp := (domainsReset_of hdev ht).pins
  rw [ht] at hp ⊢
  exact ⟨rfl, rfl, rfl, rfl, rfl, rfl, rfl, rfl, rfl, rfl, rfl, rfl, rfl, rfl, rfl, rfl, rfl, rfl, rfl, rfl, rfl, rfl, rfl,
    rfl, rfl, rfl, rfl, rfl, rfl, rfl, rfl, rfl, hp⟩

theorem resetPin_reset {s : State} {x : DevState} (hs : s.pwr.stand = none) (hx : pinReset s.pwr.dev = some x) :
    resetPin s = startUp x evPor 1 (loseAddress (resetDomains (setPwr (fun p => { p with resetLow := true }) s))) := by
  simp only [resetPin, hs, hx, Option.isSome_none, Bool.false_eq_true, if_false]

theorem execResetNLow_long {s : State} {ns : Nat} (h : 1000 ≤ ns) : execResetNLow ns s = .next (resetPin s) := by
  simp only [execResetNLow, show ¬ ns < 100 by omega, h, if_false, if_true]

theorem pinReset_dark {d x : DevState} (h : pinReset d = some x) (event n : Nat) (s : State) :
    dacOn (startUp x event n s) = false := by
  cases d <;> cases h <;> rfl

theorem execBrownout_powered {s : State} {m : Nat} (h : powered s.pwr.dev = true) : execBrownout m s =
    .next (setPwr (fun p => { p with vcore := m ≠ 1 && m ≠ 2 })
      (startUp .railsWait evBrownout m (loseAddress (resetDomains s)))) := by
  simp only [execBrownout, h, Bool.not_true, Bool.false_eq_true, if_false]

theorem execResetStart_due {s : State} {n : Nat} (hn : s.pwr.hard = some n) (hs : s.pwr.stand = none) :
    execResetStart s = .next (if n = 3 then hardReset3 s else hardReset2 s) := by
  simp only [execResetStart, hn, hs, Option.isSome_none, Bool.false_eq_true, if_false]

theorem hardReset2_dark (s : State) : dacOn (hardReset2 s) = false := by
  cases h : s.pwr.testMode <;> simp [hardReset2, sampleStraps, startUp, setPwr, dacOn, resetDomains, h]

theorem pinReset_powered {d : DevState} (h : powered d = true) : pinReset d = some (.starting 0) := by
  cases d <;> first | rfl | cases h

/-- Settles O35: each reset is that of the domains, then what it does to the island. -/
theorem resetsOfDomains : Obligations.ResetsOfDomains := by
  refine ⟨fun s t h => ?leaves, fun s => ⟨?loss, fun ns hns hs hp => ?pulse, fun ns hns hs hw => ?wait, fun ns hns => ?short,
    fun m hp => ?brownout, fun hh hs => ?level2, fun hh hs => ?level3⟩⟩
  case leaves =>
    rcases h with h | ⟨ns, x, hns, hs, hx, h⟩ | ⟨m, hp, h⟩ | ⟨n, hn, hs, h⟩
    · cases h
      exact resetDomains_leaves rfl rfl
    · rw [exec, execResetNLow_long hns, resetPin_reset hs hx] at h
      cases h
      exact resetDomains_leaves (s := setPwr _ s) (pinReset_dark hx _ _ _) rfl
    · rw [exec, execBrownout_powered hp] at h
      cases h
      exact resetDomains_leaves rfl rfl
    · rw [exec, execResetStart_due hn hs] at h
      cases h
      split
      · exact resetDomains_leaves rfl rfl
      · exact resetDomains_leaves (hardReset2_dark s) rfl
  case loss => exact ⟨_, rfl, rfl, rfl, rfl, rfl, linesInReset_of rfl rfl⟩
  case pulse =>
    rw [exec, execResetNLow_long hns, resetPin_reset hs (pinReset_powered hp)]
    exact ⟨_, rfl, linesInReset_of rfl rfl, rfl, rfl, rfl, rfl, rfl⟩
  case wait =>
    rw [exec, execResetNLow_long hns, resetPin_reset hs (by rw [hw]; rfl)]
    exact ⟨_, rfl, rfl, rfl, rfl⟩
  case short => simp only [exec, execResetNLow, hns, if_true]
  case brownout =>
    rw [exec, execBrownout_powered hp]
    exact ⟨_, rfl, linesInReset_of rfl rfl, rfl, rfl, rfl⟩
  case level2 =>
    rw [exec, execResetStart_due hh hs]
    exact ⟨_, rfl, rfl, rfl, rfl, rfl, rfl, rfl, rfl, rfl⟩
  case level3 =>
    rw [exec, execResetStart_due hh hs]
    exact ⟨_, rfl, rfl, linesInReset_of rfl rfl, rfl, rfl, rfl⟩

/-! ### Standby -/

/-- Only Cantle and the event queue differ. -/
def CantleOnly (s t : State) : Prop := ∃ e c, t = { s with evq := e, can := c }

theorem CantleOnly.refl (s : State) : CantleOnly s s := ⟨s.evq, s.can, rfl⟩

theorem CantleOnly.trans {s t u : State} (h : CantleOnly s t) (k : CantleOnly t u) : CantleOnly s u := by
  obtain ⟨_, _, rfl⟩ := h
  obtain ⟨e, c, rfl⟩ := k
  exact ⟨e, c, rfl⟩

theorem setCan_cantleOnly (f : Cantle → Cantle) (s : State) : CantleOnly s (setCan f s) := ⟨s.evq, f s.can, rfl⟩

theorem postIf_cantleOnly (b : Bool) (n d : Nat) (s : State) : CantleOnly s (postIf b n d s) := by
  cases b
  · exact .refl s
  · exact ⟨_, s.can, rfl⟩

theorem loseLog_cantleOnly (n : Nat) (s : State) : CantleOnly s (loseLog n s) := ⟨_, s.can, rfl⟩

theorem CantleOnly.ite {c : Prop} [Decidable c] {s t u : State} (ht : CantleOnly s t) (hu : CantleOnly s u) :
    CantleOnly s (if c then t else u) := by split <;> assumption

theorem writeLog_cantleOnly (x : LogItem) (s : State) : CantleOnly s (writeLog x s) := by
  unfold writeLog
  have h1 := CantleOnly.ite (c := s.can.logSec + sCycles ≤ s.tb.mono)
    (setCan_cantleOnly (fun c => { c with logSec := s.tb.mono, logRate := 0 }) s) (.refl s)
  exact .ite (h1.trans (loseLog_cantleOnly _ _))
    ((h1.trans (setCan_cantleOnly _ _)).trans ((setCan_cantleOnly _ _).trans (postIf_cantleOnly ..)))

theorem drainLog_cantleOnly (n : Nat) (s : State) : CantleOnly s (drainLog n s) := by
  induction n generalizing s with
  | zero => exact .refl s
  | succ n ih =>
    unfold drainLog
    split
    · exact .refl s
    · rename_i x r _
      have hpop : CantleOnly s { s with evq := { s.evq with logQ := r } } := ⟨_, _, rfl⟩
      exact (hpop.trans (writeLog_cantleOnly ..)).trans (ih _)

theorem addHours_cantleOnly (i n : Nat) (s : State) : CantleOnly s (addHours i n s) := by
  unfold addHours
  exact setCan_cantleOnly ..

theorem foldl_cantleOnly {α : Type} (f : State → α → State) (hf : ∀ s x, CantleOnly s (f s x)) (l : List α) (s : State) :
    CantleOnly s (l.foldl f s) := by
  induction l generalizing s with
  | nil => exact .refl s
  | cons x l ih => exact (hf s x).trans (ih _)

theorem updateLife_cantleOnly (s : State) : CantleOnly s (updateLife s) := by
  unfold updateLife
  exact ((setCan_cantleOnly _ s).trans
    (foldl_cantleOnly _ (fun _ _ => .ite (addHours_cantleOnly ..) (.refl _)) _ _)).trans (setCan_cantleOnly ..)

theorem finishMram_cantleOnly (n : Nat) (s : State) : CantleOnly s (finishMram n s) := by
  have hrec : CantleOnly s (logRecord 0x81 0 (now s) [mk [(0, 32, n)], s.pwr.scratchLo, s.pwr.scratchHi] s) := ⟨_, _, rfl⟩
  exact .ite (loseLog_cantleOnly ..) ((hrec.trans (drainLog_cantleOnly ..)).trans (updateLife_cantleOnly _))

/-- Settles O36: before the power-down only Cantle and the event queue change, and then the domains are reset. -/
theorem standbyPowerAndWake : Obligations.StandbyPowerAndWake := by
  refine fun x s hx => ⟨fun hd => ?down, fun hd hs => ?wake, fun hd hs => ?waits⟩
  case down =>
    have hexec : exec .standbyPowerDown s = .next (setCan (fun c => { c with lifeAt := s.tb.mono })
        (setPwr (fun p => { p with dev := .standby, pwrEn := false, vcore := false, stand := some x })
          (resetDomains (finishMram x.seconds s)))) := by
      simp only [exec, execStandbyPowerDown, hx, beq_eq_false_iff_ne.2 hd, Bool.false_eq_true, if_false]
    obtain ⟨e, c, hm⟩ := finishMram_cantleOnly x.seconds s
    rw [hm] at hexec
    exact ⟨_, hexec, rfl, rfl, rfl, rfl, rfl, rfl, rfl, rfl⟩
  case wake =>
    refine ⟨_, by simp only [exec, execStandbyWake, hx, hd, hs]; rfl, ?_⟩
    exact ⟨rfl, rfl, rfl, rfl, rfl⟩
  case waits => simp [exec, execStandbyWake, hx, hs]

end Sys2Proof.Machine
end

section
/-!
SUPPORT. PARAM_SET and the writes with rows of their own (R105): a request whose pairs pass enters them at one instant.
-/
namespace Sys2Proof.Machine

-- one theorem after the other: the threads of many at once need more memory than the check has
set_option Elab.async false

/-! ### The order of the planes -/

/-- What posts nothing and ends no slot is the same in the planes' order. -/
theorem planes_quiet {f : State → State} {s : State} (he : ∀ e, f { s with evq := e } = { f s with evq := e })
    (hb : (f s).brg.recent = s.brg.recent) : planes f s = f s := by
  have hev : (f s).evq = s.evq := (congrArg State.evq (he s.evq) :)
  have hfilter : ((List.range 16).reverse.filter fun _ => false) = [] := rfl
  unfold planes
  rw [he]
  simp only [inPlanes, bySlot, List.filter_nil, hb, Nat.sub_self, List.take_zero, List.drop_zero,
    List.contains_nil, hfilter, List.nil_append]
  rw [← hb]
  have h0 : ([0, 1, 2].flatMap fun _ => ([] : List EvEntry)) = [] := rfl
  have h1 : ([0, 1, 2].flatMap fun _ => ([] : List LogItem)) = [] := rfl
  simp only [h0, h1, replaceEach, List.foldl_nil]
  rw [← hev]

/-! ### The checks of PARAM_SET -/

/-- The value word of an ID with no check of its own is judged by the table. -/
theorem valueOk_of_ne {id : Nat} (s : State) (v : Word) (h : id ≠ 0x0021) : valueOk s id v = pOk id v := if_neg h

theorem assignable_of_pOk {id : Nat} {v : Word} (h : pOk id v = true) : assignable id = true := by
  unfold pOk at h
  unfold assignable
  cases hr : pRow id with
  | none =>
    rw [hr] at h
    cases h
  | some r =>
    rw [hr] at h
    exact (Bool.and_eq_true_iff.1 (Bool.and_eq_true_iff.1 h).1).1

/-- A value passes where its row is writable, its bits lie in the mask, and its fields in their ranges. -/
theorem pOk_of_row {id : Nat} {v : Word} {r : PRow} (hr : pRow id = some r) (hacc : r.acc ≠ .ro)
    (hm : within r.mask v = true) (hg : pRange (pBase id) v = true) : pOk id v = true := by
  simp [pOk, hr, hacc, hm, hg]

/-- A request of one pair is without fault. -/
theorem pairFault_one {s : State} {i v : Word} (hw : within 0xFFFF i = true) (ha : assignable (fld i 15 0) = true)
    (hv : valueOk s (fld i 15 0) v = true) : pairFault s [(i, v)] = none := by
  have hw' : within (65535#64) i = true := hw
  simp [pairFault, pairId, List.range_succ, hw', ha, hv]

/-- A request of two pairs with IDs of no rule of their own is without fault. -/
theorem pairFault_two {s : State} {i j v w : Word} (hi : within 0xFFFF i = true) (hj : within 0xFFFF j = true)
    (hne : pairId (i, v) ≠ pairId (j, w)) (hp : pairId (i, v) ≠ 0x0021) (hq : pairId (j, w) ≠ 0x0021)
    (hv : pOk (pairId (i, v)) v = true) (hw : pOk (pairId (j, w)) w = true) : pairFault s [(i, v), (j, w)] = none := by
  have hai := assignable_of_pOk hv
  have haj := assignable_of_pOk hw
  refine List.findSome?_eq_none_iff.2 fun k hk => ?_
  have hk' : k < 2 := List.mem_range.1 hk
  have hk2 : k = 0 ∨ k = 1 := by omega
  rcases hk2 with rfl | rfl
  · simp only [List.getD_cons_zero, hi, hai, hp, List.take_zero, List.any_nil, valueOk, hv, decide_false, Bool.false_and,
      Bool.not_true, Bool.or_false, Bool.false_eq_true, if_false, if_true]
  · simp only [List.getD_cons_succ, List.getD_cons_zero, hj, haj, hq, List.take_succ_cons, List.take_zero, List.any_cons,
      List.any_nil, hne, valueOk, hw, decide_false, Bool.false_and, Bool.not_true, Bool.or_false, Bool.false_eq_true, if_false, if_true]

/-- One pair meets no state that forbids it, where its ID has no state rule of its own and the draft is not locked
against it. -/
theorem pairBusy_plain {s : State} {x : Word × Word} (hp : pairId x ≠ 0x0021) (hs : pairId x ≠ 0x7000)
    (hm : pairId x ≠ 0x7102) (hl : accessOf (pairId x) = .rws → draftLocked s = false) : pairBusy s x = false := by
  have h1 : (accessOf (pairId x) == .rws && draftLocked s) = false := by
    cases ha : accessOf (pairId x) <;> first | rfl | exact hl ha
  simp only [pairBusy, h1, hp, hs, hm, decide_false, Bool.false_and, Bool.or_false]

/-- Pairs that name neither the stream nor the plan of DRAM meet no conflict. -/
theorem pairsConflict_plain {s : State} {x : Word × Word} (hs : pairId x ≠ 0x7000) (hm : pairId x ≠ 0x7102) :
    pairsConflict s [x] = false := by
  simp [pairsConflict, hs, hm]

/-- A request whose pairs pass enters them at one instant. -/
theorem paramSet_answers {c : Instr} {o : Origin} {p : List Word} {s : State} (hs : Served s o)
    (hp : pairFault s (pairs p) = none) (hb : (pairs p).any (pairBusy s) = false) (hm : movesPll s p = false)
    (hc : pairsConflict s (pairs p) = false) (hl : hParamSet.lenOk p = true := by simp [hParamSet])
    (hx : exec c s = .next (request hParamSet o p s) := by rfl) :
    exec c s = .next (answered o 0x05 [] (writePairs (pairs p) s)) :=
  hs.answers hParamSet p (by simp only [hParamSet, Handler.plain, runPairs, hc, Bool.false_eq_true, if_false]) hp hl hb hx
    (hdef := by simp only [hParamSet, hm, Bool.false_eq_true, if_false])

/-- One pair, whatever rows of checks its ID has. -/
theorem paramSet_pair {c : Instr} {o : Origin} {i v : Word} {s : State} {k : Nat} (hk : fld i 15 0 = k)
    (hs : Served s o) (hw : within 0xFFFF i = true) (ha : assignable k = true) (hv : valueOk s k v = true)
    (hb : pairBusy s (i, v) = false) (hm : (decide (k = 0x0021) && pllMoves s v) = false)
    (hc : pairsConflict s [(i, v)] = false) (hx : exec c s = .next (request hParamSet o [i, v] s) := by rfl) :
    exec c s = .next (answered o 0x05 [] (planes (writeParam k v) s)) := by
  subst hk
  refine paramSet_answers (p := [i, v]) hs (pairFault_one hw ha hv) ?_ ?_ hc (hx := hx)
  · simp only [pairs, List.any_cons, List.any_nil, hb, Bool.or_false]
  · simp only [movesPll, pairs, pairId]
    exact hm

/-- One pair whose ID has no check and no state rule of its own. -/
theorem paramSet_one {c : Instr} {o : Origin} {i v : Word} {s : State} {k : Nat} (hk : fld i 15 0 = k)
    (hs : Served s o) (hw : within 0xFFFF i = true) (hv : pOk k v = true) (hp : k ≠ 0x0021) (hst : k ≠ 0x7000)
    (hm : k ≠ 0x7102) (hl : accessOf k = .rws → draftLocked s = false)
    (hx : exec c s = .next (request hParamSet o [i, v] s) := by rfl) :
    exec c s = .next (answered o 0x05 [] (planes (writeParam k v) s)) := by
  subst hk
  exact paramSet_pair rfl hs hw (assignable_of_pOk hv) ((valueOk_of_ne s v hp).trans hv)
    (pairBusy_plain (x := (i, v)) hp hst hm hl) (by rw [decide_eq_false hp, Bool.false_and])
    (pairsConflict_plain (x := (i, v)) hst hm) hx

/-! ### One value enters -/

theorem writeParam_rws {id : Nat} {v : Word} {s : State} (h : accessOf id = .rws) :
    planes (writeParam id v) s = { s with draft := putParam id v s.draft } :=
  (planes_quiet (fun e => by simp only [writeParam, h, setDraft]) (by simp only [writeParam, h, setDraft])).trans
    (by simp only [writeParam, h, setDraft])

theorem writeParam_nv {id : Nat} {v : Word} {s : State} (h : accessOf id = .nv) :
    planes (writeParam id v) s = { s with nv := kvSet (pReset id) s.nv id v } :=
  (planes_quiet (fun e => by simp only [writeParam, h]) (by simp only [writeParam, h])).trans
    (by simp only [writeParam, h])

theorem writeParam_own {id : Nat} {v : Word} {s : State} (h : accessOf id = .own) :
    planes (writeParam id v) s = writeOwn id v s := by
  have hw : ∀ u, writeParam id v u = writeOwn id v u := fun u => by simp only [writeParam, h]
  refine (planes_quiet (fun e => ?_) ?_).trans (hw s)
  · simp only [hw, writeOwn]
    split_ifs <;> rfl
  · simp only [hw, writeOwn]
    split_ifs <;> rfl

/-- A volatile parameter whose write has no side effect of its own. -/
theorem writeRw_plain {id : Nat} (v : Word) (s : State)
    (h : pBase id ∉ [0x4021, 0x5040, 0x6000, 0x6001, 0x7000, 0x7102, 0x8001]) : writeRw id v s = putRw id v s := by
  unfold writeRw
  split <;> simp_all

theorem writeParam_eq_putRw {id : Nat} (v : Word) (s : State) (h : accessOf id = .rw)
    (hp : pBase id ∉ [0x4021, 0x5040, 0x6000, 0x6001, 0x7000, 0x7102, 0x8001]) : writeParam id v s = putRw id v s := by
  simp only [writeParam, h, writeRw_plain v s hp]

theorem writeParam_rw {id : Nat} {v : Word} {s : State} (h : accessOf id = .rw)
    (hp : pBase id ∉ [0x4021, 0x5040, 0x6000, 0x6001, 0x7000, 0x7102, 0x8001]) :
    planes (writeParam id v) s = { s with rw := kvSet (pReset id) s.rw id v } := by
  have hw : ∀ u, writeParam id v u = putRw id v u := fun u => writeParam_eq_putRw v u h hp
  exact (planes_quiet (fun e => by simp only [hw, putRw]) (by simp only [hw, putRw])).trans (hw s)

/-- An ID of one access is not one of another. -/
theorem id_ne {id k : Nat} {a : PAccess} (h : accessOf id = a) (hk : accessOf k ≠ a) : id ≠ k := fun he => hk (he ▸ h)

section
variable {o : Origin} {id v : Word} {s : State} (hs : Served s o) (hw : within 0xFFFF id = true)
  (hv : pOk (fld id 15 0) v = true)
include hs hw hv

theorem paramSet_rws (h : accessOf (fld id 15 0) = .rws) (hl : draftLocked s = false) : exec (.paramSet o [id, v]) s =
    .next (answered o 0x05 [] { s with draft := putParam (fld id 15 0) v s.draft }) := by
  rw [paramSet_one rfl hs hw hv (id_ne h (by decide)) (id_ne h (by decide)) (id_ne h (by decide)) (fun _ => hl),
    writeParam_rws h]

theorem paramSet_nv (h : accessOf (fld id 15 0) = .nv) : exec (.paramSet o [id, v]) s =
    .next (answered o 0x05 [] { s with nv := kvSet (pReset (fld id 15 0)) s.nv (fld id 15 0) v }) := by
  rw [paramSet_one rfl hs hw hv (id_ne h (by decide)) (id_ne h (by decide)) (id_ne h (by decide))
    (fun hr => PAccess.noConfusion (h.symm.trans hr)), writeParam_nv h]

theorem paramSet_scratch {k : Nat} (h : fld id 15 0 = k) (hk : accessOf k = .own) (hp : k ≠ 0x0021) :
    exec (.paramSet o [id, v]) s = .next (answered o 0x05 [] (writeOwn k v s)) := by
  subst h
  rw [paramSet_one rfl hs hw hv hp (id_ne hk (by decide)) (id_ne hk (by decide))
    (fun hr => PAccess.noConfusion (hk.symm.trans hr)), writeParam_own hk]

theorem paramSet_rw (h : accessOf (fld id 15 0) = .rw)
    (hp : pBase (fld id 15 0) ∉ [0x4021, 0x5040, 0x6000, 0x6001, 0x7000, 0x7102, 0x8001]) : exec (.paramSet o [id, v]) s =
    .next (answered o 0x05 [] { s with rw := kvSet (pReset (fld id 15 0)) s.rw (fld id 15 0) v }) := by
  have hne : ∀ k, pBase k ∈ [0x4021, 0x5040, 0x6000, 0x6001, 0x7000, 0x7102, 0x8001] → fld id 15 0 ≠ k :=
    fun k hk he => hp (he ▸ hk)
  rw [paramSet_one rfl hs hw hv (id_ne h (by decide)) (hne _ (by decide)) (hne _ (by decide))
    (fun hr => PAccess.noConfusion (h.symm.trans hr)), writeParam_rw h hp]

end

theorem hParamGet_value {p : List Word} (s : State)
    (h : ∀ w ∈ p, within 0x1FFFF w = true ∧ (pRow (fld w 15 0)).isSome = true) : hParamGet.value s p = none := by
  refine List.findIdx?_eq_none_iff.2 fun w hw => ?_
  obtain ⟨hin, hrow⟩ := h w hw
  rw [hin, hrow]
  rfl

/-- Settles O22: the access of the ID decides where the value goes. -/
theorem parameterAccess : Obligations.ParameterAccess := by
  refine ⟨fun o p s hs hl hp => ?get, fun o id v s hs hw hv => ⟨paramSet_rws hs hw hv, paramSet_nv hs hw hv, fun h => ?lo,
    fun h => ?hi, paramSet_rw hs hw hv⟩, fun o p s hs he hl => ⟨fun hf hb hm hc => ?enter, fun i hi => ?fault⟩⟩
  case get => exact hs.answers hParamGet p rfl (hParamGet_value s hp) (decide_eq_true hl)
  case lo => exact paramSet_scratch hs hw hv h (by decide) (by decide)
  case hi => exact paramSet_scratch hs hw hv h (by decide) (by decide)
  case enter => exact paramSet_answers hs hf hb hm hc (by simp [hParamSet, he, hl])
  case fault =>
    have hlen : hParamSet.lenOk p = true := by simp [hParamSet, he, hl]
    exact exec_refused (h := hParamSet) (p := p) rfl hs.2 (answer_badValue hParamSet (hs.passes_step3 _) hlen hi)

/-! ### Writes with rows of their own -/

theorem within_allOnes (w : Word) : within 0xFFFFFFFFFFFFFFFF w = true := by
  have hz : ~~~(0xFFFFFFFFFFFFFFFF : Word) = 0 := by decide
  rw [within, hz]
  exact beq_iff_eq.2 BitVec.and_zero

/-- The row of a volatile or kept parameter that has no rule of its own. -/
theorem paramSet_row {c : Instr} {o : Origin} {v : Word} {s : State} (i : Word) {k : Nat} (hs : Served s o)
    (hv : pOk k v = true) (hw : within 0xFFFF i = true := by decide) (hk : fld i 15 0 = k := by decide)
    (hp : k ∉ [0x0021, 0x7000, 0x7102] := by decide) (hl : accessOf k ≠ .rws := by decide)
    (hx : exec c s = .next (request hParamSet o [i, v] s) := by rfl) :
    exec c s = .next (answered o 0x05 [] (planes (writeParam k v) s)) := by
  simp only [List.mem_cons, List.not_mem_nil, or_false, not_or] at hp
  exact paramSet_one hk hs hw hv hp.1 hp.2.1 hp.2.2 (fun h => absurd h hl) hx

section
variable {o : Origin} {v : Word} {s : State} (hs : Served s o)
include hs

theorem tackProtectWrite_answers (hv : within 0xF v = true) : exec (.tackProtectWrite o v) s =
    .next (answered o 0x05 [] { s with nv := kvSet 0 s.nv 0x0031 v }) := by
  have hok : pOk 0x0031 v = true := pOk_of_row rfl (by decide) hv rfl
  rw [paramSet_row 0x0031 hs hok,
    writeParam_nv (by decide)]
  rfl

theorem uartCfgWrite_answers (hv : within 0x1F v = true) (hr : fld v 3 0 ≤ 7) : exec (.uartCfgWrite o v) s =
    .next (answered o 0x05 [] { s with rw := kvSet 0x14 s.rw 0x9000 v }) := by
  have hok : pOk 0x9000 v = true := pOk_of_row rfl (by decide) hv (decide_eq_true hr)
  rw [paramSet_row 0x9000 hs hok,
    writeParam_rw (by decide) (by decide)]
  rfl

theorem memInitWrite_answers (hv : within 7 v = true) : exec (.memInitWrite o v) s =
    .next (answered o 0x05 [] { s with nv := kvSet 3 s.nv 0x7100 v }) := by
  have hok : pOk 0x7100 v = true := pOk_of_row rfl (by decide) hv rfl
  rw [paramSet_row 0x7100 hs hok,
    writeParam_nv (by decide)]
  rfl

theorem adcCheckWrite_answers (hv : pOk 0x5040 v = true) : exec (.adcCheckWrite o v) s =
    .next (answered o 0x05 [] (planes (writeCheck v) s)) :=
  paramSet_row 0x5040 hs hv

omit hs in
theorem planes_auxKick (v : Word) (s : State) : planes (auxKick v) s =
    if bit v 0 && auxSource (cfgFree s) = 0 then planes auxTrigger s else s := by
  cases h : bit v 0 && decide (auxSource (cfgFree s) = 0)
  · refine (planes_quiet (fun e => ?_) ?_).trans ?_
    · simp only [auxKick, h, Bool.false_eq_true, if_false]
      exact if_neg (by rw [show cfgFree { s with evq := e } = cfgFree s from rfl, h]; exact Bool.false_ne_true)
    · simp only [auxKick, h, Bool.false_eq_true, if_false]
    · simp only [auxKick, h, Bool.false_eq_true, if_false]
  · have hk : auxKick v { s with evq := { s.evq with q := [], logQ := [] } } =
        auxTrigger { s with evq := { s.evq with q := [], logQ := [] } } := if_pos h
    simp only [planes, hk, if_true]

theorem auxSeqKick_answers (hv : within 1 v = true) : exec (.auxSeqKick o v) s = .next (answered o 0x05 []
    (if bit v 0 && auxSource (cfgFree s) = 0 then planes auxTrigger s else s)) := by
  have hok : pOk 0x5801 v = true := pOk_of_row rfl (by decide) hv rfl
  rw [paramSet_row 0x5801 hs hok, ← planes_auxKick]
  rfl

theorem memPlanWrite_answers (hv : within 0xFFFF v = true) (hb : planBusy s = false) (hc : planConflict s v = false) :
    exec (.memPlanWrite o v) s = .next (answered o 0x05 [] (planes (planWrite v) s)) := by
  have hok : pOk 0x7102 v = true := pOk_of_row rfl (by decide) hv rfl
  have hid : pairId (0x7102#64, v) = 0x7102 := by simp [pairId, fld]
  refine paramSet_pair (i := 0x7102) (k := 0x7102) (by decide) hs (by decide) (by decide) hok ?_ rfl ?_
  · have hacc : accessOf 0x7102 = .rw := by decide
    simp [pairBusy, hid, hb, hacc]
  · simpa [pairsConflict, hid, after, planConflict] using hc

/-- Both words of EVT.MASK enter. -/
theorem evtMaskWrite_answers (w : Word) : exec (.evtMaskWrite o v w) s = .next (answered o 0x05 [] { s with
    rw := kvSet 0x8439063071850891 (kvSet 0xA83121B9D1510000 s.rw 0x0050 v) 0x0051 w }) := by
  have hv : pOk 0x0050 v = true := pOk_of_row rfl (by decide) (within_allOnes v) rfl
  have hw : pOk 0x0051 w = true := pOk_of_row rfl (by decide) (within_allOnes w) rfl
  have h0 : ∀ u, writeParam 0x0050 v u = putRw 0x0050 v u := fun u =>
    writeParam_eq_putRw v u (by decide) (by decide)
  have h1 : ∀ u, writeParam 0x0051 w u = putRw 0x0051 w u := fun u =>
    writeParam_eq_putRw w u (by decide) (by decide)
  have i0 : pairId (0x0050#64, v) = 0x0050 := by simp [pairId, fld]
  have i1 : pairId (0x0051#64, w) = 0x0051 := by simp [pairId, fld]
  have henter : ∀ u, enterPairs [(0x0050#64, v), (0x0051#64, w)] u = putRw 0x0051 w (putRw 0x0050 v u) := fun u => by
    simp only [enterPairs, List.foldl_cons, List.foldl_nil, i0, i1, h0, h1]
  have r0 : pReset 0x0050 = 0xA83121B9D1510000 := by decide
  have r1 : pReset 0x0051 = 0x8439063071850891 := by decide
  have hpairs : writePairs [(0x0050#64, v), (0x0051#64, w)] s = { s with
      rw := kvSet 0x8439063071850891 (kvSet 0xA83121B9D1510000 s.rw 0x0050 v) 0x0051 w } := by
    rw [writePairs, planes_quiet (fun e => by simp only [henter, putRw]) (by simp only [henter, putRw]), henter]
    simp only [putRw, r0, r1]
  have hx0 : accessOf 0x0050 = .rw := by decide
  have hx1 : accessOf 0x0051 = .rw := by decide
  have hfault : pairFault s [(0x0050#64, v), (0x0051#64, w)] = none :=
    pairFault_two (by decide) (by decide) (by rw [i0, i1]; decide) (by rw [i0]; decide) (by rw [i1]; decide)
      (by rw [i0]; exact hv) (by rw [i1]; exact hw)
  rw [← hpairs]
  refine paramSet_answers (p := [0x0050#64, v, 0x0051#64, w]) hs hfault ?_ rfl ?_
  · simp [pairs, pairBusy, i0, i1, hx0, hx1]
  · simp [pairs, pairsConflict, i0, i1]

/-- TB.CTRL enters by its own command. -/
theorem tbSelect_answers (hv : pOk 0x6000 v = true) : exec (.tbSelect o [v]) s = .next (answered o 0x62 []
    (tbWritten { s with rw := kvSet 0x03E80006 s.rw 0x6000 v })) :=
  hs.answers hTbSelect [v] rfl (valueRule_of hv)

theorem tdcCfg_answers {w : Word} (hw : within 0xF w = true) (hn : fld w 3 0 ≤ 10)
    (hv : pOk (0x6020 + fld w 3 0) v = true) : exec (.tdcCfg o [w, v]) s =
    .next (answered o 0x63 [] { s with rw := kvSet (pReset (0x6020 + fld w 3 0)) s.rw (0x6020 + fld w 3 0) v }) := by
  refine hs.answers hTdcCfg [w, v] rfl ?_
  simp only [hTdcCfg, wd, List.getD_cons_zero, List.getD_cons_succ, hw, hn, hv, decide_true, Bool.and_self, Bool.not_true,
    Bool.false_eq_true, if_false, if_true]

theorem streamCfg_answers (hv : pOk 0x7000 v = true) (hm : s.mem.usable = true) (hb : streamBusy s v = false)
    (hc : pairsConflict s [(0x7000, v)] = false) :
    exec (.streamCfg o [v]) s = .next (answered o 0x70 [] (planes (writeStreamCfg v) s)) := by
  have hp := hs.passes (h := hStreamCfg) (p := [v]) rfl (valueRule_of hv)
    (badState_eq_false trivial (fun h => Bool.noConfusion h) (fun _ => hm) hb (fun _ h => nomatch h)) rfl
  refine exec_answered (c := .streamCfg o [v]) rfl hp rfl (payload := []) ?_
  have hid : pairId (0x7000#64, v) = 0x7000 := by simp [pairId, fld]
  have hacc : accessOf 0x7000 = .rw := by decide
  have hbase : pBase 0x7000 = 0x7000 := by decide
  have hw : enterPairs [(0x7000#64, v)] = writeStreamCfg v := funext fun u => by
    simp only [enterPairs, List.foldl_cons, List.foldl_nil, hid, writeParam, hacc, writeRw, hbase]
  simp only [hStreamCfg, Handler.plain, runPairs, wd, List.getD_cons_zero, hc, Bool.false_eq_true, if_false, writePairs, ← hw]
  rfl

end

/-! ### CLK.PLL_CFG -/

section
variable {o : Origin} {s : State} (hs : Served s o) (hl : pllLocked s = true) (hch : s.pll.change = none)
include hs hl hch

omit hs hl hch in
/-- The fields of a CLK.PLL_CFG word. -/
theorem pllFields {n m i : Nat} (hn : n < 1024) (hm : m < 4) :
    pllN (mk [(0, 10, n), (10, 2, m), (12, 6, i)]) = n ∧ pllMult (mk [(0, 10, n), (10, 2, m), (12, 6, i)]) = m := by
  have hi : i % 64 < 64 := Nat.mod_lt _ (by decide)
  simp only [pllN, pllMult, mk, fld, List.foldl_cons, List.foldl_nil, BitVec.toNat_ofNat, Nat.reducePow, Nat.reduceAdd,
    Nat.reduceSub]
  omega

omit hs hl hch in
theorem pllMoves_icp (icp : Nat) :
    pllMoves s (mk [(0, 10, pllN s.pll.cfg), (10, 2, pllMult s.pll.cfg), (12, 6, icp)]) = false := by
  have hn : pllN s.pll.cfg < 1024 := Nat.mod_lt _ (by decide)
  have hm : pllMult s.pll.cfg < 4 := Nat.mod_lt _ (by decide)
  obtain ⟨h1, h2⟩ := pllFields (i := icp) hn hm
  simp only [pllMoves, h1, h2, ne_eq, not_true_eq_false, decide_false, Bool.or_false]

omit hs hl hch in
theorem pairBusy_pll {v : Word} (h : pllBusy s v = false) : pairBusy s (0x0021#64, v) = false := by
  have hid : pairId (0x0021#64, v) = 0x0021 := by simp [pairId, fld]
  have hacc : accessOf 0x0021 = .own := by decide
  simp [pairBusy, hid, hacc, h]

theorem pllCfgIcpWrite_answers (icp : BitVec 6)
    (hv : pllOk s (mk [(0, 10, pllN s.pll.cfg), (10, 2, pllMult s.pll.cfg), (12, 6, icp.toNat)]) = true) :
    exec (.pllCfgIcpWrite o icp) s = .next (answered o 0x05 [] { s with pll := { s.pll with
      cfg := mk [(0, 10, pllN s.pll.cfg), (10, 2, pllMult s.pll.cfg), (12, 6, icp.toNat)] } }) := by
  have hm := pllMoves_icp (s := s) icp.toNat
  have hb : pllBusy s (mk [(0, 10, pllN s.pll.cfg), (10, 2, pllMult s.pll.cfg), (12, 6, icp.toNat)]) = false := by
    simp only [pllBusy, hl, hch, hm, Option.isSome_none, Bool.not_true, Bool.or_false, Bool.false_and]
  have hid : pairId (0x0021#64, mk [(0, 10, pllN s.pll.cfg), (10, 2, pllMult s.pll.cfg), (12, 6, icp.toNat)]) = 0x0021 := by
    simp [pairId, fld]
  rw [paramSet_pair (i := 0x0021#64) (k := 0x0021) (by decide) hs (by decide) (by decide) hv (pairBusy_pll hb)
    (by rw [hm, Bool.and_false]) (pairsConflict_plain (by rw [hid]; decide) (by rw [hid]; decide)),
    writeParam_own (by decide)]
  rfl

theorem pllDividerChange_accepted {v : Word} {k : Nat} (hv : pllOk s v = true) (hm : pllMoves s v = true)
    (hq : anyAcquiring s = false) (ha : anyAccumulating s = false) (hr : Room s .pll k) :
    exec (.pllDividerChange o v) s = .next (accepted o 0x05 k (occupy k .pll { s with pll := { s.pll with
      change := some { old := s.pll.cfg, restoring := false }, cfg := v, synced := false, phaseKnown := false } })) := by
  have hid : pairId (0x0021#64, v) = 0x0021 := by simp [pairId, fld]
  have hb : pllBusy s v = false := by
    simp only [pllBusy, hl, hch, hq, ha, Option.isSome_none, Bool.not_true, Bool.or_false, Bool.and_false]
  have hdef : hParamSet.defers s [0x0021#64, v] = some .pll := by
    simp only [hParamSet, movesPll, pairs, hid, hm, decide_true, Bool.and_self, if_true]
  have hbad : hParamSet.bad s o [0x0021#64, v] = false := by
    simp only [hParamSet, pairs, List.any_cons, List.any_nil, pairBusy_pll hb, Bool.or_false]
  have hval : hParamSet.value s [0x0021#64, v] = none := pairFault_one (by decide) (by decide) hv
  have hst := badState_eq_false (h := hParamSet) (o := o) (p := [0x0021#64, v]) (s := s) trivial
    (fun h => Bool.noConfusion h) (fun h => Bool.noConfusion h) hbad (fun r h => by
      rw [hdef] at h
      cases h
      exact hr.2)
  exact exec_accepted (c := .pllDividerChange o v) rfl (hs.passes (by simp [hParamSet]) hval hst rfl) hdef hr.1 rfl

end

/-- Settles O23: each row is a request of one pair, or of two, that its checks let through. -/
theorem ownRowWrites : Obligations.OwnRowWrites :=
  ⟨fun _ _ w _ hs => ⟨tackProtectWrite_answers hs, evtMaskWrite_answers hs w, uartCfgWrite_answers hs,
    memInitWrite_answers hs, memPlanWrite_answers hs, adcCheckWrite_answers hs, auxSeqKick_answers hs, tbSelect_answers hs,
    tdcCfg_answers hs, streamCfg_answers hs⟩,
  fun _ _ hs hl hc => ⟨pllCfgIcpWrite_answers hs hl hc, fun _ _ => pllDividerChange_accepted hs hl hc⟩⟩

end Sys2Proof.Machine
end

section
/-!
SUPPORT. Addresses, the deferred commands (R101, R102), RESET and STANDBY_ENTER as requests.
-/
namespace Sys2Proof.Machine

-- one theorem after the other: the threads of many at once need more memory than the check has
set_option Elab.async false

/-! ### Deferred commands -/

/-- A deferred command with a free slot and its resource: its LENGTH, value and state rules let it through, and it starts. -/
theorem Served.starts {c : Instr} (h : Handler) {o : Origin} (p : List Word) {s t : State} {r : Res} {k : Nat}
    (hs : Served s o) (hroom : Room s r k) (hstart : h.start o p (occupy k r s) = t := by rfl)
    (hv : h.value s p = none := by rfl) (hl : h.lenOk p = true := by rfl) (hbad : h.bad s o p = false := by rfl)
    (hc : exec c s = .next (request h o p s) := by rfl) (hcast : BcastOk h.bcast o := by exact trivial)
    (hcantle : h.cantle = true → s.can.running = true := by exact (fun x => Bool.noConfusion x))
    (hdram : h.dram p = true → s.mem.usable = true := by exact (fun x => Bool.noConfusion x))
    (hdef : h.defers s p = some r := by rfl) (hd : h.denied s p = false := by rfl) :
    exec c s = .next (accepted o h.op k t) :=
  exec_accepted hc (hs.passes hl hv (badState_eq_false hcast hcantle hdram hbad
    fun q hq => by rw [hdef] at hq; cases hq; exact hroom.2) hd) hdef hroom.1 hstart

/-- A deferred command that nothing refuses, with every slot taken (R96 step 9). -/
theorem request_busied {h : Handler} {o : Origin} {p : List Word} {s : State} (hm : MayDefer h o p s)
    (hf : freeSlot s = none) : request h o p s = busied o h.op s := by
  obtain ⟨hr, hst, hl, hv, hb, hd, hdef⟩ := hm
  obtain ⟨r, hr'⟩ := Option.ne_none_iff_exists'.1 hdef
  have hx : answer h false o p s = (reply stBusy 0 [], post evDeferredOverflow h.op s) := by
    simp only [answer, hst, hl, hv, hb, hd, hr', hf, Bool.not_true, Bool.false_eq_true, if_false]
  rw [request, if_pos hr, hx]
  rfl

theorem exec_busied {c : Instr} {h : Handler} {o : Origin} {p : List Word} {s : State}
    (hc : exec c s = .next (request h o p s)) (hm : MayDefer h o p s) (hf : freeSlot s = none) :
    exec c s = .next (busied o h.op s) := hc.trans (congrArg Host.Outcome.next (request_busied hm hf))

/-! ### Addresses -/

section
variable {o : Origin} {w : Word} {s : State} (hs : Served s o)
include hs

theorem chainEnumerate_answers (hw : within 1 w = true) (hb : Broadcast o) : exec (.chainEnumerate o [w]) s =
    .next (answered o 0x18 [enumAdd s.pwr.address 0]
      (if isLast s then { s with pwr := { s.pwr with address := if bit w 0 then 0 else s.pwr.address } }
       else { s with harn := { s.harn with clearDue := bit w 0 } })) := by
  refine hs.answers hChainEnumerate [w] ?_ (maskFault_one_none hw) (hbad := by simp [hChainEnumerate, hb.1])
    (hcast := .inr hb.2)
  simp only [hChainEnumerate, Handler.plain, wd, List.getD_cons_zero]
  cases isLast s
  · rfl
  · cases bit w 0 <;> rfl

theorem chainEnumerate_single (hw : within 1 w = true) (hb : ¬ Broadcast o) :
    exec (.chainEnumerate o [w]) s = .next (refused o 0x18 0x13 0 s) := by
  refine exec_refused (h := hChainEnumerate) (p := [w]) rfl hs.2
    (answer_badState hChainEnumerate (hs.passes_step3 _) rfl (maskFault_one_none hw) ?_)
  obtain ⟨port, addr⟩ := o
  cases port
  · have ha : addr ≠ 62 := fun h => hb ⟨rfl, h⟩
    simp [Handler.badState, hChainEnumerate, ha]
  · simp [Handler.badState, hChainEnumerate]

variable (ho : Single o)

omit hs in
theorem hChainAddrSet_value (hw : within 0x3F w = true) (h1 : 1 ≤ fld w 5 0) (h31 : fld w 5 0 ≤ 31) :
    hChainAddrSet.value s [w] = none := by
  simp only [hChainAddrSet, wd, List.getD_cons_zero, rng, hw, h1, h31, decide_true, Bool.and_self, if_true]

include ho

theorem chainAddrSet_new (hw : within 0x3F w = true) (h1 : 1 ≤ fld w 5 0) (h31 : fld w 5 0 ≤ 31)
    (hne : s.pwr.address.toNat ≠ fld w 5 0) :
    let t := post evAddrAssigned (fld w 5 0) { s with pwr := { s.pwr with address := BitVec.ofNat 6 (fld w 5 0) } }
    exec (.chainAddrSet o [w]) s = .next (answered o 0x19 (identity t (o.port == .uart)) t) := by
  refine hs.answers hChainAddrSet [w] ?_ (hChainAddrSet_value hw h1 h31) (hcast := ho)
  simp only [hChainAddrSet, Handler.plain, wd, List.getD_cons_zero, hne, if_false, setAddress]

theorem chainAddrSet_present (hw : within 0x3F w = true) (h1 : 1 ≤ fld w 5 0) (h31 : fld w 5 0 ≤ 31)
    (he : s.pwr.address.toNat = fld w 5 0) :
    exec (.chainAddrSet o [w]) s = .next (answered o 0x19 (identity s (o.port == .uart)) s) := by
  refine hs.answers hChainAddrSet [w] ?_ (hChainAddrSet_value hw h1 h31) (hcast := ho)
  simp only [hChainAddrSet, Handler.plain, wd, List.getD_cons_zero, he, if_true]

omit ho in
theorem chainAddrSet_bad (hx : fld w 5 0 = 0 ∨ 32 ≤ fld w 5 0) :
    exec (.chainAddrSet o [w]) s = .next (refused o 0x19 0x12 0 s) := by
  refine exec_refused (h := hChainAddrSet) (p := [w]) rfl hs.2
    (answer_badValue hChainAddrSet (hs.passes_step3 _) rfl (if_neg ?_))
  have hr : rng (fld w 5 0) 1 31 = false := by
    rcases hx with hx | hx <;> simp [rng] <;> omega
  simp only [wd, List.getD_cons_zero, hr, Bool.and_false, Bool.false_eq_true, not_false_eq_true]

end

/-- Settles O25: column 62 and the address range decide. -/
theorem addressRequests : Obligations.AddressRequests :=
  ⟨fun _ _ _ hs hw => ⟨chainEnumerate_answers hs hw, chainEnumerate_single hs hw⟩,
    fun _ _ _ hs ho => ⟨chainAddrSet_new hs ho, chainAddrSet_present hs ho, chainAddrSet_bad hs⟩⟩

/-! ### Deferred work -/

/-- Settles O26: each row passes its checks and its work begins; with no slot free each is BUSY. -/
theorem deferredStarts : Obligations.DeferredStarts := by
  refine ⟨fun o w s k hs => ⟨fun hl hr => ?commit, fun hl hr hc hw => ?load, fun hr hc hw hp hl => ?save,
    fun hr hc hw hp => ?erase, fun hr hc hw ho => ?clear, fun hr ho hd => ?measure, fun hr ho hd => ?measureNone⟩,
    fun o s hs hf hc => ⟨fun hl hh => ?busyCommit, fun hh ho w hw => ?busyClear⟩,
    fun o p w v s hf => ?full⟩
  case commit => exact hs.starts hCommit [] hr (hbad := hl)
  case load => exact hs.starts hTackLoad [w] hr (hv := maskFault_one_none hw) (hbad := hl) (hcantle := fun _ => hc)
  case save =>
    refine hs.starts hTackSave [w] hr (hv := maskFault_one_none hw) (hcantle := fun _ => hc) (hd := hp) (hbad := ?_)
    cases hb : bit w 9
    · simp [hTackSave, tackFromDraft, wd, hb]
    · simp [hTackSave, hl hb]
  case erase => exact hs.starts hTackErase [w] hr (hv := maskFault_one_none hw) (hcantle := fun _ => hc) (hd := hp)
  case clear => exact hs.starts hLogClear [w] hr (hv := maskFault_one_none hw) (hcantle := fun _ => hc) (hcast := ho)
  case measure =>
    exact hs.starts hChainDelayMeasure [] hr (hbad := by simp [hChainDelayMeasure, ho])
      (hstart := if_pos (beq_iff_eq.2 hd))
  case measureNone =>
    exact hs.starts hChainDelayMeasure [] hr (hbad := by simp [hChainDelayMeasure, ho])
      (hstart := if_neg (mt beq_iff_eq.1 hd))
  case busyCommit =>
    have hm : MayDefer hCommit o [] s := ⟨hs.2, hs.passes_step3 _, rfl, rfl,
      badState_eq_false trivial (fun x => Bool.noConfusion x) (fun x => Bool.noConfusion x) hl
        (fun r hr => by cases hr; exact hh), rfl, Option.some_ne_none _⟩
    exact exec_busied rfl hm hf
  case busyClear =>
    have hm : MayDefer hLogClear o [w] s := ⟨hs.2, hs.passes_step3 _, rfl, maskFault_one_none hw,
      badState_eq_false ho (fun _ => hc) (fun x => Bool.noConfusion x) rfl
        (fun r hr => by cases hr; exact hh), rfl, Option.some_ne_none _⟩
    exact exec_busied rfl hm hf
  case full =>
    have hfull : ∀ (c : Instr) (h : Handler) (q : List Word), exec c s = .next (request h o q s) →
      MayDefer h o q s → exec c s = .next (busied o h.op s) := fun c h q hc hm => exec_busied hc hm hf
    exact ⟨hfull _ _ _ rfl, hfull _ _ _ rfl, hfull _ _ _ rfl, hfull _ _ _ rfl, hfull _ _ _ rfl, hfull _ _ _ rfl,
      hfull _ _ _ rfl, hfull _ _ _ rfl, hfull _ _ _ rfl, hfull _ _ _ rfl, hfull _ _ _ rfl, hfull _ _ _ rfl,
      hfull _ _ _ rfl, hfull _ _ _ rfl, hfull _ _ _ rfl, hfull _ _ _ rfl, hfull _ _ _ rfl, hfull _ _ _ rfl,
      hfull _ _ _ rfl, hfull _ _ _ rfl, hfull _ _ _ rfl, fun hm =>
      congrArg Host.Outcome.next (request_busied (s := { s with drawn := s.drawn + 1 }) hm hf)⟩

/-! ### RESET and STANDBY_ENTER -/

/-- Word 0 of a RESET without a bit outside LEVEL is its LEVEL. -/
theorem withLevel_eq {w : Word} (hw : w &&& ~~~ (0xFF : Word) = 0) (n : Nat) : withLevel n w = BitVec.ofNat 64 n := by
  rw [withLevel, hw]
  exact BitVec.zero_or

section
variable {o : Origin} {w : Word} {s : State} (hs : ServedAlways s o) (hsoft : s.pwr.soft = none)
  (hw : w &&& ~~~ (0xFF : Word) = 0)
include hs hsoft hw

/-- RESET of level 2 or 3: scheduled, at once. -/
theorem resetHard_answers {n : Nat} {c : Instr} (hn : n = 2 ∨ n = 3) (hh : s.pwr.hard = none)
    (hc : exec c s = .next (request hReset o [withLevel n w] s)) :
    exec c s = .next (answered o 0x03 [] { s with pwr := { s.pwr with hard := some n } }) := by
  rw [withLevel_eq hw] at hc
  have hbad : hReset.bad s o [BitVec.ofNat 64 n] = false := by
    rcases hn with rfl | rfl <;> simp [hReset, hsoft, resetLevel, wd, fld]
  refine hs.answers hReset [BitVec.ofNat 64 n] ?_ (hbad := hbad) (hc := hc) (hv := ?_) (hdef := ?_)
  · rcases hn with rfl | rfl <;> simp [hReset, Handler.plain, Handler.ok, schedule, hh, resetLevel, wd, fld]
  · rcases hn with rfl | rfl <;> rfl
  · rcases hn with rfl | rfl <;> rfl

omit hs hsoft hw in
theorem resetSoft_value {n : Nat} (hn : n = 0 ∨ n = 1) : hReset.value s [BitVec.ofNat 64 n] = none := by
  rcases hn with rfl | rfl <;> rfl

/-- RESET of level 0 or 1 in READY: deferred. -/
theorem resetSoft_accepted {n k : Nat} {c : Instr} (hn : n = 0 ∨ n = 1) (hready : isReady s = true)
    (hr : Room s .reset k) (hc : exec c s = .next (request hReset o [withLevel n w] s)) :
    exec c s = .next (accepted o 0x03 k (beginSoft [BitVec.ofNat 64 n] (occupy k .reset s))) := by
  rw [withLevel_eq hw] at hc
  have hrec : inRecovery s = false := Served.not_inRecovery (o := o) ⟨hready, hs.2⟩
  refine Served.starts hReset [BitVec.ofNat 64 n] ⟨hready, hs.2⟩ hr (hc := hc) (hv := resetSoft_value hn) (hbad := ?_)
    (hdef := ?_)
  · simp [hReset, hsoft, hrec]
  · rcases hn with rfl | rfl <;> rfl

omit hsoft in
/-- RESET of level 0 or 1 in RECOVERY: refused. -/
theorem resetSoft_refused {n : Nat} {c : Instr} (hn : n = 0 ∨ n = 1) (hrec : inRecovery s = true)
    (hc : exec c s = .next (request hReset o [withLevel n w] s)) : exec c s = .next (refused o 0x03 0x13 0 s) := by
  rw [withLevel_eq hw] at hc
  refine exec_refused (h := hReset) hc hs.2 (answer_badState hReset (by simp [hrec, hReset]) rfl
    (resetSoft_value hn) ?_)
  rcases hn with rfl | rfl <;> simp [Handler.badState, hReset, hrec, resetLevel, wd, fld]

end

theorem beginSoft_zero (s : State) : beginSoft [BitVec.ofNat 64 0] s =
    bothSides (fun d t => if acquiring t d then haltSide d t else t) (setPwr (fun x => { x with soft := some 0 }) s) := rfl

theorem beginSoft_one (s : State) : beginSoft [BitVec.ofNat 64 1] s =
    beginLevel1 (setPwr (fun x => { x with soft := some 1 }) s) := by
  have h1 : resetLevel [BitVec.ofNat 64 1] = 1 := by decide
  simp only [beginSoft, h1, Nat.one_ne_zero, if_false]

/-- Settles O27: LEVEL decides between a scheduled and a deferred reset; a timer wake needs its oscillator. -/
theorem resetAndStandbyRequests : Obligations.ResetAndStandbyRequests := by
  refine ⟨fun o w s hs hsoft hw => ⟨fun hh => ?two, fun hh => ?three, fun k hready hr => ?zero, fun k hready hr => ?one,
    fun hrec => ⟨?rec0, ?rec1⟩⟩, fun o w s hs hw => ⟨fun hx => ?enter, fun hne hx => ?refuse⟩⟩
  case two => exact resetHard_answers hs hsoft hw (.inl rfl) hh rfl
  case three => exact resetHard_answers hs hsoft hw (.inr rfl) hh rfl
  case zero =>
    have h := resetSoft_accepted (n := 0) (c := .resetLevel0 o w) hs hsoft hw (.inl rfl) hready hr rfl
    rw [beginSoft_zero] at h
    exact h
  case one =>
    have h := resetSoft_accepted (n := 1) (c := .resetLevel1 o w) hs hsoft hw (.inr rfl) hready hr rfl
    rw [beginSoft_one] at h
    exact h
  case rec0 => exact resetSoft_refused hs hw (.inl rfl) hrec rfl
  case rec1 => exact resetSoft_refused hs hw (.inr rfl) hrec rfl
  case enter =>
    refine hs.answers hStandbyEnter [w] rfl (maskFault_one_none hw) (hbad := ?_)
    rcases hx with hx | hx <;> simp [hStandbyEnter, wd, hx]
  case refuse =>
    refine exec_refused (h := hStandbyEnter) (p := [w]) rfl hs.2
      (answer_badState hStandbyEnter (hs.passes_step3 _) rfl (maskFault_one_none hw) ?_)
    have hsome : s.pwr.xtFault.isSome = true := Option.isSome_iff_ne_none.2 hx
    have hword : ¬ w = 0#64 := hne
    simp [Handler.badState, hStandbyEnter, Handler.plain, wd, hword, hsome]

end Sys2Proof.Machine
end

section
/-!
SUPPORT. Acquisition, triggers, emitter and the shadow converter by request (R138, R167, R241).
-/
namespace Sys2Proof.Machine

-- one theorem after the other: the threads of many at once need more memory than the check has
set_option Elab.async false

/-! ### Commands that need Cantle or the DRAM -/

/-- An immediate command whose marks C and M the state meets. -/
theorem Served.answersWith {c : Instr} (h : Handler) {o : Origin} (p : List Word) {s t : State} {payload : List Word}
    (hs : Served s o) (hrun : h.run o p s = (okReply payload, t)) (hv : h.value s p = none)
    (hl : h.lenOk p = true) (hbad : h.bad s o p = false) (hcantle : h.cantle = true → s.can.running = true)
    (hdram : h.dram p = true → s.mem.usable = true) (hc : exec c s = .next (request h o p s) := by rfl)
    (hcast : BcastOk h.bcast o := by exact trivial) (hdef : h.defers s p = none := by rfl)
    (hd : h.denied s p = false := by rfl) : exec c s = .next (answered o h.op payload t) :=
  exec_answered hc (hs.passes hl hv (badState_eq_false hcast hcantle hdram hbad (fun r hr => by rw [hdef] at hr; cases hr)) hd)
    hdef hrun

/-! ### Fields of a word of which one is given -/

/-- A field outside the one that is given stands. -/
theorem fld_given {m a w : Word} {hi lo : Nat} (hm : (~~~m).extractLsb' lo (hi + 1 - lo) = BitVec.allOnes _)
    (ha : a.extractLsb' lo (hi + 1 - lo) = 0#_) : fld ((w &&& ~~~m) ||| a) hi lo = fld w hi lo := by
  rw [fld_eq_extract, BitVec.extractLsb'_or, BitVec.extractLsb'_and, hm, ha, BitVec.and_allOnes, BitVec.or_zero,
    ← fld_eq_extract]

/-- The field that is given. -/
theorem fld_of_given {m a w : Word} {hi lo : Nat} (hm : (~~~m).extractLsb' lo (hi + 1 - lo) = 0#_) :
    fld ((w &&& ~~~m) ||| a) hi lo = fld a hi lo := by
  rw [fld_eq_extract, BitVec.extractLsb'_or, BitVec.extractLsb'_and, hm, BitVec.and_zero, BitVec.zero_or, ← fld_eq_extract]

theorem within_iff {mask w : Word} : within mask w = true ↔ w &&& ~~~mask = 0 := beq_iff_eq

theorem within_given {mask m a w : Word} (hw : within mask w = true) (ha : within mask a = true) :
    within mask ((w &&& ~~~m) ||| a) = true := by
  rw [within_iff] at *
  rw [BitVec.and_or_distrib_right, BitVec.and_assoc, BitVec.and_comm (~~~m), ← BitVec.and_assoc, hw, ha]
  simp

/-! ### Sides -/

theorem sidesFault_none {mask w : Word} (hw : within mask w = true) (hn : fld w 1 0 ≠ 0) : sidesFault mask [w] = none := by
  simp only [sidesFault, wd, List.getD_cons_zero, hn, if_false]
  exact maskFault_one_none hw

section
variable {o : Origin} {w : Word} {s : State} (hs : Served s o)
include hs

theorem acqStart_answers (hw : within 3 w = true) (hn : fld w 1 0 ≠ 0) (hm : s.mem.usable = true)
    (hp : pllLocked s = true) (hd : ∀ d, namesSide w d = true →
      acquiring s d = false ∧ (s.lash.get d).enabled = true ∧ scanOf (cfgOf s d) d ≠ [])
    (ho : overload s (cfgOf s .a) (cfgOf s .b) (namesSide w .a || acquiring s .a) (namesSide w .b || acquiring s .b) = false) :
    exec (.acqStart o [w]) s = .next (answered o 0x30 []
      (planes (bothSides (fun d t => if namesSide w d then startAcq d t else t)) s)) := by
  have hbusy : ∀ d, (namesSide w d &&
      (acquiring s d || !(s.lash.get d).enabled || scanOf (cfgOf s d) d == [])) = false := fun d => by
    cases hx : namesSide w d
    · rfl
    · obtain ⟨h1, h2, h3⟩ := hd d hx
      simp [h1, h2, h3]
  refine hs.answersWith hAcqStart [w] ?_ (sidesFault_none hw hn) rfl ?_ (fun x => Bool.noConfusion x) (fun _ => hm)
  · simp only [hAcqStart, Handler.plain, wd, List.getD_cons_zero, ho, Bool.false_eq_true, if_false]
    rfl
  · simp only [hAcqStart, wd, List.getD_cons_zero, hp, List.any_cons, List.any_nil, hbusy, Bool.not_true, Bool.or_false]

theorem force_answers (hw : within 0xFF03 w = true) (hn : fld w 1 0 ≠ 0) :
    let t := bothSides (fun d t => if namesSide w d then
      sideTrigger (Trigger.own 5 (fld w 15 8) (nsOfTag (now s)) 0) d trigForce t else t) s
    exec (.force o [w]) s = .next (answered o 0x34 [BitVec.ofNat 64 (t.girth.used - s.girth.used)] t) :=
  hs.answers hForce [w] rfl (sidesFault_none hw hn)

end

section
variable {o : Origin} {p : List Word} {s : State} {k : Nat} (hs : Served s o) (hm : s.mem.usable = true)
include hs hm

theorem baselineCapture_accepted (hl : p.length = 1) (hw : within 0xFFFF0007 (wd p 0) = true)
    (hg : fld (wd p 0) 31 16 ≠ 0) (ha : acquiring s (routeSide (fld (wd p 0) 2 0)) = true)
    (hr : (scanRoutes (cfgOf s (routeSide (fld (wd p 0) 2 0))) (routeSide (fld (wd p 0) 2 0))).contains (fld (wd p 0) 2 0) = true)
    (hroom : Room s (.baseline (fld (wd p 0) 2 0)) k) :
    exec (.baselineCapture o p) s = .next (accepted o 0x27 k (setBase (fld (wd p 0) 2 0) (fun b =>
      if b.state = 1 then { b with later := b.later ++ [fld (wd p 0) 31 16] }
      else { b with prior := b.state, state := 1, since := s.tb.mono, want := fld (wd p 0) 31 16, done := 0, sums := [] })
      (occupy k (.baseline (fld (wd p 0) 2 0)) s))) := by
  refine hs.starts hBaselineCapture p hroom (hl := decide_eq_true hl) (hdram := fun _ => hm) (hv := ?_) (hbad := ?_)
  · simp only [hBaselineCapture, captureGroups, hw, ne_eq, hg, not_false_eq_true, decide_true, Bool.and_self, if_true]
  · simp only [hBaselineCapture, captureRoute, ha, hr, hroom.2, Bool.not_true, Bool.or_false]

theorem historyDump_accepted (hl : p.length = 4) (hf : dumpFault s p = none) (ho : dumpsOpen s p = false)
    (hz : let c := cfgOf s (zoneSide (cfgFree s) (fld (wd p 0) 8 0))
      zoneDefined c (fld (wd p 0) 8 0) = true ∧ zoneAcoustic c (fld (wd p 0) 8 0) = true ∧
        zoneHistory c (fld (wd p 0) 8 0) = true) (hroom : Room s .history k) :
    exec (.historyDump o p) s = .next (accepted o 0x37 k (startDump p (occupy k .history s))) := by
  obtain ⟨h1, h2, h3⟩ := hz
  refine hs.starts hHistoryDump p hroom (hl := decide_eq_true hl) (hdram := fun _ => hm) (hv := hf) (hbad := ?_)
  simp only [hHistoryDump, h1, h2, h3, ho, Bool.and_self, Bool.not_true, Bool.or_false]

end

/-- Settles O28: the sides that a request names are acted on, A before B. -/
theorem acquisitionRequests : Obligations.AcquisitionRequests :=
  ⟨fun _ _ _ hs => ⟨acqStart_answers hs, fun hw hn =>
      ⟨hs.answers hAcqStop [_] rfl (sidesFault_none hw hn), hs.answers hArm [_] rfl (sidesFault_none hw hn),
        hs.answers hDisarm [_] rfl (sidesFault_none hw hn)⟩, force_answers hs⟩,
    fun _ _ _ _ hs hm => ⟨baselineCapture_accepted hs hm, historyDump_accepted hs hm⟩⟩

/-! ### Emitter -/

@[simp] theorem Both.set_set {α : Type} (x : Both α) (d : Side) (v w : α) : (x.set d v).set d w = x.set d w := by
  cases d <;> rfl

theorem setLash_setLash (d : Side) (f g : Lash → Lash) (s : State) :
    setLash d f (setLash d g s) = setLash d (fun l => f (g l)) s := by
  simp only [setLash, Both.get_set_same, Both.set_set]

section
variable {o : Origin} {w : Word} {s : State} (hs : Served s o)
include hs

theorem emitEnable_on (hw : within 0xF03 w = true) (hb : bit w 1 = true) (hl : s.pwr.laserEn = true)
    (hd : (s.lash.get (sideOf (fld w 0 0))).dacFault = false) : exec (.emitEnable o [w]) s = .next (answered o 0x43 []
      (emitOn (sideOf (fld w 0 0)) (aprClear (sideOf (fld w 0 0)) (fld w 11 8) s))) := by
  refine hs.answers hEmitEnable [w] ?_ (maskFault_one_none hw) (hbad := ?_)
  · simp only [hEmitEnable, Handler.plain, Handler.ok, wd, List.getD_cons_zero, hb, if_true, wordSide]
  · simp only [hEmitEnable, wd, List.getD_cons_zero, hb, if_true, wordSide, hl, hd, Bool.not_true, Bool.or_false]

theorem emitEnable_off (hw : within 0xF03 w = true) (hb : bit w 1 = false)
    (ha : acquiring s (sideOf (fld w 0 0)) = false) : exec (.emitEnable o [w]) s = .next (answered o 0x43 []
      (emitOff (sideOf (fld w 0 0)) 0 (aprClear (sideOf (fld w 0 0)) (fld w 11 8) s))) := by
  refine hs.answers hEmitEnable [w] ?_ (maskFault_one_none hw) (hbad := ?_)
  · simp only [hEmitEnable, Handler.plain, Handler.ok, wd, List.getD_cons_zero, hb, Bool.false_eq_true, if_false, wordSide]
  · simp only [hEmitEnable, wd, List.getD_cons_zero, hb, Bool.false_eq_true, if_false, wordSide, ha]

omit hs in
/-- A word with its ACTION given keeps its SIDE. -/
theorem wordSide_withAct2 {a : Nat} (ha : a < 3) : wordSide (withAct2 a w) = sideOf (fld w 0 0) := by
  have ha' : a = 0 ∨ a = 1 ∨ a = 2 := by omega
  rcases ha' with rfl | rfl | rfl <;> exact congrArg sideOf (fld_given (by decide) (by decide))

omit hs in
theorem hLockSet_value {a : Nat} (ha : a < 3) (hw : within 0xFFFFFFFF0007 w = true) :
    hLockSet.value s [withAct2 a w] = none := by
  have hin : within 0xFFFFFFFF0007 (withAct2 a w) = true :=
    within_given hw (by have ha' : a = 0 ∨ a = 1 ∨ a = 2 := by omega
                        rcases ha' with rfl | rfl | rfl <;> decide)
  have hne : fld (withAct2 a w) 2 1 ≠ 3 := by rw [fld_withAct2 w (by omega)]; omega
  simp only [hLockSet, wd, List.getD_cons_zero, hin, hne, ne_eq, not_false_eq_true, decide_true, Bool.and_self, if_true]

/-- LOCK_SET with an ACTION: what it does to the outputs of its side. -/
theorem lockSet_answers {c : Instr} {a : Nat} {f : Lash → Lash} (ha : a < 3) (hw : within 0xFFFFFFFF0007 w = true)
    (hf : lockAct (withAct2 a w) s = setLash (sideOf (fld w 0 0)) f s)
    (hc : exec c s = .next (request hLockSet o [withAct2 a w] s)) :
    exec c s = .next (answered o 0x44 [] (setLash (sideOf (fld w 0 0)) f s)) :=
  hs.answers hLockSet [withAct2 a w] (congrArg (Prod.mk (okReply [])) hf) (hLockSet_value ha hw) (hc := hc)

omit hs in
theorem lockAct_off : lockAct (withAct2 0 w) s = setLash (sideOf (fld w 0 0)) (fun l => { l with
    tecDriven := true, wl := .off
    lbias := if s.pwr.laserEn then clampTo (lbiasLimits s (sideOf (fld w 0 0))) l.lbias else 0
    tec := clampTo (tecLimits s (sideOf (fld w 0 0))) l.tec }) s := by
  simp only [lockAct, wordSide_withAct2 (w := w) (show 0 < 3 by omega), fld_withAct2 w (show 0 < 4 by omega), clampOutputs,
    setLash_setLash]
  rfl

omit hs in
theorem lockAct_on : lockAct (withAct2 1 w) s = setLash (sideOf (fld w 0 0)) (fun l => { l with
    tecDriven := true, wl := .acquiring
    lbias := if s.pwr.laserEn then clampTo (lbiasLimits s (sideOf (fld w 0 0))) l.lbias else 0
    tec := clampTo (tecLimits s (sideOf (fld w 0 0))) l.tec }) s := by
  simp only [lockAct, wordSide_withAct2 (w := w) (show 1 < 3 by omega), fld_withAct2 w (show 1 < 4 by omega), clampOutputs,
    setLash_setLash]
  rfl

omit hs in
theorem lockAct_manual : lockAct (withAct2 2 w) s = setLash (sideOf (fld w 0 0)) (fun l => { l with
    tecDriven := true, wl := .manual
    lbias := if s.pwr.laserEn then clampTo (lbiasLimits s (sideOf (fld w 0 0))) (BitVec.ofNat 16 (fld w 31 16)) else 0
    tec := clampTo (tecLimits s (sideOf (fld w 0 0))) (BitVec.ofNat 16 (fld w 47 32)) }) s := by
  have h1 : fld (withAct2 2 w) 31 16 = fld w 31 16 := fld_given (by decide) (by decide)
  have h2 : fld (withAct2 2 w) 47 32 = fld w 47 32 := fld_given (by decide) (by decide)
  simp only [lockAct, wordSide_withAct2 (w := w) (show 2 < 3 by omega), fld_withAct2 w (show 2 < 4 by omega), clampOutputs,
    setLash_setLash, h1, h2]
  rfl

omit hs in
theorem hEmitDiag_value {a : Nat} (ha : a < 2) (hw : within 7 w = true) : hEmitDiag.value s [withAct2 a w] = none := by
  have hin : within 7 (withAct2 a w) = true :=
    within_given hw (by have ha' : a = 0 ∨ a = 1 := by omega
                        rcases ha' with rfl | rfl <;> decide)
  have hle : fld (withAct2 a w) 2 1 ≤ 1 := by rw [fld_withAct2 w (by omega)]; omega
  simp only [hEmitDiag, wd, List.getD_cons_zero, hin, hle, decide_true, Bool.and_self, if_true]

theorem emitDiagRead_answers (hw : within 7 w = true) : exec (.emitDiagRead o w) s = .next (answered o 0x45
    [emitStatus s (sideOf (fld w 0 0)), four (s.lash.get (sideOf (fld w 0 0))).energies 0,
      four (s.lash.get (sideOf (fld w 0 0))).energies 4, four (s.lash.get (sideOf (fld w 0 0))).trims 0,
      four (s.lash.get (sideOf (fld w 0 0))).trims 4] s) := by
  refine hs.answers hEmitDiag [withAct2 0 w] ?_ (hEmitDiag_value (by omega) hw) (hbad := ?_) (hdef := ?_)
  · simp only [hEmitDiag, Handler.plain, wd, List.getD_cons_zero, wordSide_withAct2 (w := w) (show 0 < 3 by omega)]
  · simp [hEmitDiag, wd, fld_withAct2 w (show 0 < 4 by omega)]
  · simp [hEmitDiag, wd, fld_withAct2 w (show 0 < 4 by omega)]

omit hs in
/-- A proof pulse that is due begins, or waits. -/
theorem startProof_due (d : Side) (he : (s.lash.get d).enabled = true) :
    startProof d (setLash d (fun l => { l with proofDue := true }) s) =
      if acquiring s d || (s.lash.get d).pulse.isSome || !s.pwr.laserEn then setLash d (fun l => { l with proofDue := true }) s
      else setLash d (fun l => { l with
        pulse := some (proofCurrent (cfgOf s d) d), pulseAt := s.tb.mono, proof := true, cut := false
        proofOff := false, proofDue := false }) s := by
  have hc : ∀ a b c : Bool, (true && true && c && !b && !a) = !(a || b || !c) := by decide
  have hcond : (let l := (setLash d (fun l => { l with proofDue := true }) s).lash.get d
      l.proofDue && l.enabled && s.pwr.laserEn && l.pulse.isNone && !acquiring s d) =
      !(acquiring s d || (s.lash.get d).pulse.isSome || !s.pwr.laserEn) := by
    simp only [setLash_lash, Both.get_set_same, he, ← hc, Option.not_isSome]
  have hb : beginProof d (setLash d (fun l => { l with proofDue := true }) s) = setLash d (fun l => { l with
      pulse := some (proofCurrent (cfgOf s d) d), pulseAt := s.tb.mono, proof := true, cut := false
      proofOff := false, proofDue := false }) s := setLash_setLash ..
  rw [← hb]
  cases hx : acquiring s d || (s.lash.get d).pulse.isSome || !s.pwr.laserEn
  · rw [hx] at hcond
    exact if_pos hcond
  · rw [hx] at hcond
    exact if_neg fun h => absurd (hcond.symm.trans h) (by decide)

theorem emitDiagProof_accepted {k : Nat} (hw : within 7 w = true)
    (he : (s.lash.get (sideOf (fld w 0 0))).enabled = true) (hroom : Room s (.proof (sideOf (fld w 0 0))) k) :
    let d := sideOf (fld w 0 0)
    exec (.emitDiagProof o w) s = .next (accepted o 0x45 k
      (if acquiring s d || (s.lash.get d).pulse.isSome || !s.pwr.laserEn then
          setLash d (fun l => { l with proofDue := true }) (occupy k (.proof d) s)
        else setLash d (fun l => { l with
            pulse := some (proofCurrent (cfgOf s d) d), pulseAt := s.tb.mono, proof := true, cut := false
            proofOff := false, proofDue := false })
          (occupy k (.proof d) s))) := by
  have hd := wordSide_withAct2 (w := w) (show 1 < 3 by omega)
  have ha := fld_withAct2 w (show 1 < 4 by omega)
  refine hs.starts hEmitDiag [withAct2 1 w] hroom (hv := hEmitDiag_value (by omega) hw) (hstart := ?_) (hbad := ?_)
    (hdef := ?_)
  · simp only [hEmitDiag, wd, List.getD_cons_zero, hd]
    exact startProof_due (s := occupy k (.proof (sideOf (fld w 0 0))) s) _ he
  · simp only [hEmitDiag, wd, List.getD_cons_zero, ha, hd, he, Bool.not_true, Bool.and_false]
  · simp only [hEmitDiag, wd, List.getD_cons_zero, ha, hd, if_true]

end

/-! ### The shadow converter -/

theorem checkAction_withAction (w : Word) {a : Nat} (ha : a ≤ 3) : checkAction (withAction a w) = a := by
  have hcases : a = 0 ∨ a = 1 ∨ a = 2 ∨ a = 3 := by omega
  exact (fld_of_given (by decide)).trans (by rcases hcases with rfl | rfl | rfl | rfl <;> decide)

theorem checkTarget_withAction (w : Word) {a : Nat} (ha : a ≤ 3) :
    checkTarget (withAction a w) = (fld w 10 8, fld w 15 12) := by
  have hcases : a = 0 ∨ a = 1 ∨ a = 2 ∨ a = 3 := by omega
  refine Prod.ext ?_ ?_
  · exact fld_given (by decide) (by rcases hcases with rfl | rfl | rfl | rfl <;> decide)
  · exact fld_given (by decide) (by rcases hcases with rfl | rfl | rfl | rfl <;> decide)

/-- What an ACTION does to the slice of word 1. -/
theorem checkAct_withAction (w : Word) {a : Nat} (ha : a ≤ 3) (s : State) : checkAct (withAction a w) s =
    if a = 1 then retireSlice (fld w 10 8) (fld w 15 12) s else if a = 2 then restoreSlice (fld w 10 8) (fld w 15 12) s
    else if a = 3 then clearVerdicts s else s := by
  have hcases : a = 0 ∨ a = 1 ∨ a = 2 ∨ a = 3 := by omega
  simp only [checkAct, checkAction_withAction w ha, checkTarget_withAction w ha]
  rcases hcases with rfl | rfl | rfl | rfl <;> rfl

section
variable {o : Origin} {v w : Word} {s : State} (hs : Served s o) (hv : pOk 0x5040 v = true)
  (hw : within 0xF707 w = true) (ht : fld w 15 12 ≤ 9)
include hs hv hw ht

/-- ADC_CHECK_SET with an ACTION that its slice allows. -/
theorem adcCheckSet_answers {c : Instr} {a : Nat} (ha : a ≤ 3)
    (hret : a = 1 → (lane s (fld w 10 8)).retired.getLsbD (fld w 15 12) = false ∧
      ((lane s (fld w 10 8)).live (fld w 15 12) = true → (lane s (fld w 10 8)).spares.filter (· ≠ fld w 15 12) ≠ []))
    (hres : a = 2 → (lane s (fld w 10 8)).retired.getLsbD (fld w 15 12) = true)
    (hc : exec c s = .next (request hAdcCheckSet o [v, withAction a w] s)) :
    exec c s = .next (answered o 0x54 [] (if a = 1 then retireSlice (fld w 10 8) (fld w 15 12) (writeCheck v s)
      else if a = 2 then restoreSlice (fld w 10 8) (fld w 15 12) (writeCheck v s)
      else if a = 3 then clearVerdicts (writeCheck v s) else writeCheck v s)) := by
  have hcases : a = 0 ∨ a = 1 ∨ a = 2 ∨ a = 3 := by omega
  have hin : within 0xF707 (withAction a w) = true :=
    within_given hw (by rcases hcases with rfl | rfl | rfl | rfl <;> decide)
  have hact := checkAction_withAction w ha
  have htarget := checkTarget_withAction w ha
  rw [← checkAct_withAction w ha]
  refine hs.answers hAdcCheckSet [v, withAction a w] ?_ ?_ (hbad := ?_) (hc := hc)
  · simp only [hAdcCheckSet, Handler.plain, wd, List.getD_cons_zero, List.getD_cons_succ, hact, htarget]
    refine if_neg fun h => ?_
    simp only [Bool.and_eq_true, decide_eq_true_eq] at h
    obtain ⟨⟨h1, hlive⟩, hsp⟩ := h
    exact (hret h1).2 hlive hsp
  · simp only [hAdcCheckSet, wd, List.getD_cons_zero, List.getD_cons_succ, hv, hin, hact, htarget, ha, ht, decide_true,
      Bool.and_self, Bool.not_true, Bool.false_eq_true, if_false]
  · simp only [hAdcCheckSet, wd, List.getD_cons_zero, List.getD_cons_succ, hact, htarget]
    rcases hcases with rfl | rfl | rfl | rfl
    · rfl
    · rw [(hret rfl).1]; rfl
    · rw [hres rfl]; rfl
    · rfl

end

/-- Settles O29: each request passes its checks, and its run acts on the side or the slice it names. -/
theorem emitterRequests : Obligations.EmitterRequests := by
  refine ⟨fun o w s hs => ⟨emitEnable_on hs, emitEnable_off hs, fun hw => ⟨?off, ?on, ?manual⟩, fun hw =>
    ⟨emitDiagRead_answers hs hw, fun k => emitDiagProof_accepted hs hw⟩⟩, fun o v w s hs hv hw ht =>
    ⟨?none, ?clear, fun hr hsp => ?retire, fun hr => ?restore⟩⟩
  case off => exact lockSet_answers hs (by omega) hw lockAct_off rfl
  case on => exact lockSet_answers hs (by omega) hw lockAct_on rfl
  case manual => exact lockSet_answers hs (by omega) hw lockAct_manual rfl
  case none => exact adcCheckSet_answers (a := 0) hs hv hw ht (by omega) (by omega) (by omega) rfl
  case clear => exact adcCheckSet_answers (a := 3) hs hv hw ht (by omega) (by omega) (by omega) rfl
  case retire => exact adcCheckSet_answers (a := 1) hs hv hw ht (by omega) (fun _ => ⟨hr, hsp⟩) (by omega) rfl
  case restore => exact adcCheckSet_answers (a := 2) hs hv hw ht (by omega) (by omega) (fun _ => hr) rfl

end Sys2Proof.Machine
end

section
/-!
SUPPORT. Time, Awl, stream, Lace and memory by request (R279, R284, R312, R343, R351).
-/
namespace Sys2Proof.Machine

-- one theorem after the other: the threads of many at once need more memory than the check has
set_option Elab.async false

/-! ### Time -/

/-- A word of which only the given field may be set is that field. -/
theorem given_eq {w m : Word} (hw : w &&& ~~~m = 0) (a : Word) : (w &&& ~~~m) ||| a = a := by
  rw [hw]
  exact BitVec.zero_or

theorem timeMode_ofNat (tag : Word) {m : Nat} (hm : m < 4) : timeMode [tag, BitVec.ofNat 64 m] = m := by
  have hcases : m = 0 ∨ m = 1 ∨ m = 2 ∨ m = 3 := by omega
  rcases hcases with rfl | rfl | rfl | rfl <;> simp [timeMode, wd, fld]

section
variable {o : Origin} {tag w : Word} {s : State} (hs : Served s o) (ht : tagOk tag = true) (hw : w &&& ~~~ (3 : Word) = 0)

include ht in
theorem hTimeSet_value {m : Nat} (hm : m < 3) (hf : m = 1 → fld tag 29 0 = 0) :
    hTimeSet.value s [tag, BitVec.ofNat 64 m] = none := by
  have hin : within 3 (BitVec.ofNat 64 m) = true := by
    have hcases : m = 0 ∨ m = 1 ∨ m = 2 := by omega
    rcases hcases with rfl | rfl | rfl <;> decide
  have hfrac : (decide (m = 1) && decide (fld tag 29 0 ≠ 0)) = false := by
    by_cases h : m = 1
    · simp [h, hf h]
    · simp [h]
  simp only [hTimeSet, timeMode_ofNat tag (show m < 4 by omega), wd, List.getD_cons_zero, List.getD_cons_succ, ht, hfrac,
    hin, ne_eq, show ¬ m = 3 by omega, not_false_eq_true, decide_true, Bool.and_self, Bool.not_true, Bool.or_false,
    Bool.false_eq_true, if_false]

include hs ht hw

theorem timeSetImmediate_answers (hh : held s .loader = false) : exec (.timeSetImmediate o tag w) s =
    .next (answered o 0x60 [] (stepTo (nsOfTag tag * 2 ^ 32) true s)) := by
  have hc : exec (.timeSetImmediate o tag w) s = .next (request hTimeSet o [tag, BitVec.ofNat 64 0] s) := by
    rw [← given_eq hw (BitVec.ofNat 64 0)]
    rfl
  have hm := timeMode_ofNat tag (show 0 < 4 by omega)
  refine hs.answers hTimeSet [tag, BitVec.ofNat 64 0] rfl (hTimeSet_value ht (by omega) (by omega)) (hc := hc) (hbad := ?_)
    (hdef := ?_)
  · simp only [hTimeSet, hm, hh]; rfl
  · simp only [hTimeSet, hm]; rfl

theorem timeSetNextPps_accepted {k : Nat} (hf : fld tag 29 0 = 0) (hp : s.tb.ppsUp = true) (hroom : Room s .loader k) :
    exec (.timeSetNextPps o tag w) s =
      .next (accepted o 0x60 k (occupy k .loader { s with tb := { s.tb with loader := some (.nextPps tag) } })) := by
  have hc : exec (.timeSetNextPps o tag w) s = .next (request hTimeSet o [tag, BitVec.ofNat 64 1] s) := by
    rw [← given_eq hw (BitVec.ofNat 64 1)]
    rfl
  have hm := timeMode_ofNat tag (show 1 < 4 by omega)
  refine hs.starts hTimeSet [tag, BitVec.ofNat 64 1] hroom (hv := hTimeSet_value ht (by omega) (fun _ => hf)) (hc := hc)
    (hstart := ?_) (hbad := ?_) (hdef := ?_)
  · simp only [hTimeSet, hm]; rfl
  · simp only [hTimeSet, hm, hp, hroom.2]; rfl
  · simp only [hTimeSet, hm]; rfl

theorem timeSetChainSync_accepted {k : Nat} (ho : o.port = .harness) (hl : lineSyncOn s = true)
    (hroom : Room s .loader k) : exec (.timeSetChainSync o tag w) s =
      .next (accepted o 0x60 k (occupy k .loader { s with tb := { s.tb with loader := some (.chainSync tag) } })) := by
  have hc : exec (.timeSetChainSync o tag w) s = .next (request hTimeSet o [tag, BitVec.ofNat 64 2] s) := by
    rw [← given_eq hw (BitVec.ofNat 64 2)]
    rfl
  have hm := timeMode_ofNat tag (show 2 < 4 by omega)
  refine hs.starts hTimeSet [tag, BitVec.ofNat 64 2] hroom (hv := hTimeSet_value ht (by omega) (by omega)) (hc := hc)
    (hstart := ?_) (hbad := ?_) (hdef := ?_)
  · simp only [hTimeSet, hm]; rfl
  · simp only [hTimeSet, hm, ho, hl, hroom.2]; rfl
  · simp only [hTimeSet, hm]; rfl

end

/-- Two changes of an entry are the same where they agree on the entry that stands there. -/
theorem modify_congr_at {α : Type} {f g : α → α} {l : List α} {n : Nat} {d : α} (h : f (l.getD n d) = g (l.getD n d)) :
    l.modify n f = l.modify n g := by
  refine List.ext_getElem? fun i => ?_
  rw [List.getElem?_modify, List.getElem?_modify]
  cases hx : l[i]? with
  | none => rfl
  | some x =>
    by_cases hi : n = i
    · subst hi
      rw [List.getD_eq_getElem?_getD, hx, Option.getD_some] at h
      simp [h]
    · simp [hi]

theorem tdcRead_answers {o : Origin} {w : Word} {s : State} (hs : Served s o) (ho : Single o)
    (hw : within 0x10F0F w = true) (hn : fld w 3 0 ≤ 10) :
    let a := awlIn s (fld w 3 0)
    let k := min (fld w 11 8) a.queue.length
    let left := if bit w 16 then [] else a.queue.drop k
    exec (.tdcRead o [w]) s = .next (answered o 0x64
      (mk [(0, 16, k), (16, 16, a.queue.length - k), (32, 16, a.ovf), (48, 16, a.deadMiss)] ::
        (a.queue.take k).flatMap TdcEntry.words)
      { s with awl := s.awl.modify (fld w 3 0) fun a => { a with
          queue := left, ovf := if bit w 16 then 0 else a.ovf, deadMiss := if bit w 16 then 0 else a.deadMiss
          ovfUp := a.ovfUp && left ≠ [] } }) := by
  intro a k left
  refine hs.answers hTdcRead [w] ?_ (valueRule_of (by simpa [wd] using ⟨hw, hn⟩)) (hcast := ho)
  refine Prod.ext rfl ?_
  simp only [hTdcRead, Handler.plain, wd, List.getD_cons_zero, setAwl, upd]
  congr 1
  exact modify_congr_at (d := AwlInput.init) rfl

/-- Settles O30: MODE decides when the counter is set; the entry of the input named is changed alone. -/
theorem timeRequests : Obligations.TimeRequests :=
  ⟨fun _ _ _ _ hs ht hw hh => ⟨timeSetImmediate_answers hs ht hw hh, fun _ => timeSetNextPps_accepted hs ht hw,
    fun _ => timeSetChainSync_accepted hs ht hw⟩, fun _ _ _ hs ho hw hn => tdcRead_answers hs ho hw hn⟩

/-! ### Stream -/

section
variable {o : Origin} {s : State} {k : Nat} (hs : Served s o) (hm : s.mem.usable = true) (hon : streamOn s = true)
  (hroom : Room s .stream k)
include hs hm hon hroom

theorem streamTrain_accepted {t : State} (ht : startTraining (occupy k .stream s) = t) :
    exec (.streamTrain o []) s = .next (accepted o 0x71 k t) :=
  hs.starts hStreamTrain [] hroom (hdram := fun _ => hm) (hbad := by simp [hStreamTrain, hon]) (hstart := ht)

end

theorem startTraining_down {s : State} (h : s.strm.state = .down) : startTraining s = beginTraining s := by
  simp only [startTraining, h]

theorem startTraining_up {s : State} (h : s.strm.state = .up) : startTraining s =
    if inProgress s then setStrm (fun t => { t with trainWait := true }) s else beginTraining (post evStreamDown 2 s) := by
  simp only [startTraining, h]

/-! ### Lace -/

theorem setChan_setChan (n : Nat) (f g : DmaChan → DmaChan) (s : State) :
    setChan n f (setChan n g s) = setChan n (fun c => f (g c)) s := by
  simp only [setChan, upd, List.modify_modify_eq]
  rfl

/-- An abort holds nothing that another abort wants. -/
theorem held_dmaAbort (s : State) (n : Nat) : held s (.dmaAbort n) = false := by
  refine List.any_eq_false.2 fun x _ => ?_
  cases x with
  | running q => cases q <;> simp [Res.clash]
  | _ => simp

theorem held_memRead (s : State) (a n : Nat) : held s (.memRead a n) = false := by
  refine List.any_eq_false.2 fun x _ => ?_
  cases x with
  | running q => cases q <;> simp [Res.clash]
  | _ => simp

section
variable {o : Origin} {w first : Word} {s : State} (hs : Served s o) (hm : s.mem.usable = true)

/-- START of a word of DMA_KICK: given. -/
theorem kick_start (w : Word) : bit (w ||| 0x100) 8 = true := by
  rw [bit, BitVec.testBit_toNat, BitVec.getLsbD_or]
  exact Bool.or_true _

theorem kick_resume (w : Word) : bit (w &&& ~~~ (0x100 : Word)) 8 = false := by
  rw [bit, BitVec.testBit_toNat, BitVec.getLsbD_and]
  exact Bool.and_false _

theorem kick_start_chan (w : Word) : fld (w ||| 0x100) 3 0 = fld w 3 0 := by
  have hx : (0x100 : Word).extractLsb' 0 4 = 0#4 := by decide
  rw [fld_eq_extract, BitVec.extractLsb'_or, hx, BitVec.or_zero, ← fld_eq_extract]

theorem kick_resume_chan (w : Word) : fld (w &&& ~~~ (0x100 : Word)) 3 0 = fld w 3 0 := by
  have hx : (~~~ (0x100 : Word)).extractLsb' 0 4 = BitVec.allOnes 4 := by decide
  rw [fld_eq_extract, BitVec.extractLsb'_and, hx, BitVec.and_allOnes, ← fld_eq_extract]

theorem within_kick_start (hw : within 0x10F w = true) : within 0x10F (w ||| 0x100) = true := by
  rw [within_iff] at *
  rw [BitVec.and_or_distrib_right, hw]
  decide

theorem within_kick_resume (hw : within 0x10F w = true) : within 0x10F (w &&& ~~~ (0x100 : Word)) = true := by
  rw [within_iff] at *
  rw [BitVec.and_assoc, BitVec.and_comm (~~~ (0x100 : Word)), ← BitVec.and_assoc, hw]
  exact BitVec.zero_and

include hs hm

theorem dmaKickStart_answers (hw : within 0x10F w = true) (hp : descPlace s first.toNat = true)
    (hr : (chan s (fld w 3 0)).state ≠ .running) (hi : (chan s (fld w 3 0)).state ≠ .idleAtEnd) :
    exec (.dmaKickStart o w first) s = .next (answered o 0x72 [] (wakeMem (setChan (fld w 3 0) (fun c => { c with
      state := .running, phase := .fetch, desc := first.toNat, kick := false, abort := false, count := 0
      crc := 0xFFFFFFFF, done := 0, entry := none, words := [] }) s))) := by
  have hk : kickStart [w ||| 0x100, first] = true := kick_start w
  have hn : kickChan [w ||| 0x100, first] = fld w 3 0 := kick_start_chan w
  refine hs.answersWith hDmaKick [w ||| 0x100, first] ?_ ?_ ?_ ?_ (fun x => Bool.noConfusion x) (fun _ => hm)
  · simp only [hDmaKick, Handler.plain, Handler.ok, hk, hn, if_true, fetchAt, setChan_setChan, wd, List.getD_cons_succ,
      List.getD_cons_zero]
  · simp only [hDmaKick, hk, wd, List.getD_cons_zero, List.getD_cons_succ, within_kick_start hw, hp, Bool.not_true,
      Bool.and_false, Bool.false_eq_true, if_false]
  · simp only [hDmaKick, hk]
    rfl
  · simp only [hDmaKick, hk, hn, beq_eq_false_iff_ne.2 hr, beq_eq_false_iff_ne.2 hi]
    rfl

/-- A kick without START of a channel that runs or is parked. -/
theorem dmaKickResume_answers (hw : within 0x10F w = true)
    (hr : (chan s (fld w 3 0)).state = .running ∨ (chan s (fld w 3 0)).state = .idleAtEnd) :
    exec (.dmaKickResume o w) s = .next (answered o 0x72 [] (resume (fld w 3 0) s)) := by
  have hk : kickStart [w &&& ~~~ (0x100 : Word)] = false := kick_resume w
  have hn : kickChan [w &&& ~~~ (0x100 : Word)] = fld w 3 0 := kick_resume_chan w
  refine hs.answersWith hDmaKick [w &&& ~~~ (0x100 : Word)] ?_ ?_ ?_ ?_ (fun x => Bool.noConfusion x) (fun _ => hm)
  · simp only [hDmaKick, Handler.plain, Handler.ok, hk, hn, Bool.false_eq_true, if_false]
  · simp only [hDmaKick, hk, wd, List.getD_cons_zero, within_kick_resume hw, Bool.not_true, Bool.false_and,
      Bool.false_eq_true, if_false]
  · simp only [hDmaKick, hk]
    rfl
  · rcases hr with hr | hr <;> simp only [hDmaKick, hk, hn, hr] <;> rfl

omit hm in
theorem dmaAbort_parked (hw : within 0xF w = true) (hi : (chan s (fld w 3 0)).state = .idleAtEnd) :
    exec (.dmaAbort o [w]) s = .next (answered o 0x73 []
      (setChan (fld w 3 0) (fun c => { c with state := .aborted }) s)) := by
  refine hs.answers hDmaAbort [w] ?_ (maskFault_one_none hw) (hdef := ?_)
  · simp only [hDmaAbort, Handler.plain, Handler.ok, wd, List.getD_cons_zero, hi, beq_self_eq_true, if_true]
  · simp [hDmaAbort, wd, hi]

omit hm in
theorem dmaAbort_running {k : Nat} (hw : within 0xF w = true) (hr : (chan s (fld w 3 0)).state = .running)
    (hk : freeSlot s = some k) : exec (.dmaAbort o [w]) s = .next (accepted o 0x73 k
      (setChan (fld w 3 0) (fun c => { c with abort := true }) (occupy k (.dmaAbort (fld w 3 0)) s))) := by
  refine hs.starts hDmaAbort [w] ⟨hk, held_dmaAbort s (fld w 3 0)⟩ (hv := maskFault_one_none hw) (hdef := ?_)
  simp only [hDmaAbort, wd, List.getD_cons_zero, hr, beq_self_eq_true, if_true]

end

/-- Settles O31: the state of the link, or of the channel, decides. -/
theorem streamAndDmaRequests : Obligations.StreamAndDmaRequests := by
  refine ⟨fun o s k hs hm hon hroom => ⟨fun hd => ?down, fun hu hp => ?waits, fun hu hp => ?up⟩,
    fun o w first s hs hm => ⟨dmaKickStart_answers hs hm, fun hw hr => ?kick, fun hw hi => ?parked, dmaAbort_parked hs,
      fun k => dmaAbort_running hs⟩⟩
  case down => exact streamTrain_accepted hs hm hon hroom (startTraining_down (s := occupy k .stream s) hd)
  case waits => exact streamTrain_accepted hs hm hon hroom ((startTraining_up (s := occupy k .stream s) hu).trans (if_pos hp))
  case up =>
    exact streamTrain_accepted hs hm hon hroom
      ((startTraining_up (s := occupy k .stream s) hu).trans
        (if_neg (by rw [show inProgress (occupy k .stream s) = false from hp]; exact Bool.false_ne_true)))
  case kick =>
    rw [dmaKickResume_answers hs hm hw (.inl hr)]
    simp only [resume, hr, beq_self_eq_true, if_true]
  case parked =>
    rw [dmaKickResume_answers hs hm hw (.inr hi)]
    simp [resume, hi]

end Sys2Proof.Machine
end

section
/-!
SUPPORT. The host's access to memory (R343, R344).
-/
namespace Sys2Proof.Machine

-- one theorem after the other: the threads of many at once need more memory than the check has
set_option Elab.async false

/-- An access to DRAM wakes it. -/
theorem wakeAt_eq (a : Nat) (s : State) : wakeAt a s =
    { s with mem := { s.mem with selfRefresh := s.mem.selfRefresh && zoneOf a != .dram } } := by
  by_cases h : zoneOf a = .dram
  · simp [wakeAt, wakeMem, h]
  · simp [wakeAt, beq_eq_false_iff_ne.2 h, bne]

theorem wakeAt_bytes (a : Nat) (s : State) : (wakeAt a s).mem.bytes = s.mem.bytes := by rw [wakeAt_eq]

theorem wakeAt_fitted (a : Nat) (s : State) : (wakeAt a s).mem.fitted = s.mem.fitted := by rw [wakeAt_eq]

/-- What an access keeps of memory: its bytes and the parts fitted. -/
def MemKept (s t : State) : Prop := t.mem.bytes = s.mem.bytes ∧ t.mem.fitted = s.mem.fitted

theorem MemKept.trans {s t u : State} (h : MemKept s t) (h' : MemKept t u) : MemKept s u :=
  ⟨h'.1.trans h.1, h'.2.trans h.2⟩

theorem eccCorr_memKept (port a : Nat) (patrol : Bool) (s : State) : MemKept s (eccCorr port a patrol s) := by
  constructor <;> simp [eccCorr]

theorem eccUncorr_memKept (port a : Nat) (patrol : Bool) (s : State) : MemKept s (eccUncorr port a patrol s) := by
  constructor <;> simp [eccUncorr, duringSurge]

theorem foldl_memKept {α : Type} (f : State → α → State) (hf : ∀ t i, MemKept t (f t i)) (l : List α) :
    ∀ s, MemKept s (l.foldl f s) := by
  induction l with
  | nil => exact fun s => ⟨rfl, rfl⟩
  | cons x l ih => exact fun s => (hf s x).trans (ih _)

theorem wordsFound_memKept (port : Nat) (acc : Access) (a n : Nat) (s : State) : MemKept s (wordsFound port acc a n s) := by
  refine MemKept.trans (t := { s with drawn := s.drawn + 1 + n }) ⟨rfl, rfl⟩ (foldl_memKept _ (fun t i => ?_) _ _)
  split
  · exact eccCorr_memKept ..
  · exact eccUncorr_memKept ..
  · exact ⟨rfl, rfl⟩

theorem accessDone_memKept (acc : Access) (a n : Nat) (s : State) : MemKept s (accessDone acc a n s) := by
  have hw : ∀ t, MemKept t (wakeAt a t) := fun t => ⟨wakeAt_bytes a t, wakeAt_fitted a t⟩
  cases acc with
  | ok => exact hw s
  | timeout => exact MemKept.trans (t := countTimeout s) ⟨rfl, rfl⟩ (hw _)
  | corrected => exact (hw s).trans (wordsFound_memKept ..)
  | ecc => exact (hw s).trans (wordsFound_memKept ..)

/-! ### MEM_READ -/

/-- Reading does not ask whether the DRAM refreshes itself. -/
theorem hostWords_wakeAt (a : Nat) (s : State) (b n : Nat) : hostWords (wakeAt a s) b n = hostWords s b n := by
  rw [wakeAt_eq]; rfl

/-- The data of a MEM_READ is late. -/
def readLate (s : State) (p : List Word) : Bool :=
  memSize p ≠ 0 && (Config.freeBit 343 s.drawn || stalled s (memAddr p))

theorem hMemRead_defers (s : State) (p : List Word) :
    hMemRead.defers s p = if readLate s p then some (.memRead (memAddr p) (memSize p)) else none := rfl

/-- What a read in time answers is OK or INTERNAL. -/
theorem readNow_status (p : List Word) (s : State) : (readNow p s).1.status ≠ 0x14 := by
  unfold readNow
  dsimp only
  split
  · exact show stInternal ≠ (0x14 : BitVec 8) by decide
  · exact show stOk ≠ (0x14 : BitVec 8) by decide

theorem readMeets_ok {s : State} {p : List Word} (h : (s.mem.ecc && memDram p && memSize p ≠ 0) = false) :
    readMeets s p = .ok := by
  simp only [readMeets, readCondition, h, Bool.not_false, Bool.true_or, if_true]

section
variable {o : Origin} {p : List Word} {s : State} (hs : Served s o) (hl : p.length = 2) (hf : readFault s p = none)
  (hm : zoneOf (wd p 0).toNat = .dram → s.mem.usable = true)
include hs hl hf hm

theorem memRead_passes : Passes hMemRead o p { s with drawn := s.drawn + 1 } :=
  Served.passes (s := { s with drawn := s.drawn + 1 }) hs (decide_eq_true hl) hf
    (badState_eq_false trivial (fun x => Bool.noConfusion x) (fun h => hm (eq_of_beq h)) rfl (fun r hr => by
      simp only [hMemRead] at hr
      split at hr
      · cases hr; exact held_memRead ..
      · cases hr)) rfl

theorem memRead_now (hn : readLate { s with drawn := s.drawn + 1 } p = false) :
    let x := readNow p { s with drawn := s.drawn + 1 }
    exec (.memRead o p) s = .next (deliver o 0x80 x.1 (dropStored o.port x.2)) := by
  have hp := memRead_passes hs hl hf hm
  refine congrArg Host.Outcome.next (request_run hMemRead hp.reach hp.serves hp.len hp.value hp.state hp.denied
    (by rw [hMemRead_defers, hn]; rfl) (.inl (readNow_status p _)))

theorem memRead_late {k : Nat} (hn : readLate { s with drawn := s.drawn + 1 } p = true) (hk : freeSlot s = some k) :
    exec (.memRead o p) s = .next (accepted o 0x80 k (wakeAt (memAddr p)
      (occupy k (.memRead (memAddr p) (memSize p)) { s with drawn := s.drawn + 1 }))) := by
  have hp := memRead_passes hs hl hf hm
  exact congrArg Host.Outcome.next (request_start hMemRead hp.reach hp.serves hp.len hp.value hp.state hp.denied
    (by rw [hMemRead_defers, hn]; rfl) hk)

/-- COUNT 0: nothing is read. -/
theorem memRead_none (h0 : memSize p = 0) : exec (.memRead o p) s = .next (answered o 0x80 []
    (wakeAt (memAddr p) { s with drawn := s.drawn + 1 + 0 })) := by
  have hr : readNow p { s with drawn := s.drawn + 1 } =
      (okReply [], wakeAt (memAddr p) { s with drawn := s.drawn + 1 + 0 }) := by
    have hok : readMeets { s with drawn := s.drawn + 1 } p = .ok := readMeets_ok (by simp [h0])
    simp only [readNow, hok, accessDone, reduceCtorEq, if_false, h0, hostWords, List.range_zero, List.map_nil, wakeAt_eq]
  rw [memRead_now hs hl hf hm (by simp [readLate, h0]), hr]
  rfl

/-- A read in time, by what it meets. -/
theorem memRead_answers (hn : readLate { s with drawn := s.drawn + 1 } p = false) :
    let m := readMeets { s with drawn := s.drawn + 1 } p
    let u := accessDone m (memAddr p) (memSize p) { s with drawn := s.drawn + 1 }
    exec (.memRead o p) s = .next (
      if m = .ecc then deliver o 0x80 (reply stInternal 0 []) (dropStored o.port u)
      else answered o 0x80 (hostWords u (memAddr p) (memSize p)) { u with drawn := u.drawn + memSize p }) := by
  intro m u
  rw [memRead_now hs hl hf hm hn]
  by_cases h : readMeets { s with drawn := s.drawn + 1 } p = .ecc
  · simp only [readNow, m, u, h, if_true]
  · simp only [readNow, m, u, h, if_false]
    rfl

end

/-- A read of words, by whether its data is late. -/
theorem readLate_eq {s : State} {p : List Word} (h : memSize p ≠ 0) : readLate { s with drawn := s.drawn + 1 } p =
    (Config.freeBit 343 (s.drawn + 1) || stalled s (memAddr p)) := by
  simp only [readLate, h, ne_eq, not_false_eq_true, decide_true, Bool.true_and]
  rfl

/-! ### MEM_WRITE and MEM_FILL -/

theorem hostPut_writes (a : Nat) (ws : List Word) (s : State) : ∃ own, hostPut a ws s =
    { s with mem := { s.mem with bytes := memPutWords s.mem.bytes a ws, tileOwn := own
                                 selfRefresh := s.mem.selfRefresh && zoneOf a != .dram } } := by
  unfold hostPut ownTiles
  rw [wakeAt_eq]
  dsimp only
  split
  · exact ⟨_, rfl⟩
  · exact ⟨_, rfl⟩

section
variable {o : Origin} {p : List Word} {s : State} (hs : Served s o)
  (hm : zoneOf (wd p 0).toNat = .dram → s.mem.usable = true)
include hs hm

theorem memWrite_answers (h1 : 1 < p.length) (h32 : p.length ≤ 32) (ha : (wd p 0).toNat % 8 = 0)
    (hmap : mapped s (wd p 0).toNat (8 * (p.length - 1)) = true) (hw : writable s (wd p 0).toNat (8 * (p.length - 1)) = true)
    (hb : sramBusy s (wd p 0).toNat = false) :
    exec (.memWrite o p) s = .next (answered o 0x81 [] (hostPut (memAddr p) (p.drop 1) s)) :=
  hs.answersWith hMemWrite p rfl (by simp only [hMemWrite, memAddr, ha, hmap, hw]; rfl)
    (by simp [hMemWrite, rng, h32]; omega) (by simp only [hMemWrite, memAddr, hb, Bool.and_false])
    (fun x => Bool.noConfusion x) (fun h => hm (eq_of_beq h))

theorem memFill_accepted {k : Nat} (hl : p.length = 3) (ha : (wd p 0).toNat % 8 = 0) (hn : (wd p 1).toNat ≠ 0)
    (hn8 : (wd p 1).toNat % 8 = 0) (hm0 : mapped s (wd p 0).toNat 0 = true) (hw8 : writable s (wd p 0).toNat 8 = true)
    (hmap : mapped s (wd p 0).toNat (wd p 1).toNat = true) (hw : writable s (wd p 0).toNat (wd p 1).toNat = true)
    (hb : sramBusy s (wd p 0).toNat = false) (hroom : Room s .fill k) :
    exec (.memFill o p) s = .next (accepted o 0x82 k
      (occupy k .fill { s with mem := s.mem.addFill ((wd p 0).toNat, (wd p 1).toNat, wd p 2) })) :=
  hs.starts hMemFill p hroom rfl
    (by simp only [hMemFill, memAddr, memSize, ha, hn8, hm0, hw8, hmap, hw]; simp)
    (decide_eq_true hl) (by simp only [hMemFill, memAddr, hb, Bool.and_false]) rfl trivial
    (fun x => Bool.noConfusion x) (fun h => hm (eq_of_beq h)) (by simp only [hMemFill, memSize, hn, if_false])

end

/-- Settles O32: a read by whether it is late and by what it meets, a write by its words, a fill by its engine. -/
theorem memoryRequests : Obligations.MemoryRequests := by
  refine ⟨fun o p s hs hl hf hm => ⟨fun h0 => ?none, fun k h0 hk hecc => ?clean, fun k h0 hk => ?words⟩,
    fun o p s hs hm => ⟨fun h1 h32 ha hmap hw hb => ?write, fun k => memFill_accepted hs hm⟩⟩
  case none =>
    rw [memRead_none hs hl hf hm h0, wakeAt_eq]
    rfl
  case clean =>
    have hlate := readLate_eq (s := s) h0
    cases hx : Config.freeBit 343 (s.drawn + 1) || stalled s (memAddr p)
    · have hok : readMeets { s with drawn := s.drawn + 1 } p = .ok := readMeets_ok (by
        rcases hecc with h | h
        · simp [h]
        · simp [memDram, memAddr, beq_eq_false_iff_ne.2 h])
      rw [memRead_answers hs hl hf hm (hlate.trans hx), hok, if_neg (by decide), accessDone, hostWords_wakeAt, wakeAt_eq]
      exact congrArg Host.Outcome.next (if_neg (fun h => Bool.false_ne_true (hx.symm.trans h))).symm
    · rw [memRead_late hs hl hf hm (hlate.trans hx) hk, wakeAt_eq]
      exact congrArg Host.Outcome.next (if_pos hx).symm
  case words =>
    have hlate := readLate_eq (s := s) h0
    have hkept := accessDone_memKept (readMeets { s with drawn := s.drawn + 1 } p) (memAddr p) (memSize p)
      { s with drawn := s.drawn + 1 }
    refine ⟨_, hkept.1, hkept.2, ?_⟩
    cases hx : Config.freeBit 343 (s.drawn + 1) || stalled s (memAddr p)
    · rw [memRead_answers hs hl hf hm (hlate.trans hx)]
      exact congrArg Host.Outcome.next (if_neg (fun h => Bool.false_ne_true (hx.symm.trans h))).symm
    · rw [memRead_late hs hl hf hm (hlate.trans hx) hk, wakeAt_eq]
      exact congrArg Host.Outcome.next (if_pos hx).symm
  case write =>
    obtain ⟨own, hput⟩ := hostPut_writes (memAddr p) (p.drop 1) s
    exact ⟨own, (memWrite_answers hs hm h1 h32 ha hmap hw hb).trans (by rw [hput]; rfl)⟩

end Sys2Proof.Machine
end

section
/-!
SUPPORT. A chunk of the signed update while the update path is held (R393, R420).
-/
namespace Sys2Proof.Machine

-- one theorem after the other: the threads of many at once need more memory than the check has
set_option Elab.async false

/-- A unit in READY on the UART alone, with a session of 8 bytes, whose update path an UPDATE_END holds that a break-in has
freed of its slot. -/
def pathHeld : State :=
  { State.reset with
    pwr := { Power.init with dev := .ready }
    can := { Cantle.init with running := true, works := [.ends]
                              session := some { slotB := true, total := 8, crc := 0, data := [] } } }

/-- The one chunk of that session. -/
def heldChunk : List Word := [mk [(32, 32, (crc32c (List.replicate 8 0)).toNat)], 0]

theorem heldChunk_fits : chunkFits { slotB := true, total := 8, crc := 0, data := [] } heldChunk = true ∧
    within 0xFFFFFFFF0000FFFF (wd heldChunk 0) = true := by decide +kernel

theorem pathHeld_served : reaches pathHeld ⟨.uart, 0⟩ = true := by decide +kernel

/-- UPDATE_CHUNK is BAD_STATE while a work holds the path. -/
theorem updateChunk_pathHeld : exec (.updateChunk ⟨.uart, 0⟩ heldChunk) pathHeld =
    .next (refused ⟨.uart, 0⟩ 0xA4 stBadState 0 pathHeld) := by
  refine exec_refused (h := hUpdateChunk) rfl pathHeld_served (answer_badState hUpdateChunk (by decide) (by decide) ?_ ?_)
  · have hx : pathHeld.can.session = some { slotB := true, total := 8, crc := 0, data := [] } := rfl
    simp only [hUpdateChunk, hx, heldChunk_fits.1, heldChunk_fits.2, Bool.not_true, Bool.or_self, Bool.false_eq_true, if_false]
  · decide +kernel

/-- Refutes O33: the statement asks of the path only that no slot holds it; a work that a break-in has freed of its slot
holds it too, and a chunk is BAD_STATE then. -/
theorem not_calibrationAndUpdateRequests : ¬ Obligations.CalibrationAndUpdateRequests := by
  intro h
  obtain ⟨_, hchunk, _⟩ := h.2 ⟨.uart, 0⟩ heldChunk 0 pathHeld ⟨.inl rfl, pathHeld_served⟩ (.inl rfl)
  have hx := hchunk _ (by decide) (by decide) heldChunk_fits.2 rfl heldChunk_fits.1 (by decide) (by decide)
  rw [updateChunk_pathHeld] at hx
  have hbuf := congrArg (fun t => t.can.buffer.length) (Host.Outcome.next.inj hx)
  exact absurd hbuf (by decide +kernel)

end Sys2Proof.Machine
end

section
/-!
SUPPORT. What a fold, a choice and the ordering by planes leave; the time base (R274 to R278, R288).
-/
namespace Sys2Proof.Machine

-- one theorem after the other: the threads of many at once need more memory than the check has
set_option Elab.async false

/-! ### Parts of the state that a function leaves -/

/-- A part of the state that every step of a fold leaves. -/
theorem foldl_leaves {α β : Type} (v : State → β) {f : State → α → State} (hf : ∀ t x, v (f t x) = v t) (l : List α) (s : State) :
    v (l.foldl f s) = v s := by
  induction l generalizing s with
  | nil => rfl
  | cons x l ih => exact (ih (f s x)).trans (hf s x)

theorem ite_leaves {β : Type} (v : State → β) {c : Prop} [Decidable c] {a b : State} {x : β} (ha : v a = x) (hb : v b = x) :
    v (if c then a else b) = x := by
  split
  · exact ha
  · exact hb

/-- A part of the state that neither the event queue nor the order of ended slots belongs to. -/
def Quiet {β : Type} (v : State → β) : Prop := ∀ (s : State) (e : Events) (r : List Nat),
  v { s with evq := e, brg := { s.brg with recent := r } } = v s

theorem planes_leaves {β : Type} (v : State → β) {f : State → State} (hq : Quiet v)
    (hf : ∀ t, v (f t) = v t) (s : State) : v (planes f s) = v s :=
  (hq _ _ _).trans ((hf _).trans (hq s { s.evq with q := [], logQ := [] } s.brg.recent))

/-! ### The time base -/

/-- What the discipline leaves of the time base: PPS and REF10 as they stand. -/
def tbInputs (s : State) : Bool × Option Nat × Nat × Bool × Bool × List Int :=
  (s.tb.ppsUp, s.tb.ppsAt, s.tb.rejects, s.tb.refUp, s.tb.refIn, s.tb.gates)

theorem tbInputs_post (n d : Nat) (s : State) : tbInputs (post n d s) = tbInputs s := rfl
theorem tbInputs_setY (y : Int) (s : State) : tbInputs (setY y s) = tbInputs s := ite_leaves _ rfl rfl
theorem tbInputs_toAcquire (s : State) : tbInputs (toAcquire s) = tbInputs s := rfl
theorem tbInputs_toFreq (s : State) : tbInputs (toFreq s) = tbInputs s := tbInputs_setY _ _
theorem tbInputs_toHoldover (s : State) : tbInputs (toHoldover s) = tbInputs s := tbInputs_setY _ _

theorem tbInputs_discipline (s : State) : tbInputs (discipline s) = tbInputs s := by
  unfold discipline
  refine ite_leaves _ rfl ?_
  cases s.tb.state <;>
    simp only [apply_ite tbInputs, tbInputs_post, tbInputs_toAcquire, tbInputs_toFreq, tbInputs_toHoldover, ite_self]

theorem tbInputs_stepTo (v : Nat) (b : Bool) (s : State) : tbInputs (stepTo v b s) = tbInputs s := by
  unfold stepTo
  simp only [tbInputs, postIf_tb, setTb_tb]

theorem tbInputs_finish (r : Res) (st : Nat) (l : List Word) (s : State) : tbInputs (finish r st l s) = tbInputs s := by
  simp only [tbInputs, finish_tb]

theorem tbInputs_loadAtPps (s : State) : tbInputs (loadAtPps s) = tbInputs s := by
  unfold loadAtPps
  split
  · rw [tbInputs_finish, tbInputs_stepTo]; rfl
  · rfl

theorem tbInputs_steer (e : Int) (s : State) : tbInputs (steer e s) = tbInputs s :=
  ite_leaves _ (tbInputs_stepTo ..) rfl

theorem tbInputs_judgeError (e : Int) (s : State) : tbInputs (judgeError e s) = tbInputs s := by
  unfold judgeError
  cases s.tb.state <;> rfl

theorem tbInputs_phase (x : Int) (s : State) : tbInputs (setTb (fun t => { t with phase := x }) s) = tbInputs s := rfl

theorem tbInputs_takeError (s : State) : tbInputs (takeError s) = tbInputs s := by
  unfold takeError
  extract_lets e s1
  have h1 : tbInputs s1 = tbInputs s := tbInputs_phase ..
  clear_value s1 e
  split
  · rfl
  · split
    · exact ((tbInputs_judgeError e _).trans (tbInputs_steer e s1)).trans h1
    · exact h1

/-- An accepted edge is the last one from now on. -/
theorem tbInputs_ppsAccepted (s : State) :
    tbInputs (ppsAccepted s) = tbInputs (setTb (fun t => { t with ppsAt := some t.mono }) s) := by
  unfold ppsAccepted planes
  dsimp only
  exact (tbInputs_takeError _).trans ((tbInputs_discipline _).trans (tbInputs_loadAtPps _))

/-- PPS alone disciplines, and is lost in LOCKED. -/
theorem discipline_pps_lost {s : State} (h1 : tbSource s = 1) (hp : s.tb.ppsUp = false) (hl : s.tb.state = .locked) :
    discipline s = toHoldover s := by
  have hr : refsPresent s = false := by simp [refsPresent, hp]
  have hf : fallsBack s = false := by simp [fallsBack, h1]
  simp [discipline, h1, hl, hr, hf]

theorem toHoldover_state (s : State) : (toHoldover s).tb.state = .holdover ∧
    (toHoldover s).tb.holdovers = sat 16 (s.tb.holdovers + 1) := by
  unfold toHoldover setY
  dsimp only
  split <;> exact ⟨rfl, rfl⟩

/-! ### Events of the time base -/

theorem ppsEdge_accepted {s : State} {a : Nat} (ha : s.tb.ppsAt = some a) (hs : aSecondApart a s.tb.mono = true) :
    ∃ t, exec (.ppsEdge (tbFalling s)) s = .next t ∧ t.tb.ppsUp = true ∧ t.tb.ppsAt = some s.tb.mono ∧
      t.tb.rejects = s.tb.rejects := by
  have hx : exec (.ppsEdge (tbFalling s)) s = .next (ppsAccepted
      (if s.tb.ppsUp then s else post evPpsPresent 0 (setTb (fun t => { t with ppsUp := true }) s))) := by
    show execPpsEdge (tbFalling s) s = _
    simp only [execPpsEdge, bne_self_eq_false, Bool.false_eq_true, if_false, ha, hs, if_true]
  refine ⟨_, hx, ?_⟩
  have hv := tbInputs_ppsAccepted (if s.tb.ppsUp then s else post evPpsPresent 0 (setTb (fun t => { t with ppsUp := true }) s))
  have hu : tbInputs (setTb (fun t => { t with ppsAt := some t.mono })
      (if s.tb.ppsUp then s else post evPpsPresent 0 (setTb (fun t => { t with ppsUp := true }) s))) =
      (true, some s.tb.mono, s.tb.rejects, s.tb.refUp, s.tb.refIn, s.tb.gates) := by
    cases h : s.tb.ppsUp <;> simp [tbInputs, h]
  rw [hu] at hv
  simp only [tbInputs, Prod.mk.injEq] at hv
  exact ⟨hv.1, hv.2.1, hv.2.2.1⟩

theorem ppsAbsentTimeout_next {s : State} (hp : s.tb.ppsUp = true) : ∃ t, exec .ppsAbsentTimeout s = .next t ∧
    t.tb.ppsUp = false ∧ t.tb.ppsAt = none ∧ (tbSource s = 1 → s.tb.state = .locked →
      t.tb.state = .holdover ∧ t.tb.holdovers = sat 16 (s.tb.holdovers + 1)) := by
  refine ⟨_, congrArg Host.Outcome.next (if_pos hp), ?_⟩
  have hv := tbInputs_discipline (post evPpsAbsent 0 (setTb (fun t => { t with ppsUp := false, ppsAt := none }) s))
  simp only [tbInputs, Prod.mk.injEq] at hv
  refine ⟨hv.1, hv.2.1, fun h1 hl => ?_⟩
  have hd := discipline_pps_lost (s := post evPpsAbsent 0 (setTb (fun t => { t with ppsUp := false, ppsAt := none }) s)) h1
    rfl hl
  rw [hd]
  exact toHoldover_state _

theorem ref10Present_next {s : State} (hr : s.tb.refUp = false) : ∃ t, exec .ref10Present s = .next t ∧
    t.tb.refUp = true ∧ t.tb.refIn = true ∧ t.tb.gates = [] := by
  refine ⟨_, congrArg Host.Outcome.next (if_neg (by simp [hr])), ?_⟩
  have hv := tbInputs_discipline (post evRefPresent 0 (setTb (fun t => { t with
    refUp := true, refIn := true, refBad := 0, refGood := 0, gates := [] }) s))
  simp only [tbInputs, Prod.mk.injEq] at hv
  exact hv.2.2.2

theorem ref10Absent_next {s : State} (hr : s.tb.refUp = true) : ∃ t, exec .ref10Absent s = .next t ∧
    t.tb.refUp = false ∧ t.tb.gates = [] := by
  refine ⟨_, congrArg Host.Outcome.next (if_pos hr), ?_⟩
  have hv := tbInputs_discipline (post evRefAbsent 0 (setTb (fun t => { t with refUp := false, gates := [] }) s))
  simp only [tbInputs, Prod.mk.injEq] at hv
  exact ⟨hv.2.2.2.1, hv.2.2.2.2.2⟩

/-- A gate within 90 ppm of a reference that is in its window. -/
theorem ref10GateEnd_good {s : State} {e : Int} (hu : s.tb.refUp = true) (hl : pllLocked s = true) (hi : s.tb.refIn = true)
    (he : e.natAbs ≤ 90000000) : exec (.ref10GateEnd e) s = .next { s with tb := { s.tb with
      gates := (e :: s.tb.gates).take 100, refBad := 0, refGood := min (s.tb.refGood + 1) 10 } } := by
  have hbad : ¬ 100000000 < e.natAbs := by omega
  refine congrArg Host.Outcome.next ((if_pos (by rw [hu, hl]; rfl)).trans ?_)
  have hin : ¬ (true && decide (2 ≤ 0)) = true := by decide
  have hout : ¬ (!true && decide (10 ≤ s.tb.refGood + 1)) = true := Bool.false_ne_true
  simp only [judgeGate, hbad, if_false, he, if_true, setTb_tb, hi]
  rw [if_neg hin, if_neg hout]
  simp only [setTb, hi, Nat.zero_min]

theorem xtalFaultCheck_stops {s : State} (hc : s.can.running = true) (hx : s.pwr.xtFault = none) (out : Bool) :
    exec (.xtalFaultCheck true out) s =
      .next (post evXtalFault 0 { s with pwr := { s.pwr with xtFault := some false } }) := by
  refine congrArg Host.Outcome.next ((if_neg (by simp [hc, hx])).trans ?_)
  simp only [hx]
  rfl

theorem xtalFaultCheck_returns {s : State} {k : Bool} (hc : s.can.running = true) (hx : s.pwr.xtFault = some k) :
    exec (.xtalFaultCheck false false) s =
      .next (post evXtalFault (0x8000 + b2n k) { s with pwr := { s.pwr with xtFault := none } }) := by
  refine congrArg Host.Outcome.next ((if_neg (by simp [hc, hx])).trans ?_)
  simp only [hx]
  rfl

theorem timeBaseSecond_unlocked {s : State} (hl : pllLocked s = false) : exec .timeBaseSecond s =
    .next (if s.tb.state = .locked ∨ s.tb.state = .freq then
      { s with tb := { s.tb with past := (s.tb.y :: s.tb.past).take 64 } } else s) := by
  refine congrArg Host.Outcome.next ((if_pos (by simp [hl])).trans ?_)
  simp only [Bool.or_eq_true, beq_iff_eq]
  rfl

/-- Settles O43: the edge, the gate or the second by the state of what it disciplines. -/
theorem timeBaseEvents : Obligations.TimeBaseEvents := by
  refine ⟨fun s => ⟨fun f hf => ?polarity, fun ha => ?first, fun a => ppsEdge_accepted, fun a ha hs => ?rejected,
    ppsAbsentTimeout_next⟩, fun s => ⟨ref10Present_next, ref10Absent_next, fun e => ref10GateEnd_good, fun e hl => ?gate⟩,
    fun s => ⟨timeBaseSecond_unlocked, fun hl hf h0 => ?free, fun hl hk hr => ?locked, fun h => ?day,
      xtalFaultCheck_stops, fun k => xtalFaultCheck_returns, fun a b hc => ?stopped⟩⟩
  case polarity => exact congrArg Host.Outcome.next (if_pos (by simp [hf]))
  case first =>
    show execPpsEdge (tbFalling s) s = _
    simp only [execPpsEdge, bne_self_eq_false, Bool.false_eq_true, if_false, ha]
    rfl
  case rejected =>
    show execPpsEdge (tbFalling s) s = _
    simp only [execPpsEdge, bne_self_eq_false, Bool.false_eq_true, if_false, ha, hs, ppsRejected, setTb]
  case gate => exact congrArg Host.Outcome.next (if_neg (by simp [hl]))
  case free =>
    refine congrArg Host.Outcome.next ((if_neg (by simp [hl])).trans ?_)
    simp only [hf, h0, if_true, setY, hl, setTb]
  case locked =>
    refine congrArg Host.Outcome.next ((if_neg (by simp [hl])).trans ?_)
    simp only [hk, hr, Bool.false_eq_true, if_false, beq_self_eq_true, Bool.true_or, if_true, setTb]
  case day => exact congrArg Host.Outcome.next (if_pos (by rcases h with h | h <;> simp [h]))
  case stopped => exact congrArg Host.Outcome.next (if_pos (by simp [hc]))

end Sys2Proof.Machine
end

section
/-!
SUPPORT. What frames and triggers leave of the state; Awl (R281 to R286).
-/
namespace Sys2Proof.Machine

-- one theorem after the other: the threads of many at once need more memory than the check has
set_option Elab.async false

/-! ### Frames that enter the output queue -/

/-- Nothing but events, the stream port and memory differs. -/
def StreamOnly (s t : State) : Prop := ∃ e r m, t = { s with evq := e, strm := r, mem := m }

theorem StreamOnly.refl (s : State) : StreamOnly s s := ⟨s.evq, s.strm, s.mem, rfl⟩

theorem StreamOnly.trans {s t u : State} (h : StreamOnly s t) (k : StreamOnly t u) : StreamOnly s u := by
  obtain ⟨e, r, m, rfl⟩ := h
  obtain ⟨e', r', m', rfl⟩ := k
  exact ⟨e', r', m', rfl⟩

theorem StreamOnly.ite {c : Prop} [Decidable c] {s t u : State} (ht : StreamOnly s t) (hu : StreamOnly s u) :
    StreamOnly s (if c then t else u) := by
  split
  · exact ht
  · exact hu

theorem setStrm_streamOnly (f : Stream → Stream) (s : State) : StreamOnly s (setStrm f s) := ⟨s.evq, f s.strm, s.mem, rfl⟩
theorem post_streamOnly (n d : Nat) (s : State) : StreamOnly s (post n d s) := ⟨_, s.strm, s.mem, rfl⟩
theorem wakeMem_streamOnly (s : State) : StreamOnly s (wakeMem s) := ⟨s.evq, s.strm, _, rfl⟩

theorem watchMarks_streamOnly (s : State) : StreamOnly s (watchMarks s) :=
  .ite (.refl s) ((setStrm_streamOnly _ s).trans (post_streamOnly ..))

theorem dropFrame_streamOnly (f : Frame) (s : State) : StreamOnly s (dropFrame f s) :=
  ⟨s.evq, _, s.mem, rfl⟩

theorem overflowed_streamOnly (f : Frame) (s : State) : StreamOnly s (overflowed f s) := by
  have hm : StreamOnly s (wakeMem (setStrm (fun t => { t with marks := t.marks ++ [f] }) s)) :=
    (setStrm_streamOnly _ s).trans (wakeMem_streamOnly _)
  exact .ite (.ite (.refl s) (hm.trans (watchMarks_streamOnly _))) (.ite hm (dropFrame_streamOnly f s))

theorem beginEpisode_streamOnly (d : Nat) (s : State) : StreamOnly s (beginEpisode d s) :=
  .ite (.refl s) ((setStrm_streamOnly _ s).trans (post_streamOnly ..))

theorem fillRisen_streamOnly (s : State) : StreamOnly s (fillRisen s) := by
  unfold fillRisen
  extract_lets hi s1
  have h1 : StreamOnly s s1 := .ite ((setStrm_streamOnly _ s).trans (post_streamOnly ..)) (.refl s)
  exact .ite ((h1.trans (beginEpisode_streamOnly 1 s1)).trans (setStrm_streamOnly ..)) h1

theorem enqueue_streamOnly (f : Frame) (s : State) : StreamOnly s (enqueue f s) := by
  unfold enqueue
  refine .ite (.refl s) (.ite (dropFrame_streamOnly f s) (.ite (overflowed_streamOnly f s)
    (.ite (setStrm_streamOnly ..) (.ite ?_ ?_))))
  · exact ((setStrm_streamOnly _ s).trans (wakeMem_streamOnly _)).trans (fillRisen_streamOnly _)
  · exact ((beginEpisode_streamOnly 0 s).trans (setStrm_streamOnly ..)).trans (overflowed_streamOnly f _)

/-! ### Triggers -/

/-- Nothing but events, stream port, memory, zones, records, the timing line and the count of free values differs. -/
def TriggerOnly (s t : State) : Prop := ∃ e r m z g h n,
  t = { s with evq := e, strm := r, mem := m, zones := z, girth := g, harn := h, drawn := n }

theorem TriggerOnly.refl (s : State) : TriggerOnly s s := ⟨s.evq, s.strm, s.mem, s.zones, s.girth, s.harn, s.drawn, rfl⟩

theorem TriggerOnly.trans {s t u : State} (h : TriggerOnly s t) (k : TriggerOnly t u) : TriggerOnly s u := by
  obtain ⟨e, r, m, z, g, x, n, rfl⟩ := h
  obtain ⟨e', r', m', z', g', x', n', rfl⟩ := k
  exact ⟨e', r', m', z', g', x', n', rfl⟩

theorem TriggerOnly.ite {c : Prop} [Decidable c] {s t u : State} (ht : TriggerOnly s t) (hu : TriggerOnly s u) :
    TriggerOnly s (if c then t else u) := by
  split
  · exact ht
  · exact hu

theorem TriggerOnly.foldl {α : Type} {f : State → α → State} (hf : ∀ t x, TriggerOnly t (f t x)) (l : List α) (s : State) :
    TriggerOnly s (l.foldl f s) := by
  induction l generalizing s with
  | nil => exact .refl s
  | cons x l ih => exact (hf s x).trans (ih _)

theorem StreamOnly.trigger {s t : State} (h : StreamOnly s t) : TriggerOnly s t := by
  obtain ⟨e, r, m, rfl⟩ := h
  exact ⟨e, r, m, s.zones, s.girth, s.harn, s.drawn, rfl⟩

theorem TriggerOnly.awl {s t : State} (h : TriggerOnly s t) : t.awl = s.awl := by
  obtain ⟨e, r, m, z, g, x, n, rfl⟩ := h
  rfl

theorem setZone_trigger (z : Nat) (f : ZoneRun → ZoneRun) (s : State) : TriggerOnly s (setZone z f s) :=
  ⟨s.evq, s.strm, s.mem, _, s.girth, s.harn, s.drawn, rfl⟩

theorem setGirth_trigger (d : Side) (f : GirthSide → GirthSide) (s : State) : TriggerOnly s (setGirth d f s) :=
  ⟨s.evq, s.strm, s.mem, s.zones, _, s.harn, s.drawn, rfl⟩

theorem post_trigger (n d : Nat) (s : State) : TriggerOnly s (post n d s) := (post_streamOnly ..).trigger

theorem endDead_trigger (d : Side) (z : Nat) (s : State) : TriggerOnly s (endDead d z s) := by
  unfold endDead
  split
  · exact (setZone_trigger _ _ s).trans (setGirth_trigger ..)
  · exact .refl s

theorem timSend_trigger (p : HPort) (k : TimKind) (t : TimingSym) (s : State) : TriggerOnly s (timSend p k t s) := by
  cases p
  · exact ⟨s.evq, s.strm, s.mem, s.zones, s.girth, _, _, rfl⟩
  · exact ⟨s.evq, s.strm, s.mem, s.zones, s.girth, _, _, rfl⟩

theorem sendFire_trigger (code : Nat) (s : State) : TriggerOnly s (sendFire code s) :=
  (timSend_trigger .up .fire { origin := s.pwr.address, code := BitVec.ofNat 8 code, acc := 0 } s).trans
    (timSend_trigger .down .fire _ _)

theorem refuseRecord_trigger (d : Side) (z : Nat) (s : State) : TriggerOnly s (refuseRecord d z s) := by
  unfold refuseRecord
  extract_lets s1 g s2
  have h1 : TriggerOnly s s1 := (watchMarks_streamOnly s).trigger
  have h2 : TriggerOnly s s2 := .ite h1 ((h1.trans ⟨s1.evq, s1.strm, s1.mem, s1.zones, _, s1.harn, s1.drawn, rfl⟩).trans
    (post_trigger ..))
  exact ((h2.trans (setGirth_trigger ..)).trans (setGirth_trigger ..)).trans (setZone_trigger ..)

theorem postIf_trigger (c : Bool) (n d : Nat) (s : State) : TriggerOnly s (postIf c n d s) := .ite (post_trigger ..) (.refl s)

theorem openRecord_trigger (c : Cfg) (d : Side) (z : Nat) (t : Trigger) (a b : Nat) (x : Bool) (s : State) :
    TriggerOnly s (openRecord c d z t a b x s) := by
  unfold openRecord
  refine .ite (refuseRecord_trigger d z s) ?_
  extract_lets u id sends r us s1 s2 g s3 s4 s5
  have hu : TriggerOnly s u := endDead_trigger d z s
  have h1 : TriggerOnly s s1 := hu.trans (setZone_trigger ..)
  have h2 : TriggerOnly s s2 := (h1.trans (setGirth_trigger ..)).trans (setGirth_trigger ..)
  have h3 : TriggerOnly s s3 := (h2.trans ⟨s2.evq, s2.strm, s2.mem, s2.zones, _, s2.harn, s2.drawn, rfl⟩).trans
    (enqueue_streamOnly ..).trigger
  have h4 : TriggerOnly s s4 := (h3.trans (setStrm_streamOnly ..).trigger).trans (watchMarks_streamOnly _).trigger
  have h5 : TriggerOnly s s5 := h4.trans (postIf_trigger ..)
  exact .ite (h5.trans (sendFire_trigger ..)) h5

theorem retrigger_trigger (c : Cfg) (d : Side) (z : Nat) (b : Bool) (x : Int) (s : State) :
    TriggerOnly s (retrigger c d z b x s) := by
  unfold retrigger
  split
  · exact .refl s
  · refine .ite (setZone_trigger ..) ?_
    exact (((setZone_trigger _ _ s).trans (setGirth_trigger ..)).trans (setGirth_trigger ..)).trans (postIf_trigger ..)

theorem sourceAt_trigger (t : Trigger) (d : Side) (z : Nat) (s : State) : TriggerOnly s (sourceAt t d z s) := by
  unfold sourceAt
  dsimp only
  split
  · exact .refl s
  · exact .ite (openRecord_trigger ..) (.refl s)
  · exact setZone_trigger ..
  · exact retrigger_trigger ..

theorem sourceTrigger_trigger (t : Trigger) (on : Cfg → Nat → Bool) (s : State) : TriggerOnly s (sourceTrigger t on s) := by
  have hd : ∀ (d : Side) (s : State), TriggerOnly s ((reached s d on).foldl (fun s z => sourceAt t d z s) s) :=
    fun d s => .foldl (fun u z => sourceAt_trigger t d z u) _ s
  exact (hd .a s).trans (hd .b _)

/-! ### The aux sequencer leaves Awl -/

theorem goOn_awl (fuel n : Nat) (s : State) : (goOn fuel n s).awl = s.awl := by
  induction fuel generalizing n s with
  | zero => rfl
  | succ k ih =>
    unfold goOn
    dsimp only
    split
    · split
      · split
        · rw [ih]; unfold runOver; split <;> simp [passEnd]
        · unfold runOver; split <;> simp [passEnd]
      · rw [ih]; simp [passEnd]
    · split
      · exact ih ..
      · split
        · exact (ih ..).trans rfl
        · rfl

theorem auxTrigger_awl (s : State) : (auxTrigger s).awl = s.awl := by
  unfold auxTrigger
  refine ite_leaves State.awl rfl (ite_leaves State.awl ((goOn_awl ..).trans rfl) (ite_leaves State.awl rfl ?_))
  simp only [postIf_awl, setAux_awl]

theorem auxTinEdge_awl (i : Nat) (s : State) : (auxTinEdge i s).awl = s.awl := ite_leaves State.awl (auxTrigger_awl s) rfl

end Sys2Proof.Machine
end

section
/-!
SUPPORT. Awl's edges, conversions and calibration (R281 to R286), and the aux sequencer (R293, R295).
-/
namespace Sys2Proof.Machine

-- one theorem after the other: the threads of many at once need more memory than the check has
set_option Elab.async false

/-! ### Inputs of Awl -/

theorem awlIn_setAwl {s : State} {n : Nat} (f : AwlInput → AwlInput) (hn : n < s.awl.length) :
    awlIn (setAwl n f s) n = f (awlIn s n) := by
  simp only [awlIn, setAwl, upd, List.getD_eq_getElem?_getD, List.getElem?_modify, if_true, List.getElem?_eq_getElem hn,
    Option.getD_some]
  rfl

theorem awlIn_congr {s t : State} (h : t.awl = s.awl) (n : Nat) : awlIn t n = awlIn s n := by rw [awlIn, h]; rfl

/-- An input that is not there reads as after reset. -/
theorem lt_of_takeover {s : State} {n : Nat} (h : (awlIn s n).takeover = true) : n < s.awl.length := by
  rcases Nat.lt_or_ge n s.awl.length with hn | hn
  · exact hn
  · have hi : awlIn s n = AwlInput.init := by rw [awlIn, List.getD_eq_default _ _ hn]
    rw [hi] at h
    cases h

/-- An accepted edge takes the next SEQ and starts its conversion. -/
theorem awlAccept_in {s : State} {n : Nat} (f : Bool) (hn : n < s.awl.length) : ∃ c, awlIn (awlAccept n f s) n =
    { awlIn s n with seq := (awlIn s n).seq + 1, lastAt := some s.tb.mono, conv := some c } :=
  ⟨_, awlIn_setAwl (s := { s with drawn := s.drawn + 1 }) _ hn⟩

theorem queueEdge_conv {s : State} {n : Nat} (e : TdcEntry) (b : Bool) (hn : n < s.awl.length) :
    (awlIn (queueEdge n e b s) n).conv = (awlIn s n).conv ∧ (awlIn (queueEdge n e b s) n).queue =
      (if (awlIn s n).queue.length < 512 then (awlIn s n).queue ++ [e] else (awlIn s n).queue) := by
  unfold queueEdge
  dsimp only
  split
  next h =>
    rw [awlIn_congr (postIf_awl ..), awlIn_setAwl _ hn, if_neg (by omega)]
    exact ⟨rfl, rfl⟩
  next h =>
    rw [awlIn_congr (postIf_awl ..), awlIn_setAwl _ hn, if_pos (by omega)]
    exact ⟨rfl, rfl⟩

theorem setFigure_awl (g k : Nat) (b : Bool) (s : State) : (setFigure g k b s).awl = s.awl :=
  ite_leaves State.awl rfl rfl

theorem judge_awl (g : Nat) (s : State) : (judge g s).awl = s.awl := foldl_leaves State.awl (fun _ _ => setFigure_awl ..) _ _

/-- What a report of a round leaves of an input: the pair in service. -/
theorem tellAwl_pair (l : List Nat) (b : Bool) (s : State) (n : Nat) : (awlIn (tellAwl l b s) n).pair = (awlIn s n).pair := by
  unfold tellAwl
  dsimp only
  rw [awlIn_congr (post_awl ..)]
  simp only [awlIn, List.getD_eq_getElem?_getD, List.getElem?_map, List.getElem?_zipIdx]
  cases s.awl[n]? <;> rfl

theorem endAwlRound_waits {s : State} (h : s.awl.any (·.takeover) = true) : endAwlRound s = s := by
  unfold endAwlRound
  split
  · rfl
  · exact if_pos h

theorem any_takeover {s : State} {n : Nat} (h : (awlIn s n).takeover = true) : s.awl.any (·.takeover) = true := by
  have hn := lt_of_takeover h
  refine List.any_eq_true.2 ⟨s.awl[n], List.getElem_mem hn, ?_⟩
  rwa [awlIn, List.getD_eq_getElem _ _ hn] at h

theorem endAwlRound_pair (s : State) (n : Nat) : (awlIn (endAwlRound s) n).pair = (awlIn s n).pair := by
  unfold endAwlRound
  split
  · rfl
  · split
    · rfl
    · refine planes_leaves (fun t => (awlIn t n).pair) (fun _ _ _ => rfl) (fun t => ?_) _
      have hj : ∀ t' : State, t'.awl = t.awl → (awlIn (judge 15 t') n).pair = (awlIn t n).pair := fun t' h => by
        rw [awlIn_congr ((judge_awl 15 t').trans h)]
      dsimp only
      split
      · exact (tellAwl_pair ..).trans (hj _ rfl)
      · exact hj _ rfl

/-- A round gives a spare within the limits its new value. -/
theorem round_spare {a : AwlInput} {x : Nat × Nat} (h : deltaOk x.1 = true) : (a.round x).takeover = true ∧
    (a.round x).pair = a.pair ∧ (if a.pair then (a.round x).dt0 else (a.round x).dt1) = x.1 := by
  cases hp : a.pair <;> simp [AwlInput.round, AwlInput.ring, h, hp]

/-- The pair that takes over is the other one; the one that it replaces is calibrated. -/
theorem swap_pair (a : AwlInput) : a.swap.pair = !a.pair := by
  unfold AwlInput.swap
  dsimp only
  split
  · unfold AwlInput.ring
    split
    · rfl
    · split <;> rfl
  · rfl

theorem swap_ring {a : AwlInput} {x : Nat} (hx : a.second = some x) (h : deltaOk x = true) :
    a.swap.takeover = true ∧ (if a.pair then a.swap.dt1 else a.swap.dt0) = x := by
  cases hp : a.pair <;> simp [AwlInput.swap, AwlInput.ring, hx, h, hp]

theorem awlIn_ringRound {s : State} {l : List (Nat × Nat)} {n : Nat} (hn : n < s.awl.length) (hl : n < l.length) :
    awlIn (ringRound l s) n = (awlIn s n).round (l.getD n (0, 0)) := by
  simp only [awlIn, ringRound, List.getD_eq_getElem?_getD, List.getElem?_map, List.getElem?_zipIdx,
    List.getElem?_eq_getElem hn, List.getElem?_eq_getElem hl, Option.map_some, Option.getD_some, Nat.zero_add]

/-- What an accepted edge of a TIN input does beside Awl leaves Awl. -/
theorem tinEdge_accepted {s : State} {n : Nat} {f : Bool} (hs : s.awl.length = 11) (hn : n < 8)
    (hc : bit (tdcCfg s n) 0 = true) (he : edgeWanted (tdcCfg s n) f = true) (hh : holdOver s n = true)
    (hb : awlBusy s n = false) : ∃ t, exec (.tinEdge n f) s = .next t ∧ (awlIn t n).seq = (awlIn s n).seq + 1 ∧
      (awlIn t n).conv.isSome = true ∧ (awlIn t n).lastAt = some s.tb.mono ∧ (awlIn t n).queue = (awlIn s n).queue := by
  have hx : exec (.tinEdge n f) s = .next (auxTinEdge n (awlAccept n f s)) := by
    show execTinEdge n f s = _
    have h10 : n ≠ 10 := by omega
    simp only [execTinEdge, h10, if_false, hn, decide_true, hc, he, hh, hb, Bool.and_self, if_true, awlEdge,
      Bool.false_eq_true]
  obtain ⟨c, hacc⟩ := awlAccept_in (s := s) (n := n) f (by omega)
  have hin : awlIn (auxTinEdge n (awlAccept n f s)) n = _ := (awlIn_congr (auxTinEdge_awl ..) n).trans hacc
  refine ⟨_, hx, ?_⟩
  rw [hin]
  exact ⟨rfl, rfl, rfl, rfl⟩

theorem awlConversionDone_next {s : State} {n count : Nat} {c : Conversion} (hs : s.awl.length = 11) (hn : n < 11)
    (hc : (awlIn s n).conv = some c) (hcount : count ≤ 320) : ∃ t, exec (.awlConversionDone n count) s = .next t ∧
      (awlIn t n).conv = none ∧ (awlIn t n).queue = (if bit c.cfg 5 = true ∧ (awlIn s n).queue.length < 512 then
        (awlIn s n).queue ++ [tdcEntry (awlIn s n) c count] else (awlIn s n).queue) := by
  have hlen : n < s.awl.length := by omega
  have h1 : awlIn (setAwl n (fun a => { a with conv := none }) s) n = { awlIn s n with conv := none } := awlIn_setAwl _ hlen
  have hlen1 : n < (setAwl n (fun a => { a with conv := none }) s).awl.length := by simpa [setAwl, upd] using hlen
  obtain ⟨hq, hq'⟩ := queueEdge_conv (tdcEntry (awlIn s n) c count) (bit c.cfg 6) hlen1
  have hx : ∃ t, exec (.awlConversionDone n count) s = .next t ∧ t.awl = (if bit c.cfg 5 then
      queueEdge n (tdcEntry (awlIn s n) c count) (bit c.cfg 6) (setAwl n (fun a => { a with conv := none }) s)
      else setAwl n (fun a => { a with conv := none }) s).awl := by
    show ∃ t, execAwlConversionDone n count s = .next t ∧ _
    simp only [execAwlConversionDone, hc, Nat.not_lt.2 hcount, if_false]
    refine ⟨_, rfl, ?_⟩
    exact ite_leaves State.awl (sourceTrigger_trigger ..).awl (ite_leaves State.awl rfl rfl)
  obtain ⟨t, ht, hawl⟩ := hx
  refine ⟨t, ht, ?_⟩
  rw [awlIn_congr hawl]
  cases hbit : bit c.cfg 5
  · simp [h1]
  · rw [if_pos rfl, hq, hq', h1]
    simp

theorem awlPairTakeover_next {s : State} {n : Nat} (ht : (awlIn s n).takeover = true) (hc : (awlIn s n).conv = none) :
    ∃ t, exec (.awlPairTakeover n) s = .next t ∧ (awlIn t n).pair = !(awlIn s n).pair ∧
      ∀ x, (awlIn s n).second = some x → deltaOk x = true →
        (awlIn t n).takeover = true ∧ (if (awlIn s n).pair then (awlIn t n).dt1 else (awlIn t n).dt0) = x := by
  have hin : awlIn (setAwl n AwlInput.swap s) n = (awlIn s n).swap := awlIn_setAwl _ (lt_of_takeover ht)
  refine ⟨endAwlRound (setAwl n AwlInput.swap s), congrArg Host.Outcome.next (if_pos (by simp [ht, hc])), ?_, fun x hx hd => ?_⟩
  · rw [endAwlRound_pair, hin, swap_pair]
  · have hr := swap_ring hx hd
    rw [endAwlRound_waits (any_takeover (n := n) (by rw [hin]; exact hr.1)), hin]
    exact hr

theorem awlBackgroundCal_next {s : State} {l : List (Nat × Nat)} {x : Nat} (hs : s.awl.length = 11)
    (hp : fld (rwGet s 0x6040) 15 0 ≠ 0) (hb : bgOn s = true) (hf : foreground s 15 = false) (hr : s.cal.awlRound = none) :
    ∃ t, exec (.awlBackgroundCal l x) s = .next t ∧ ∀ n, n < 11 → deltaOk (l.getD n (0, 0)).1 = true →
      (awlIn t n).takeover = true ∧ (awlIn t n).pair = (awlIn s n).pair ∧
      (if (awlIn s n).pair then (awlIn t n).dt0 else (awlIn t n).dt1) = (l.getD n (0, 0)).1 := by
  refine ⟨_, congrArg Host.Outcome.next (if_neg (by simp [hp, hb, hf, hr])), fun n hn hd => ?_⟩
  have hl : n < l.length := by
    by_contra h
    rw [List.getD_eq_default _ _ (by omega)] at hd
    exact absurd hd (by decide)
  have hin : awlIn (ringRound l { s with cal := { s.cal with awlRound := some (x, ringsRefused l) } }) n =
      (awlIn s n).round (l.getD n (0, 0)) :=
    awlIn_ringRound (s := { s with cal := { s.cal with awlRound := some (x, ringsRefused l) } })
      (show n < s.awl.length by omega) hl
  have hsp := round_spare (a := awlIn s n) hd
  rw [endAwlRound_waits (any_takeover (n := n) (by rw [hin]; exact hsp.1)), hin]
  exact hsp

/-- Settles O44: each event by what the input holds. -/
theorem awlEdges : Obligations.AwlEdges := by
  refine fun s hs => ⟨fun n f hn => tinEdge_accepted hs.awl hn, fun n f hn hc he hh hb => ?dead, fun f hb => ?loopback,
    fun n count c hn => awlConversionDone_next hs.awl hn, fun n => awlPairTakeover_next, fun l x hr => ?round,
    fun l x => awlBackgroundCal_next hs.awl⟩
  case dead =>
    show execTinEdge n f s = _
    have h10 : n ≠ 10 := by omega
    simp only [execTinEdge, h10, if_false, hn, decide_true, hc, he, hh, hb, Bool.and_self, if_true, awlEdge]
  case loopback =>
    obtain ⟨c, hacc⟩ := awlAccept_in (s := s) (n := 10) f (by rw [hs.awl]; decide)
    refine ⟨awlAccept 10 f s, ?_, by rw [hacc], by rw [hacc]; rfl⟩
    show execTinEdge 10 f s = _
    simp only [execTinEdge, if_true, awlEdge, hb, Bool.false_eq_true, if_false]
  case round => exact congrArg Host.Outcome.next (if_pos (by simp [hr]))

end Sys2Proof.Machine
end

section
/-!
SUPPORT. The aux sequencer (R293, R295).
-/
namespace Sys2Proof.Machine

-- one theorem after the other: the threads of many at once need more memory than the check has
set_option Elab.async false

/-- An entry of the results reads a time, which is the present one. -/
def EntryAt (n : Nat) (w : Word) (s : State) : Prop := n < s.aux.results.length ∧ (auxEntry s n).word0 = w ∧ now s = w

theorem entryAt_congr {n : Nat} {w : Word} {s t : State} (hr : t.aux.results = s.aux.results) (ht : t.tb = s.tb) (h : EntryAt n w s) :
    EntryAt n w t := by
  obtain ⟨hl, hw, hnow⟩ := h
  have hn : now t = now s := by rw [now, ht]; rfl
  have he : auxEntry t n = auxEntry s n := by rw [auxEntry, hr]; rfl
  exact ⟨by rwa [hr], by rw [he, hw], by rw [hn, hnow]⟩

/-- An entry that is written, at the present time, keeps its place, whichever entry it is. -/
theorem entryAt_set {n m : Nat} {w : Word} {f : AuxEntry → AuxEntry} {s : State} (hl : n < s.aux.results.length)
    (hw : now s = w) (hf : (f (auxEntry s m)).word0 = now s) (h : m ≠ n → (auxEntry s n).word0 = w) :
    EntryAt n w (setAuxEntry m f s) := by
  refine ⟨by simpa [setAuxEntry, setAux, upd] using hl, ?_, hw⟩
  show ((s.aux.results.modify m f).getD n AuxEntry.init).word0 = w
  by_cases hm : m = n
  · subst hm
    rw [auxEntry, List.getD_eq_getElem _ _ hl, hw] at hf
    simpa [List.getD_eq_getElem?_getD, List.getElem?_modify, hl] using hf
  · have h' := h hm
    rw [auxEntry, List.getD_eq_getElem _ _ hl] at h'
    simpa [List.getD_eq_getElem?_getD, List.getElem?_modify, hl, hm] using h'

theorem entryAt_setAux {n : Nat} {w : Word} {s : State} (f : Aux → Aux) (hf : (f s.aux).results = s.aux.results) (h : EntryAt n w s) :
    EntryAt n w (setAux f s) := entryAt_congr hf rfl h

theorem entryAt_post {n : Nat} {w : Word} {s : State} (e d : Nat) (h : EntryAt n w s) : EntryAt n w (post e d s) :=
  entryAt_congr rfl rfl h

theorem entryAt_postIf {n : Nat} {w : Word} {s : State} (c : Bool) (e d : Nat) (h : EntryAt n w s) : EntryAt n w (postIf c e d s) :=
  entryAt_congr (by rw [postIf_aux]) (by rw [postIf_tb]) h

theorem entryAt_foldl {α : Type} {n : Nat} {w : Word} {f : State → α → State} (hf : ∀ t x, EntryAt n w t → EntryAt n w (f t x))
    (l : List α) {s : State} (h : EntryAt n w s) : EntryAt n w (l.foldl f s) := by
  induction l generalizing s with
  | nil => exact h
  | cons x l ih => exact ih (hf s x h)

theorem entryAt_noInput {n m : Nat} {s : State} (h : EntryAt n w s) : EntryAt n w (noInput m s) :=
  entryAt_set h.1 h.2.2 rfl fun _ => h.2.1

theorem entryAt_passEnd {n : Nat} {w : Word} {s : State} (h : EntryAt n w s) : EntryAt n w (passEnd s) :=
  entryAt_postIf _ _ _ (entryAt_setAux _ rfl h)

theorem entryAt_runOver {n : Nat} {w : Word} {s : State} (h : EntryAt n w s) : EntryAt n w (runOver s).2 := by
  unfold runOver
  split
  · exact entryAt_setAux _ rfl h
  · exact entryAt_setAux _ rfl h

theorem entryAt_goOn {n : Nat} {w : Word} (fuel m : Nat) {s : State} (h : EntryAt n w s) : EntryAt n w (goOn fuel m s) := by
  induction fuel generalizing m s with
  | zero => exact entryAt_setAux _ rfl h
  | succ k ih =>
    unfold goOn
    dsimp only
    split
    · split
      · split
        · exact ih _ (entryAt_runOver (entryAt_passEnd h))
        · exact entryAt_runOver (entryAt_passEnd h)
      · exact ih _ (entryAt_passEnd h)
    · split
      · exact ih _ h
      · split
        · exact ih _ (entryAt_noInput h)
        · exact entryAt_setAux _ rfl h

theorem entryAt_switchStep {n : Nat} {w : Word} {s : State} (b : Bool) (x : Int) (i : Nat) (h : EntryAt n w s) :
    EntryAt n w (switchStep b x i s) := by
  unfold switchStep
  dsimp only
  split
  · exact h
  · exact entryAt_post _ _ (entryAt_setAux _ rfl h)

/-- The entry that converts reads the time of its conversion. -/
theorem entryAt_convert {x : AuxSample} {s : State} (hl : s.aux.entry < s.aux.results.length) :
    EntryAt s.aux.entry (now s) (convert x s) := by
  unfold convert
  extract_lets c n smp w check e b settling compared impl s1 s2 pin s3 s4 s5 s6
  have h1 : EntryAt n (now s) s1 := entryAt_set hl rfl rfl fun h => absurd rfl h
  have h2 : EntryAt n (now s) s2 := entryAt_foldl (fun t _ ht => entryAt_post _ _ ht) _ h1
  have h3 : EntryAt n (now s) s3 := entryAt_postIf _ _ _ (entryAt_postIf _ _ _ h2)
  have h4 : EntryAt n (now s) s4 := entryAt_postIf _ _ _ (entryAt_postIf _ _ _ h3)
  have h5 : EntryAt n (now s) s5 := entryAt_postIf _ _ _ h4
  have h6 : EntryAt n (now s) s6 := by
    show EntryAt n (now s) (if _ then _ else _)
    split
    · exact h5
    · exact entryAt_foldl (fun t i ht => entryAt_switchStep _ _ _ ht) _ h5
  exact entryAt_setAux _ rfl (entryAt_setAux _ rfl h6)

/-! ### Records of the aux front end -/

theorem dropTrackers_aux (d : Side) (m : Nat) (s : State) :
    (dropTrackers d m s).aux = s.aux ∧ (dropTrackers d m s).tb = s.tb := by
  unfold dropTrackers
  dsimp only
  split
  · exact ⟨rfl, rfl⟩
  · exact ⟨rfl, rfl⟩

theorem applyRecord_aux (g : Nat) (p : List Word) (s : State) :
    (applyRecord g p s).aux = s.aux ∧ (applyRecord g p s).tb = s.tb := by
  unfold applyRecord
  dsimp only
  split
  · unfold takeSlices changeLane watchExcl
    dsimp only [bothSides]
    simp only [dropTrackers_aux]
    exact ⟨rfl, rfl⟩
  · exact ⟨rfl, rfl⟩

theorem entryAt_applyAux {n : Nat} {w : Word} {s : State} (h : EntryAt n w s) : EntryAt n w (applyAux s) := by
  unfold applyAux
  split
  · refine entryAt_setAux _ rfl (entryAt_foldl (fun t w ht => ?_) _ (entryAt_congr rfl rfl h))
    exact entryAt_congr (by rw [(applyRecord_aux w.1 w.2 t).1]) (applyRecord_aux w.1 w.2 t).2 ht
  · exact h

theorem auxConversionEnd_next {x : AuxSample} {s : State} (hp : s.aux.phase = .converting) (he : s.aux.entry < 64)
    (hr : s.aux.results.length = 64) :
    ∃ t, exec (.auxConversionEnd x) s = .next t ∧ (auxEntry t s.aux.entry).word0 = now s := by
  have h1 : EntryAt s.aux.entry (now s) (applyAux (convert x s)) := entryAt_applyAux (entryAt_convert (by omega))
  suffices h : ∃ t, exec (.auxConversionEnd x) s = .next t ∧ EntryAt s.aux.entry (now s) t by
    obtain ⟨t, ht, _, hw, _⟩ := h
    exact ⟨t, ht, hw⟩
  refine ⟨_, congrArg Host.Outcome.next (if_neg (by simp [hp])), ?_⟩
  dsimp only
  split
  · exact entryAt_setAux _ rfl h1
  · split
    · exact entryAt_goOn _ _ h1
    · exact h1

/-! ### Triggers of the sequencer -/

section
variable {s : State} (h2 : auxSource (cfgFree s) = 2) (hper : auxPeriod (cfgFree s) ≠ 0)
  (htr : auxTriggered (cfgFree s) = true) (hready : isReady s = true)
include h2 hper htr hready

theorem auxTimerTrigger_starts (hp : s.aux.phase = .waiting) (hpa : s.aux.paused = false) : exec .auxTimerTrigger s = .next
    (goOn (passFuel (cfgFree s)) 0 { s with aux := { s.aux with overrunUp := false } }) := by
  refine congrArg Host.Outcome.next ((if_pos (by simp [h2, hper])).trans ?_)
  simp [auxTrigger, htr, hready, hp, hpa, setAux]

theorem auxTimerTrigger_kept (hp : s.aux.phase = .converting) (hk : s.aux.pendingTr = false) :
    exec .auxTimerTrigger s = .next { s with aux := { s.aux with pendingTr := true } } := by
  refine congrArg Host.Outcome.next ((if_pos (by simp [h2, hper])).trans ?_)
  simp [auxTrigger, htr, hready, hp, hk, setAux]

theorem auxTimerTrigger_counted (hp : s.aux.phase = .converting) (hk : s.aux.pendingTr = true) (ho : s.aux.overrunUp = true) :
    exec .auxTimerTrigger s = .next { s with aux := { s.aux with overrun := sat 16 (s.aux.overrun + 1) } } := by
  refine congrArg Host.Outcome.next ((if_pos (by simp [h2, hper])).trans ?_)
  simp [auxTrigger, htr, hready, hp, hk, ho, setAux, postIf]

end

/-- Settles O55: by the phase of the sequencer. -/
theorem auxEvents : Obligations.AuxEvents := by
  refine fun s => ⟨fun hp hpa => ?settled, fun h => ?idle, fun x => auxConversionEnd_next, fun x hp => ?none,
    fun h2 hper htr hready => ⟨auxTimerTrigger_starts h2 hper htr hready, auxTimerTrigger_kept h2 hper htr hready,
      auxTimerTrigger_counted h2 hper htr hready⟩⟩
  case settled => exact congrArg Host.Outcome.next (if_pos (by simp [hp, hpa]))
  case idle => exact congrArg Host.Outcome.next (if_neg (by rcases h with h | h <;> simp [h]))
  case none => exact congrArg Host.Outcome.next (if_pos (by simp [hp]))

end Sys2Proof.Machine
end

section
/-!
SUPPORT. The stream link, its frames and timers (R312 to R322).
-/
namespace Sys2Proof.Machine

-- one theorem after the other: the threads of many at once need more memory than the check has
set_option Elab.async false

/-! ### The event log -/

/-- A push puts at most one entry into the log's queue. -/
theorem push_logQ (e : Events) (n d : Nat) (tag : Word) (u x l : Bool) :
    (e.push n d tag u x l).logQ.length ≤ e.logQ.length + 1 := by
  unfold Events.push
  dsimp only
  split
  · simp
  · omega

theorem post_logQ (n d : Nat) (s : State) : (post n d s).evq.logQ.length ≤ s.evq.logQ.length + 1 := push_logQ ..

theorem finish_logQ (r : Res) (st : Nat) (l : List Word) (s : State) :
    (finish r st l s).evq.logQ.length ≤ s.evq.logQ.length + 1 := by
  unfold finish
  split
  · exact post_logQ ..
  · omega

/-! ### The frame that is sent -/

/-- The frame being sent, with its end, the SEQ that follows, the credits and the count. -/
def sendView (s : State) : Option (Frame × BitVec 11) × Nat × BitVec 11 × Nat × BitVec 32 :=
  (s.strm.sending, s.strm.sendEnd, s.strm.seq, s.strm.credits, s.strm.sent)

theorem sendView_eq {s t : State} (h : t.strm = s.strm) : sendView t = sendView s := by rw [sendView, h]; rfl

theorem sendView_watchMarks (s : State) : sendView (watchMarks s) = sendView s := ite_leaves _ rfl rfl

theorem sendView_overflowed (f : Frame) (s : State) : sendView (overflowed f s) = sendView s :=
  ite_leaves _ (ite_leaves _ rfl (sendView_watchMarks _)) (ite_leaves _ rfl rfl)

theorem sendView_beginEpisode (d : Nat) (s : State) : sendView (beginEpisode d s) = sendView s := ite_leaves _ rfl rfl

theorem sendView_fillRisen (s : State) : sendView (fillRisen s) = sendView s := by
  unfold fillRisen
  extract_lets hi s1
  have h1 : sendView s1 = sendView s := ite_leaves _ rfl rfl
  exact ite_leaves _ ((sendView_beginEpisode 1 s1).trans h1) h1

theorem sendView_enqueue (f : Frame) (s : State) : sendView (enqueue f s) = sendView s := by
  unfold enqueue
  refine ite_leaves _ rfl (ite_leaves _ rfl (ite_leaves _ (sendView_overflowed f s) (ite_leaves _ rfl (ite_leaves _ ?_ ?_))))
  · exact (sendView_fillRisen _).trans rfl
  · exact (sendView_overflowed f _).trans (sendView_beginEpisode 0 s)

theorem sendView_sendDrop (f : Frame) (s : State) : sendView (sendDrop f s) = sendView s :=
  ite_leaves _ ((sendView_enqueue f _).trans rfl) rfl

theorem sendView_fillFallen (s : State) : sendView (fillFallen s) = sendView s := by
  unfold fillFallen
  extract_lets t on ov sh s1
  exact ite_leaves _ ((sendView_sendDrop _ _).trans rfl) rfl

theorem eccCorr_strm (p a : Nat) (b : Bool) (s : State) : (eccCorr p a b s).strm = s.strm := by simp [eccCorr]
theorem eccUncorr_strm (p a : Nat) (b : Bool) (s : State) : (eccUncorr p a b s).strm = s.strm := by
  simp [eccUncorr, duringSurge]

theorem wordsFound_strm (port : Nat) (acc : Access) (a n : Nat) (s : State) : (wordsFound port acc a n s).strm = s.strm := by
  refine (foldl_leaves State.strm (fun t i => ?_) _ _).trans rfl
  split
  · exact eccCorr_strm ..
  · exact eccUncorr_strm ..
  · rfl

theorem blockRead_strm (port : Nat) (acc : Access) (a n : Nat) (s : State) : (blockRead port acc a n s).strm = s.strm :=
  ite_leaves State.strm (wordsFound_strm ..) rfl

/-- Frames that the FIFO takes from DRAM come from its tail. -/
theorem sendView_pulled {t u : Stream} {f : Frame} (h : t.pulled = some (f, u)) : u.sending = t.sending ∧
    u.sendEnd = t.sendEnd ∧ u.seq = t.seq ∧ u.credits = t.credits ∧ u.sent = t.sent := by
  unfold Stream.pulled at h
  split at h <;> (try split at h) <;> cases h <;> exact ⟨rfl, rfl, rfl, rfl, rfl⟩

theorem sendView_refill (n : Nat) (s : State) : sendView (refill n s) = sendView s := by
  induction n generalizing s with
  | zero => rfl
  | succ n ih =>
    unfold refill
    split
    · rfl
    next f t h =>
      obtain ⟨h1, h2, h3, h4, h5⟩ := sendView_pulled h
      refine (ih _).trans ((sendView_eq (blockRead_strm ..)).trans ?_)
      simp only [sendView, h1, h2, h3, h4, h5]

theorem sendView_drain (s : State) : sendView (drain s) = sendView s :=
  (sendView_fillFallen _).trans (sendView_refill ..)

/-! ### The link -/

theorem cutFrame_evq (s : State) : (cutFrame s).evq = s.evq := rfl

theorem latFcLoss_waits {s : State} (hu : s.strm.state = .up) (hw : s.strm.trainWait = false) :
    ∃ t, exec .latFcLoss s = .next t ∧ t.strm.state = .down ∧ t.strm.fcLocked = false ∧
      t.evq = (post evStreamDown 0 s).evq := by
  refine ⟨_, congrArg Host.Outcome.next ((if_neg (by simp [hu])).trans (if_neg (by simp [hw]))), rfl, rfl, rfl⟩

theorem latFcLoss_trains {s : State} (hu : s.strm.state = .up) (hw : s.strm.trainWait = true) :
    ∃ t, exec .latFcLoss s = .next t ∧ t.strm.state = .training ∧ t.strm.fcLocked = false ∧ t.strm.trainWait = false ∧
      t.evq = (post evStreamDown 0 s).evq := by
  refine ⟨_, congrArg Host.Outcome.next ((if_neg (by simp [hu])).trans (if_pos hw)), rfl, rfl, rfl, rfl⟩

theorem latFcTrainingStatus_up {s : State} (hf : s.strm.fcLocked = true) (ht : s.strm.state = .training)
    (hn : 63 ≤ s.strm.okRun) : ∃ t, exec (.latFcTrainingStatus 0xFF) s = .next t ∧ t.strm.state = .up ∧ t.strm.credits = 0 ∧
      t.strm.everUp = true ∧ t.strm.laneOk = 0xFF := by
  have hx : exec (.latFcTrainingStatus 0xFF) s = .next (linkUp (setStrm (fun t => { t with
      laneOk := 0xFF, okRun := if (0xFF : BitVec 8) = 0xFF then t.okRun + 1 else 0 }) s)) := by
    show execLatFcTrainingStatus 0xFF s = _
    have h64 : 64 ≤ s.strm.okRun + 1 := by omega
    simp only [execLatFcTrainingStatus, hf, ht, Bool.not_true, Bool.false_eq_true, if_false, setStrm_strm, if_true, h64]
  refine ⟨_, hx, ?_⟩
  simp [linkUp]

theorem latFcTrainingStatus_bad {s : State} {x : BitVec 8} (hf : s.strm.fcLocked = true) (ht : s.strm.state = .training)
    (hx : x ≠ 0xFF) : exec (.latFcTrainingStatus x) s =
      .next { s with strm := { s.strm with laneOk := x, okRun := 0 } } := by
  have h64 : ¬ 64 ≤ 0 := by decide
  show execLatFcTrainingStatus x s = _
  simp only [execLatFcTrainingStatus, hf, ht, Bool.not_true, Bool.false_eq_true, if_false, setStrm_strm, hx, h64]
  simp only [setStrm, ht, hf]

theorem streamTrainingTimeout_down {s : State} (ht : s.strm.state = .training) :
    ∃ t, exec .streamTrainingTimeout s = .next t ∧ t.strm.state = .down ∧ t.strm.driven = false ∧
      t.evq.logQ.length ≤ s.evq.logQ.length + 2 := by
  refine ⟨_, if_pos ht, by simp, by simp, ?_⟩
  refine (finish_logQ ..).trans (Nat.add_le_add_right (post_logQ ..) 1)

theorem creditGrant_next {s : State} {n : Nat} (h0 : n ≠ 0) (hn : n ≤ 255) (hf : s.strm.fcLocked = true) :
    exec (.creditGrant n) s = .next { s with strm := { s.strm with
      credits := min 255 (s.strm.credits + n)
      creditErr := if 255 < s.strm.credits + n then sat 16 (s.strm.creditErr + 1) else s.strm.creditErr } } :=
  if_neg (by simp [h0, hf, hn])

/-! ### Frames -/

section
variable {s : State} (hu : s.strm.state = .up) (hc : s.strm.credits ≠ 0) (hw : s.strm.trainWait = false)
  (hi : inProgress s = false)
include hu hc hw hi

theorem frameSend_queued {f : Frame} {r : List Frame} (hr : s.strm.resend = none) (hq : s.strm.fifo = f :: r) :
    ∃ t, exec .frameSend s = .next t ∧ t.strm.sending = some (f, s.strm.seq) ∧ t.strm.seq = s.strm.seq + 1 ∧
      t.strm.credits = s.strm.credits - 1 ∧ t.strm.sent = s.strm.sent + 1 ∧ t.strm.sendEnd = s.tb.mono + frameCycles s f := by
  have hx : exec .frameSend s = .next (drain (startFrame f s.strm.seq false (setStrm (fun t => { t with fifo := r }) s))) := by
    show execFrameSend s = _
    simp [execFrameSend, hu, hc, hw, hi, hr, hq]
  have hv := sendView_drain (startFrame f s.strm.seq false (setStrm (fun t => { t with fifo := r }) s))
  simp only [sendView, Prod.mk.injEq] at hv
  obtain ⟨h1, h2, h3, h4, h5⟩ := hv
  exact ⟨_, hx, h1, h3, h4, h5, h2⟩

theorem frameSend_resent {f : Frame} {q : BitVec 11} (hr : s.strm.resend = some (f, q)) :
    ∃ t, exec .frameSend s = .next t ∧ t.strm.sending = some (f, q) ∧ t.strm.seq = s.strm.seq ∧ t.strm.resend = none ∧
      t.strm.credits = s.strm.credits - 1 ∧ t.strm.resent = sat 16 (s.strm.resent + 1) := by
  have hx : exec .frameSend s = .next (startFrame f q true (setStrm (fun t => { t with resend := none }) s)) := by
    show execFrameSend s = _
    simp [execFrameSend, hu, hc, hw, hi, hr]
  exact ⟨_, hx, rfl, rfl, rfl, rfl, rfl⟩

end

theorem frameSend_waits {s : State} (h : s.strm.credits = 0 ∨ inProgress s = true) : exec .frameSend s = .next s :=
  congrArg Host.Outcome.next (if_neg (by rcases h with h | h <;> simp [h]))

/-- Settles O56: the link by its state, a frame by credits and what waits. -/
theorem streamEvents : Obligations.StreamEvents := by
  refine ⟨fun s => ⟨rfl, latFcLoss_waits, latFcLoss_trains, fun h => ?noLink, latFcTrainingStatus_up,
      fun x => latFcTrainingStatus_bad, fun x h => if_pos (by simp [h]), streamTrainingTimeout_down, fun h => if_neg h,
      fun n => creditGrant_next, rfl⟩,
    fun s => ⟨fun f r hu hc hw hi => frameSend_queued hu hc hw hi, fun f q hu hc hw hi => frameSend_resent hu hc hw hi,
      frameSend_waits, fun hu hc hf h0 hs => ?stall, fun hu hw hi => ?idle, fun hu => ⟨?noIdle, ?noFrame⟩, rfl, rfl⟩⟩
  case noLink => exact congrArg Host.Outcome.next (if_pos h)
  case stall => exact congrArg Host.Outcome.next (if_pos (by simp [hu, hc, hf, h0, hs]))
  case idle => exact congrArg Host.Outcome.next (if_pos (by simp [hu, hw, hi]))
  case noIdle => exact congrArg Host.Outcome.next (if_neg (by simp [hu]))
  case noFrame => exact congrArg Host.Outcome.next (if_neg (by simp [hu]))

end Sys2Proof.Machine
end

section
/-!
SUPPORT. DRAM housekeeping (R331, R337 to R342).
-/
namespace Sys2Proof.Machine

-- one theorem after the other: the threads of many at once need more memory than the check has
set_option Elab.async false

theorem ages_some (n : Nat) : ages (some n) = if n < 7 then some (n + 1) else none := rfl

/-- In panic a refresh interval postpones what is due at it. -/
theorem dramRefreshDue_panic {s : State} (hu : s.mem.usable = true) (hp : s.mem.panic = true) :
    exec .dramRefreshDue s = .next (setMem Mem.postpone (readMr4 s)) :=
  congrArg Host.Outcome.next ((if_neg (by simp [hu])).trans (if_pos hp))

theorem postpone_below {m : Mem} (h : m.postponed < 8) :
    m.postpone.postponed = m.postponed + 1 ∧ m.postpone.mostPost = max m.mostPost (m.postponed + 1) := by
  simp [Mem.postpone, h]

theorem postpone_full {m : Mem} (h : m.postponed = 8) :
    m.postpone.postponed = 8 ∧ m.postpone.mostPost = m.mostPost := by
  simp [Mem.postpone, h]

theorem eccUncorr_counts (port a : Nat) (patrol : Bool) (s : State) :
    (eccUncorr port a patrol s).mem.uncorr = sat 32 (s.mem.uncorr + 1) ∧ (eccUncorr port a patrol s).mem.eccAddr = a ∧
      (eccUncorr port a patrol s).mem.corr = s.mem.corr := by
  simp [eccUncorr, duringSurge]

section
variable {s : State}

theorem dramPanicBegin_next {a b : Nat} (hu : s.mem.usable = true) (hh : panicHi s ≠ 0) (hn : inNeed s a b ≠ 0)
    (hp : s.mem.panic = false) : exec (.dramPanicBegin a b) s = .next { s with mem := { s.mem with
      rt0 := min 16 a, panic := true, panicWho := inNeed s a b, panicTold := false, mostPost := s.mem.postponed
      panics := sat 16 (s.mem.panics + 1), selfRefresh := false } } := by
  have hword : ¬ inNeed s a b = 0#2 := hn
  exact congrArg Host.Outcome.next ((if_neg (by simp [hu, hh, hword])).trans (if_neg (by simp [hp])))

theorem patrolScrub_runs (hu : s.mem.usable = true) (he : s.mem.ecc = true) (hh : scrubHours s ≠ 0)
    (hp : s.mem.panic = false) (l : List (Nat × Bool)) : exec (.patrolScrub l) s = .next
      ((l.filter fun e => e.1 < usableCap s).foldl (fun s e =>
        let port := Config.free 342 s.drawn % 4
        let s1 := { s with drawn := s.drawn + 1 }
        if e.2 then eccUncorr port e.1 true s1 else eccCorr port e.1 true s1) (wakeMem s)) :=
  congrArg Host.Outcome.next (if_pos (by simp [hu, he, hh, hp]))

theorem patrolScrub_uncorr {a : Nat} (hu : s.mem.usable = true) (he : s.mem.ecc = true) (hh : scrubHours s ≠ 0)
    (hp : s.mem.panic = false) (ha : a < usableCap s) : ∃ t, exec (.patrolScrub [(a, true)]) s = .next t ∧
      t.mem.uncorr = sat 32 (s.mem.uncorr + 1) ∧ t.mem.eccAddr = a ∧ t.mem.corr = s.mem.corr := by
  have hf : [(a, true)].filter (fun e => decide (e.1 < usableCap s)) = [(a, true)] := by simp [ha]
  refine ⟨_, patrolScrub_runs hu he hh hp _, ?_⟩
  rw [hf]
  simp only [List.foldl_cons, List.foldl_nil, if_true]
  exact eccUncorr_counts ..

end

/-- Settles O57: what is due by the panic that postpones it. -/
theorem dramEvents : Obligations.DramEvents := by
  refine fun s => ⟨fun hu hp => ⟨?zq, ?dqs, _, dramRefreshDue_panic hu hp, fun h => postpone_below h, fun h => postpone_full h,
      fun n hn => ?zqAges, fun n hn => ?dqsAges, rfl, rfl⟩, fun hu hp => ?refresh, fun hp => ⟨?noZq, ?noDqs⟩, fun hu => ?lost,
    fun a b => dramPanicBegin_next, fun a b hp ha hb => ?panicEnd, fun hp ht => ?longPanic, fun hu hi hp hr => ?selfRefresh,
    fun a n hu => ?timeout, fun f a n hu => ?noTimeout, fun l hp => ?noPatrol,
    fun hu he hh hp => ⟨patrolScrub_runs hu he hh hp [], fun a => patrolScrub_uncorr hu he hh hp⟩⟩
  case zq => exact congrArg Host.Outcome.next (if_pos (by simp [hu, hp]))
  case dqs => exact congrArg Host.Outcome.next (if_pos (by simp [hu, hp]))
  case zqAges => exact (congrArg ages hn).trans (ages_some n)
  case dqsAges => exact (congrArg ages hn).trans (ages_some n)
  case refresh => exact congrArg Host.Outcome.next ((if_neg (by simp [hu])).trans (if_neg (by simp [hp])))
  case noZq => exact congrArg Host.Outcome.next (if_neg (by simp [hp]))
  case noDqs => exact congrArg Host.Outcome.next (if_neg (by simp [hp]))
  case lost => exact congrArg Host.Outcome.next (if_pos (by simp [hu]))
  case panicEnd => exact congrArg Host.Outcome.next (if_pos (by simp [hp, ha, hb]))
  case longPanic => exact congrArg Host.Outcome.next (if_pos (by simp [hp, ht]))
  case selfRefresh =>
    exact ⟨_, congrArg Host.Outcome.next (if_pos (by simp [hu, hi, hp, hr])), by rw [postIf_mem]; rfl, by rw [postIf_mem]; rfl⟩
  case timeout => exact congrArg Host.Outcome.next (if_neg (by simp [hu]))
  case noTimeout => exact congrArg Host.Outcome.next (if_pos (by simp [hu]))
  case noPatrol => exact congrArg Host.Outcome.next (if_neg (by simp [hp]))

end Sys2Proof.Machine
end

section
/-!
SUPPORT. The ends of transfers (R215, R265, R343) and of the works of the update path (R392 to R394).
-/
namespace Sys2Proof.Machine

-- one theorem after the other: the threads of many at once need more memory than the check has
set_option Elab.async false

/-! ### Reads and fills -/

theorem found_ok (s : State) (a : Nat) : found s a .ok = .ok := by simp [found]

theorem found_timeout (s : State) (a : Nat) : found s a .timeout = .timeout := by simp [found]

theorem memReadDone_ok {s : State} {k a n : Nat} (hk : s.brg.slots[k]? = some (.running (.memRead a n)))
    (hs : stalled s a = false) : exec (.memReadDone k .ok) s =
      .next (slotDone k stOk (hostWords s a n) (wakeAt a { s with drawn := s.drawn + n })) := by
  show execMemReadDone k .ok s = _
  simp only [execMemReadDone, hk, hs, Bool.false_eq_true, if_false, found_ok, readDone, accessGood, if_true, accessDone,
    hostWords_wakeAt]
  rw [wakeAt_eq, wakeAt_eq]

theorem memReadDone_timeout {s : State} {k a n : Nat} (hk : s.brg.slots[k]? = some (.running (.memRead a n)))
    (hs : stalled s a = false) : exec (.memReadDone k .timeout) s = .next (slotDone k stInternal []
      (wakeAt a { s with mem := { s.mem with timeouts := sat 16 (s.mem.timeouts + 1) } })) := by
  show execMemReadDone k .timeout s = _
  simp only [execMemReadDone, hk, hs, Bool.false_eq_true, if_false, found_timeout, readDone, accessGood, accessDone]
  rfl

theorem memPut_append (m : List Host.Cell) (a : Nat) (l r : List Byte) :
    memPut m a (l ++ r) = memPut (memPut m a l) (a + l.length) r := by
  induction l generalizing m a with
  | nil => rfl
  | cons x l ih =>
    rw [List.cons_append, memPut, memPut, ih, List.length_cons]
    congr 1
    omega

theorem memPutWords_append (m : List Host.Cell) (a : Nat) (l r : List Word) :
    memPutWords m a (l ++ r) = memPutWords (memPutWords m a l) (a + 8 * l.length) r := by
  rw [memPutWords, List.flatMap_append, memPut_append, length_flatMap_wordBytes]
  rfl

/-- Nothing but the fill engine waits for the bulk port. -/
structure FillServed (s : State) : Prop where
  panic : s.mem.panic = false
  host  : hostWaits s = false
  chans : ∀ n, n < 16 → burstPending s n = false

theorem levelChans_fill {s : State} (h : FillServed s) (hf : burstPending s 16 = true) (p : Nat) :
    levelChans s p = if p = 0 then [16] else [] := by
  have h16 : chanPrio s 16 = 0 := rfl
  have hnone : (List.range 16).filter (fun n => burstPending s n && decide (chanPrio s n = p)) = [] :=
    List.filter_eq_nil_iff.2 fun n hn => by simp [h.chans n (List.mem_range.1 hn)]
  rw [levelChans, show List.range 17 = List.range 16 ++ [16] from rfl, List.filter_append, hnone, List.nil_append]
  by_cases hp : p = 0
  · subst hp; simp [hf, h16]
  · simp [h16, Ne.symm hp, hp]

theorem serveLevel_fill {s : State} (h : FillServed s) (hf : burstPending s 16 = true) :
    ∃ turn, serveLevel s 0 = some (16, turn) := by
  rw [serveLevel, levelChans_fill h hf, if_pos rfl]
  split
  next ht =>
    have h16 : (s.dma.turns.getD 0 (0, 0)).1 = 16 := by simpa using (Bool.and_eq_true_iff.1 ht).1
    exact ⟨_, by rw [h16]⟩
  · generalize (s.dma.turns.getD 0 (0, 0)).1 = last
    by_cases hl : last < 16
    · exact ⟨(16, 1), by simp [hl]⟩
    · exact ⟨(16, 1), by simp [hl]⟩

theorem serveLevel_none {s : State} (h : FillServed s) (hf : burstPending s 16 = true) {p : Nat} (hp : p ≠ 0) :
    serveLevel s p = none := by
  rw [serveLevel, levelChans_fill h hf, if_neg hp]
  rfl

/-- The fill engine is granted its next burst. -/
theorem serve_fill {s : State} {a left : Nat} {v : Word} (h : FillServed s) (hf : s.mem.fill = some (a, left, v))
    (hl : left ≠ 0) : ∃ turn, serve s = some (0, 16, turn) := by
  have hpend : burstPending s 16 = true := by simp [burstPending, hf, hl]
  obtain ⟨turn, ht⟩ := serveLevel_fill h hpend
  refine ⟨turn, ?_⟩
  have hb : ((burstPlaces s 16).any (bulkWaits s)) = false := by simp [burstPlaces, hf, bulkWaits, h.panic, h.host]
  simp [serve, List.findSome?, serveLevel_none h hpend, ht, hb]

/-- What the fill's bursts leave: everything but memory and the turns. -/
structure Filled (s t : State) (a left n : Nat) (v : Word) : Prop where
  rest  : t = { s with mem := t.mem, dma := { s.dma with turns := t.dma.turns } }
  bytes : t.mem.bytes = memPutWords s.mem.bytes a (List.replicate (n / 8) v)
  fill  : t.mem.fill = some (a + n, left - n, v)
  queue : t.mem.fillQ = s.mem.fillQ
  panic : t.mem.panic = s.mem.panic

theorem Filled.served {s t : State} {a left n : Nat} {v : Word} (h : Filled s t a left n v) (hs : FillServed s) : FillServed t := by
  have hr := h.rest
  refine ⟨h.panic.trans hs.panic, ?_, fun k hk => ?_⟩
  · rw [hr]; exact hs.host
  · have hc := hs.chans k hk
    have hne : k ≠ 16 := by omega
    rw [burstPending, if_neg hne] at hc ⊢
    rw [hr]
    exact hc

theorem engineBurst_filled {s : State} {a left : Nat} {v : Word} {p : Nat} {turn : Nat × Nat}
    (hf : s.mem.fill = some (a, left, v)) (hl : left ≠ 0) :
    Filled s (engineBurst .ok (setTurn p turn s)) a left (fillBurst a left) v := by
  have hx : engineBurst .ok (setTurn p turn s) = setMem (fun m => { m with
      fill := some (a + fillBurst a left, left - fillBurst a left, v) })
      (wakeAt a (hostPut a (List.replicate (fillBurst a left / 8) v) (setTurn p turn s))) := by
    have hf' : (setTurn p turn s).mem.fill = some (a, left, v) := hf
    simp only [engineBurst, hf', found_ok, hl, if_false, accessGood, if_true, accessDone]
  rw [hx, wakeAt_eq, hostPut_eq, hostPut_bytes]
  exact ⟨rfl, rfl, rfl, rfl, rfl⟩

theorem Filled.trans {s t u : State} {a left n m : Nat} {v : Word} (h : Filled s t a left n v)
    (k : Filled t u (a + n) (left - n) m v) (hn : n % 8 = 0) : Filled s u a left (n + m) v := by
  refine ⟨?_, ?_, by rw [k.fill, Nat.add_assoc, Nat.sub_sub], k.queue.trans h.queue, k.panic.trans h.panic⟩
  · rw [k.rest, h.rest]
  · have h8 : (n + m) / 8 = n / 8 + m / 8 := by omega
    rw [k.bytes, h.bytes, h8, List.replicate_add, memPutWords_append, List.length_replicate]
    congr 1
    omega

theorem fillBurst_step {a left : Nat} (ha : a % 8 = 0) (hl : left % 8 = 0) (h0 : left ≠ 0) :
    fillBurst a left % 8 = 0 ∧ 8 ≤ fillBurst a left ∧ fillBurst a left ≤ left := by
  unfold fillBurst
  omega

/-- The bursts of a fill that nothing holds up, and its end. -/
theorem fillOn_filled (k : Nat) {s : State} {a left : Nat} {v : Word} (hs : FillServed s)
    (hf : s.mem.fill = some (a, left, v)) (ha : a % 8 = 0) (hl : left % 8 = 0) (hk : left / 8 < k) :
    ∃ u, fillOn k s = endOfFill stOk u ∧ Filled s u a left left v := by
  induction k generalizing s a left with
  | zero => omega
  | succ k ih =>
    by_cases h0 : left = 0
    · subst h0
      exact ⟨s, by simp only [fillOn, hf], rfl, rfl, hf, rfl, rfl⟩
    · obtain ⟨turn, hserve⟩ := serve_fill hs hf h0
      have hstep := engineBurst_filled (p := 0) (turn := turn) hf h0
      obtain ⟨hn8, hn, hnl⟩ := fillBurst_step ha hl h0
      obtain ⟨u, hu, hfill⟩ := ih (hstep.served hs) hstep.fill (by omega) (by omega) (by omega)
      refine ⟨u, ?_, ?_⟩
      · rw [← hu]
        obtain ⟨left', rfl⟩ := Nat.exists_eq_succ_of_ne_zero h0
        simp only [fillOn, hf, hserve]
      · have ht := hstep.trans hfill hn8
        rwa [Nat.add_sub_cancel' hnl] at ht

theorem endOfFill_mem (st : Nat) (s : State) : (endOfFill st s).mem =
    { s.mem with fill := s.mem.fillQ.head?, fillQ := s.mem.fillQ.tail } ∧ (endOfFill st s).drawn = s.drawn := by
  unfold endOfFill
  dsimp only
  split
  · rw [setMem_mem, setMem_drawn, finish_mem, finish_drawn]; exact ⟨rfl, rfl⟩
  · exact ⟨rfl, rfl⟩

theorem memFillDone_filled {s : State} {a left : Nat} {v : Word} (hs : FillServed s) (hf : s.mem.fill = some (a, left, v))
    (ha : a % 8 = 0) (hl : left % 8 = 0) : ∃ t, exec (.memFillDone .ok) s = .next t ∧ t.mem.fill = s.mem.fillQ.head? ∧
      t.mem.fillQ = s.mem.fillQ.tail ∧ t.mem.bytes = memPutWords s.mem.bytes a (List.replicate (left / 8) v) ∧
      t.drawn = s.drawn := by
  suffices h : ∃ u, exec (.memFillDone .ok) s = .next (endOfFill stOk u) ∧ Filled s u a left left v by
    obtain ⟨u, hu, hfill⟩ := h
    obtain ⟨hm, hd⟩ := endOfFill_mem stOk u
    refine ⟨_, hu, by rw [hm, hfill.queue], by rw [hm, hfill.queue], by rw [hm]; exact hfill.bytes, ?_⟩
    rw [hd, hfill.rest]
  show ∃ u, execMemFillDone .ok s = _ ∧ _
  by_cases h0 : left = 0
  · subst h0
    exact ⟨s, by simp only [execMemFillDone, hf, if_true], rfl, rfl, hf, rfl, rfl⟩
  · obtain ⟨turn, hserve⟩ := serve_fill hs hf h0
    have hstep := engineBurst_filled (p := 0) (turn := turn) hf h0
    obtain ⟨hn8, hn, hnl⟩ := fillBurst_step ha hl h0
    obtain ⟨u, hu, hfill⟩ := fillOn_filled (left / 8 + 1) (hstep.served hs) hstep.fill (by omega) (by omega) (by omega)
    refine ⟨u, ?_, ?_⟩
    · simp only [execMemFillDone, hf, h0, if_false, hserve, found_ok, accessGood, if_true, hu]
    · have ht := hstep.trans hfill hn8
      rwa [Nat.add_sub_cancel' hnl] at ht

/-- The fill engine waits for panic, for the host, or for its turn. -/
theorem memFillDone_other {s : State} {a left : Nat} {v : Word} {x : Access} (hf : s.mem.fill = some (a, left, v))
    (hl : left ≠ 0) (h : ∀ p turn, serve s ≠ some (p, 16, turn)) : exec (.memFillDone x) s = .next s := by
  show execMemFillDone x s = _
  simp only [execMemFillDone, hf, hl, if_false]

theorem serve_waits {s : State} {a left : Nat} {v : Word} (hf : s.mem.fill = some (a, left, v)) (hw : bulkWaits s a = true)
    (p : Nat) (turn : Nat × Nat) : serve s ≠ some (p, 16, turn) := by
  intro h
  have hx := (Option.filter_eq_some_iff.1 h).2
  simp [burstPlaces, hf, hw] at hx

/-! ### Works that end without a slot -/

/-- The end of a work that a break-in abandoned frees no slot. -/
theorem endsFor_slots {c : Bool} {f : State → State} {s : State} (hc : c = true) : (endsFor c f s).brg.slots = s.brg.slots := by
  rw [endsFor, if_pos hc]

theorem endsFor_leaves {β : Type} (v : State → β) {f : State → State} (hb : ∀ s b, v { s with brg := b } = v s)
    (hf : ∀ s, v (f s) = v s) (c : Bool) (s : State) : v (endsFor c f s) = v s := by
  unfold endsFor
  exact ite_leaves v ((hb _ _).trans ((hf _).trans (hb _ _))) (hf s)

/-! ### The ends of BASELINE_CAPTURE and HISTORY_DUMP -/

theorem kvGet_kvSet_self {α : Type} [DecidableEq α] (d : α) (l : List (Nat × α)) (a : Nat) {b : α} (hb : b ≠ d) :
    kvGet d (kvSet d l a b) a = b := by
  induction l with
  | nil => simp [kvSet, kvGet, hb]
  | cons x l ih =>
    rw [kvSet]
    split
    · simp [kvGet]
    next hlt =>
      split
      next he => simp [kvGet, he]
      next hne => simpa [kvGet, hne] using ih

theorem dramBytes_base (f : List Host.Cell → List Host.Cell) (s : State) : (dramBytes f s).base = s.base := rfl

theorem dramBytes_brg (f : List Host.Cell → List Host.Cell) (s : State) : (dramBytes f s).brg = s.brg := rfl

theorem captured_ne_none (b : Baseline) (c n : Nat) : b.captured c n ≠ Baseline.none := by
  intro h
  have hs : (b.captured c n).state = 0 := by rw [h]; rfl
  unfold Baseline.captured at hs
  split at hs <;> simp at hs

/-- The state that keeps the captured values. -/
def captureKept (r : Nat) (s : State) : State :=
  setBase r (fun x => x.captured s.tb.mono (groupNoise s (cfgOf s (routeSide r)) (routeSide r)))
    (dramBytes (fun m => memPutWords m (baselineAt r)
      (averageWords (baseline s r) (routeGates (cfgOf s (routeSide r)) r))) s)

theorem captureKept_base (r : Nat) (s : State) : (captureKept r s).base = kvSet Baseline.none s.base r
    ((baseline s r).captured s.tb.mono (groupNoise s (cfgOf s (routeSide r)) (routeSide r))) := by
  rw [captureKept, setBase_base, dramBytes_base, baseline, dramBytes_base]
  rfl

theorem captureKept_brg (r : Nat) (s : State) : (captureKept r s).brg = s.brg := by
  rw [captureKept, setBase_brg, dramBytes_brg]

theorem setDelta_base (r : Nat) (f : Delta → Delta) (s : State) : (setDelta r f s).base = s.base := rfl
theorem setDelta_brg (r : Nat) (f : Delta → Delta) (s : State) : (setDelta r f s).brg = s.brg := rfl

theorem baselineCaptureDone_run {s : State} {r : Nat} (h1 : (baseline s r).state = 1)
    (hd : (baseline s r).want ≤ (baseline s r).done) : exec (.baselineCaptureDone r) s = .next
      (endsFor ((baseline s r).later ≠ []) (finish (.baseline r) stOk
        (captureResult (captureKept r s) (cfgOf s (routeSide r)) r (routeGates (cfgOf s (routeSide r)) r) (baseline s r)))
        (setDelta r (fun _ => Delta.init) (captureKept r s))) := by
  show execBaselineCaptureDone r s = _
  simp only [execBaselineCaptureDone, h1, hd, decide_true, Bool.and_self, if_true, captureKept]

theorem baselineCaptureDone_kept {s : State} {r : Nat} (h1 : (baseline s r).state = 1)
    (hd : (baseline s r).want ≤ (baseline s r).done) : ∃ t, exec (.baselineCaptureDone r) s = .next t ∧
      baseline t r = (baseline s r).captured s.tb.mono (groupNoise s (cfgOf s (routeSide r)) (routeSide r)) ∧
      ((baseline s r).later ≠ [] → t.brg.slots = s.brg.slots) := by
  refine ⟨_, baselineCaptureDone_run h1 hd, ?_, fun hl => ?_⟩
  swap
  · rw [endsFor_slots (by simpa using hl), setDelta_brg, captureKept_brg]
  rw [baseline, endsFor_leaves State.base (fun _ _ => rfl) (fun _ => finish_base ..)]
  rw [setDelta_base, captureKept_base]
  exact kvGet_kvSet_self _ _ _ (captured_ne_none _ _ _)

theorem captured_done (b : Baseline) (c n : Nat) : (b.captured c n).done = 0 ∧ (b.captured c n).noise = n := by
  unfold Baseline.captured
  split <;> exact ⟨rfl, rfl⟩

theorem captured_last {b : Baseline} (h : b.later = []) (c n : Nat) : (b.captured c n).state = 2 := by
  simp [Baseline.captured, h]

theorem captured_again {b : Baseline} {n : Nat} {l : List Nat} (h : b.later = n :: l) (c m : Nat) :
    (b.captured c m).state = 1 ∧ (b.captured c m).prior = 2 ∧ (b.captured c m).want = n ∧ (b.captured c m).later = l := by
  simp [Baseline.captured, h]

/-- Girth's part of the state and the slots. -/
def girthSlots (s : State) : Girth × List Slot := (s.girth, s.brg.slots)

theorem dramBytes_girthSlots (f : List Host.Cell → List Host.Cell) (s : State) : girthSlots (dramBytes f s) = girthSlots s := rfl

theorem wordsFound_girthSlots (port : Nat) (acc : Access) (a n : Nat) (s : State) :
    girthSlots (wordsFound port acc a n s) = girthSlots s := by
  unfold wordsFound
  dsimp only
  refine foldl_leaves girthSlots (fun t i => ?_) _ _
  split
  · simp [eccCorr, girthSlots]
  · simp [eccUncorr, duringSurge, girthSlots]
  · rfl

theorem ringRead_girthSlots (acc : Access) (f : Frame) (s : State) : girthSlots (ringRead acc f s) = girthSlots s := by
  unfold ringRead frameRead blockRead
  exact ite_leaves _ (wordsFound_girthSlots ..) rfl

theorem dumpCopy_girthSlots (l : List Frame) (used drawn : Nat) (d : Dump) (s : State) :
    girthSlots (dumpCopy l used drawn d s).2 = girthSlots s := by
  induction l generalizing used drawn d s with
  | nil => rfl
  | cons f r ih =>
    simp only [dumpCopy]
    split
    · rw [ih, ringRead_girthSlots, dramBytes_girthSlots]
    · rfl

theorem endDump_girth (d : Dump) (s : State) : (endDump d s).girth =
    { s.girth with dump := s.girth.dumpQ.head?, dumpQ := s.girth.dumpQ.tail } :=
  endsFor_leaves State.girth (fun _ _ => rfl) (fun _ => finish_girth ..) _ _

theorem historyDumpDone_next {s : State} {d : Dump} (hd : s.girth.dump = some d) (h : d.left = [] ∨ d.toDram = true) :
    ∃ t, exec .historyDumpDone s = .next t ∧ t.girth.dump = s.girth.dumpQ.head? ∧ t.girth.dumpQ = s.girth.dumpQ.tail ∧
      (s.girth.dumpQ ≠ [] → t.brg.slots = s.brg.slots) ∧ t.girth.ring = s.girth.ring := by
  suffices hx : ∃ e u, exec .historyDumpDone s = .next (endDump e u) ∧ girthSlots u = girthSlots s by
    obtain ⟨e, u, hu, hg⟩ := hx
    obtain ⟨hgirth, hslots⟩ := Prod.mk.inj hg
    refine ⟨_, hu, by rw [endDump_girth, hgirth], by rw [endDump_girth, hgirth], fun hq => ?_, by rw [endDump_girth, hgirth]⟩
    exact (endsFor_slots (by simpa [hgirth] using hq)).trans hslots
  show ∃ e u, execHistoryDumpDone s = _ ∧ _
  simp only [execHistoryDumpDone, hd]
  by_cases ht : d.toDram = true
  · exact ⟨_, _, congrArg Host.Outcome.next (if_pos ht), dumpCopy_girthSlots ..⟩
  · have hl : d.left = [] := h.resolve_right ht
    exact ⟨d, s, congrArg Host.Outcome.next ((if_neg ht).trans (if_pos hl)), rfl⟩

theorem historyDumpDone_waits {s : State} {d : Dump} (hd : s.girth.dump = some d) (hl : d.left ≠ []) (ht : d.toDram = false) :
    exec .historyDumpDone s = .next s := by
  show execHistoryDumpDone s = _
  simp only [execHistoryDumpDone, hd, ht, Bool.false_eq_true, if_false, if_neg hl]

/-! ### The ends of the signed update's works -/

theorem startSession_works (p : List Word) (s : State) : (startSession p s).can.works = s.can.works ∧
    (startSession p s).brg = s.brg := by
  simp only [startSession, setImage, setSlot, setCan_can, setCan_brg]
  cases beginSlot p <;> simp

/-- A work behind which another waits was abandoned by a break-in: it ends without a slot. -/
theorem leavePath_more {f : State → State} {s : State} {v w : UpdWork} {r : List UpdWork} (h : s.can.works = v :: w :: r)
    (hf : ∀ s, (f s).can.works = s.can.works) :
    (leavePath f s).can.works = w :: r ∧ (leavePath f s).brg.slots = s.brg.slots := by
  have ht : s.can.works.tail = w :: r := by rw [h]; rfl
  simp only [leavePath, ht]
  generalize hu : endsFor (decide (w :: r ≠ [])) f (setCan (fun c => { c with works := w :: r }) s) = u
  have hw : u.can.works = w :: r := by rw [← hu, endsFor_leaves (fun s => s.can.works) (fun _ _ => rfl) hf]; rfl
  have hb : u.brg.slots = s.brg.slots := by rw [← hu, endsFor_slots (by simp)]; rfl
  cases w <;> simp only [hw, hb, startSession_works, and_self]

theorem leavePath_last {f : State → State} {s : State} {v : UpdWork} (h : s.can.works = [v]) :
    leavePath f s = f { s with can := { s.can with works := [] } } := by
  simp [leavePath, h, endsFor, setCan]

theorem updateBeginDone_next {s : State} {p : List Word} {r : List UpdWork} {x : Session}
    (hw : s.can.works = .begins p :: r) (hx : s.can.session = some x) : exec .updateBeginDone s = .next (leavePath
      (finish .update stOk [mk [(0, 16, chunkCount x.total), (16, 16, x.data.length), (32, 16, firstMissing x)]]) s) := by
  show execUpdateBeginDone s = _
  simp only [execUpdateBeginDone, hw, hx]

theorem updateEndDone_next {s : State} {r : List UpdWork} {x : Session} (hw : s.can.works = .ends :: r)
    (hx : s.can.session = some x) :
    exec .updateEndDone s = .next (leavePath (if crcHolds s x then planes (judgeImage x) else failCrc x) s) := by
  show execUpdateEndDone s = _
  simp only [execUpdateEndDone, hw, hx]

theorem setImage_works (b : Bool) (i : Image) (s : State) : (setImage b i s).can.works = s.can.works := by
  cases b <;> rfl

theorem failCrc_works (x : Session) (s : State) : (failCrc x s).can.works = s.can.works := by
  simp only [failCrc, finish_can, setImage_works, setCan_can]

/-- What an image of the update gives Cantle's part of the state. -/
def Judged (x : Session) (c k : Cantle) : Prop :=
  k.session = none ∧ k.works = c.works ∧
    (if imageCheck c.revoked c.svnFloor (sessionBytes x) = 0 then
      (x.slotB = true → k.slotB = .valid ∧ k.imageBi = imageOf (sessionBytes x) ∧ k.slotA = c.slotA) ∧
      (x.slotB = false → k.slotA = .stored ∧ k.imageA = imageOf (sessionBytes x) ∧ k.slotB = c.slotB)
    else (if x.slotB then k.slotB else k.slotA) = .empty)

theorem judgeImage_judged (x : Session) (s : State) : Judged x s.can (judgeImage x s).can := by
  unfold judgeImage
  extract_lets b code s1
  have h1 : s1.can = { s.can with session := none } := rfl
  clear_value s1
  split
  next hc =>
    have hx : imageCheck s.can.revoked s.can.svnFloor (sessionBytes x) = 0 := hc
    rw [finish_can, post_can]
    cases hb : x.slotB <;> simp [Judged, hx, hb, setImage, setSlot, h1, b]
  next hc =>
    have hx : ¬ imageCheck s.can.revoked s.can.svnFloor (sessionBytes x) = 0 := hc
    rw [finish_can, post_can]
    cases hb : x.slotB <;> simp [Judged, hx, hb, setSlot, h1]

theorem planes_can (f : State → State) (s : State) :
    (planes f s).can = (f { s with evq := { s.evq with q := [], logQ := [] } }).can := rfl

theorem planes_judgeImage (x : Session) (s : State) : Judged x s.can (planes (judgeImage x) s).can := by
  rw [planes_can]
  exact judgeImage_judged x _

theorem rollback_can (cause : Nat) (s : State) : (rollback cause s).can.slotA = .rejected ∧
    (rollback cause s).can.rollback = some cause ∧ (rollback cause s).can.trialAt = none ∧
    (rollback cause s).pwr.hard = (if s.pwr.hard.isSome then s.pwr.hard else some 2) := by
  unfold rollback schedule
  rw [show (lifeUp 12 (setCan (fun c => { c with slotA := .rejected, rollback := some cause, trialAt := none }) s)).pwr = s.pwr
    from rfl]
  split <;> exact ⟨rfl, rfl, rfl, rfl⟩

/-- Settles O42: each transfer ends as its kind says, and a work that a break-in abandoned ends without a slot. -/
theorem transferAndUpdateEnds : Obligations.TransferAndUpdateEnds := by
  unfold Obligations.TransferAndUpdateEnds
  refine ⟨fun s => ⟨fun r h1 hd => ?_, fun d hd hl => historyDumpDone_next hd hl,
    fun d hd hl ht => historyDumpDone_waits hd hl ht, fun k a n hk hs => ⟨memReadDone_ok hk hs, memReadDone_timeout hk hs⟩,
    fun k a n x hk hs => ?_, fun a left v x hf hl hw => memFillDone_other hf hl (serve_waits hf hw),
    fun a left v x p n turn hf hl hs hn => memFillDone_other hf hl fun p' turn' h => ?_,
    fun a left v hf ha hl hp hh hb => memFillDone_filled ⟨hp, hh, hb⟩ hf ha hl⟩,
    fun s => ⟨fun p x hw hx => ?_, fun p w r x hw hx => ⟨_, updateBeginDone_next hw hx, leavePath_more hw fun t => ?_⟩,
      fun c r x hb hx hr => ?_, fun w r x hw hx => ⟨_, updateEndDone_next hw hx, leavePath_more hw fun t => ?_⟩,
      fun x hw hx hc => ?_, fun x hw hx hc hb => ?_, fun ht ha => ?_⟩⟩
  · obtain ⟨t, ht, hb, hs⟩ := baselineCaptureDone_kept h1 hd
    refine ⟨t, ht, ?_⟩
    rw [hb]
    exact ⟨(captured_done ..).1, fun hl => captured_last hl .., fun n l hl => by
      obtain ⟨hst, hpr, hwa, hla⟩ := captured_again hl s.tb.mono (groupNoise s (cfgOf s (routeSide r)) (routeSide r))
      exact ⟨hst, hpr, hwa, hla, hs (by simp [hl])⟩, (captured_done ..).2⟩
  · show execMemReadDone k x s = _
    simp only [execMemReadDone, hk, hs, if_true]
  · rw [hs] at h
    simp at h
    exact hn h.2.1
  · rw [updateBeginDone_next hw hx, leavePath_last hw]
  · rw [finish_can]
  · show execUpdateChunkStored s = _
    simp only [execUpdateChunkStored, hb, hx, hr, Bool.true_or, if_true, setCan]
  · split
    · exact planes_leaves (fun s => s.can.works) (fun _ _ _ => rfl) (fun u => (judgeImage_judged x u).2.1) t
    · exact failCrc_works x t
  · have hn : crcHolds s x = false := by
      rcases hc with hc | hc <;> simp [crcHolds, hc]
    rw [updateEndDone_next hw hx, leavePath_last hw, hn]
    rfl
  · have hy : crcHolds s x = true := by simp [crcHolds, hc, hb]
    refine ⟨_, updateEndDone_next hw hx, ?_⟩
    rw [leavePath_last hw, hy, if_pos rfl]
    exact planes_judgeImage x { s with can := { s.can with works := [] } }
  · exact ⟨_, congrArg Host.Outcome.next (if_pos (by simp [ht, ha])), rollback_can 0 s⟩

end Sys2Proof.Machine
end

section
/-!
SUPPORT. `Own K org s`: of the parts of the state that K names, what a state s reached from org still has of org. One lemma for
each function says that it goes on keeping this, or which parts must not be named.
-/
namespace Sys2Proof.Machine

-- one theorem after the other: the threads of many at once need more memory than the check has
set_option Elab.async false

/-- Parts of the state. -/
structure Track where
  /-- the live copy as it stands -/
  live     : Bool := false
  /-- the live copy as it stands, or the draft copy -/
  liveOr   : Bool := false
  draft    : Bool := false
  rw       : Bool := false
  nv       : Bool := false
  sets     : Bool := false
  address  : Bool := false
  scratch  : Bool := false
  gate     : Bool := false
  modified : Bool := false
  /-- what a side's emitter has of light -/
  light    : Bool := false
  acq      : Bool := false
  /-- a side that does not acquire -/
  dark     : Bool := false
  /-- the slots that are DONE, or that a commit holds -/
  held     : Bool := false
  pwr      : Bool := false
  /-- a side's routes that are blocked -/
  blocked  : Bool := false

/-- What a side's emitter has of light. -/
def lightOf (l : Lash) : Bool × GateState × Bool × Option Nat := (l.enabled, l.gate, l.dacFault, l.pulse)

/-- The slots that are DONE, or that a commit holds, stand. -/
def Held (o l : List Slot) : Prop :=
  ∀ k : Nat, (o[k]? = some (Slot.running .draft) ∨ ∃ st r, o[k]? = some (Slot.done st r)) → l[k]? = o[k]?

/-- `Own` over the parts of the state that it looks at. -/
def OwnParts (K : Track) (org : State) (live draft : Cfg) (rw nv : Store) (sets : List TackSet) (address : BitVec 6)
    (lo hi : Word) (gate : Gate) (modified : Bool) (lightA lightB : Bool × GateState × Bool × Option Nat) (acqA acqB : Bool)
    (slots : List Slot) (pwr : Power) (blockedA blockedB : BitVec 4) : Prop :=
  (K.live = true → live = org.live) ∧ (K.liveOr = true → live = org.live ∨ live = org.draft) ∧
  (K.draft = true → draft = org.draft) ∧ (K.rw = true → rw = org.rw) ∧ (K.nv = true → nv = org.nv) ∧
  (K.sets = true → sets = org.tacks.sets) ∧ (K.address = true → address = org.pwr.address) ∧
  (K.scratch = true → lo = org.pwr.scratchLo ∧ hi = org.pwr.scratchHi) ∧ (K.gate = true → gate = org.brg.gate) ∧
  (K.modified = true → modified = org.tacks.modified) ∧
  (K.light = true → lightA = lightOf org.lash.a ∧ lightB = lightOf org.lash.b) ∧
  (K.acq = true → acqA = org.girth.a.acquiring ∧ acqB = org.girth.b.acquiring) ∧
  (K.dark = true → (org.girth.a.acquiring = false → acqA = false) ∧ (org.girth.b.acquiring = false → acqB = false)) ∧
  (K.held = true → Held org.brg.slots slots) ∧ (K.pwr = true → pwr = org.pwr) ∧
  (K.blocked = true → blockedA = org.lash.a.blocked ∧ blockedB = org.lash.b.blocked)

/-- What a state reached from another still has of it. -/
def Own (K : Track) (org s : State) : Prop :=
  OwnParts K org s.live s.draft s.rw s.nv s.tacks.sets s.pwr.address s.pwr.scratchLo s.pwr.scratchHi s.brg.gate
    s.tacks.modified (lightOf s.lash.a) (lightOf s.lash.b) s.girth.a.acquiring s.girth.b.acquiring s.brg.slots s.pwr
    s.lash.a.blocked s.lash.b.blocked

/-- Nothing is named that a commit coming into force changes. -/
structure Applies (K : Track) : Prop where
  live     : K.live = false
  gate     : K.gate = false
  modified : K.modified = false
  held     : K.held = false
  or       : K.liveOr = false ∨ K.draft = true

/-- Nothing is named that a reset of the switched domains loses. -/
structure Resets (K : Track) : Prop where
  live     : K.live = false
  liveOr   : K.liveOr = false
  draft    : K.draft = false
  rw       : K.rw = false
  gate     : K.gate = false
  modified : K.modified = false
  light    : K.light = false
  acq      : K.acq = false
  dark     : K.dark = false
  held     : K.held = false
  pwr      : K.pwr = false
  blocked  : K.blocked = false

variable {K : Track} {org s nxt : State}

theorem own_refl (K : Track) (org : State) : Own K org org :=
  ⟨fun _ => rfl, fun _ => .inl rfl, fun _ => rfl, fun _ => rfl, fun _ => rfl, fun _ => rfl, fun _ => rfl, fun _ => ⟨rfl, rfl⟩,
    fun _ => rfl, fun _ => rfl, fun _ => ⟨rfl, rfl⟩, fun _ => ⟨rfl, rfl⟩, fun _ => ⟨id, id⟩, fun _ _ _ => rfl, fun _ => rfl, fun _ => ⟨rfl, rfl⟩⟩

/-- A state written out. -/
@[simp] theorem own_mk {pwr pll harn brg evq live draft rw nv tacks lash recv cur zones base therm girth tb awl aux strm
    tiles mem dma cal can drawn pending} :
    Own K org (State.mk pwr pll harn brg evq live draft rw nv tacks lash recv cur zones base therm girth tb awl aux strm
      tiles mem dma cal can drawn pending) ↔
    OwnParts K org live draft rw nv tacks.sets pwr.address pwr.scratchLo pwr.scratchHi brg.gate tacks.modified
      (lightOf lash.a) (lightOf lash.b) girth.a.acquiring girth.b.acquiring brg.slots
      pwr lash.a.blocked lash.b.blocked := ⟨id, id⟩

/-- The parts of one state. -/
@[simp] theorem ownParts_fold :
    OwnParts K org s.live s.draft s.rw s.nv s.tacks.sets s.pwr.address s.pwr.scratchLo s.pwr.scratchHi s.brg.gate
      s.tacks.modified (lightOf s.lash.a) (lightOf s.lash.b) s.girth.a.acquiring s.girth.b.acquiring s.brg.slots
      s.pwr s.lash.a.blocked s.lash.b.blocked ↔
    Own K org s := ⟨id, id⟩

/-! ### Control structure -/

@[simp ↓] theorem own_ite {c : Prop} [Decidable c] {a b : State} (ha : Own K org a) (hb : Own K org b) :
    Own K org (if c then a else b) := by split <;> assumption

@[simp ↓] theorem own_foldl {α : Type} (f : State → α → State) (l : List α) (h : Own K org s)
    (hf : ∀ s x, Own K org s → Own K org (f s x)) : Own K org (l.foldl f s) := by
  induction l generalizing s with
  | nil => exact h
  | cons x l ih => exact ih (hf s x h)

@[simp ↓] theorem own_repeat (f : State → State) (n : Nat) (h : Own K org s)
    (hf : ∀ s, Own K org s → Own K org (f s)) : Own K org (Nat.repeat f n s) := by
  induction n generalizing s with
  | zero => exact h
  | succ n ih => exact hf _ (ih h)

/-! ### One part written -/

theorem own_live {c : Cfg} (h : Own K org s) (kLive : K.live = false)
    (hc : K.liveOr = true → c = org.live ∨ c = org.draft) : Own K org { s with live := c } := by
  obtain ⟨_, _, h3⟩ := h
  exact ⟨fun k => by simp [kLive] at k, hc, h3⟩

@[simp ↓] theorem own_draft {c : Cfg} (h : Own K org s) (kDraft : K.draft = false) : Own K org { s with draft := c } := by
  obtain ⟨h1, h2, _, h4⟩ := h
  exact ⟨h1, h2, fun k => by simp [kDraft] at k, h4⟩

@[simp ↓] theorem own_rw {l : Store} (h : Own K org s) (kRw : K.rw = false) : Own K org { s with rw := l } := by
  obtain ⟨h1, h2, h3, _, h5⟩ := h
  exact ⟨h1, h2, h3, fun k => by simp [kRw] at k, h5⟩

@[simp ↓] theorem own_nv {l : Store} (h : Own K org s) (kNv : K.nv = false) : Own K org { s with nv := l } := by
  obtain ⟨h1, h2, h3, h4, _, h6⟩ := h
  exact ⟨h1, h2, h3, h4, fun k => by simp [kNv] at k, h6⟩

@[simp ↓] theorem own_tacks {t : Tacks} (h : Own K org s) (hs : K.sets = true → t.sets = s.tacks.sets)
    (hm : K.modified = true → t.modified = s.tacks.modified) : Own K org { s with tacks := t } := by
  obtain ⟨h1, h2, h3, h4, h5, h6, h7, h8, h9, h10, h11⟩ := h
  exact ⟨h1, h2, h3, h4, h5, fun k => (hs k).trans (h6 k), h7, h8, h9, fun k => (hm k).trans (h10 k), h11⟩

@[simp ↓] theorem own_pwr {p : Power} (h : Own K org s) (ha : K.address = true → p.address = s.pwr.address)
    (hs : K.scratch = true → p.scratchLo = s.pwr.scratchLo ∧ p.scratchHi = s.pwr.scratchHi) (kPwr : K.pwr = false) :
    Own K org { s with pwr := p } := by
  obtain ⟨h1, h2, h3, h4, h5, h6, h7, h8, h9, h10, h11, h12, h13, h14, _, h16⟩ := h
  exact ⟨h1, h2, h3, h4, h5, h6, fun k => (ha k).trans (h7 k),
    fun k => ⟨(hs k).1.trans (h8 k).1, (hs k).2.trans (h8 k).2⟩, h9, h10, h11, h12, h13, h14, fun k => by simp [kPwr] at k, h16⟩

@[simp ↓] theorem own_brg {b : Bridle} (h : Own K org s) (hg : K.gate = true → b.gate = s.brg.gate)
    (hh : K.held = true → b.slots = s.brg.slots) : Own K org { s with brg := b } := by
  obtain ⟨h1, h2, h3, h4, h5, h6, h7, h8, h9, h10, h11, h12, h13, h14, h15⟩ := h
  exact ⟨h1, h2, h3, h4, h5, h6, h7, h8, fun k => (hg k).trans (h9 k), h10, h11, h12, h13, fun k => by
    rw [show b.slots = s.brg.slots from hh k]; exact h14 k, h15⟩

@[simp ↓] theorem own_girth {g : Girth} (h : Own K org s) (ha : g.a.acquiring = s.girth.a.acquiring)
    (hb : g.b.acquiring = s.girth.b.acquiring) : Own K org { s with girth := g } := by
  rw [own_mk, ha, hb]
  exact h

@[simp] theorem applied_tackSets (x : Tacks) (t : Option TackLoad) (m : Bool) : (x.applied t m).sets = x.sets := by
  cases t <;> rfl

/-- A state whose commit gate was written. -/
@[simp] theorem ownParts_gate {g : Gate} (kGate : K.gate = false) :
    OwnParts K org s.live s.draft s.rw s.nv s.tacks.sets s.pwr.address s.pwr.scratchLo s.pwr.scratchHi g
      s.tacks.modified (lightOf s.lash.a) (lightOf s.lash.b) s.girth.a.acquiring s.girth.b.acquiring s.brg.slots
      s.pwr s.lash.a.blocked s.lash.b.blocked ↔
    Own K org s :=
  ⟨fun h => own_brg (s := { s with brg := { s.brg with gate := g } }) (b := s.brg) h (by simp [kGate]) fun _ => rfl,
    fun h => own_brg (b := { s.brg with gate := g }) h (by simp [kGate]) fun _ => rfl⟩

/-- A state whose power record was written, but for the address and the scratch registers. -/
@[simp] theorem ownParts_pwr {p : Power} (kPwr : K.pwr = false) :
    OwnParts K org s.live s.draft s.rw s.nv s.tacks.sets s.pwr.address s.pwr.scratchLo s.pwr.scratchHi s.brg.gate
      s.tacks.modified (lightOf s.lash.a) (lightOf s.lash.b) s.girth.a.acquiring s.girth.b.acquiring s.brg.slots
      p s.lash.a.blocked s.lash.b.blocked ↔ Own K org s := by
  simp only [Own, OwnParts, kPwr, Bool.false_eq_true, false_implies]

/-! ### Ops -/

@[simp ↓] theorem own_wakeMem (h : Own K org s) : Own K org (wakeMem s) := by
  exact h

@[simp ↓] theorem own_setBytes (f : List Host.Cell → List Host.Cell) (h : Own K org s) : Own K org (setBytes f s) := h

@[simp ↓] theorem own_dramBytes (f : List Host.Cell → List Host.Cell) (h : Own K org s) : Own K org (dramBytes f s) := h

@[simp ↓] theorem own_useTiles (h : Own K org s) : Own K org (useTiles s) := by
  unfold useTiles
  simp (maxDischargeDepth := 40) +contextual [h]

@[simp ↓] theorem own_postAt (n d : Nat) (tag : Word) (h : Own K org s) : Own K org (postAt n d tag s) := h

@[simp ↓] theorem own_post (n : Nat) (d : Nat) (h : Own K org s) : Own K org (post n d s) := by
  unfold post
  simp (maxDischargeDepth := 40) +contextual [h]

@[simp ↓] theorem own_planes (f : State → State) (h : Own K org s) (hf : ∀ s, Own K org s → Own K org (f s)) :
    Own K org (planes f s) :=
  hf { s with evq := { s.evq with q := [], logQ := [] } } h

@[simp ↓] theorem own_postIf (c : Bool) (n : Nat) (d : Nat) (h : Own K org s) : Own K org (postIf c n d s) := by
  unfold postIf
  split <;> simp (maxDischargeDepth := 40) +contextual [h]

@[simp ↓] theorem own_logRecordOf (code d : Nat) (tag : Word) (unset : Bool) (data : List Word) (h : Own K org s) :
    Own K org (logRecordOf code d tag unset data s) := by
  exact h

@[simp ↓] theorem own_logRecord (code : Nat) (d : Nat) (tag : Word) (data : List Word) (h : Own K org s) :
    Own K org (logRecord code d tag data s) := by
  exact h

@[simp ↓] theorem own_bothSides (f : Side → State → State) (h : Own K org s)
    (hf : ∀ (x0 : Side) (x1 : State), Own K org x1 → Own K org (f x0 x1)) : Own K org (bothSides f s) := by
  unfold bothSides
  simp (maxDischargeDepth := 40) +contextual [h, hf]

@[simp ↓] theorem own_setLash (d : Side) (f : Lash → Lash) (h : Own K org s)
    (hf : K.light = true → ∀ l, (f l).enabled = l.enabled ∧ (f l).gate = l.gate ∧ (f l).dacFault = l.dacFault ∧
      (f l).pulse = l.pulse) (hb : K.blocked = true → ∀ l, (f l).blocked = l.blocked) : Own K org (setLash d f s) := by
  have hf : K.light = true → ∀ l, lightOf (f l) = lightOf l := fun k l => by
    obtain ⟨he, hg, hd, hp⟩ := hf k l
    rw [lightOf, he, hg, hd, hp, lightOf]
  obtain ⟨h1, h2, h3, h4, h5, h6, h7, h8, h9, h10, hl, h12, h13, h14, h15, hx⟩ := h
  cases d
  · exact ⟨h1, h2, h3, h4, h5, h6, h7, h8, h9, h10, fun k => ⟨(hf k _).trans (hl k).1, (hl k).2⟩, h12, h13, h14, h15,
      fun k => ⟨(hb k _).trans (hx k).1, (hx k).2⟩⟩
  · exact ⟨h1, h2, h3, h4, h5, h6, h7, h8, h9, h10, fun k => ⟨(hl k).1, (hf k _).trans (hl k).2⟩, h12, h13, h14, h15,
      fun k => ⟨(hx k).1, (hb k _).trans (hx k).2⟩⟩

@[simp ↓] theorem own_setGirth (d : Side) (f : GirthSide → GirthSide) (h : Own K org s)
    (hf : K.acq = true → ∀ g, (f g).acquiring = g.acquiring)
    (hd : K.dark = true → ∀ g, g.acquiring = false → (f g).acquiring = false) : Own K org (setGirth d f s) := by
  obtain ⟨h1, h2, h3, h4, h5, h6, h7, h8, h9, h10, hl, ha, hk, h11⟩ := h
  cases d
  · exact ⟨h1, h2, h3, h4, h5, h6, h7, h8, h9, h10, hl, fun k => ⟨(hf k _).trans (ha k).1, (ha k).2⟩,
      fun k => ⟨fun x => hd k _ ((hk k).1 x), (hk k).2⟩, h11⟩
  · exact ⟨h1, h2, h3, h4, h5, h6, h7, h8, h9, h10, hl, fun k => ⟨(ha k).1, (hf k _).trans (ha k).2⟩,
      fun k => ⟨(hk k).1, fun x => hd k _ ((hk k).2 x)⟩, h11⟩

@[simp ↓] theorem own_setCur (d : Side) (f : Currier → Currier) (h : Own K org s) : Own K org (setCur d f s) := by
  exact h

@[simp ↓] theorem own_setTherm (d : Side) (f : Thermal → Thermal) (h : Own K org s) : Own K org (setTherm d f s) := by
  exact h

@[simp ↓] theorem own_setZone (z : Nat) (f : ZoneRun → ZoneRun) (h : Own K org s) : Own K org (setZone z f s) := by
  exact h

theorem held_set {o l : List Slot} {k : Nat} {r : Res} {x : Slot} (h : Held o l) (hk : l[k]? = some (.running r))
    (hr : r ≠ .draft) : Held o (l.set k x) := by
  intro j hj
  by_cases hjk : k = j
  · subst hjk
    have hx := hk.symm.trans (h k hj)
    rcases hj with hj | ⟨st, res, hj⟩
    · exact absurd (Slot.running.inj (Option.some.inj (hx.trans hj))) hr
    · exact nomatch Option.some.inj (hx.trans hj)
  · rw [List.getElem?_set_ne hjk]
    exact h j hj

/-- The end of a work that is no commit's. -/
theorem own_slotDone (k : Nat) (st : Nat) (res : List Word) (h : Own K org s)
    (hr : K.held = true → ∃ r, s.brg.slots[k]? = some (.running r) ∧ r ≠ .draft) : Own K org (slotDone k st res s) := by
  obtain ⟨h1, h2, h3, h4, h5, h6, h7, h8, h9, h10, hl, ha, hk, hh, h15⟩ := h
  refine ⟨h1, h2, h3, h4, h5, h6, h7, h8, h9, h10, hl, ha, hk, fun k => ?_, h15⟩
  obtain ⟨r, hs, hd⟩ := hr k
  exact held_set (hh k) hs hd

@[simp ↓] theorem own_finish (r : Res) (st : Nat) (res : List Word) (h : Own K org s) (hr : K.held = true → r ≠ .draft) :
    Own K org (finish r st res s) := by
  unfold finish
  split
  next k hk =>
    obtain ⟨hlt, hx, _⟩ := List.findIdx?_eq_some_iff_getElem.1 hk
    exact own_slotDone _ _ _ h fun k => ⟨r, by simpa [List.getElem?_eq_getElem hlt] using hx, hr k⟩
  · exact h

/-- Whatever slots a state has. -/
theorem own_slots {l : List Slot} {r : List Nat} (h : Own K org s) (kHeld : K.held = false) :
    Own K org { s with brg := { s.brg with slots := l, recent := r } } :=
  own_brg h (fun _ => rfl) fun k => by simp [kHeld] at k

@[simp ↓] theorem own_endsFor (abandoned : Bool) (f : State → State) (h : Own K org s)
    (hf : ∀ s, Own K org s → Own K org (f s)) (kHeld : K.held = false) : Own K org (endsFor abandoned f s) := by
  unfold endsFor
  exact own_ite (own_slots (hf _ (own_slots h kHeld)) kHeld) (hf _ h)

/-! ### Flags -/

@[simp ↓] theorem own_setLane (n : Nat) (f : Lane → Lane) (h : Own K org s) : Own K org (setLane n f s) := by
  unfold setLane
  simp (maxDischargeDepth := 40) +contextual [h]

@[simp ↓] theorem own_setBase (r : Nat) (f : Baseline → Baseline) (h : Own K org s) : Own K org (setBase r f s) := by
  exact h

@[simp ↓] theorem own_setDelta (r : Nat) (f : Delta → Delta) (h : Own K org s) : Own K org (setDelta r f s) := by
  exact h

@[simp ↓] theorem own_setAwl (n : Nat) (f : AwlInput → AwlInput) (h : Own K org s) : Own K org (setAwl n f s) := by
  unfold setAwl
  simp (maxDischargeDepth := 40) +contextual [h]

@[simp ↓] theorem own_eccCorr (port : Nat) (a : Nat) (patrol : Bool) (h : Own K org s) :
    Own K org (eccCorr port a patrol s) := by
  unfold eccCorr
  simp (maxDischargeDepth := 40) +contextual [h]

@[simp ↓] theorem own_duringSurge (f : Surge → Surge) (h : Own K org s) : Own K org (duringSurge f s) := by
  exact h

@[simp ↓] theorem own_eccUncorr (port : Nat) (a : Nat) (patrol : Bool) (h : Own K org s) :
    Own K org (eccUncorr port a patrol s) := by
  unfold eccUncorr
  simp (maxDischargeDepth := 40) +contextual [h]

@[simp ↓] theorem own_wordsFound (port : Nat) (acc : Access) (a n : Nat) (h : Own K org s) :
    Own K org (wordsFound port acc a n s) := by
  unfold wordsFound
  refine own_foldl _ _ h fun t i ht => ?_
  split <;> simp (maxDischargeDepth := 40) +contextual [ht]

@[simp ↓] theorem own_blockRead (port : Nat) (acc : Access) (a n : Nat) (h : Own K org s) :
    Own K org (blockRead port acc a n s) := by
  unfold blockRead
  simp (maxDischargeDepth := 40) +contextual [h]

@[simp ↓] theorem own_setChan (n : Nat) (f : DmaChan → DmaChan) (h : Own K org s) : Own K org (setChan n f s) := by
  unfold setChan
  simp (maxDischargeDepth := 40) +contextual [h]

@[simp ↓] theorem own_setCal (g : Nat) (f : CalGroup → CalGroup) (h : Own K org s) : Own K org (setCal g f s) := by
  unfold setCal
  simp (maxDischargeDepth := 40) +contextual [h]

/-! ### Bridle -/

/-- What a handler does at once and what it starts go on keeping `Own`. -/
def HandlerOwn (K : Track) (org : State) (x : Handler) (o : Origin) (p : List Word) : Prop :=
  (∀ s, Own K org s → Own K org (x.run o p s).2) ∧ ∀ s, Own K org s → Own K org (x.start o p s)

@[simp ↓] theorem own_ok (f : List Word → State → State) (o : Origin) (p : List Word) (h : Own K org s)
    (hf : ∀ p s, Own K org s → Own K org (f p s)) : Own K org (Handler.ok f o p s).2 := hf p s h

@[simp ↓] theorem own_refuse (op st d : Nat) (h : Own K org s) : Own K org (refuse op st d s).2 := by
  unfold refuse
  simp (maxDischargeDepth := 40) [h]

@[simp ↓] theorem own_answer (x : Handler) (hdr : Bool) (o : Origin) (p : List Word) (h : Own K org s)
    (hx : HandlerOwn K org x o p) (kHeld : K.held = false) : Own K org (answer x hdr o p s).2 := by
  unfold answer
  split
  · simp (maxDischargeDepth := 40) [h]
  split
  · simp (maxDischargeDepth := 40) [h]
  split
  · simp (maxDischargeDepth := 40) [h]
  split
  · simp (maxDischargeDepth := 40) [h]
  split
  · simp (maxDischargeDepth := 40) [h]
  split
  · simp (maxDischargeDepth := 40) [h]
  split
  · split
    · simp (maxDischargeDepth := 40) [h]
    · exact hx.2 _ (own_slots h kHeld)
  · have h2 := hx.1 s h
    dsimp only
    split
    · simp (maxDischargeDepth := 40) [h2]
    · exact h2

@[simp ↓] theorem own_deliver (o : Origin) (op : Nat) (r : Reply) (h : Own K org s) : Own K org (deliver o op r s) := by
  unfold deliver
  split <;> simp (maxDischargeDepth := 40) +contextual [h]

@[simp ↓] theorem own_answerNone (recov : Bool) (op : Nat) (h : Own K org s) : Own K org (answerNone recov op s).2 := by
  unfold answerNone
  split <;> simp (maxDischargeDepth := 40) [h]

@[simp ↓] theorem own_dropStored (p : Port) (h : Own K org s) : Own K org (dropStored p s) := by
  unfold dropStored
  split <;> simp (maxDischargeDepth := 40) +contextual [h]

@[simp ↓] theorem own_request (x : Handler) (o : Origin) (p : List Word) (h : Own K org s) (hx : HandlerOwn K org x o p)
    (kHeld : K.held = false) : Own K org (request x o p s) := by
  unfold request
  split
  · simp (maxDischargeDepth := 40) [h, hx, kHeld]
  · split
    · simp (maxDischargeDepth := 40) [h]
    · exact h

@[simp ↓] theorem own_slotFree (k : Nat) (h : Own K org s) (kHeld : K.held = false) : Own K org (slotFree k s) :=
  own_slots h kHeld

@[simp ↓] theorem own_freeSlots (h : Own K org s) (kHeld : K.held = false) : Own K org (freeSlots s) := own_slots h kHeld

@[simp ↓] theorem own_clearStored (h : Own K org s) : Own K org (clearStored s) := by
  exact h

/-! ### Recv -/

@[simp ↓] theorem own_setRecv (f : Recv → Recv) (h : Own K org s) : Own K org (setRecv f s) := h

@[simp ↓] theorem own_laneGroup (n : Nat) (x : Nat) (h : Own K org s) : Own K org (laneGroup n x s) := by
  unfold laneGroup
  simp (maxDischargeDepth := 40) +contextual [h]

@[simp ↓] theorem own_sideOvers (d : Side) (overs : List Nat) (h : Own K org s) : Own K org (sideOvers d overs s) := by
  unfold sideOvers
  simp (maxDischargeDepth := 40) +contextual [h]

@[simp ↓] theorem own_burstToSurge (lanes : BitVec 8) (raman : Bool) (h : Own K org s) :
    Own K org (burstToSurge lanes raman s) := by
  unfold burstToSurge
  simp (maxDischargeDepth := 40) +contextual [h]

@[simp ↓] theorem own_dropTrackers (d : Side) (bits : Nat) (h : Own K org s) : Own K org (dropTrackers d bits s) := by
  unfold dropTrackers
  simp (maxDischargeDepth := 40) +contextual [h]

@[simp ↓] theorem own_watchExcl (f : State → State) (h : Own K org s)
    (hf : ∀ (x0 : State), Own K org x0 → Own K org (f x0)) : Own K org (watchExcl f s) := by
  unfold watchExcl
  simp (maxDischargeDepth := 40) +contextual [h, hf]

@[simp ↓] theorem own_changeLane (n : Nat) (f : Lane → Lane) (h : Own K org s) : Own K org (changeLane n f s) := by
  unfold changeLane
  simp (maxDischargeDepth := 40) +contextual [h]

@[simp ↓] theorem own_keepRetired (n : Nat) (h : Own K org s) : Own K org (keepRetired n s) := by
  exact h

@[simp ↓] theorem own_restartDwell (h : Own K org s) : Own K org (restartDwell s) := by
  unfold restartDwell
  simp (maxDischargeDepth := 40) +contextual [h]

@[simp ↓] theorem own_giveBack (h : Own K org s) : Own K org (giveBack s) := by
  unfold giveBack
  simp (maxDischargeDepth := 40) +contextual [h]

@[simp ↓] theorem own_takePols (m : BitVec 4) (h : Own K org s) : Own K org (takePols m s) := by
  exact h

@[simp ↓] theorem own_freePols (m : BitVec 4) (h : Own K org s) : Own K org (freePols m s) := by
  exact h

@[simp ↓] theorem own_pairsDue (d : Side) (h : Own K org s) : Own K org (pairsDue d s) := by
  exact h

@[simp ↓] theorem own_takeDue (d : Side) (h : Own K org s) : Own K org (takeDue d s) := by
  unfold takeDue
  simp (maxDischargeDepth := 40) +contextual [h]

@[simp ↓] theorem own_takeIdle (d : Side) (h : Own K org s) : Own K org (takeIdle d s) := by
  unfold takeIdle
  simp (maxDischargeDepth := 40) +contextual [h]

@[simp ↓] theorem own_freshTrims (g : Nat) (h : Own K org s) : Own K org (freshTrims g s) := by
  unfold freshTrims
  simp (maxDischargeDepth := 40) +contextual [h]

@[simp ↓] theorem own_retireSlice (n : Nat) (x : Nat) (h : Own K org s) : Own K org (retireSlice n x s) := by
  unfold retireSlice
  simp (maxDischargeDepth := 40) +contextual [h]

@[simp ↓] theorem own_restoreSlice (n : Nat) (x : Nat) (h : Own K org s) : Own K org (restoreSlice n x s) := by
  unfold restoreSlice
  simp (maxDischargeDepth := 40) +contextual [h]

@[simp ↓] theorem own_takeSlices (n : Nat) (l : List Nat) (h : Own K org s) : Own K org (takeSlices n l s) := by
  unfold takeSlices
  simp (maxDischargeDepth := 40) +contextual [h]

@[simp ↓] theorem own_applyRecord (g : Nat) (p : List Word) (h : Own K org s) : Own K org (applyRecord g p s) := by
  unfold applyRecord
  simp (maxDischargeDepth := 40) +contextual [h]

@[simp ↓] theorem own_applyRecords (f : Nat → Bool) (h : Own K org s) : Own K org (applyRecords f s) := by
  unfold applyRecords
  simp (maxDischargeDepth := 40) +contextual [h]

@[simp ↓] theorem own_moveLane (h : Own K org s) : Own K org (moveLane s) := by
  exact h

@[simp ↓] theorem own_fixLane (h : Own K org s) : Own K org (fixLane s) := by
  unfold fixLane
  simp (maxDischargeDepth := 40) +contextual [h]

@[simp ↓] theorem own_creditVerdict (n : Nat) (p : Nat) (v : Nat) (h : Own K org s) :
    Own K org (creditVerdict n p v s) := by
  unfold creditVerdict
  simp (maxDischargeDepth := 40) +contextual [h]

@[simp ↓] theorem own_laneFailure (n : Nat) (h : Own K org s) : Own K org (laneFailure n s) := by
  unfold laneFailure
  simp (maxDischargeDepth := 40) +contextual [h]

@[simp ↓] theorem own_laneToTest (n : Nat) (fail : Bool) (h : Own K org s) : Own K org (laneToTest n fail s) := by
  unfold laneToTest
  simp (maxDischargeDepth := 40) +contextual [h]

@[simp ↓] theorem own_writeCheck (v : Word) (h : Own K org s) (kRw : K.rw = false) : Own K org (writeCheck v s) := by
  unfold writeCheck; simp (maxDischargeDepth := 40) [h, kRw]

@[simp ↓] theorem own_clearVerdicts (h : Own K org s) : Own K org (clearVerdicts s) := by
  unfold clearVerdicts
  simp (maxDischargeDepth := 40) +contextual [h]

@[simp ↓] theorem own_checkAct (w : Word) (h : Own K org s) : Own K org (checkAct w s) := by
  unfold checkAct
  split <;> simp (maxDischargeDepth := 40) +contextual [h]

/-! ### AuxFront -/

@[simp ↓] theorem own_setAux (f : Aux → Aux) (h : Own K org s) : Own K org (setAux f s) := h

@[simp ↓] theorem own_setAuxEntry (n : Nat) (f : AuxEntry → AuxEntry) (h : Own K org s) :
    Own K org (setAuxEntry n f s) := by
  unfold setAuxEntry
  simp (maxDischargeDepth := 40) +contextual [h]

@[simp ↓] theorem own_noInput (n : Nat) (h : Own K org s) : Own K org (noInput n s) := by
  unfold noInput
  simp (maxDischargeDepth := 40) +contextual [h]

@[simp ↓] theorem own_beginEntry (n : Nat) (h : Own K org s) : Own K org (beginEntry n s) := by
  exact h

@[simp ↓] theorem own_passEnd (h : Own K org s) : Own K org (passEnd s) := by
  unfold passEnd
  simp (maxDischargeDepth := 40) +contextual [h]

@[simp ↓] theorem own_runOver (h : Own K org s) : Own K org (runOver s).2 := by
  unfold runOver
  split <;> simp (maxDischargeDepth := 40) [h]

@[simp ↓] theorem own_goOn (fuel n : Nat) (h : Own K org s) : Own K org (goOn fuel n s) := by
  induction fuel generalizing n s with
  | zero => unfold goOn; simp (maxDischargeDepth := 40) [h]
  | succ k ih => unfold goOn; dsimp only; simp (maxDischargeDepth := 40) +contextual [h, ih]

@[simp ↓] theorem own_auxStart (h : Own K org s) : Own K org (auxStart s) := by
  unfold auxStart
  simp (maxDischargeDepth := 40) +contextual [h]

@[simp ↓] theorem own_auxTrigger (h : Own K org s) : Own K org (auxTrigger s) := by
  unfold auxTrigger
  simp (maxDischargeDepth := 40) +contextual [h]

@[simp ↓] theorem own_auxKick (v : Word) (h : Own K org s) : Own K org (auxKick v s) := by
  unfold auxKick
  simp (maxDischargeDepth := 40) +contextual [h]

@[simp ↓] theorem own_auxTinEdge (i : Nat) (h : Own K org s) : Own K org (auxTinEdge i s) := by
  unfold auxTinEdge
  simp (maxDischargeDepth := 40) +contextual [h]

@[simp ↓] theorem own_auxPause (h : Own K org s) : Own K org (auxPause s) := by
  unfold auxPause
  simp (maxDischargeDepth := 40) +contextual [h]

@[simp ↓] theorem own_auxResume (h : Own K org s) : Own K org (auxResume s) := by
  unfold auxResume
  dsimp only
  (repeat' split) <;> simp (maxDischargeDepth := 40) +contextual [h]

@[simp ↓] theorem own_switchStep (bad : Bool) (code : ℤ) (i : Nat) (h : Own K org s) :
    Own K org (switchStep bad code i s) := by
  unfold switchStep
  simp (maxDischargeDepth := 40) +contextual [h]

@[simp ↓] theorem own_limOutputs (h : Own K org s) : Own K org (limOutputs s) := by
  exact h

@[simp ↓] theorem own_convert (raw : AuxSample) (h : Own K org s) : Own K org (convert raw s) := by
  unfold convert
  simp (maxDischargeDepth := 40) +contextual [h]

@[simp ↓] theorem own_applyAux (h : Own K org s) : Own K org (applyAux s) := by
  unfold applyAux
  simp (maxDischargeDepth := 40) +contextual [h]

@[simp ↓] theorem own_auxCommit (old : Cfg) (new : Cfg) (h : Own K org s) : Own K org (auxCommit old new s) := by
  unfold auxCommit
  simp (maxDischargeDepth := 40) +contextual [h]

/-! ### Timing -/

@[simp ↓] theorem own_timSend (p : HPort) (k : TimKind) (t : TimingSym) (h : Own K org s) :
    Own K org (timSend p k t s) := by
  unfold timSend
  split <;> simp (maxDischargeDepth := 40) +contextual [h]

@[simp ↓] theorem own_sendFire (code : Nat) (h : Own K org s) : Own K org (sendFire code s) := by
  exact h

/-! ### Stream -/

@[simp ↓] theorem own_setStrm (f : Stream → Stream) (h : Own K org s) : Own K org (setStrm f s) := by
  exact h

@[simp ↓] theorem own_dropFrame (f : Frame) (h : Own K org s) : Own K org (dropFrame f s) := by
  exact h

@[simp ↓] theorem own_watchMarks (h : Own K org s) : Own K org (watchMarks s) := by
  unfold watchMarks
  simp (maxDischargeDepth := 40) +contextual [h]

@[simp ↓] theorem own_overflowed (f : Frame) (h : Own K org s) : Own K org (overflowed f s) := by
  unfold overflowed
  simp (maxDischargeDepth := 40) +contextual [h]

@[simp ↓] theorem own_beginEpisode (detail : Nat) (h : Own K org s) : Own K org (beginEpisode detail s) := by
  unfold beginEpisode
  simp (maxDischargeDepth := 40) +contextual [h]

@[simp ↓] theorem own_fillRisen (h : Own K org s) : Own K org (fillRisen s) := by
  unfold fillRisen
  simp (maxDischargeDepth := 40) +contextual [h]

@[simp ↓] theorem own_enqueue (f : Frame) (h : Own K org s) : Own K org (enqueue f s) := by
  unfold enqueue
  simp (maxDischargeDepth := 40) +contextual [h]

@[simp ↓] theorem own_enqueueAll (l : List Frame) (h : Own K org s) : Own K org (enqueueAll l s) := by
  unfold enqueueAll
  simp (maxDischargeDepth := 40) +contextual [h]

@[simp ↓] theorem own_sendDrop (f : Frame) (h : Own K org s) : Own K org (sendDrop f s) := by
  unfold sendDrop
  simp (maxDischargeDepth := 40) +contextual [h]

@[simp ↓] theorem own_formDrop (ended : Bool) (h : Own K org s) : Own K org (formDrop ended s) := by
  unfold formDrop
  simp (maxDischargeDepth := 40) +contextual [h]

@[simp ↓] theorem own_fillFallen (h : Own K org s) : Own K org (fillFallen s) := by
  unfold fillFallen
  simp (maxDischargeDepth := 40) +contextual [h]

@[simp ↓] theorem own_frameRead (acc : Access) (f : Frame) (a : Nat) (h : Own K org s) :
    Own K org (frameRead acc f a s) := by
  unfold frameRead
  simp (maxDischargeDepth := 40) +contextual [h]

@[simp ↓] theorem own_refill (n : Nat) (h : Own K org s) : Own K org (refill n s) := by
  induction n generalizing s with
  | zero => exact h
  | succ n ih =>
    unfold refill
    split
    · exact h
    · exact ih (own_frameRead _ _ _ h)

@[simp ↓] theorem own_drain (h : Own K org s) : Own K org (drain s) := by
  unfold drain
  simp (maxDischargeDepth := 40) +contextual [h]

@[simp ↓] theorem own_cutFrame (h : Own K org s) : Own K org (cutFrame s) := by
  unfold cutFrame
  simp (maxDischargeDepth := 40) +contextual [h]

@[simp ↓] theorem own_beginTraining (h : Own K org s) : Own K org (beginTraining s) := by
  exact h

@[simp ↓] theorem own_startTraining (h : Own K org s) : Own K org (startTraining s) := by
  unfold startTraining
  split <;> simp (maxDischargeDepth := 40) +contextual [h]

@[simp ↓] theorem own_linkUp (h : Own K org s) : Own K org (linkUp s) := by
  unfold linkUp
  simp (maxDischargeDepth := 40) +contextual [h]

@[simp ↓] theorem own_streamReset (h : Own K org s) : Own K org (streamReset s) := by
  unfold streamReset
  simp (maxDischargeDepth := 40) +contextual [h]

@[simp ↓] theorem own_startFrame (f : Frame) (seq : BitVec 11) (again : Bool) (h : Own K org s) :
    Own K org (startFrame f seq again s) := by
  exact h

@[simp ↓] theorem own_ringRead (acc : Access) (f : Frame) (h : Own K org s) : Own K org (ringRead acc f s) := by
  exact own_frameRead _ _ _ h

end Sys2Proof.Machine
end

section
/-!
SUPPORT. `Own` of acoustic and thermal path.
-/
namespace Sys2Proof.Machine

-- one theorem after the other: the threads of many at once need more memory than the check has
set_option Elab.async false

variable {K : Track} {org s nxt : State}

/-! ### Girth -/

@[simp ↓] theorem own_endDead (d : Side) (z : Nat) (h : Own K org s) : Own K org (endDead d z s) := by
  unfold endDead
  split <;> simp (maxDischargeDepth := 40) +contextual [h]

@[simp ↓] theorem own_beginDead (z : Nat) (h : Own K org s) : Own K org (beginDead z s) := by
  exact h

@[simp ↓] theorem own_digestAdd (d : Side) (i : Nat) (h : Own K org s) : Own K org (digestAdd d i s) := by
  unfold digestAdd; simp [h]

@[simp ↓] theorem own_refuseRecord (d : Side) (z : Nat) (h : Own K org s) : Own K org (refuseRecord d z s) := by
  unfold refuseRecord
  simp (maxDischargeDepth := 40) +contextual [h]

@[simp ↓] theorem own_openRecord (c : Cfg) (d : Side) (z : Nat) (t : Trigger) (first last : Nat) (active : Bool)
    (h : Own K org s) : Own K org (openRecord c d z t first last active s) := by
  unfold openRecord; simp (maxDischargeDepth := 40) +contextual [h]

@[simp ↓] theorem own_setDigZone (z : Nat) (f : List Nat → List Nat) (h : Own K org s) :
    Own K org (setDigZone z f s) := by
  exact h

@[simp ↓] theorem own_endHoldoff (d : Side) (z : Nat) (h : Own K org s) : Own K org (endHoldoff d z s) := by
  unfold endHoldoff
  simp (maxDischargeDepth := 40) +contextual [h]

@[simp ↓] theorem own_entryFreed (h : Own K org s) : Own K org (entryFreed s) := by
  unfold entryFreed
  simp (maxDischargeDepth := 40) +contextual [h]

@[simp ↓] theorem own_closeRecord (d : Side) (z : Nat) (cause : Nat) (ns : Nat) (h : Own K org s) :
    Own K org (closeRecord d z cause ns s) := by
  unfold closeRecord
  split <;> simp (maxDischargeDepth := 40) +contextual [h]

@[simp ↓] theorem own_closeAll (d : Side) (cause : Nat) (h : Own K org s) : Own K org (closeAll d cause s) := by
  unfold closeAll
  simp (maxDischargeDepth := 40) +contextual [h]

@[simp ↓] theorem own_stopRecords (d : Side) (h : Own K org s) : Own K org (stopRecords d s) := by
  unfold stopRecords
  simp (maxDischargeDepth := 40) +contextual [h]

@[simp ↓] theorem own_retrigger (c : Cfg) (d : Side) (z : Nat) (source : Bool) (x : ℤ) (h : Own K org s) :
    Own K org (retrigger c d z source x s) := by
  unfold retrigger
  split <;> simp (maxDischargeDepth := 40) +contextual [h]

@[simp ↓] theorem own_sourceAt (t : Trigger) (d : Side) (z : Nat) (h : Own K org s) : Own K org (sourceAt t d z s) := by
  unfold sourceAt
  split <;> simp (maxDischargeDepth := 40) +contextual [h]

@[simp ↓] theorem own_sourceTrigger (t : Trigger) (on : Cfg → Nat → Bool) (h : Own K org s) :
    Own K org (sourceTrigger t on s) := by
  unfold sourceTrigger
  simp (maxDischargeDepth := 40) +contextual [h]

@[simp ↓] theorem own_sideTrigger (t : Trigger) (d : Side) (on : Cfg → Nat → Bool) (h : Own K org s) :
    Own K org (sideTrigger t d on s) := by
  unfold sideTrigger
  simp (maxDischargeDepth := 40) +contextual [h]

@[simp ↓] theorem own_closeDue (c : Cfg) (d : Side) (z : Nat) (ns : Nat) (x : ℤ) (h : Own K org s) :
    Own K org (closeDue c d z ns x s) := by
  unfold closeDue
  (repeat' split) <;> simp (maxDischargeDepth := 40) +contextual [h]

@[simp ↓] theorem own_boundaryDue (d : Side) (h : Own K org s) : Own K org (boundaryDue d s) := by
  unfold boundaryDue
  simp (maxDischargeDepth := 40) +contextual [h]

@[simp ↓] theorem own_envelopes (d : Side) (part : Bool) (h : Own K org s) : Own K org (envelopes d part s) := by
  unfold envelopes
  split <;> simp (maxDischargeDepth := 40) +contextual [h]

@[simp ↓] theorem own_zoneEvent (o : ZoneOut) (p : ZoneOut) (old : List Channel) (new : List Channel) (h :
    Own K org s) : Own K org (zoneEvent o p old new s) := by
  unfold zoneEvent
  dsimp only
  (repeat' split) <;> simp (maxDischargeDepth := 40) +contextual [h]

@[simp ↓] theorem own_digestTake (z : Nat) (xs : List OutSample) (h : Own K org s) : Own K org (digestTake z xs s) := by
  exact h

@[simp ↓] theorem own_envelopeTake (o : ZoneOut) (h : Own K org s) : Own K org (envelopeTake o s) := by
  unfold envelopeTake
  simp (maxDischargeDepth := 40) +contextual [h]

@[simp ↓] theorem own_evaluate (o : ZoneOut) (h : Own K org s) : Own K org (evaluate o s) := by
  unfold evaluate
  simp (maxDischargeDepth := 40) +contextual [h]

@[simp ↓] theorem own_armSide (d : Side) (h : Own K org s) : Own K org (armSide d s) := by
  unfold armSide
  simp (maxDischargeDepth := 40) +contextual [h]

@[simp ↓] theorem own_disarmSide (d : Side) (h : Own K org s) : Own K org (disarmSide d s) := by
  unfold disarmSide
  simp (maxDischargeDepth := 40) +contextual [h]

@[simp ↓] theorem own_onSides (w : Word) (f : Side → State → State) (h : Own K org s)
    (hf : ∀ (x0 : Side) (x1 : State), Own K org x1 → Own K org (f x0 x1)) : Own K org (onSides w f s) := by
  unfold onSides
  simp (maxDischargeDepth := 40) +contextual [h, hf]

/-! ### Thermal -/

@[simp ↓] theorem own_clearSums (d : Side) (h : Own K org s) : Own K org (clearSums d s) := by
  unfold clearSums
  simp (maxDischargeDepth := 40) +contextual [h]

@[simp ↓] theorem own_discardPresent (d : Side) (h : Own K org s) : Own K org (discardPresent d s) := by
  unfold discardPresent
  simp (maxDischargeDepth := 40) +contextual [h]

@[simp ↓] theorem own_discardParked (d : Side) (r : Nat) (h : Own K org s) : Own K org (discardParked d r s) := by
  exact h

@[simp ↓] theorem own_discardRoute (d : Side) (r : Nat) (h : Own K org s) : Own K org (discardRoute d r s) := by
  unfold discardRoute
  simp (maxDischargeDepth := 40) +contextual [h]

@[simp ↓] theorem own_discardSide (d : Side) (h : Own K org s) : Own K org (discardSide d s) := by
  unfold discardSide
  simp (maxDischargeDepth := 40) +contextual [h]

@[simp ↓] theorem own_ramanRange (d : Side) (trace : List Word) (lane : Nat) (h : Own K org s) :
    Own K org (ramanRange d trace lane s) := by
  unfold ramanRange
  simp (maxDischargeDepth := 40) +contextual [h]

@[simp ↓] theorem own_addTrace (d : Side) (tr : List Word) (h : Own K org s) : Own K org (addTrace d tr s) := by
  unfold addTrace
  dsimp only
  split
  · exact h
  · exact own_postIf _ _ _ (own_setTherm _ _ (own_setBytes _ h))

@[simp ↓] theorem own_park (d : Side) (h : Own K org s) : Own K org (park d s) := by
  unfold park
  simp (maxDischargeDepth := 40) +contextual [h]

@[simp ↓] theorem own_unpark (d : Side) (p : Parked) (h : Own K org s) : Own K org (unpark d p s) := by
  unfold unpark
  simp (maxDischargeDepth := 40) +contextual [h]

@[simp ↓] theorem own_thermalLeave (d : Side) (h : Own K org s) : Own K org (thermalLeave d s) := by
  exact h

@[simp ↓] theorem own_thermalEnter (d : Side) (r : Nat) (h : Own K org s) : Own K org (thermalEnter d r s) := by
  unfold thermalEnter
  simp (maxDischargeDepth := 40) +contextual [h]

@[simp ↓] theorem own_ramanStart (d : Side) (h : Own K org s) : Own K org (ramanStart d s) := by
  unfold ramanStart
  simp (maxDischargeDepth := 40) +contextual [h]

@[simp ↓] theorem own_keepChannel (c : Cfg) (d : Side) (z : Nat) (ord : Nat) (tag : Word) (x : Nat × Nat) (h :
    Own K org s) : Own K org (keepChannel c d z ord tag x s) := by
  unfold keepChannel
  simp (maxDischargeDepth := 40) +contextual [h]

@[simp ↓] theorem own_thermalChannel (c : Cfg) (d : Side) (z : Nat) (ord : Option Nat) (tag : Word) (x : Nat × Nat) (h :
    Own K org s) : Own K org (thermalChannel c d z ord tag x s) := by
  unfold thermalChannel
  cases ord <;> simp (maxDischargeDepth := 40) +contextual [h]

@[simp ↓] theorem own_zoneAlarm (c : Cfg) (d : Side) (z : Nat) (tag : Word) (h : Own K org s) :
    Own K org (zoneAlarm c d z tag s) := by
  unfold zoneAlarm
  simp (maxDischargeDepth := 40) +contextual [h]

@[simp ↓] theorem own_sendHistogram (c : Cfg) (z : Nat) (tag : Word) (h : Own K org s) :
    Own K org (sendHistogram c z tag s) := by
  unfold sendHistogram
  simp (maxDischargeDepth := 40) +contextual [h]

@[simp ↓] theorem own_thermalZone (d : Side) (x : Completion) (tag : Word) (z : Nat) (chans : List (Nat × Nat)) (h :
    Own K org s) : Own K org (thermalZone d x tag z chans s) := by
  unfold thermalZone
  simp (maxDischargeDepth := 40) +contextual [h]

@[simp ↓] theorem own_histograms (c : Cfg) (d : Side) (r : Nat) (tag : Word) (h : Own K org s) :
    Own K org (histograms c d r tag s) := by
  unfold histograms
  simp (maxDischargeDepth := 40) +contextual [h]

@[simp ↓] theorem own_computeThermal (d : Side) (x : Completion) (h : Own K org s) :
    Own K org (computeThermal d x s) := by
  unfold computeThermal
  simp (maxDischargeDepth := 40) +contextual [h]

@[simp ↓] theorem own_clockCommit (d : Side) (old : Cfg) (new : Cfg) (h : Own K org s) :
    Own K org (clockCommit d old new s) := by
  unfold clockCommit
  simp (maxDischargeDepth := 40) +contextual [h]

@[simp ↓] theorem own_thermalCommit (d : Side) (all : Bool) (old new : Cfg) (h : Own K org s) :
    Own K org (thermalCommit d all old new s) := by
  unfold thermalCommit
  extract_lets differs s0 s1 zone changed kept moved m s2
  have h0 : Own K org s0 := by
    refine own_ite (own_discardSide d h) (own_foldl _ _ h fun s x hs => ?_)
    extract_lets shape s'
    have h2 : Own K org s' := own_ite (own_discardRoute d x hs) hs
    exact own_ite (own_discardRoute d x h2) h2
  have h1 : Own K org s1 := own_clockCommit _ _ _ h0
  have h3 : Own K org s2 := own_setBytes _ h1
  refine own_ite h1 ?_
  simp (maxDischargeDepth := 40) [h3]

/-! ### TimeBase -/

@[simp ↓] theorem own_setTb (f : TimeBase → TimeBase) (h : Own K org s) : Own K org (setTb f s) := by
  exact h

@[simp ↓] theorem own_stepTo (value : Nat) (byCommand : Bool) (h : Own K org s) :
    Own K org (stepTo value byCommand s) := by
  unfold stepTo
  simp (maxDischargeDepth := 40) +contextual [h]

@[simp ↓] theorem own_setY (y : ℤ) (h : Own K org s) : Own K org (setY y s) := by
  unfold setY
  simp (maxDischargeDepth := 40) +contextual [h]

@[simp ↓] theorem own_toAcquire (h : Own K org s) : Own K org (toAcquire s) := by
  exact h

@[simp ↓] theorem own_toFreq (h : Own K org s) : Own K org (toFreq s) := by
  unfold toFreq
  simp (maxDischargeDepth := 40) +contextual [h]

@[simp ↓] theorem own_toHoldover (h : Own K org s) : Own K org (toHoldover s) := by
  unfold toHoldover
  simp (maxDischargeDepth := 40) +contextual [h]

@[simp ↓] theorem own_discipline (h : Own K org s) : Own K org (discipline s) := by
  unfold discipline
  (repeat' split) <;> simp (maxDischargeDepth := 40) +contextual [h]

@[simp ↓] theorem own_toXtal (h : Own K org s) : Own K org (toXtal s) := by
  unfold toXtal
  simp (maxDischargeDepth := 40) +contextual [h]

@[simp ↓] theorem own_tbWritten (h : Own K org s) : Own K org (tbWritten s) := by
  unfold tbWritten
  simp (maxDischargeDepth := 40) +contextual [h]

@[simp ↓] theorem own_judgeError (e : ℤ) (h : Own K org s) : Own K org (judgeError e s) := by
  unfold judgeError
  split <;> simp (maxDischargeDepth := 40) +contextual [h]

@[simp ↓] theorem own_steer (e : ℤ) (h : Own K org s) : Own K org (steer e s) := by
  unfold steer
  simp (maxDischargeDepth := 40) +contextual [h]

@[simp ↓] theorem own_takeError (h : Own K org s) : Own K org (takeError s) := by
  unfold takeError
  simp (maxDischargeDepth := 40) +contextual [h]

@[simp ↓] theorem own_loadAtPps (h : Own K org s) : Own K org (loadAtPps s) := by
  unfold loadAtPps
  split <;> simp (maxDischargeDepth := 40) +contextual [h]

@[simp ↓] theorem own_ppsAccepted (h : Own K org s) : Own K org (ppsAccepted s) := by
  unfold ppsAccepted
  simp (maxDischargeDepth := 40) +contextual [h]

@[simp ↓] theorem own_ppsRejected (h : Own K org s) : Own K org (ppsRejected s) := by
  exact h

@[simp ↓] theorem own_judgeGate (error : ℤ) (h : Own K org s) : Own K org (judgeGate error s) := by
  unfold judgeGate
  simp (maxDischargeDepth := 40) +contextual [h]

@[simp ↓] theorem own_putRw (id : Nat) (v : Word) (h : Own K org s) (kRw : K.rw = false) : Own K org (putRw id v s) :=
  own_rw h kRw

/-! ### Awl -/

@[simp ↓] theorem own_awlAccept (n : Nat) (falling : Bool) (h : Own K org s) : Own K org (awlAccept n falling s) := by
  unfold awlAccept
  simp (maxDischargeDepth := 40) +contextual [h]

@[simp ↓] theorem own_awlEdge (n : Nat) (falling : Bool) (h : Own K org s) : Own K org (awlEdge n falling s) := by
  unfold awlEdge
  simp (maxDischargeDepth := 40) +contextual [h]

@[simp ↓] theorem own_queueEdge (n : Nat) (e : TdcEntry) (event : Bool) (h : Own K org s) :
    Own K org (queueEdge n e event s) := by
  unfold queueEdge
  simp (maxDischargeDepth := 40) +contextual [h]

/-! ### Calib -/

@[simp ↓] theorem own_holdStrop (p : Nat) (h : Own K org s) : Own K org (holdStrop p s) := by
  exact h

@[simp ↓] theorem own_holdCantle (p : Nat) (h : Own K org s) : Own K org (holdCantle p s) := by
  exact h

@[simp ↓] theorem own_freeStrop (p : Nat) (h : Own K org s) : Own K org (freeStrop p s) := by
  exact h

@[simp ↓] theorem own_freeCantle (p : Nat) (h : Own K org s) : Own K org (freeCantle p s) := by
  exact h

@[simp ↓] theorem own_holdPath (p : Nat) (h : Own K org s) : Own K org (holdPath p s) := by
  unfold holdPath
  simp (maxDischargeDepth := 40) +contextual [h]

@[simp ↓] theorem own_holdBoundary (d : Side) (h : Own K org s) : Own K org (holdBoundary d s) := by
  unfold holdBoundary
  simp (maxDischargeDepth := 40) +contextual [h]

@[simp ↓] theorem own_setFigure (g : Nat) (code : Nat) (low : Bool) (h : Own K org s) :
    Own K org (setFigure g code low s) := by
  unfold setFigure
  simp (maxDischargeDepth := 40) +contextual [h]

@[simp ↓] theorem own_judge (g : Nat) (h : Own K org s) : Own K org (judge g s) := by
  unfold judge
  simp (maxDischargeDepth := 40) +contextual [h]

@[simp ↓] theorem own_judgeAll (h : Own K org s) : Own K org (judgeAll s) := by
  unfold judgeAll
  simp (maxDischargeDepth := 40) +contextual [h]

@[simp ↓] theorem own_abandonSlice (g : Nat) (h : Own K org s) : Own K org (abandonSlice g s) := by
  unfold abandonSlice
  simp (maxDischargeDepth := 40) +contextual [h]

@[simp ↓] theorem own_beginStep (next : Bool) (g : Nat) (h : Own K org s) : Own K org (beginStep next g s) := by
  unfold beginStep
  simp (maxDischargeDepth := 40) +contextual [h]

@[simp ↓] theorem own_refreshRunning (next : Bool) (h : Own K org s) : Own K org (refreshRunning next s) := by
  unfold refreshRunning
  simp (maxDischargeDepth := 40) +contextual [h]

@[simp ↓] theorem own_tellAwl (deltas : List Nat) (refused : Bool) (h : Own K org s) :
    Own K org (tellAwl deltas refused s) := by
  unfold tellAwl
  simp (maxDischargeDepth := 40) +contextual [h]

@[simp ↓] theorem own_ringRound (rings : List (Nat × Nat)) (h : Own K org s) : Own K org (ringRound rings s) := by
  unfold ringRound
  simp (maxDischargeDepth := 40) +contextual [h]

@[simp ↓] theorem own_formTrims (g : Nat) (trims : List Word) (h : Own K org s) : Own K org (formTrims g trims s) := by
  unfold formTrims
  simp (maxDischargeDepth := 40) +contextual [h]

@[simp ↓] theorem own_awlForeground (rings : List (Nat × Nat)) (h : Own K org s) : Own K org (awlForeground rings s) := by
  unfold awlForeground
  simp (maxDischargeDepth := 40) +contextual [h]

@[simp ↓] theorem own_takeResult (r : StepResult) (h : Own K org s) (kLight : K.light = false) :
    Own K org (takeResult r s) := by
  unfold takeResult
  simp (maxDischargeDepth := 40) +contextual [h, kLight]

@[simp ↓] theorem own_keepValues (g : Nat) (h : Own K org s) : Own K org (keepValues g s) := by
  unfold keepValues
  simp (maxDischargeDepth := 40) +contextual [h]

@[simp ↓] theorem own_repeatDwell (g : Nat) (h : Own K org s) : Own K org (repeatDwell g s) := by
  unfold repeatDwell
  simp (maxDischargeDepth := 40) +contextual [h]

@[simp ↓] theorem own_endGroup (g : Nat) (h : Own K org s) : Own K org (endGroup g s) := by
  unfold endGroup
  simp (maxDischargeDepth := 40) +contextual [h]

@[simp ↓] theorem own_leaveGroups (gs : List Nat) (late : Bool) (h : Own K org s) :
    Own K org (leaveGroups gs late s) := by
  unfold leaveGroups
  simp (maxDischargeDepth := 40) +contextual [h]

@[simp ↓] theorem own_operationStep (results : List StepResult) (h : Own K org s) (kLight : K.light = false) :
    Own K org (operationStep results s) := by
  unfold operationStep
  simp (maxDischargeDepth := 40) +contextual [h, kLight]

@[simp ↓] theorem own_operationTimeout (g : Nat) (h : Own K org s) : Own K org (operationTimeout g s) := by
  unfold operationTimeout
  simp (maxDischargeDepth := 40) +contextual [h]

@[simp ↓] theorem own_dropRuns (h : Own K org s) : Own K org (dropRuns s) := by
  unfold dropRuns
  simp (maxDischargeDepth := 40) +contextual [h]

@[simp ↓] theorem own_abandonAwl (h : Own K org s) : Own K org (abandonAwl s) := by
  unfold abandonAwl
  simp (maxDischargeDepth := 40) [h]

@[simp ↓] theorem own_abandonBackground (m : BitVec 17) (h : Own K org s) : Own K org (abandonBackground m s) := by
  unfold abandonBackground
  extract_lets s1
  have h1 : Own K org s1 := own_foldl _ _ h fun _ _ ht => own_ite (own_abandonSlice _ ht) ht
  exact own_ite (own_abandonAwl h1) h1

@[simp ↓] theorem own_startRun (p : List Word) (h : Own K org s) : Own K org (startRun p s) := by
  unfold startRun
  simp (maxDischargeDepth := 40) +contextual [h]

@[simp ↓] theorem own_acceptRecord (p : List Word) (h : Own K org s) : Own K org (acceptRecord p s) := by
  unfold acceptRecord
  extract_lets g s1 wait x s2
  have h1 : Own K org s1 := own_ite (own_abandonSlice _ h) (own_ite (own_abandonAwl h) h)
  have h2 : Own K org s2 := h1
  exact own_ite h2 (own_ite (own_applyAux h2) (own_ite (own_ringRound _ (own_applyRecords _ h2)) (own_applyRecords _ h2)))

@[simp ↓] theorem own_loadRecord (g : Nat) (p : List Word) (h : Own K org s) : Own K org (loadRecord g p s) := by
  unfold loadRecord
  simp (maxDischargeDepth := 40) +contextual [h]

/-! ### Products -/

@[simp ↓] theorem own_deltaTrigger (d : Side) (r : Nat) (mm : Nat) (at' : Word) (h : Own K org s) :
    Own K org (deltaTrigger d r mm at' s) := by
  unfold deltaTrigger
  simp (maxDischargeDepth := 40) +contextual [h]

@[simp ↓] theorem own_tellStep (c : Cfg) (d : Side) (r : Nat) (tag : Word) (step : Option Nat) (h : Own K org s) :
    Own K org (tellStep c d r tag step s) := by
  cases step
  · exact h
  · exact own_deltaTrigger _ _ _ _ (own_post _ _ h)

@[simp ↓] theorem own_formDelta (d : Side) (r : Nat) (h : Own K org s) : Own K org (formDelta d r s) := by
  unfold formDelta
  dsimp only
  (repeat' split) <;> simp (maxDischargeDepth := 40) +contextual [h]

@[simp ↓] theorem own_parkingRead (r : Nat) (bad : Bool) (h : Own K org s) : Own K org (parkingRead r bad s) := by
  exact own_blockRead _ _ _ _ h

@[simp ↓] theorem own_baselineRead (r : Nat) (acc : Access) (h : Own K org s) : Own K org (baselineRead r acc s) := by
  unfold baselineRead
  extract_lets n s1
  have h1 : Own K org s1 := own_blockRead _ _ _ _ h
  exact own_ite (own_setBase _ _ (own_setDelta _ _ h1)) h1

@[simp ↓] theorem own_reportBreak (c : Cfg) (d : Side) (r : Nat) (sample : Nat) (h : Own K org s) :
    Own K org (reportBreak c d r sample s) := by
  unfold reportBreak
  simp (maxDischargeDepth := 40) +contextual [h]

@[simp ↓] theorem own_checkBreak (c : Cfg) (d : Side) (r : Nat) (power : Nat → Nat) (noise : Nat) (boundary : Word) (h :
    Own K org s) : Own K org (checkBreak c d r power noise boundary s) := by
  unfold checkBreak
  simp (maxDischargeDepth := 40) +contextual [h]

@[simp ↓] theorem own_overwriteOldest (h : Own K org s) : Own K org (overwriteOldest s) := by
  unfold overwriteOldest
  split <;> simp (maxDischargeDepth := 40) +contextual [h]

@[simp ↓] theorem own_makeRoom (n need : Nat) (h : Own K org s) : Own K org (makeRoom n need s) := by
  induction n generalizing s with
  | zero => exact h
  | succ k ih => exact own_ite h (ih (own_overwriteOldest h))

@[simp ↓] theorem own_ringFrame (f : Frame) (h : Own K org s) : Own K org (ringFrame f s) := by
  have h1 := own_makeRoom s.girth.ring.length f.bytes h
  unfold ringFrame
  refine own_ite h (own_ite ?_ (own_ite ?_ h1)) <;> simp (maxDischargeDepth := 40) [h, h1]

@[simp ↓] theorem own_endDump (d : Dump) (h : Own K org s) (kHeld : K.held = false) : Own K org (endDump d s) := by
  unfold endDump; simp (maxDischargeDepth := 40) +contextual [h, kHeld]

@[simp ↓] theorem own_startDump (p : List Word) (h : Own K org s) (kHeld : K.held = false) :
    Own K org (startDump p s) := by
  unfold startDump
  split <;> simp (maxDischargeDepth := 40) +contextual [h, kHeld]

@[simp ↓] theorem own_dumpCopy (l : List Frame) (used n : Nat) (d : Dump) (h : Own K org s) :
    Own K org (dumpCopy l used n d s).2 := by
  induction l generalizing used n d s with
  | nil => exact h
  | cons f l ih =>
    rw [dumpCopy]
    dsimp only
    split
    · exact ih _ _ _ (own_ringRead _ _ (own_dramBytes _ h))
    · exact h

@[simp ↓] theorem own_formDigest (d : Side) (h : Own K org s) : Own K org (formDigest d s) := by
  unfold formDigest
  simp (maxDischargeDepth := 40) +contextual [h]

/-! ### Currier -/

@[simp ↓] theorem own_clearDecimator (c : Cfg) (z : Nat) (h : Own K org s) : Own K org (clearDecimator c z s) := by
  unfold clearDecimator
  simp (maxDischargeDepth := 40) +contextual [h]

@[simp ↓] theorem own_restartZone (d : Side) (c : Cfg) (z : Nat) (h : Own K org s) : Own K org (restartZone d c z s) := by
  unfold restartZone
  simp (maxDischargeDepth := 40) +contextual [h]

@[simp ↓] theorem own_restartSide (d : Side) (c : Cfg) (h : Own K org s) : Own K org (restartSide d c s) := by
  unfold restartSide
  simp (maxDischargeDepth := 40) +contextual [h]

@[simp ↓] theorem own_restartRoute (d : Side) (c : Cfg) (r : Nat) (h : Own K org s) :
    Own K org (restartRoute d c r s) := by
  unfold restartRoute
  simp (maxDischargeDepth := 40) +contextual [h]

@[simp ↓] theorem own_changeOver (d : Side) (r : Nat) (moved : Bool) (old : Cfg) (via : List Cfg) (new : Cfg) (h :
    Own K org s) : Own K org (changeOver d r moved old via new s) := by
  unfold changeOver
  simp (maxDischargeDepth := 40) +contextual [h]

@[simp ↓] theorem own_zoneOutput (d : Side) (c : Cfg) (z : Nat) (count : Nat) (h : Own K org s) :
    Own K org (zoneOutput d c z count s) := by
  unfold zoneOutput
  simp (maxDischargeDepth := 40) +contextual [h]

@[simp ↓] theorem own_zoneLaunch (d : Side) (x : LaunchIn) (z : Nat) (h : Own K org s) :
    Own K org (zoneLaunch d x z s) := by
  unfold zoneLaunch
  simp (maxDischargeDepth := 40) +contextual [h]

@[simp ↓] theorem own_zoneOutputs (d : Side) (c : Cfg) (r : Nat) (count : Nat) (h : Own K org s) :
    Own K org (zoneOutputs d c r count s) := by
  unfold zoneOutputs
  simp (maxDischargeDepth := 40) +contextual [h]

@[simp ↓] theorem own_fadeZone (pct : Nat) (z : Nat) (h : Own K org s) : Own K org (fadeZone pct z s) := by
  unfold fadeZone
  simp (maxDischargeDepth := 40) +contextual [h]

@[simp ↓] theorem own_fadeSecond (d : Side) (h : Own K org s) : Own K org (fadeSecond d s) := by
  unfold fadeSecond
  simp (maxDischargeDepth := 40) +contextual [h]

@[simp ↓] theorem own_fadeSeconds (h : Own K org s) : Own K org (fadeSeconds s) := by
  unfold fadeSeconds
  simp (maxDischargeDepth := 40) +contextual [h]

@[simp ↓] theorem own_cleanGroup (c : Cfg) (d : Side) (r : Nat) (cycle : Nat) (h : Own K org s) :
    Own K org (cleanGroup c d r cycle s) := by
  unfold cleanGroup
  simp (maxDischargeDepth := 40) +contextual [h]

@[simp ↓] theorem own_groupPower (d : Side) (c : Cfg) (sh : Shot) (p : List (Nat × Nat)) (ok : Bool) (noise : Nat) (h :
    Own K org s) : Own K org (groupPower d c sh p ok noise s) := by
  unfold groupPower
  simp (maxDischargeDepth := 40) +contextual [h]

@[simp ↓] theorem own_takeNoise (d : Side) (sh : Shot) (l : List GateSample) (h : Own K org s) :
    Own K org (takeNoise d sh l s) := by
  unfold takeNoise
  simp (maxDischargeDepth := 40) +contextual [h]

@[simp ↓] theorem own_takeReference (d : Side) (c : Cfg) (sh : Shot) (l : List GateSample) (bs : List Nat) (h :
    Own K org s) : Own K org (takeReference d c sh l bs s).2 := by
  unfold takeReference
  extract_lets t kept outs x s1 jump
  have h1 : Own K org s1 := own_setCur _ _ h
  exact own_ite (own_restartRoute _ _ _ h1) h1

@[simp ↓] theorem own_judgeReturn (d : Side) (c : Cfg) (sh : Shot) (h : Own K org s) :
    Own K org (judgeReturn d c sh s) := by
  unfold judgeReturn
  simp (maxDischargeDepth := 40) +contextual [h]

@[simp ↓] theorem own_shotOutput (d : Side) (sh : Shot) (data : ShotData) (h : Own K org s) :
    Own K org (shotOutput d sh data s) := by
  unfold shotOutput
  extract_lets c s0 u count ls s1 s2 l bs s4 noise s5 x s6 s7 s8 s9
  have h0 : Own K org s0 := own_fadeSeconds h
  have h1 : Own K org s1 := own_ite h0 (own_changeOver _ _ _ _ _ _ h0)
  have h2 : Own K org s2 := own_setCur _ _ h1
  have h4 : Own K org s4 := own_ite h2 (own_takeNoise _ _ _ h2)
  have h5 : Own K org s5 := own_judgeReturn _ _ _ h4
  have h6 : Own K org s6 := own_foldl _ _ (own_takeReference _ _ _ _ _ h5) fun _ _ hs => own_zoneLaunch _ _ _ hs
  have h8 : Own K org s8 := own_enqueueAll _ (own_zoneOutputs _ _ _ _ h6)
  exact own_groupPower _ _ _ _ _ _ (own_ite (own_sideOvers _ _ h8) h8)

end Sys2Proof.Machine
end

section
/-!
SUPPORT. `Own` of commit, emitter and harness.
-/
namespace Sys2Proof.Machine

-- one theorem after the other: the threads of many at once need more memory than the check has
set_option Elab.async false

variable {K : Track} {org s nxt : State}

/-! ### Staging -/

@[simp ↓] theorem own_setDraft (f : Cfg → Cfg) (h : Own K org s) (kDraft : K.draft = false) :
    Own K org (setDraft f s) := by
  unfold setDraft
  simp (maxDischargeDepth := 40) +contextual [h, kDraft]

@[simp ↓] theorem own_passGate (d : Side) (h : Own K org s) (kGate : K.gate = false) : Own K org (passGate d s) := by
  unfold passGate
  split <;> simp (maxDischargeDepth := 40) +contextual [h, kGate]

@[simp ↓] theorem own_commitDone (h : Own K org s) (kC : Applies K) : Own K org (commitDone s) := by
  unfold commitDone
  split
  next t a b wa wb hg =>
    have hd : K.liveOr = true → s.draft = org.live ∨ s.draft = org.draft := fun k => by
      obtain ⟨_, _, h3, _⟩ := h
      exact .inr (h3 (kC.or.resolve_left (by simp [k])))
    have h1 := own_live (c := s.draft) h kC.live hd
    have h2 := own_brg (b := { s.brg with gate := .idle }) h1 (by simp [kC.gate]) fun _ => rfl
    have h3 := own_tacks (t := s.tacks.applied t true) h2 (fun _ => applied_tackSets ..) (by simp [kC.modified])
    exact own_finish _ _ _ (own_post _ _ h3) (by simp [kC.held])
  · exact h

@[simp ↓] theorem own_trigCommit (d : Side) (old : Cfg) (new : Cfg) (h : Own K org s) :
    Own K org (trigCommit d old new s) := by
  unfold trigCommit
  simp (maxDischargeDepth := 40) +contextual [h]

@[simp ↓] theorem own_baselineRoute (d : Side) (old : Cfg) (new : Cfg) (r : Nat) (h : Own K org s) :
    Own K org (baselineRoute d old new r s) := by
  unfold baselineRoute
  simp (maxDischargeDepth := 40) +contextual [h]

@[simp ↓] theorem own_clearOverload (h : Own K org s) : Own K org (clearOverload s) := by
  unfold clearOverload
  simp (maxDischargeDepth := 40) +contextual [h]

@[simp ↓] theorem own_energyCommit (d : Side) (c : Cfg) (h : Own K org s) : Own K org (energyCommit d c s) := by
  unfold energyCommit
  simp (maxDischargeDepth := 40) +contextual [h]

@[simp ↓] theorem own_takeCommit (d : Side) (h : Own K org s) (kC : Applies K) : Own K org (takeCommit d s) := by
  unfold takeCommit
  simp (maxDischargeDepth := 40) +contextual [h, kC, kC.gate, kC.held]

@[simp ↓] theorem own_loadSnapshot (t : Option TackLoad) (h : Own K org s) : Own K org (loadSnapshot t s) := by
  unfold loadSnapshot
  (repeat' split) <;> simp (maxDischargeDepth := 40) +contextual [h]

@[simp ↓] theorem own_freeze (t : Option TackLoad) (h : Own K org s) (kC : Applies K) : Own K org (freeze t s) := by
  have hg : ∀ g : Gate, Own K org { s with brg := { s.brg with gate := g } } := fun g =>
    own_brg h (by simp [kC.gate]) fun _ => rfl
  unfold freeze
  split
  · have h1 := own_tacks (t := s.tacks.applied t false) (hg .idle) (fun _ => applied_tackSets ..) (by simp [kC.modified])
    exact own_finish _ _ _ (own_post _ _ (own_loadSnapshot t h1)) (by simp [kC.held])
  · extract_lets a b br s1 s2
    have h2 : Own K org s2 := own_loadSnapshot t (own_auxCommit _ _ (hg _))
    exact own_ite (own_commitDone h2 kC) (own_bothSides _ h2 fun d x hx => own_ite hx (own_takeCommit d hx kC))

@[simp ↓] theorem own_judgeDraft (t : Option TackLoad) (h : Own K org s) (kC : Applies K) :
    Own K org (judgeDraft t s) := by
  unfold judgeDraft
  split <;> simp (maxDischargeDepth := 40) +contextual [h, kC, kC.gate, kC.held]

@[simp ↓] theorem own_setTack (n : Nat) (f : TackSet → TackSet) (h : Own K org s) (kSets : K.sets = false) :
    Own K org (setTack n f s) := by
  unfold setTack
  simp (maxDischargeDepth := 40) +contextual [h, kSets]

@[simp ↓] theorem own_startSave (p : List Word) (h : Own K org s) (kSets : K.sets = false) :
    Own K org (startSave p s) := by
  unfold startSave
  simp (maxDischargeDepth := 40) +contextual [h, kSets]

@[simp ↓] theorem own_startErase (p : List Word) (h : Own K org s) (kSets : K.sets = false) :
    Own K org (startErase p s) := by
  unfold startErase
  simp (maxDischargeDepth := 40) +contextual [h, kSets]

@[simp ↓] theorem own_dropTackOp (h : Own K org s) : Own K org (dropTackOp s) := by
  unfold dropTackOp
  simp (maxDischargeDepth := 40) +contextual [h]

/-! ### Lash -/

@[simp ↓] theorem own_beginProof (d : Side) (h : Own K org s) (kLight : K.light = false) :
    Own K org (beginProof d s) := by
  unfold beginProof
  simp (maxDischargeDepth := 40) +contextual [h, kLight]

@[simp ↓] theorem own_startProof (d : Side) (h : Own K org s) (kOff : K.light = true → (org.lash.get d).enabled = false) :
    Own K org (startProof d s) := by
  unfold startProof
  dsimp only
  split
  next hc =>
    refine own_beginProof d h ?_
    by_contra k
    have k : K.light = true := by simpa using k
    have he : (s.lash.get d).enabled = true := by simp_all
    obtain ⟨h1, h2, h3, h4, h5, h6, h7, h8, h9, h10, hl, h11⟩ := h
    have hd : lightOf (s.lash.get d) = lightOf (org.lash.get d) := by
      cases d
      · exact (hl k).1
      · exact (hl k).2
    have he' : (s.lash.get d).enabled = (org.lash.get d).enabled := congrArg Prod.fst hd
    rw [he, kOff k] at he'
    exact nomatch he'
  · exact h

@[simp ↓] theorem own_abandonProof (d : Side) (h : Own K org s) : Own K org (abandonProof d s) := by
  unfold abandonProof
  simp (maxDischargeDepth := 40) +contextual [h]

@[simp ↓] theorem own_proofDone (d : Side) (h : Own K org s) : Own K org (proofDone d s) := by
  unfold proofDone
  simp (maxDischargeDepth := 40) +contextual [h]

@[simp ↓] theorem own_launchTakes (d : Side) (g : Nat) (h : Own K org s) : Own K org (launchTakes d g s) := by
  unfold launchTakes
  simp (maxDischargeDepth := 40) +contextual [h]

@[simp ↓] theorem own_launchGroup (d : Side) (g : Nat) (h : Own K org s) (kLight : K.light = false) :
    Own K org (launchGroup d g s) := by
  unfold launchGroup
  simp (maxDischargeDepth := 40) +contextual [h, kLight]

@[simp ↓] theorem own_discardShots (d : Side) (h : Own K org s) : Own K org (discardShots d s) := by
  unfold discardShots
  simp (maxDischargeDepth := 40) +contextual [h]

@[simp ↓] theorem own_cutPulse (d : Side) (h : Own K org s) : Own K org (cutPulse d s) := by
  unfold cutPulse
  simp (maxDischargeDepth := 40) +contextual [h]

@[simp ↓] theorem own_emitOff (d : Side) (cause : Nat) (h : Own K org s) (kLight : K.light = false) :
    Own K org (emitOff d cause s) := by
  unfold emitOff
  simp (maxDischargeDepth := 40) +contextual [h, kLight]

@[simp ↓] theorem own_applySide (d : Side) (h : Own K org s) : Own K org (applySide d s) := by
  unfold applySide
  simp (maxDischargeDepth := 40) +contextual [h]

@[simp ↓] theorem own_endSettle (d : Side) (dwellEnd : Bool) (failing : Bool) (h : Own K org s) :
    Own K org (endSettle d dwellEnd failing s) := by
  unfold endSettle
  simp (maxDischargeDepth := 40) +contextual [h]

@[simp ↓] theorem own_endAcq (d : Side) (cause : Nat) (h : Own K org s) (kC : Applies K) (kAcq : K.acq = false)
    (kOff : K.light = true → (org.lash.get d).enabled = false) : Own K org (endAcq d cause s) := by
  unfold endAcq
  refine own_ite h ?_
  extract_lets s1 s2 s3
  have h1 : Own K org s1 := own_stopRecords _ (own_setLash _ _ (own_endSettle _ _ _ (own_ite h (own_discardShots _ h)))
    (by simp [Lash.halt]) (by simp [Lash.halt]))
  have h2 : Own K org s2 := own_post _ _ (own_setGirth _ _ h1 (by simp [kAcq]) (by simp))
  have h3 : Own K org s3 := own_discardSide _ (own_setTherm _ _ (own_takeCommit _ h2 kC))
  exact own_startProof _ (own_fixLane (own_takeIdle _ (own_clearOverload (own_applySide _ h3)))) kOff

@[simp ↓] theorem own_allDark (emit : Nat) (acq : Nat) (h : Own K org s) (kC : Applies K) (kLight : K.light = false)
    (kAcq : K.acq = false) : Own K org (allDark emit acq s) := by
  unfold allDark
  simp (maxDischargeDepth := 40) +contextual [h, kC, kC.gate, kC.held, kLight, kAcq]

@[simp ↓] theorem own_gateVerdict (d : Side) (code : Nat) (heldNs : Nat) (cut : Bool) (h : Own K org s)
    (kLight : K.light = false) : Own K org (gateVerdict d code heldNs cut s) := by
  unfold gateVerdict
  simp (maxDischargeDepth := 40) +contextual [h, kLight]

@[simp ↓] theorem own_energyLoop (d : Side) (g : Nat) (e : Nat) (h : Own K org s) : Own K org (energyLoop d g e s) := by
  unfold energyLoop
  simp (maxDischargeDepth := 40) +contextual [h]

@[simp ↓] theorem own_leaveRoute (d : Side) (h : Own K org s) : Own K org (leaveRoute d s) := by
  unfold leaveRoute
  simp (maxDischargeDepth := 40) +contextual [h]

@[simp ↓] theorem own_switchTo (d : Side) (e : Nat) (h : Own K org s) : Own K org (switchTo d e s) := by
  unfold switchTo
  simp (maxDischargeDepth := 40) +contextual [h]

@[simp ↓] theorem own_beginBlanking (d : Side) (e : Nat × Word) (h : Own K org s) : Own K org (beginBlanking d e s) := by
  unfold beginBlanking
  simp (maxDischargeDepth := 40) +contextual [h]

@[simp ↓] theorem own_beginDwell (d : Side) (e : Nat × Word) (h : Own K org s) : Own K org (beginDwell d e s) := by
  unfold beginDwell
  simp (maxDischargeDepth := 40) +contextual [h]

@[simp ↓] theorem own_boundary (d : Side) (h : Own K org s) (kC : Applies K) : Own K org (boundary d s) := by
  unfold boundary
  simp (maxDischargeDepth := 40) +contextual [h, kC, kC.gate, kC.held]

@[simp ↓] theorem own_settlePassed (d : Side) (h : Own K org s) : Own K org (settlePassed d s) := by
  unfold settlePassed
  simp (maxDischargeDepth := 40) +contextual [h]

@[simp ↓] theorem own_emitAgain (d : Side) (h : Own K org s) : Own K org (emitAgain d s) := by
  unfold emitAgain
  simp (maxDischargeDepth := 40) +contextual [h]

@[simp ↓] theorem own_goTo (d : Side) (e : Option (Nat × Word)) (h : Own K org s) (kC : Applies K)
    (kLight : K.light = false) (kAcq : K.acq = false) : Own K org (goTo d e s) := by
  unfold goTo
  split <;> simp (maxDischargeDepth := 40) +contextual [h, kC, kC.gate, kC.held, kLight, kAcq]

@[simp ↓] theorem own_groupBoundary (d : Side) (h : Own K org s) (kC : Applies K) (kLight : K.light = false)
    (kAcq : K.acq = false) : Own K org (groupBoundary d s) := by
  unfold groupBoundary
  extract_lets s1 s2
  have h1 : Own K org s1 := own_boundary _ h kC
  have h2 : Own K org s2 := own_ite (own_emitAgain _ h1) (own_settlePassed _ (own_setLash _ _ h1 (by simp) (by simp)))
  clear_value s2
  exact own_ite (own_goTo _ _ h2 kC kLight kAcq)
    (own_ite (own_goTo _ _ h2 kC kLight kAcq) (own_launchGroup _ _ h2 kLight))

@[simp ↓] theorem own_blankingEnd (d : Side) (h : Own K org s) (kC : Applies K) (kLight : K.light = false)
    (kAcq : K.acq = false) : Own K org (blankingEnd d s) := by
  unfold blankingEnd
  simp (maxDischargeDepth := 40) +contextual [h, kC, kC.gate, kC.held, kLight, kAcq]

@[simp ↓] theorem own_darkRoute (d : Side) (h : Own K org s) : Own K org (darkRoute d s) := by
  unfold darkRoute
  simp (maxDischargeDepth := 40) +contextual [h]

@[simp ↓] theorem own_blankNow (d : Side) (e : Nat) (h : Own K org s) (kC : Applies K) (kLight : K.light = false)
    (kAcq : K.acq = false) : Own K org (blankNow d e s) := by
  unfold blankNow
  dsimp only
  (repeat' split) <;> simp (maxDischargeDepth := 40) +contextual [h, kC, kC.gate, kC.held, kLight, kAcq]

@[simp ↓] theorem own_leaveBlocked (d : Side) (h : Own K org s) (kC : Applies K) (kLight : K.light = false)
    (kAcq : K.acq = false) : Own K org (leaveBlocked d s) := by
  unfold leaveBlocked
  dsimp only
  (repeat' split) <;> simp (maxDischargeDepth := 40) +contextual [h, kC, kC.gate, kC.held, kLight, kAcq]

@[simp ↓] theorem own_clampOutputs (d : Side) (h : Own K org s) : Own K org (clampOutputs d s) := by
  unfold clampOutputs
  simp (maxDischargeDepth := 40) +contextual [h]

@[simp ↓] theorem own_lockAct (w : Word) (h : Own K org s) : Own K org (lockAct w s) := by
  unfold lockAct
  split <;> simp (maxDischargeDepth := 40) +contextual [h]

@[simp ↓] theorem own_aprClear (d : Side) (bits : Nat) (h : Own K org s) (kBlocked : K.blocked = false) :
    Own K org (aprClear d bits s) := by
  unfold aprClear
  simp (maxDischargeDepth := 40) +contextual [h, kBlocked]

@[simp ↓] theorem own_emitOn (d : Side) (h : Own K org s) (kLight : K.light = false) : Own K org (emitOn d s) := by
  unfold emitOn
  simp (maxDischargeDepth := 40) +contextual [h, kLight]

/-! ### Acquire -/

@[simp ↓] theorem own_freshZones (d : Side) (h : Own K org s) : Own K org (freshZones d s) := by
  unfold freshZones
  simp (maxDischargeDepth := 40) +contextual [h]

@[simp ↓] theorem own_freshEnvelopes (d : Side) (c : Cfg) (h : Own K org s) : Own K org (freshEnvelopes d c s) := by
  unfold freshEnvelopes
  simp (maxDischargeDepth := 40) +contextual [h]

@[simp ↓] theorem own_startScan (d : Side) (h : Own K org s) (kC : Applies K) (kLight : K.light = false)
    (kAcq : K.acq = false) : Own K org (startScan d s) := by
  unfold startScan
  split <;> simp (maxDischargeDepth := 40) +contextual [h, kC, kC.gate, kC.held, kLight, kAcq]

@[simp ↓] theorem own_startAcq (d : Side) (h : Own K org s) (kC : Applies K) (kLight : K.light = false) (kAcq : K.acq = false)
    (kDark : K.dark = false) : Own K org (startAcq d s) := by
  unfold startAcq
  extract_lets c s1 s2 gi s3
  have h1 : Own K org s1 := own_setCur _ _ (own_freshZones _ (own_restartSide _ _ h))
  have h2 : Own K org s2 := own_setGirth _ _ h1 (by simp [kAcq]) (by simp [kDark])
  have h3 : Own K org s3 := own_useTiles (own_freshEnvelopes _ _ (own_girth h2 rfl rfl))
  exact own_fixLane (own_startScan _ (own_post _ _ (own_discardSide _ h3)) kC kLight kAcq)

@[simp ↓] theorem own_stopSide (d : Side) (h : Own K org s) : Own K org (stopSide d s) := by
  unfold stopSide
  simp (maxDischargeDepth := 40) +contextual [h]

/-! ### Chain -/

@[simp ↓] theorem own_setHarn (f : Harness → Harness) (h : Own K org s) : Own K org (setHarn f s) := by
  unfold setHarn
  simp (maxDischargeDepth := 40) +contextual [h]

@[simp ↓] theorem own_setLink (p : HPort) (x : LinkState) (h : Own K org s) : Own K org (setLink p x s) := by
  unfold setLink
  split <;> simp (maxDischargeDepth := 40) +contextual [h]

@[simp ↓] theorem own_sendUp (k : Packet) (h : Own K org s) : Own K org (sendUp k s) := by
  unfold sendUp
  simp (maxDischargeDepth := 40) +contextual [h]

@[simp ↓] theorem own_sendDown (k : Packet) (h : Own K org s) : Own K org (sendDown k s) := by
  unfold sendDown
  simp (maxDischargeDepth := 40) +contextual [h]

@[simp ↓] theorem own_setAddress (a : Nat) (h : Own K org s) (kAddress : K.address = false) (kPwr : K.pwr = false) :
    Own K org (setAddress a s) := by
  unfold setAddress
  simp (maxDischargeDepth := 40) +contextual [h, kAddress, kPwr]

@[simp ↓] theorem own_contributed (k : Packet) (h : Own K org s) (kAddress : K.address = false) (kPwr : K.pwr = false) :
    Own K org (contributed k s) := by
  unfold contributed
  split <;> simp (maxDischargeDepth := 40) +contextual [h, kAddress, kPwr]

@[simp ↓] theorem own_delayDone (d : BitVec 32) (h : Own K org s) : Own K org (delayDone d s) := by
  unfold delayDone
  simp (maxDischargeDepth := 40) +contextual [h]

@[simp ↓] theorem own_sendProbes (h : Own K org s) : Own K org (sendProbes s) := by
  unfold sendProbes
  exact h

@[simp ↓] theorem own_passSymbol (from' : HPort) (k : TimKind) (t : TimingSym) (h : Own K org s) :
    Own K org (passSymbol from' k t s) := by
  unfold passSymbol
  split <;> simp (maxDischargeDepth := 40) +contextual [h]

@[simp ↓] theorem own_lineArm (code : Nat) (h : Own K org s) : Own K org (lineArm code s) := by
  unfold lineArm
  simp (maxDischargeDepth := 40) +contextual [h]

@[simp ↓] theorem own_loadAtSync (p : HPort) (t : TimingSym) (h : Own K org s) : Own K org (loadAtSync p t s) := by
  unfold loadAtSync
  split <;> simp (maxDischargeDepth := 40) +contextual [h]

/-! ### Pll -/

@[simp ↓] theorem own_setPll (f : Pll → Pll) (h : Own K org s) : Own K org (setPll f s) := by
  unfold setPll
  simp (maxDischargeDepth := 40) +contextual [h]

@[simp ↓] theorem own_startChange (v : Word) (h : Own K org s) : Own K org (startChange v s) := by
  unfold startChange
  simp (maxDischargeDepth := 40) +contextual [h]

@[simp ↓] theorem own_restoreCfg (h : Own K org s) : Own K org (restoreCfg s) := by
  unfold restoreCfg
  split <;> simp (maxDischargeDepth := 40) +contextual [h]

@[simp ↓] theorem own_loseLock (refLost : Bool) (h : Own K org s) (kC : Applies K) (kLight : K.light = false)
    (kAcq : K.acq = false) : Own K org (loseLock refLost s) := by
  unfold loseLock
  simp (maxDischargeDepth := 40) +contextual [h, kC, kC.gate, kC.held, kLight, kAcq]

@[simp ↓] theorem own_endChange (h : Own K org s) : Own K org (endChange s) := by
  unfold endChange
  split <;> simp (maxDischargeDepth := 40) +contextual [h]

@[simp ↓] theorem own_syncRestart (d : Side) (h : Own K org s) : Own K org (syncRestart d s) := by
  unfold syncRestart
  simp (maxDischargeDepth := 40) +contextual [h]

@[simp ↓] theorem own_applySync (pfdEdges : Nat) (h : Own K org s) : Own K org (applySync pfdEdges s) := by
  unfold applySync
  simp (maxDischargeDepth := 40) +contextual [h]

/-! ### Mem -/

@[simp ↓] theorem own_setMem (f : Mem → Mem) (h : Own K org s) : Own K org (setMem f s) := h

@[simp ↓] theorem own_addFill (x : Nat × Nat × Word) (h : Own K org s) : Own K org (setMem (fun m => m.addFill x) s) := by
  exact h

@[simp ↓] theorem own_wakeAt (a : Nat) (h : Own K org s) : Own K org (wakeAt a s) := by
  unfold wakeAt
  simp (maxDischargeDepth := 40) +contextual [h]

@[simp ↓] theorem own_ownTiles (a : Nat) (n : Nat) (h : Own K org s) : Own K org (ownTiles a n s) := by
  unfold ownTiles
  simp (maxDischargeDepth := 40) +contextual [h]

@[simp ↓] theorem own_hostPut (a : Nat) (ws : List Word) (h : Own K org s) : Own K org (hostPut a ws s) := by
  unfold hostPut
  simp (maxDischargeDepth := 40) +contextual [h]

@[simp ↓] theorem own_scramble (a : Nat) (n : Nat) (h : Own K org s) : Own K org (scramble a n s) := by
  unfold scramble
  simp (maxDischargeDepth := 40) +contextual [h]

@[simp ↓] theorem own_dramLost (h : Own K org s) : Own K org (dramLost s) := by
  unfold dramLost
  simp (maxDischargeDepth := 40) +contextual [h]

@[simp ↓] theorem own_initDram (fail : Option (Nat × Nat)) (h : Own K org s) : Own K org (initDram fail s) := by
  unfold initDram
  simp (maxDischargeDepth := 40) +contextual [h]

@[simp ↓] theorem own_countTimeout (h : Own K org s) : Own K org (countTimeout s) := by
  unfold countTimeout
  simp (maxDischargeDepth := 40) +contextual [h]

@[simp ↓] theorem own_accessDone (acc : Access) (a : Nat) (n : Nat) (h : Own K org s) :
    Own K org (accessDone acc a n s) := by
  unfold accessDone
  split <;> simp (maxDischargeDepth := 40) +contextual [h]

@[simp ↓] theorem own_readMr4 (h : Own K org s) : Own K org (readMr4 s) := own_setMem _ h

@[simp ↓] theorem own_postpone (h : Own K org s) : Own K org (setMem Mem.postpone s) := own_setMem _ h

@[simp ↓] theorem own_readNow (p : List Word) (h : Own K org s) : Own K org (readNow p s).2 := by
  unfold readNow
  dsimp only
  split <;> simp (maxDischargeDepth := 40) +contextual [h]

@[simp ↓] theorem own_readDone (k a n : Nat) (acc : Access) (h : Own K org s) (kHeld : K.held = false) :
    Own K org (readDone k a n acc s) := by
  have h1 : Own K org (accessDone acc a n s) := own_accessDone _ _ _ h
  exact own_ite (own_slotDone _ _ _ h1 (by simp [kHeld])) (own_slotDone _ _ _ h1 (by simp [kHeld]))

@[simp ↓] theorem own_endOfFill (st : Nat) (h : Own K org s) : Own K org (endOfFill st s) := by
  unfold endOfFill
  simp (maxDischargeDepth := 40) +contextual [h]

@[simp ↓] theorem own_fillFails (acc : Access) (a : Nat) (left : Nat) (h : Own K org s) :
    Own K org (fillFails acc a left s) := by
  unfold fillFails
  simp (maxDischargeDepth := 40) +contextual [h]

@[simp ↓] theorem own_emptyRing (h : Own K org s) : Own K org (emptyRing s) := by
  unfold emptyRing
  simp (maxDischargeDepth := 40) +contextual [h]

@[simp ↓] theorem own_emptyElastic (h : Own K org s) : Own K org (emptyElastic s) := by
  unfold emptyElastic
  simp (maxDischargeDepth := 40) +contextual [h]

@[simp ↓] theorem own_moveRegions (lo : Nat) (hi : Nat) (h : Own K org s) : Own K org (moveRegions lo hi s) := by
  unfold moveRegions
  simp (maxDischargeDepth := 40) +contextual [h]

@[simp ↓] theorem own_planWrite (v : Word) (h : Own K org s) (kRw : K.rw = false) : Own K org (planWrite v s) := by
  unfold planWrite
  simp (maxDischargeDepth := 40) +contextual [h, kRw]

@[simp ↓] theorem own_elasticMove (new : State) (h : Own K org s) (hnew : Own K org new) :
    Own K org (elasticMove s new) := by
  unfold elasticMove
  simp (maxDischargeDepth := 40) +contextual [h, hnew]

/-! ### Lace -/

@[simp ↓] theorem own_badDesc (n : Nat) (cause : Nat) (h : Own K org s) : Own K org (badDesc n cause s) := by
  unfold badDesc
  simp (maxDischargeDepth := 40) +contextual [h]

@[simp ↓] theorem own_moveBurst (n : Nat) (b : Burst) (h : Own K org s) : Own K org (moveBurst n b s) := by
  unfold moveBurst
  (repeat' split) <;> simp (maxDischargeDepth := 40) +contextual [h]

@[simp ↓] theorem own_dataBurst (n : Nat) (b : Burst) (acc : Access) (h : Own K org s) :
    Own K org (dataBurst n b acc s).2 := by
  unfold dataBurst
  extract_lets put at' x s1
  have h1 : Own K org s1 := own_accessDone _ _ _ h
  clear_value s1
  cases x
  · exact own_moveBurst _ _ h1
  · exact own_moveBurst _ _ h1
  · exact own_ite (own_scramble _ _ h1) h1
  · exact h1

@[simp ↓] theorem own_runBurst (n : Nat) (acc : Access) (h : Own K org s) : Own K org (runBurst n acc s).2 := by
  unfold runBurst
  extract_lets b data
  have hd : ∀ x t, Own K org t → Own K org (data x t).2 := fun x t ht => by
    simp only [data]
    split
    · exact ht
    · exact own_dataBurst _ _ _ ht
  split
  · exact hd _ _ h
  · split
    · exact h
    · extract_lets met x s1
      have h1 : Own K org s1 := own_accessDone _ _ _ h
      split
      · exact h1
      · exact hd _ _ h1

@[simp ↓] theorem own_chanBurst (n : Nat) (acc : Access) (h : Own K org s) : Own K org (chanBurst n acc s) := by
  unfold chanBurst
  extract_lets x
  have hx : Own K org x.2 := own_runBurst _ _ (own_ite h h)
  exact own_ite (own_badDesc _ _ hx) hx

@[simp ↓] theorem own_engineBurst (acc : Access) (h : Own K org s) : Own K org (engineBurst acc s) := by
  unfold engineBurst
  split <;> simp (maxDischargeDepth := 40) +contextual [h]

@[simp ↓] theorem own_setTurn (p : Nat) (turn : Nat × Nat) (h : Own K org s) : Own K org (setTurn p turn s) := h

@[simp ↓] theorem own_fillOn (k : Nat) (h : Own K org s) : Own K org (fillOn k s) := by
  induction k generalizing s with
  | zero => exact h
  | succ k ih =>
    unfold fillOn
    split
    · exact own_endOfFill _ h
    · exact ih (own_engineBurst _ (own_setTurn _ _ h))
    · exact h

@[simp ↓] theorem own_haltChan (n : Nat) (x : DmaState) (event : Nat) (h : Own K org s) :
    Own K org (haltChan n x event s) := by
  unfold haltChan
  simp (maxDischargeDepth := 40) +contextual [h]

@[simp ↓] theorem own_fetchAt (n : Nat) (a : Nat) (h : Own K org s) : Own K org (fetchAt n a s) := by
  unfold fetchAt
  simp (maxDischargeDepth := 40) +contextual [h]

@[simp ↓] theorem own_writeBack (n : Nat) (result : Nat) (h : Own K org s) : Own K org (writeBack n result s) := by
  unfold writeBack
  simp (maxDischargeDepth := 40) +contextual [h]

@[simp ↓] theorem own_parkChan (n : Nat) (h : Own K org s) : Own K org (parkChan n s) := by
  unfold parkChan
  simp (maxDischargeDepth := 40) +contextual [h]

@[simp ↓] theorem own_followLink (n : Nat) (h : Own K org s) : Own K org (followLink n s) := by
  unfold followLink
  dsimp only
  (repeat' split) <;> simp (maxDischargeDepth := 40) +contextual [h]

@[simp ↓] theorem own_relink (n : Nat) (h : Own K org s) : Own K org (relink n s) := by
  unfold relink
  dsimp only
  (repeat' split) <;> simp (maxDischargeDepth := 40) +contextual [h]

@[simp ↓] theorem own_linkRead (n : Nat) (acc : Access) (f : Nat → State → State) (h : Own K org s)
    (hf : ∀ t, Own K org t → Own K org (f n t)) : Own K org (linkRead n acc f s) := by
  unfold linkRead
  dsimp only
  split <;> simp (maxDischargeDepth := 40) +contextual [h, hf]

@[simp ↓] theorem own_lastBurst (n : Nat) (h : Own K org s) : Own K org (lastBurst n s) := by
  unfold lastBurst
  extract_lets x s1
  have h1 : Own K org s1 := h
  exact own_ite h (own_ite h1 (own_runBurst _ _ h1))

@[simp ↓] theorem own_resume (n : Nat) (h : Own K org s) : Own K org (resume n s) := by
  unfold resume
  simp (maxDischargeDepth := 40) +contextual [h]

@[simp ↓] theorem own_finishAll (r : Res) (st : Nat) (res : List Word) (h : Own K org s) (hr : K.held = true → r ≠ .draft) :
    Own K org (finishAll r st res s) := by
  unfold finishAll
  refine own_foldl _ _ h fun s k hs => ?_
  split
  next hk => exact own_slotDone _ _ _ hs fun x => ⟨r, hk, hr x⟩
  · exact hs

end Sys2Proof.Machine
end

section
/-!
SUPPORT. `Own` of memory, Cantle, power.
-/
namespace Sys2Proof.Machine

-- one theorem after the other: the threads of many at once need more memory than the check has
set_option Elab.async false

variable {K : Track} {org s nxt : State}

/-! ### Update -/

@[simp ↓] theorem own_setCan (f : Cantle → Cantle) (h : Own K org s) : Own K org (setCan f s) := by
  unfold setCan
  simp (maxDischargeDepth := 40) +contextual [h]

@[simp ↓] theorem own_lifeUp (i : Nat) (h : Own K org s) : Own K org (lifeUp i s) := by
  unfold lifeUp
  simp (maxDischargeDepth := 40) +contextual [h]

@[simp ↓] theorem own_setSlot (b : Bool) (x : SlotState) (h : Own K org s) : Own K org (setSlot b x s) := by
  unfold setSlot
  simp (maxDischargeDepth := 40) +contextual [h]

@[simp ↓] theorem own_setImage (b : Bool) (x : Image) (h : Own K org s) : Own K org (setImage b x s) := by
  unfold setImage
  simp (maxDischargeDepth := 40) +contextual [h]

@[simp ↓] theorem own_startSession (p : List Word) (h : Own K org s) : Own K org (startSession p s) := by
  unfold startSession
  simp (maxDischargeDepth := 40) +contextual [h]

@[simp ↓] theorem own_logUpdate (code : Nat) (h : Own K org s) : Own K org (logUpdate code s) := by
  unfold logUpdate
  simp (maxDischargeDepth := 40) +contextual [h]

@[simp ↓] theorem own_failCrc (x : Session) (h : Own K org s) : Own K org (failCrc x s) := by
  unfold failCrc
  simp (maxDischargeDepth := 40) +contextual [h]

@[simp ↓] theorem own_judgeImage (x : Session) (h : Own K org s) : Own K org (judgeImage x s) := by
  unfold judgeImage
  simp (maxDischargeDepth := 40) +contextual [h]

@[simp ↓] theorem own_schedule (level : Nat) (h : Own K org s) (kPwr : K.pwr = false) : Own K org (schedule level s) := by
  unfold schedule
  simp (maxDischargeDepth := 40) +contextual [h, kPwr]

@[simp ↓] theorem own_rollback (cause : Nat) (h : Own K org s) (kPwr : K.pwr = false) : Own K org (rollback cause s) := by
  unfold rollback
  simp (maxDischargeDepth := 40) +contextual [h, kPwr]

@[simp ↓] theorem own_confirm (h : Own K org s) : Own K org (confirm s) := by
  unfold confirm
  simp (maxDischargeDepth := 40) +contextual [h]

@[simp ↓] theorem own_activate (w : Word) (h : Own K org s) (kPwr : K.pwr = false) : Own K org (activate w s) := by
  unfold activate
  split <;> simp (maxDischargeDepth := 40) +contextual [h, kPwr]

/-! ### Surge -/

@[simp ↓] theorem own_openSurge (r : Surge) (h : Own K org s) : Own K org (openSurge r s) := by
  unfold openSurge
  simp (maxDischargeDepth := 40) +contextual [h]

@[simp ↓] theorem own_openStale (h : Own K org s) : Own K org (openStale s) := by
  unfold openStale
  simp (maxDischargeDepth := 40) +contextual [h]

@[simp ↓] theorem own_setTile (t : Nat) (pass : Bool) (h : Own K org s) : Own K org (setTile t pass s) := by
  unfold setTile
  simp (maxDischargeDepth := 40) +contextual [h]

@[simp ↓] theorem own_tileOverload (h : Own K org s) : Own K org (tileOverload s) := by
  unfold tileOverload
  simp (maxDischargeDepth := 40) +contextual [h]

@[simp ↓] theorem own_tileTested (t : Nat) (pass : Bool) (h : Own K org s) : Own K org (tileTested t pass s) := by
  unfold tileTested
  simp (maxDischargeDepth := 40) +contextual [h]

@[simp ↓] theorem own_endHolds (h : Own K org s) : Own K org (endHolds s) := by
  unfold endHolds
  simp (maxDischargeDepth := 40) +contextual [h]

/-! ### Log -/

@[simp ↓] theorem own_loseLog (n : Nat) (h : Own K org s) : Own K org (loseLog n s) := by
  exact h

@[simp ↓] theorem own_nearFull (h : Own K org s) : Own K org (nearFull s) := by
  unfold nearFull
  simp (maxDischargeDepth := 40) +contextual [h]

@[simp ↓] theorem own_appendLog (es : List LogEntry) (h : Own K org s) : Own K org (appendLog es s) := by
  unfold appendLog
  simp (maxDischargeDepth := 40) +contextual [h]

@[simp ↓] theorem own_writeLog (x : LogItem) (h : Own K org s) : Own K org (writeLog x s) := by
  unfold writeLog
  simp (maxDischargeDepth := 40) +contextual [h]

@[simp ↓] theorem own_drainLog (n : Nat) (h : Own K org s) : Own K org (drainLog n s) := by
  induction n generalizing s with
  | zero => exact h
  | succ k ih =>
    unfold drainLog
    split
    · exact h
    · exact ih (own_writeLog _ (by simp (maxDischargeDepth := 40) [h]))

@[simp ↓] theorem own_addHours (i : Nat) (n : Nat) (h : Own K org s) : Own K org (addHours i n s) := by
  unfold addHours
  simp (maxDischargeDepth := 40) +contextual [h]

@[simp ↓] theorem own_updateLife (h : Own K org s) : Own K org (updateLife s) := by
  unfold updateLife
  simp (maxDischargeDepth := 40) +contextual [h]

/-! ### Power -/

@[simp ↓] theorem own_setPwr (f : Power → Power) (h : Own K org s)
    (ha : K.address = true → (f s.pwr).address = s.pwr.address)
    (hs : K.scratch = true → (f s.pwr).scratchLo = s.pwr.scratchLo ∧ (f s.pwr).scratchHi = s.pwr.scratchHi)
    (kPwr : K.pwr = false) : Own K org (setPwr f s) := own_pwr h ha hs kPwr

@[simp ↓] theorem own_abandon (h : Own K org s) (kHeld : K.held = false) : Own K org (abandon s) := by
  unfold abandon
  simp (maxDischargeDepth := 40) +contextual [h, kHeld]

@[simp ↓] theorem own_resetBridle (h : Own K org s) (kHeld : K.held = false) : Own K org (resetBridle s) := by
  unfold resetBridle
  simp (maxDischargeDepth := 40) +contextual [h, kHeld]

@[simp ↓] theorem own_resetDomains (h : Own K org s) (kR : Resets K) : Own K org (resetDomains s) := by
  obtain ⟨_, _, _, _, h5, h6, h7, h8, _⟩ := h
  exact ⟨by simp [kR.live], by simp [kR.liveOr], by simp [kR.draft], by simp [kR.rw], h5, h6, h7, h8, by simp [kR.gate],
    by simp [kR.modified], by simp [kR.light], by simp [kR.acq], by simp [kR.dark], by simp [kR.held], by simp [kR.pwr],
    by simp [kR.blocked]⟩

@[simp ↓] theorem own_startUp (dev : DevState) (event : Nat) (detail : Nat) (h : Own K org s) (kPwr : K.pwr = false) :
    Own K org (startUp dev event detail s) := by
  unfold startUp
  simp (maxDischargeDepth := 40) +contextual [h, kPwr]

@[simp ↓] theorem own_loseAddress (h : Own K org s) (kAddress : K.address = false) (kPwr : K.pwr = false) :
    Own K org (loseAddress s) := by
  unfold loseAddress
  simp (maxDischargeDepth := 40) +contextual [h, kAddress, kPwr]

@[simp ↓] theorem own_sampleStraps (dev : DevState) (h : Own K org s) (kPwr : K.pwr = false) :
    Own K org (sampleStraps dev s) := by
  unfold sampleStraps
  simp (maxDischargeDepth := 40) +contextual [h, kPwr]

@[simp ↓] theorem own_endCaptures (h : Own K org s) : Own K org (endCaptures s) := by
  unfold endCaptures
  simp (maxDischargeDepth := 40) +contextual [h]

@[simp ↓] theorem own_endDumps (h : Own K org s) : Own K org (endDumps s) := by
  unfold endDumps
  simp (maxDischargeDepth := 40) +contextual [h]

@[simp ↓] theorem own_endFill (h : Own K org s) : Own K org (endFill s) := by
  unfold endFill
  simp (maxDischargeDepth := 40) +contextual [h]

@[simp ↓] theorem own_endRead (k : Nat) (h : Own K org s) (kHeld : K.held = false) : Own K org (endRead k s) := by
  unfold endRead
  split
  · exact own_slotDone _ _ _ h (by simp [kHeld])
  · exact h

@[simp ↓] theorem own_endDramWork (h : Own K org s) (kHeld : K.held = false) : Own K org (endDramWork s) := by
  unfold endDramWork
  simp (maxDischargeDepth := 40) +contextual [h, kHeld]

@[simp ↓] theorem own_endStream (h : Own K org s) : Own K org (endStream s) := by
  unfold endStream
  simp (maxDischargeDepth := 40) +contextual [h]

@[simp ↓] theorem own_dmaInit (h : Own K org s) : Own K org { s with dma := Dma.init } := h

@[simp ↓] theorem own_beginLevel1 (h : Own K org s) (kC : Applies K) (kLight : K.light = false) (kAcq : K.acq = false) :
    Own K org (beginLevel1 s) := by
  unfold beginLevel1
  extract_lets s1
  have h1 : Own K org s1 := own_planes _ h fun _ hs => own_endDramWork
    (own_endStream (own_bothSides _ hs fun _ _ ht => own_endAcq _ _ ht kC kAcq (by simp [kLight]))) kC.held
  have h2 : Own K org { s1 with dma := Dma.init } := own_dmaInit h1
  clear_value s1
  exact own_setMem _ (own_dramLost (own_emptyRing h2))

@[simp ↓] theorem own_restartAcq (d : Side) (h : Own K org s) (kC : Applies K) (kLight : K.light = false)
    (kAcq : K.acq = false) : Own K org (restartAcq d s) := by
  unfold restartAcq
  simp (maxDischargeDepth := 40) +contextual [h, kC, kC.gate, kC.held, kLight, kAcq]

@[simp ↓] theorem own_haltSide (d : Side) (h : Own K org s) : Own K org (haltSide d s) := by
  unfold haltSide; simp (maxDischargeDepth := 40) +contextual [h, Lash.halt]

@[simp ↓] theorem own_beginSoft (p : List Word) (h : Own K org s) (kC : Applies K) (kLight : K.light = false)
    (kAcq : K.acq = false) (kPwr : K.pwr = false) : Own K org (beginSoft p s) := by
  unfold beginSoft
  simp (maxDischargeDepth := 40) +contextual [h, kC, kC.gate, kC.held, kLight, kAcq, kPwr]

@[simp ↓] theorem own_hardReset2 (h : Own K org s) (kR : Resets K) : Own K org (hardReset2 s) := by
  unfold hardReset2
  simp (maxDischargeDepth := 40) +contextual [h, kR, kR.pwr]

@[simp ↓] theorem own_hardReset3 (h : Own K org s) (kR : Resets K) (kAddress : K.address = false) :
    Own K org (hardReset3 s) := by
  unfold hardReset3
  simp (maxDischargeDepth := 40) +contextual [h, kR, kR.pwr, kAddress]

@[simp ↓] theorem own_wakeSource (b : BitVec 3) (h : Own K org s) (kPwr : K.pwr = false) :
    Own K org (wakeSource b s) := by
  unfold wakeSource
  simp (maxDischargeDepth := 40) +contextual [h, kPwr]

@[simp ↓] theorem own_resetPin (h : Own K org s) (kR : Resets K) (kAddress : K.address = false) :
    Own K org (resetPin s) := by
  unfold resetPin
  (repeat' split) <;> simp (maxDischargeDepth := 40) +contextual [h, kR, kR.pwr, kAddress]

@[simp ↓] theorem own_enterStandby (seconds : Nat) (h : Own K org s) (kC : Applies K) (kLight : K.light = false)
    (kAcq : K.acq = false) (kPwr : K.pwr = false) : Own K org (enterStandby seconds s) := by
  unfold enterStandby
  simp (maxDischargeDepth := 40) +contextual [h, kC, kC.gate, kC.held, kLight, kAcq, kPwr]

@[simp ↓] theorem own_finishMram (seconds : Nat) (h : Own K org s) : Own K org (finishMram seconds s) := by
  unfold finishMram
  simp (maxDischargeDepth := 40) +contextual [h]

@[simp ↓] theorem own_queueStart (event : Nat) (detail : Nat) (h : Own K org s) (kPwr : K.pwr = false) :
    Own K org (queueStart event detail s) := by
  unfold queueStart
  simp (maxDischargeDepth := 40) +contextual [h, kPwr]

@[simp ↓] theorem own_logBoot (h : Own K org s) : Own K org (logBoot s) := by
  unfold logBoot
  simp (maxDischargeDepth := 40) +contextual [h]

@[simp ↓] theorem own_bootImage (b : Bool) (h : Own K org s) (kPwr : K.pwr = false) : Own K org (bootImage b s) := by
  unfold bootImage
  simp (maxDischargeDepth := 40) +contextual [h, kPwr]

@[simp ↓] theorem own_loadSet (n : Nat) (h : Own K org s) (kLive : K.live = false) (kDraft : K.draft = false)
    (kModified : K.modified = false) (kNone : K.liveOr = false) : Own K org (loadSet n s) := by
  unfold loadSet
  extract_lets x
  have h1 := own_draft (c := x.cfg) (own_live (c := x.cfg) h kLive (by simp [kNone])) kDraft
  exact own_loadSnapshot _ (own_tacks h1 (fun _ => rfl) (by simp [kModified]))

@[simp ↓] theorem own_atReady (f : State → State) (h : Own K org s) (hf : ∀ s, Own K org s → Own K org (f s))
    (kPwr : K.pwr = false) : Own K org (atReady f s) := by
  have h1 : Own K org (f { s with evq := Events.init }) := hf _ h
  exact own_setPwr (s := { f { s with evq := Events.init } with evq := s.evq }) _ h1 (fun _ => rfl) (fun _ => ⟨rfl, rfl⟩) kPwr

@[simp ↓] theorem own_loadStrapped (h : Own K org s) (kLive : K.live = false) (kDraft : K.draft = false)
    (kModified : K.modified = false) (kNone : K.liveOr = false) (kPwr : K.pwr = false) : Own K org (loadStrapped s) := by
  unfold loadStrapped
  extract_lets n s1 x s2
  have hl : ∀ t, Own K org t → Own K org (atReady (loadSet n) t) ∧ Own K org (atReady (loadSet 0) t) := fun t ht =>
    ⟨own_atReady _ ht (fun _ hu => own_loadSet _ hu kLive kDraft kModified kNone) kPwr,
      own_atReady _ ht (fun _ hu => own_loadSet _ hu kLive kDraft kModified kNone) kPwr⟩
  have h1 : Own K org s1 := own_draft (own_live h kLive (by simp [kNone])) kDraft
  have h2 : Own K org s2 := own_ite h1 (own_queueStart _ _ (own_tacks h1 (fun _ => rfl) fun _ => rfl) kPwr)
  clear_value s2
  exact own_ite (hl s1 h1).1 (own_ite (hl s2 h2).2 (own_queueStart _ _ (own_tacks h2 (fun _ => rfl) fun _ => rfl) kPwr))

@[simp ↓] theorem own_tellRollback (h : Own K org s) : Own K org (tellRollback s) := by
  unfold tellRollback
  split <;> simp (maxDischargeDepth := 40) +contextual [h]

@[simp ↓] theorem own_brownoutSurge (cause : Nat) (h : Own K org s) : Own K org (brownoutSurge cause s) := by
  unfold brownoutSurge
  (repeat' split) <;> simp (maxDischargeDepth := 40) +contextual [h]

@[simp ↓] theorem own_becomeReady (h : Own K org s) (kPwr : K.pwr = false) : Own K org (becomeReady s) := by
  unfold becomeReady
  simp (maxDischargeDepth := 40) +contextual [h, kPwr]

@[simp ↓] theorem own_startDacFault (g : Nat) (bad : Bool) (h : Own K org s) (kLight : K.light = false) :
    Own K org (startDacFault g bad s) := by
  unfold startDacFault
  simp (maxDischargeDepth := 40) +contextual [h, kLight]

@[simp ↓] theorem own_phaseEnd (h : Own K org s) (kPwr : K.pwr = false) : Own K org (phaseEnd s) := by
  unfold phaseEnd
  simp (maxDischargeDepth := 40) +contextual [h, kPwr]

@[simp ↓] theorem own_leaveStart (g : Nat) (h : Own K org s) : Own K org (leaveStart g s) := by
  unfold leaveStart
  simp (maxDischargeDepth := 40) +contextual [h]

@[simp ↓] theorem own_startSteps (results : List StepResult) (h : Own K org s) (kLight : K.light = false)
    (kPwr : K.pwr = false) : Own K org (startSteps results s) := by
  unfold startSteps
  refine own_phaseEnd (own_foldl _ _ h fun t r ht => ?_) kPwr
  exact own_leaveStart _ (own_startDacFault _ _ (own_atReady _ ht (fun _ hu => own_takeResult _ hu kLight) kPwr) kLight)

/-! ### Cantle -/

@[simp ↓] theorem own_tripStandby (h : Own K org s) (kC : Applies K) (kLight : K.light = false) (kAcq : K.acq = false)
    (kPwr : K.pwr = false) : Own K org (tripStandby s) := by
  unfold tripStandby
  simp (maxDischargeDepth := 40) +contextual [h, kC, kC.gate, kC.held, kLight, kAcq, kPwr]

@[simp ↓] theorem own_afterTrip (h : Own K org s) (kC : Applies K) (kLight : K.light = false) (kAcq : K.acq = false)
    (kPwr : K.pwr = false) : Own K org (afterTrip s) := by
  unfold afterTrip
  simp (maxDischargeDepth := 40) +contextual [h, kC, kC.gate, kC.held, kLight, kAcq, kPwr]

@[simp ↓] theorem own_judgeStep (h : Own K org s) : Own K org (judgeStep s) := by
  unfold judgeStep
  simp (maxDischargeDepth := 40) +contextual [h]

@[simp ↓] theorem own_judgeWarn (h : Own K org s) : Own K org (judgeWarn s) := by
  unfold judgeWarn
  dsimp only
  (repeat' split) <;> simp (maxDischargeDepth := 40) +contextual [h]

@[simp ↓] theorem own_keepHighest (h : Own K org s) : Own K org (keepHighest s) := by
  unfold keepHighest
  simp (maxDischargeDepth := 40) +contextual [h]

@[simp ↓] theorem own_judgeTemps (h : Own K org s) : Own K org (judgeTemps s) := by
  unfold judgeTemps
  simp (maxDischargeDepth := 40) +contextual [h]

@[simp ↓] theorem own_railEvent (i : Nat) (high : Bool) (h : Own K org s) : Own K org (railEvent i high s) := by
  unfold railEvent
  simp (maxDischargeDepth := 40) +contextual [h]

@[simp ↓] theorem own_judgeRail (ms : List Nat) (h : Own K org s) : Own K org (judgeRail ms s) := by
  unfold judgeRail
  simp (maxDischargeDepth := 40) +contextual [h]

@[simp ↓] theorem own_endCantleWork (h : Own K org s) (kGate : K.gate = false) (kHeld : K.held = false) :
    Own K org (endCantleWork s) := by
  unfold endCantleWork
  split <;> simp (maxDischargeDepth := 40) +contextual [h, kGate, kHeld]

@[simp ↓] theorem own_stopCantle (cause : Nat) (h : Own K org s) (kGate : K.gate = false) (kHeld : K.held = false) :
    Own K org (stopCantle cause s) := by
  unfold stopCantle
  simp (maxDischargeDepth := 40) +contextual [h, kGate, kHeld]

@[simp ↓] theorem own_scrubBad (region : Nat) (i : Nat) (h : Own K org s) (kSets : K.sets = false) :
    Own K org (scrubBad region i s) := by
  unfold scrubBad
  (repeat' split) <;> simp (maxDischargeDepth := 40) +contextual [h, kSets]

/-! ### Params -/

@[simp ↓] theorem own_writeStreamCfg (v : Word) (h : Own K org s) (kRw : K.rw = false) :
    Own K org (writeStreamCfg v s) := by
  unfold writeStreamCfg
  simp (maxDischargeDepth := 40) +contextual [h, kRw]

@[simp ↓] theorem own_writeRw (id : Nat) (v : Word) (h : Own K org s) (kRw : K.rw = false) :
    Own K org (writeRw id v s) := by
  unfold writeRw
  split <;> simp (maxDischargeDepth := 40) +contextual [h, kRw]

@[simp ↓] theorem own_writeOwn (id : Nat) (v : Word) (h : Own K org s)
    (kScratch : id = 0x0011 ∨ id = 0x0012 → K.scratch = false ∧ K.pwr = false) : Own K org (writeOwn id v s) := by
  unfold writeOwn
  split
  next hi => exact own_pwr h (fun _ => rfl) (by simp [kScratch (.inl hi)]) (kScratch (.inl hi)).2
  · split
    next hi => exact own_pwr h (fun _ => rfl) (by simp [kScratch (.inr hi)]) (kScratch (.inr hi)).2
    · exact own_setPll _ h

/-- The copy that holds a parameter is not named. -/
def Takes (K : Track) (id : Nat) : Prop :=
  match accessOf id with
  | .rw => K.rw = false
  | .nv => K.nv = false
  | .own => id = 0x0011 ∨ id = 0x0012 → K.scratch = false ∧ K.pwr = false
  | .rws => K.draft = false
  | _ => True

theorem takes_all (kDraft : K.draft = false) (kRw : K.rw = false) (kNv : K.nv = false) (kScratch : K.scratch = false)
    (kPwr : K.pwr = false) (id : Nat) : Takes K id := by
  unfold Takes
  split
  · exact kRw
  · exact kNv
  · exact fun _ => ⟨kScratch, kPwr⟩
  · exact kDraft
  · trivial

theorem own_writeParam (id : Nat) (v : Word) (h : Own K org s) (kId : Takes K id) : Own K org (writeParam id v s) := by
  unfold Takes at kId
  unfold writeParam
  cases ha : accessOf id <;> rw [ha] at kId <;> dsimp only at kId ⊢
  case ro => exact h
  case rw => exact own_writeRw _ _ h kId
  case nv => exact own_nv h kId
  case own => exact own_writeOwn _ _ h kId
  case wo => exact own_auxKick _ h
  case rws => exact own_setDraft _ h kId

theorem own_enterPairs (l : List (Word × Word)) (h : Own K org s) (kId : ∀ x ∈ l, Takes K (pairId x)) :
    Own K org (enterPairs l s) := by
  induction l generalizing s with
  | nil => exact h
  | cons x l ih =>
    exact ih (own_writeParam _ _ h (kId x List.mem_cons_self)) fun y hy => kId y (List.mem_cons_of_mem x hy)

theorem own_writePairs (l : List (Word × Word)) (h : Own K org s) (kId : ∀ x ∈ l, Takes K (pairId x)) :
    Own K org (writePairs l s) := own_planes _ h fun _ hs => own_enterPairs l hs kId

theorem own_runPairs (l : List (Word × Word)) (h : Own K org s) (kId : ∀ x ∈ l, Takes K (pairId x)) :
    Own K org (runPairs l s).2 := by
  unfold runPairs
  split
  · exact h
  · exact own_writePairs l h kId

/-! ### Handlers -/

@[simp ↓] theorem own_hNop (o : Origin) (p : List Word) : HandlerOwn K org hNop o p := by
  constructor <;> intro s h <;> simp (maxDischargeDepth := 40) +contextual [hNop, Handler.plain, Handler.work, h]

@[simp ↓] theorem own_hIdentify (o : Origin) (p : List Word) : HandlerOwn K org hIdentify o p := by
  constructor <;> intro s h <;> simp (maxDischargeDepth := 40) +contextual [hIdentify, Handler.plain, Handler.work, h]

@[simp ↓] theorem own_hStatus (o : Origin) (p : List Word) (kHeld : K.held = false) : HandlerOwn K org hStatus o p := by
  constructor <;> intro s h <;> dsimp only [hStatus, Handler.plain, Handler.work] <;> (repeat' split) <;> (try exact h) <;>
    simp (maxDischargeDepth := 40) +contextual [h, kHeld]

@[simp ↓] theorem own_hChainLoopback (o : Origin) (p : List Word) : HandlerOwn K org hChainLoopback o p := by
  constructor <;> intro s h <;>
    simp (maxDischargeDepth := 40) +contextual [hChainLoopback, Handler.plain, Handler.work, h]

@[simp ↓] theorem own_hParamGet (o : Origin) (p : List Word) : HandlerOwn K org hParamGet o p := by
  constructor <;> intro s h <;> simp (maxDischargeDepth := 40) +contextual [hParamGet, Handler.plain, Handler.work, h]

@[simp ↓] theorem own_hEventRead (o : Origin) (p : List Word) : HandlerOwn K org hEventRead o p := by
  constructor <;> intro s h <;> simp (maxDischargeDepth := 40) +contextual [hEventRead, Handler.plain, Handler.work, h]

@[simp ↓] theorem own_hEventAck (o : Origin) (p : List Word) : HandlerOwn K org hEventAck o p := ⟨fun _ h => h, fun _ h => h⟩

@[simp ↓] theorem own_hResult (o : Origin) (p : List Word) (kHeld : K.held = false) : HandlerOwn K org hResult o p := by
  constructor <;> intro s h <;> dsimp only [hResult, Handler.plain, Handler.work] <;> (repeat' split) <;> (try exact h) <;>
    simp (maxDischargeDepth := 40) +contextual [h, kHeld]

@[simp ↓] theorem own_hAdcCheckSet (o : Origin) (p : List Word) (kRw : K.rw = false) :
    HandlerOwn K org hAdcCheckSet o p := by
  refine ⟨fun s h => ?_, fun s h => h⟩
  unfold hAdcCheckSet Handler.plain
  dsimp only
  split
  · exact h
  · exact own_checkAct _ (own_writeCheck _ h kRw)

@[simp ↓] theorem own_hAuxRead (o : Origin) (p : List Word) : HandlerOwn K org hAuxRead o p := by
  constructor <;> intro s h <;> simp (maxDischargeDepth := 40) +contextual [hAuxRead, Handler.plain, Handler.work, h]

@[simp ↓] theorem own_hStreamTrain (o : Origin) (p : List Word) : HandlerOwn K org hStreamTrain o p := by
  constructor <;> intro s h <;> simp (maxDischargeDepth := 40) +contextual [hStreamTrain, Handler.plain, Handler.work, h]

@[simp ↓] theorem own_hTimeSet (o : Origin) (p : List Word) : HandlerOwn K org hTimeSet o p := by
  constructor <;> intro s h <;> simp (maxDischargeDepth := 40) +contextual [hTimeSet, Handler.plain, Handler.work, h]

@[simp ↓] theorem own_hTimeGet (o : Origin) (p : List Word) : HandlerOwn K org hTimeGet o p := by
  constructor <;> intro s h <;> simp (maxDischargeDepth := 40) +contextual [hTimeGet, Handler.plain, Handler.work, h]

@[simp ↓] theorem own_hTbSelect (o : Origin) (p : List Word) (kRw : K.rw = false) : HandlerOwn K org hTbSelect o p := by
  constructor <;> intro s h <;>
    simp (maxDischargeDepth := 40) +contextual [hTbSelect, Handler.plain, Handler.work, h, kRw]

@[simp ↓] theorem own_hArm (o : Origin) (p : List Word) : HandlerOwn K org hArm o p := by
  constructor <;> intro s h <;> simp (maxDischargeDepth := 40) +contextual [hArm, Handler.plain, Handler.work, h]

@[simp ↓] theorem own_hDisarm (o : Origin) (p : List Word) : HandlerOwn K org hDisarm o p := by
  constructor <;> intro s h <;> simp (maxDischargeDepth := 40) +contextual [hDisarm, Handler.plain, Handler.work, h]

@[simp ↓] theorem own_hForce (o : Origin) (p : List Word) : HandlerOwn K org hForce o p := by
  constructor <;> intro s h <;> simp (maxDischargeDepth := 40) +contextual [hForce, Handler.plain, Handler.work, h]

@[simp ↓] theorem own_hHistoryDump (o : Origin) (p : List Word) (kHeld : K.held = false) :
    HandlerOwn K org hHistoryDump o p := by
  constructor <;> intro s h <;>
    simp (maxDischargeDepth := 40) +contextual [hHistoryDump, Handler.plain, Handler.work, h, kHeld]

@[simp ↓] theorem own_hDtsRefSet (o : Origin) (p : List Word) : HandlerOwn K org hDtsRefSet o p := by
  constructor <;> intro s h <;> simp (maxDischargeDepth := 40) +contextual [hDtsRefSet, Handler.plain, Handler.work, h]

@[simp ↓] theorem own_hTdcRead (o : Origin) (p : List Word) : HandlerOwn K org hTdcRead o p := by
  constructor <;> intro s h <;> simp (maxDischargeDepth := 40) +contextual [hTdcRead, Handler.plain, Handler.work, h]

@[simp ↓] theorem own_hTdcCfg (o : Origin) (p : List Word) (kRw : K.rw = false) : HandlerOwn K org hTdcCfg o p := by
  constructor <;> intro s h <;> simp (maxDischargeDepth := 40) +contextual [hTdcCfg, Handler.plain, Handler.work, h, kRw]

@[simp ↓] theorem own_hCalRun (o : Origin) (p : List Word) : HandlerOwn K org hCalRun o p := by
  constructor <;> intro s h <;> simp (maxDischargeDepth := 40) +contextual [hCalRun, Handler.plain, Handler.work, h]

@[simp ↓] theorem own_hCalRead (o : Origin) (p : List Word) : HandlerOwn K org hCalRead o p := by
  constructor <;> intro s h <;> simp (maxDischargeDepth := 40) +contextual [hCalRead, Handler.plain, Handler.work, h]

@[simp ↓] theorem own_hCalWrite (o : Origin) (p : List Word) : HandlerOwn K org hCalWrite o p := by
  constructor <;> intro s h <;> dsimp only [hCalWrite, Handler.plain, Handler.work] <;> (repeat' split) <;> (try exact h) <;>
    simp (maxDischargeDepth := 40) +contextual [h]

@[simp ↓] theorem own_hCalQuality (o : Origin) (p : List Word) : HandlerOwn K org hCalQuality o p := by
  constructor <;> intro s h <;> simp (maxDischargeDepth := 40) +contextual [hCalQuality, Handler.plain, Handler.work, h]

@[simp ↓] theorem own_hRouteSet (o : Origin) (p : List Word) (kDraft : K.draft = false) : HandlerOwn K org hRouteSet o p :=
  ⟨fun _ h => own_setDraft _ h kDraft, fun _ h => h⟩

@[simp ↓] theorem own_hRouteGet (o : Origin) (p : List Word) : HandlerOwn K org hRouteGet o p := by
  constructor <;> intro s h <;> simp (maxDischargeDepth := 40) +contextual [hRouteGet, Handler.plain, Handler.work, h]

@[simp ↓] theorem own_hScanSet (o : Origin) (p : List Word) (kDraft : K.draft = false) : HandlerOwn K org hScanSet o p :=
  ⟨fun _ h => own_setDraft _ h kDraft, fun _ h => h⟩

@[simp ↓] theorem own_hScanGet (o : Origin) (p : List Word) : HandlerOwn K org hScanGet o p := by
  constructor <;> intro s h <;> simp (maxDischargeDepth := 40) +contextual [hScanGet, Handler.plain, Handler.work, h]

@[simp ↓] theorem own_hZoneSet (o : Origin) (p : List Word) (kDraft : K.draft = false) : HandlerOwn K org hZoneSet o p :=
  ⟨fun _ h => own_setDraft _ h kDraft, fun _ h => h⟩

@[simp ↓] theorem own_hZoneGet (o : Origin) (p : List Word) : HandlerOwn K org hZoneGet o p := by
  constructor <;> intro s h <;> simp (maxDischargeDepth := 40) +contextual [hZoneGet, Handler.plain, Handler.work, h]

@[simp ↓] theorem own_hZoneClear (o : Origin) (p : List Word) (kDraft : K.draft = false) : HandlerOwn K org hZoneClear o p :=
  ⟨fun _ h => own_setDraft _ h kDraft, fun _ h => h⟩

@[simp ↓] theorem own_hTrigSet (o : Origin) (p : List Word) (kDraft : K.draft = false) : HandlerOwn K org hTrigSet o p :=
  ⟨fun _ h => own_setDraft _ h kDraft, fun _ h => h⟩

@[simp ↓] theorem own_hTrigGet (o : Origin) (p : List Word) : HandlerOwn K org hTrigGet o p := by
  constructor <;> intro s h <;> simp (maxDischargeDepth := 40) +contextual [hTrigGet, Handler.plain, Handler.work, h]

@[simp ↓] theorem own_hSlotSet (o : Origin) (p : List Word) (kDraft : K.draft = false) : HandlerOwn K org hSlotSet o p :=
  ⟨fun _ h => own_setDraft _ h kDraft, fun _ h => h⟩

@[simp ↓] theorem own_hSlotGet (o : Origin) (p : List Word) : HandlerOwn K org hSlotGet o p := by
  constructor <;> intro s h <;> simp (maxDischargeDepth := 40) +contextual [hSlotGet, Handler.plain, Handler.work, h]

@[simp ↓] theorem own_hCurveLoad (o : Origin) (p : List Word) (kDraft : K.draft = false) : HandlerOwn K org hCurveLoad o p :=
  ⟨fun _ h => own_setDraft _ h kDraft, fun _ h => h⟩

@[simp ↓] theorem own_hAuxXptSet (o : Origin) (p : List Word) (kDraft : K.draft = false) : HandlerOwn K org hAuxXptSet o p :=
  ⟨fun _ h => own_setDraft _ h kDraft, fun _ h => h⟩

@[simp ↓] theorem own_hAuxSeqLoad (o : Origin) (p : List Word) (kDraft : K.draft = false) : HandlerOwn K org hAuxSeqLoad o p :=
  ⟨fun _ h => own_setDraft _ h kDraft, fun _ h => h⟩

@[simp ↓] theorem own_hAuxLimitSet (o : Origin) (p : List Word) (kDraft : K.draft = false) : HandlerOwn K org hAuxLimitSet o p :=
  ⟨fun _ h => own_setDraft _ h kDraft, fun _ h => h⟩

@[simp ↓] theorem own_hCommit (o : Origin) (p : List Word) (kGate : K.gate = false) : HandlerOwn K org hCommit o p := by
  constructor <;> intro s h <;>
    simp (maxDischargeDepth := 40) +contextual [hCommit, Handler.plain, Handler.work, h, kGate]

@[simp ↓] theorem own_hDiscard (o : Origin) (p : List Word) (kDraft : K.draft = false) :
    HandlerOwn K org hDiscard o p := by
  constructor <;> intro s h <;>
    simp (maxDischargeDepth := 40) +contextual [hDiscard, Handler.plain, Handler.work, h, kDraft]

@[simp ↓] theorem own_hTackLoad (o : Origin) (p : List Word) (kGate : K.gate = false) :
    HandlerOwn K org hTackLoad o p := by
  constructor <;> intro s h <;>
    simp (maxDischargeDepth := 40) +contextual [hTackLoad, Handler.plain, Handler.work, h, kGate]

@[simp ↓] theorem own_hTackSave (o : Origin) (p : List Word) (kSets : K.sets = false) :
    HandlerOwn K org hTackSave o p := by
  constructor <;> intro s h <;>
    simp (maxDischargeDepth := 40) +contextual [hTackSave, Handler.plain, Handler.work, h, kSets]

@[simp ↓] theorem own_hTackErase (o : Origin) (p : List Word) (kSets : K.sets = false) :
    HandlerOwn K org hTackErase o p := by
  constructor <;> intro s h <;>
    simp (maxDischargeDepth := 40) +contextual [hTackErase, Handler.plain, Handler.work, h, kSets]

@[simp ↓] theorem own_hTackInfo (o : Origin) (p : List Word) : HandlerOwn K org hTackInfo o p := by
  constructor <;> intro s h <;> simp (maxDischargeDepth := 40) +contextual [hTackInfo, Handler.plain, Handler.work, h]

@[simp ↓] theorem own_hLockSet (o : Origin) (p : List Word) : HandlerOwn K org hLockSet o p := by
  constructor <;> intro s h <;> simp (maxDischargeDepth := 40) +contextual [hLockSet, Handler.plain, Handler.work, h]

@[simp ↓] theorem own_hEmitEnable (o : Origin) (p : List Word) (kLight : K.light = false)
    (kBlocked : K.blocked = false) : HandlerOwn K org hEmitEnable o p := by
  constructor <;> intro s h <;>
    simp (maxDischargeDepth := 40) +contextual [hEmitEnable, Handler.plain, Handler.work, h, kLight, kBlocked]

@[simp ↓] theorem own_hEmitDiag (o : Origin) (p : List Word) (kLight : K.light = false) :
    HandlerOwn K org hEmitDiag o p := by
  constructor <;> intro s h <;>
    simp (maxDischargeDepth := 40) +contextual [hEmitDiag, Handler.plain, Handler.work, h, kLight]

@[simp ↓] theorem own_hAcqStart (o : Origin) (p : List Word) (kC : Applies K) (kLight : K.light = false)
    (kAcq : K.acq = false) (kDark : K.dark = false) : HandlerOwn K org hAcqStart o p := by
  constructor <;> intro s h <;> dsimp only [hAcqStart, Handler.plain, Handler.work] <;> (repeat' split) <;> (try exact h) <;>
    simp (maxDischargeDepth := 40) +contextual [h, kC, kC.gate, kC.held, kLight, kAcq, kDark]

@[simp ↓] theorem own_hAcqStop (o : Origin) (p : List Word) : HandlerOwn K org hAcqStop o p := by
  constructor <;> intro s h <;> simp (maxDischargeDepth := 40) +contextual [hAcqStop, Handler.plain, Handler.work, h]

@[simp ↓] theorem own_hBaselineCapture (o : Origin) (p : List Word) : HandlerOwn K org hBaselineCapture o p := by
  constructor <;> intro s h <;>
    simp (maxDischargeDepth := 40) +contextual [hBaselineCapture, Handler.plain, Handler.work, h]

@[simp ↓] theorem own_hChainEnumerate (o : Origin) (p : List Word) (kAddress : K.address = false)
    (kPwr : K.pwr = false) : HandlerOwn K org hChainEnumerate o p := by
  constructor <;> intro s h <;>
    simp (maxDischargeDepth := 40) +contextual [hChainEnumerate, Handler.plain, Handler.work, h, kAddress, kPwr]

@[simp ↓] theorem own_hChainAddrSet (o : Origin) (p : List Word) (kAddress : K.address = false) (kPwr : K.pwr = false) :
    HandlerOwn K org hChainAddrSet o p := by
  constructor <;> intro s h <;>
    simp (maxDischargeDepth := 40) +contextual [hChainAddrSet, Handler.plain, Handler.work, h, kAddress, kPwr]

@[simp ↓] theorem own_hChainDelayMeasure (o : Origin) (p : List Word) : HandlerOwn K org hChainDelayMeasure o p := by
  constructor <;> intro s h <;>
    simp (maxDischargeDepth := 40) +contextual [hChainDelayMeasure, Handler.plain, Handler.work, h]

@[simp ↓] theorem own_hMemRead (o : Origin) (p : List Word) : HandlerOwn K org hMemRead o p := by
  constructor <;> intro s h <;> simp (maxDischargeDepth := 40) +contextual [hMemRead, Handler.plain, Handler.work, h]

@[simp ↓] theorem own_hMemWrite (o : Origin) (p : List Word) : HandlerOwn K org hMemWrite o p := by
  constructor <;> intro s h <;> simp (maxDischargeDepth := 40) +contextual [hMemWrite, Handler.plain, Handler.work, h]

@[simp ↓] theorem own_hMemFill (o : Origin) (p : List Word) : HandlerOwn K org hMemFill o p := by
  constructor <;> intro s h <;> simp (maxDischargeDepth := 40) +contextual [hMemFill, Handler.plain, Handler.work, h]

@[simp ↓] theorem own_hDmaKick (o : Origin) (p : List Word) : HandlerOwn K org hDmaKick o p := by
  constructor <;> intro s h <;> simp (maxDischargeDepth := 40) +contextual [hDmaKick, Handler.plain, Handler.work, h]

@[simp ↓] theorem own_hDmaAbort (o : Origin) (p : List Word) : HandlerOwn K org hDmaAbort o p := by
  constructor <;> intro s h <;> simp (maxDischargeDepth := 40) +contextual [hDmaAbort, Handler.plain, Handler.work, h]

@[simp ↓] theorem own_hDmaStatus (o : Origin) (p : List Word) : HandlerOwn K org hDmaStatus o p := by
  constructor <;> intro s h <;> simp (maxDischargeDepth := 40) +contextual [hDmaStatus, Handler.plain, Handler.work, h]

@[simp ↓] theorem own_takePath (w : UpdWork) (h : Own K org s) : Own K org (takePath w s) := by
  unfold takePath
  (repeat' split) <;> simp (maxDischargeDepth := 40) +contextual [h]

@[simp ↓] theorem own_leavePath (f : State → State) (h : Own K org s) (hf : ∀ s, Own K org s → Own K org (f s))
    (kHeld : K.held = false) : Own K org (leavePath f s) := by
  unfold leavePath
  extract_lets rest t
  have h1 : Own K org t := own_endsFor _ f (own_setCan _ h) hf kHeld
  clear_value t rest
  split
  · exact own_startSession _ h1
  · exact h1

@[simp ↓] theorem own_hUpdateBegin (o : Origin) (p : List Word) : HandlerOwn K org hUpdateBegin o p := by
  constructor <;> intro s h <;> simp (maxDischargeDepth := 40) +contextual [hUpdateBegin, Handler.plain, Handler.work, h]

@[simp ↓] theorem own_hUpdateChunk (o : Origin) (p : List Word) : HandlerOwn K org hUpdateChunk o p := by
  constructor <;> intro s h <;> simp (maxDischargeDepth := 40) +contextual [hUpdateChunk, Handler.plain, Handler.work, h]

@[simp ↓] theorem own_hUpdateEnd (o : Origin) (p : List Word) : HandlerOwn K org hUpdateEnd o p := by
  constructor <;> intro s h <;> simp (maxDischargeDepth := 40) +contextual [hUpdateEnd, Handler.plain, Handler.work, h]

@[simp ↓] theorem own_hUpdateActivate (o : Origin) (p : List Word) (kPwr : K.pwr = false) :
    HandlerOwn K org hUpdateActivate o p := by
  constructor <;> intro s h <;>
    simp (maxDischargeDepth := 40) +contextual [hUpdateActivate, Handler.plain, Handler.work, h, kPwr]

@[simp ↓] theorem own_hLogRead (o : Origin) (p : List Word) : HandlerOwn K org hLogRead o p := by
  constructor <;> intro s h <;> dsimp only [hLogRead, Handler.plain, Handler.work] <;> (repeat' split) <;> (try exact h) <;>
    simp (maxDischargeDepth := 40) +contextual [h]

@[simp ↓] theorem own_hLogClear (o : Origin) (p : List Word) : HandlerOwn K org hLogClear o p := by
  constructor <;> intro s h <;> simp (maxDischargeDepth := 40) +contextual [hLogClear, Handler.plain, Handler.work, h]

@[simp ↓] theorem own_hLifetimeRead (o : Origin) (p : List Word) : HandlerOwn K org hLifetimeRead o p := by
  constructor <;> intro s h <;> simp (maxDischargeDepth := 40) +contextual [hLifetimeRead, Handler.plain, Handler.work, h]

@[simp ↓] theorem own_hReset (o : Origin) (p : List Word) (kC : Applies K) (kLight : K.light = false)
    (kAcq : K.acq = false) (kPwr : K.pwr = false) : HandlerOwn K org hReset o p := by
  constructor <;> intro s h <;>
    simp (maxDischargeDepth := 40) +contextual [hReset, Handler.plain, Handler.work, h, kC, kC.gate, kC.held, kLight, kAcq, kPwr]

@[simp ↓] theorem own_hStandbyEnter (o : Origin) (p : List Word) (kC : Applies K) (kLight : K.light = false)
    (kAcq : K.acq = false) (kPwr : K.pwr = false) : HandlerOwn K org hStandbyEnter o p := by
  constructor <;> intro s h <;>
    simp (maxDischargeDepth := 40) +contextual [hStandbyEnter, Handler.plain, Handler.work, h, kC, kC.gate, kC.held, kLight, kAcq, kPwr]

@[simp ↓] theorem own_hHealthRead (o : Origin) (p : List Word) : HandlerOwn K org hHealthRead o p := by
  constructor <;> intro s h <;> simp (maxDischargeDepth := 40) +contextual [hHealthRead, Handler.plain, Handler.work, h]

theorem own_hParamSet (o : Origin) (p : List Word) (kId : ∀ x ∈ pairs p, Takes K (pairId x)) :
    HandlerOwn K org hParamSet o p :=
  ⟨fun _ h => own_runPairs _ h kId, fun _ h => own_startChange _ h⟩

theorem takes_rw {id : Nat} (h : accessOf id = .rw) (kRw : K.rw = false) : Takes K id := by simp [Takes, h, kRw]

theorem takes_nv {id : Nat} (h : accessOf id = .nv) (kNv : K.nv = false) : Takes K id := by simp [Takes, h, kNv]

@[simp ↓] theorem own_hStreamCfg (o : Origin) (p : List Word) (kRw : K.rw = false) : HandlerOwn K org hStreamCfg o p :=
  ⟨fun _ h => own_runPairs _ h fun x hx => by
    obtain rfl := List.mem_singleton.1 hx
    exact takes_rw (show accessOf (pairId (0x7000, 0)) = .rw by decide) kRw, fun _ h => h⟩

/-! ### Request -/

@[simp ↓] theorem own_store (p : Port) (e : Stored) (h : Own K org s) : Own K org (store p e s) := by
  unfold store
  split <;> simp (maxDischargeDepth := 40) +contextual [h]

@[simp ↓] theorem own_sendReply (o : Origin) (k : Packet) (a : BitVec 6) (r : Reply) (h : Own K org s) :
    Own K org (sendReply o k a r s) := by
  unfold sendReply
  split <;> simp (maxDischargeDepth := 40) +contextual [h]

@[simp ↓] theorem own_againDue (o : Origin) (k : Packet) (r : Reply) (h : Own K org s) :
    Own K org (againDue o k r s) := by
  unfold againDue
  simp (maxDischargeDepth := 40) +contextual [h]

@[simp ↓] theorem own_markClaim (k : Packet) (h : Own K org s) : Own K org (markClaim k s) := by
  unfold markClaim
  simp (maxDischargeDepth := 40) +contextual [h]

@[simp ↓] theorem own_arrived (k : Packet) (h : Own K org s) : Own K org (arrived k s) := by
  unfold arrived
  simp (maxDischargeDepth := 40) +contextual [h]

@[simp ↓] theorem own_dropOwn (k : Packet) (h : Own K org s) : Own K org (dropOwn k s) := by
  unfold dropOwn
  split <;> simp (maxDischargeDepth := 40) +contextual [h]

/-! ### Idle -/

@[simp ↓] theorem own_tick (h : Own K org s) : Own K org (tick s) := by
  unfold tick
  simp (maxDischargeDepth := 40) +contextual [h]

@[simp ↓] theorem own_drainTiming (h : Own K org s) : Own K org (drainTiming s) := by
  unfold drainTiming
  simp (maxDischargeDepth := 40) +contextual [h]

@[simp ↓] theorem own_drainTraining (h : Own K org s) : Own K org (drainTraining s) := by
  unfold drainTraining
  simp (maxDischargeDepth := 40) +contextual [h]

@[simp ↓] theorem own_idle (h : Own K org s) : Own K org (idle s) := by
  unfold idle
  simp (maxDischargeDepth := 40) +contextual [h]

end Sys2Proof.Machine
end

section
/-!
SUPPORT. `Own` of commands.
-/
namespace Sys2Proof.Machine

-- one theorem after the other: the threads of many at once need more memory than the check has
set_option Elab.async false

variable {K : Track} {org s nxt : State}

@[simp ↓] theorem own_endAwlRound (h : Own K org s) : Own K org (endAwlRound s) := by
  unfold endAwlRound
  split
  · exact h
  · refine own_ite h (own_planes _ (own_formTrims _ _ h) fun _ hs => ?_)
    exact own_ite (own_tellAwl _ _ (own_judge 15 (own_setCal 15 _ hs))) (own_judge 15 (own_setCal 15 _ hs))

theorem own_execOverrangeBurst (samples : List OverSample) (raman : List OverSample)
    (h : execOverrangeBurst samples raman s = .next nxt) : Own K s nxt := by
  unfold execOverrangeBurst at h
  dsimp only at h
  (repeat' split at h) <;> cases h <;> simp (maxDischargeDepth := 40) +contextual [own_refl]

theorem own_execShadowDwellEnd (samples : List Comparison) (h : execShadowDwellEnd samples s = .next nxt) :
    Own K s nxt := by
  unfold execShadowDwellEnd at h
  dsimp only at h
  (repeat' split at h) <;> cases h <;> simp (maxDischargeDepth := 40) +contextual [own_refl]

theorem own_execAdcCheckSet (o : Origin) (check : Word) (w1 : Word) (h : execAdcCheckSet o check w1 s = .next nxt)
    (kRw : K.rw = false) (kHeld : K.held = false) : Own K s nxt := by
  unfold execAdcCheckSet at h; cases h; simp (maxDischargeDepth := 40) +contextual [own_refl, kRw, kHeld]

theorem own_execAdcCheckRetire (o : Origin) (check : Word) (w1 : Word)
    (h : execAdcCheckRetire o check w1 s = .next nxt) (kRw : K.rw = false) (kHeld : K.held = false) : Own K s nxt := by
  unfold execAdcCheckRetire at h; cases h; simp (maxDischargeDepth := 40) +contextual [own_refl, kRw, kHeld]

theorem own_execAdcCheckRestore (o : Origin) (check : Word) (w1 : Word)
    (h : execAdcCheckRestore o check w1 s = .next nxt) (kRw : K.rw = false) (kHeld : K.held = false) : Own K s nxt := by
  unfold execAdcCheckRestore at h; cases h; simp (maxDischargeDepth := 40) +contextual [own_refl, kRw, kHeld]

theorem own_execAdcCheckClear (o : Origin) (check : Word) (w1 : Word) (h : execAdcCheckClear o check w1 s = .next nxt)
    (kRw : K.rw = false) (kHeld : K.held = false) : Own K s nxt := by
  unfold execAdcCheckClear at h; cases h; simp (maxDischargeDepth := 40) +contextual [own_refl, kRw, kHeld]

theorem own_execAuxTimerTrigger (h : execAuxTimerTrigger s = .next nxt) : Own K s nxt := by
  unfold execAuxTimerTrigger at h; cases h; simp (maxDischargeDepth := 40) +contextual [own_refl]

theorem own_execAuxSettleDelayEnd (h : execAuxSettleDelayEnd s = .next nxt) : Own K s nxt := by
  unfold execAuxSettleDelayEnd at h; cases h; simp (maxDischargeDepth := 40) +contextual [own_refl]

theorem own_execAuxConversionEnd (smp : AuxSample) (h : execAuxConversionEnd smp s = .next nxt) : Own K s nxt := by
  unfold execAuxConversionEnd at h; cases h; simp (maxDischargeDepth := 40) +contextual [own_refl]

theorem own_execLatFcLock (h : execLatFcLock s = .next nxt) : Own K s nxt := by
  unfold execLatFcLock at h; cases h; simp (maxDischargeDepth := 40) +contextual [own_refl]

theorem own_execLatFcLoss (h : execLatFcLoss s = .next nxt) : Own K s nxt := by
  unfold execLatFcLoss at h; cases h; simp (maxDischargeDepth := 40) +contextual [own_refl]

theorem own_execLatFcTrainingStatus (laneOk : BitVec 8) (h : execLatFcTrainingStatus laneOk s = .next nxt) :
    Own K s nxt := by
  unfold execLatFcTrainingStatus at h
  dsimp only at h
  (repeat' split at h) <;> cases h <;> simp (maxDischargeDepth := 40) +contextual [own_refl]

theorem own_execStreamTrainingTimeout (h : execStreamTrainingTimeout s = .next nxt) : Own K s nxt := by
  unfold execStreamTrainingTimeout at h
  split at h <;> cases h <;> simp (maxDischargeDepth := 40) [own_refl]

theorem own_execCreditGrant (n : Nat) (h : execCreditGrant n s = .next nxt) : Own K s nxt := by
  unfold execCreditGrant at h
  split at h <;> cases h <;> simp (maxDischargeDepth := 40) [own_refl]

theorem own_execCreditStallTimeout (h : execCreditStallTimeout s = .next nxt) : Own K s nxt := by
  unfold execCreditStallTimeout at h; cases h; simp (maxDischargeDepth := 40) +contextual [own_refl]

theorem own_execFrameSend (h : execFrameSend s = .next nxt) : Own K s nxt := by
  unfold execFrameSend at h
  cases h
  dsimp only
  (repeat' split) <;> simp (maxDischargeDepth := 40) +contextual [own_refl]

theorem own_execIdleFrameTimeout (h : execIdleFrameTimeout s = .next nxt) : Own K s nxt := by
  unfold execIdleFrameTimeout at h; cases h; simp (maxDischargeDepth := 40) +contextual [own_refl]

theorem own_execStatusFrameTimer (h : execStatusFrameTimer s = .next nxt) : Own K s nxt := by
  unfold execStatusFrameTimer at h; cases h; simp (maxDischargeDepth := 40) +contextual [own_refl]

theorem own_execDropFrameTimer (h : execDropFrameTimer s = .next nxt) : Own K s nxt := by
  unfold execDropFrameTimer at h; cases h; simp (maxDischargeDepth := 40) +contextual [own_refl]

theorem own_execEnvelopeIntervalEnd (d : Side) (h : execEnvelopeIntervalEnd d s = .next nxt) : Own K s nxt := by
  unfold execEnvelopeIntervalEnd at h; cases h; simp (maxDischargeDepth := 40) +contextual [own_refl]

theorem own_execGirthEvaluation (h : execGirthEvaluation s = .next nxt) : Own K s nxt := by
  unfold execGirthEvaluation at h
  cases h
  dsimp only
  split <;> simp (maxDischargeDepth := 40) +contextual [own_refl]

theorem own_execHoldoffElapsed (z : Nat) (h : execHoldoffElapsed z s = .next nxt) : Own K s nxt := by
  unfold execHoldoffElapsed at h; cases h; simp (maxDischargeDepth := 40) +contextual [own_refl]

theorem own_execAutoTimeout (d : Side) (h : execAutoTimeout d s = .next nxt) : Own K s nxt := by
  unfold execAutoTimeout at h; cases h; simp (maxDischargeDepth := 40) +contextual [own_refl]

theorem own_execRamanShot (d : Side) (trace : List RamanSample) (h : execRamanShot d trace s = .next nxt) :
    Own K s nxt := by
  unfold execRamanShot at h
  dsimp only at h
  (repeat' split at h) <;> cases h <;> simp (maxDischargeDepth := 40) +contextual [own_refl]

theorem own_execThermalParkingDone (d : Side) (eccBad : Bool) (h : execThermalParkingDone d eccBad s = .next nxt) :
    Own K s nxt := by
  unfold execThermalParkingDone at h
  cases h
  dsimp only
  (repeat' split) <;> simp (maxDischargeDepth := 40) +contextual [own_refl]

theorem own_execAccumulationComplete (d : Side) (h : execAccumulationComplete d s = .next nxt) : Own K s nxt := by
  unfold execAccumulationComplete at h; cases h; simp (maxDischargeDepth := 40) +contextual [own_refl]

theorem own_execThermalComputationDone (d : Side) (h : execThermalComputationDone d s = .next nxt) : Own K s nxt := by
  unfold execThermalComputationDone at h
  dsimp only at h
  (repeat' split at h) <;> cases h <;> simp (maxDischargeDepth := 40) +contextual [own_refl]

theorem own_execPpsEdge (falling : Bool) (h : execPpsEdge falling s = .next nxt) : Own K s nxt := by
  unfold execPpsEdge at h
  cases h
  (repeat' split) <;> simp (maxDischargeDepth := 40) +contextual [own_refl]

theorem own_execPpsAbsentTimeout (h : execPpsAbsentTimeout s = .next nxt) : Own K s nxt := by
  unfold execPpsAbsentTimeout at h; cases h; simp (maxDischargeDepth := 40) +contextual [own_refl]

theorem own_execRef10Present (h : execRef10Present s = .next nxt) : Own K s nxt := by
  unfold execRef10Present at h; cases h; simp (maxDischargeDepth := 40) +contextual [own_refl]

theorem own_execRef10Absent (h : execRef10Absent s = .next nxt) : Own K s nxt := by
  unfold execRef10Absent at h; cases h; simp (maxDischargeDepth := 40) +contextual [own_refl]

theorem own_execRef10GateEnd (error : ℤ) (h : execRef10GateEnd error s = .next nxt) : Own K s nxt := by
  unfold execRef10GateEnd at h; cases h; simp (maxDischargeDepth := 40) +contextual [own_refl]

theorem own_execTimeBaseSecond (h : execTimeBaseSecond s = .next nxt) : Own K s nxt := by
  unfold execTimeBaseSecond at h
  cases h
  dsimp only
  (repeat' split) <;> simp (maxDischargeDepth := 40) +contextual [own_refl]

theorem own_execAgeingDay (h : execAgeingDay s = .next nxt) : Own K s nxt := by
  unfold execAgeingDay at h; cases h; simp (maxDischargeDepth := 40) +contextual [own_refl]

theorem own_execTimeSetImmediate (o : Origin) (tag : Word) (w1 : Word)
    (h : execTimeSetImmediate o tag w1 s = .next nxt) (kHeld : K.held = false) : Own K s nxt := by
  unfold execTimeSetImmediate at h; cases h; simp (maxDischargeDepth := 40) +contextual [own_refl, kHeld]

theorem own_execTimeSetNextPps (o : Origin) (tag : Word) (w1 : Word) (h : execTimeSetNextPps o tag w1 s = .next nxt)
    (kHeld : K.held = false) : Own K s nxt := by
  unfold execTimeSetNextPps at h; cases h; simp (maxDischargeDepth := 40) +contextual [own_refl, kHeld]

theorem own_execTimeSetChainSync (o : Origin) (tag : Word) (w1 : Word)
    (h : execTimeSetChainSync o tag w1 s = .next nxt) (kHeld : K.held = false) : Own K s nxt := by
  unfold execTimeSetChainSync at h; cases h; simp (maxDischargeDepth := 40) +contextual [own_refl, kHeld]

theorem own_execTimeLoadTimeout (h : execTimeLoadTimeout s = .next nxt) : Own K s nxt := by
  unfold execTimeLoadTimeout at h; cases h; simp (maxDischargeDepth := 40) +contextual [own_refl]

theorem own_execTinEdge (n : Nat) (falling : Bool) (h : execTinEdge n falling s = .next nxt) : Own K s nxt := by
  unfold execTinEdge at h; cases h; simp (maxDischargeDepth := 40) +contextual [own_refl]

theorem align_light (l : Lash) (x : Nat) (w : Word) : (l.align x w).enabled = l.enabled ∧ (l.align x w).gate = l.gate ∧
    (l.align x w).dacFault = l.dacFault ∧ (l.align x w).pulse = l.pulse := by
  unfold Lash.align
  split
  · split <;> exact ⟨rfl, rfl, rfl, rfl⟩
  · exact ⟨rfl, rfl, rfl, rfl⟩

theorem align_blocked (l : Lash) (x : Nat) (w : Word) : (l.align x w).blocked = l.blocked := by
  unfold Lash.align
  split
  · split <;> rfl
  · rfl

theorem edge_blocked (l : Lash) (n : Nat) : (l.edge n).blocked = l.blocked := by
  unfold Lash.edge
  split <;> rfl

theorem edge_light (l : Lash) (n : Nat) : (l.edge n).enabled = l.enabled ∧ (l.edge n).gate = l.gate ∧
    (l.edge n).dacFault = l.dacFault ∧ (l.edge n).pulse = l.pulse := by
  unfold Lash.edge
  split <;> exact ⟨rfl, rfl, rfl, rfl⟩

theorem own_execAwlConversionDone (n : Nat) (count : Nat) (h : execAwlConversionDone n count s = .next nxt) :
    Own K s nxt := by
  unfold execAwlConversionDone at h
  cases h
  dsimp only
  split <;> simp (maxDischargeDepth := 40) +contextual [own_refl, align_light, align_blocked]

theorem own_execAwlPairTakeover (n : Nat) (h : execAwlPairTakeover n s = .next nxt) : Own K s nxt := by
  unfold execAwlPairTakeover at h; cases h; simp (maxDischargeDepth := 40) +contextual [own_refl]

theorem own_execCalDriftCheck (temps : List Int) (h : execCalDriftCheck temps s = .next nxt) : Own K s nxt := by
  unfold execCalDriftCheck at h
  cases h
  refine own_ite (own_refl _ _) (own_foldl _ _ (own_refl _ _) fun a g ha => ?_)
  split
  · exact own_ite (own_setFigure _ _ _ ha) ha
  · exact ha

theorem own_execCalRunDone (h : execCalRunDone s = .next nxt) : Own K s nxt := by
  unfold execCalRunDone at h; cases h; simp (maxDischargeDepth := 40) +contextual [own_refl]

theorem own_execBackgroundSliceTrim (n : Nat) (trims : List Word) (figures : List Nat)
    (h : execBackgroundSliceTrim n trims figures s = .next nxt) : Own K s nxt := by
  unfold execBackgroundSliceTrim at h; cases h; simp (maxDischargeDepth := 40) +contextual [own_refl]

theorem own_execSliceSwap (n : Nat) (h : execSliceSwap n s = .next nxt) : Own K s nxt := by
  unfold execSliceSwap at h
  cases h
  dsimp only
  split <;> simp (maxDischargeDepth := 40) +contextual [own_refl]

theorem own_execAwlBackgroundCal (rings : List (Nat × Nat)) (nonlinearity : Nat)
    (h : execAwlBackgroundCal rings nonlinearity s = .next nxt) : Own K s nxt := by
  unfold execAwlBackgroundCal at h; cases h; simp (maxDischargeDepth := 40) +contextual [own_refl]

theorem own_execBackgroundRamanOffset (d : Side) (trims : List Word)
    (h : execBackgroundRamanOffset d trims s = .next nxt) : Own K s nxt := by
  unfold execBackgroundRamanOffset at h; cases h; simp (maxDischargeDepth := 40) +contextual [own_refl]

theorem own_execDeltaTraceForm (d : Side) (h : execDeltaTraceForm d s = .next nxt) : Own K s nxt := by
  unfold execDeltaTraceForm at h; cases h; simp (maxDischargeDepth := 40) +contextual [own_refl]

theorem own_execHistoryDumpDone (h : execHistoryDumpDone s = .next nxt) (kHeld : K.held = false) : Own K s nxt := by
  unfold execHistoryDumpDone at h
  cases h
  dsimp only
  split <;> simp (maxDischargeDepth := 40) +contextual [own_refl, kHeld]

theorem own_execDigestPeriod (d : Side) (h : execDigestPeriod d s = .next nxt) : Own K s nxt := by
  unfold execDigestPeriod at h; cases h; simp (maxDischargeDepth := 40) +contextual [own_refl]

theorem own_execCommitValidationDone (h : execCommitValidationDone s = .next nxt) (kC : Applies K)
    (kDraft : K.draft = false) : Own K s nxt := by
  unfold execCommitValidationDone at h
  cases h
  dsimp only
  split <;> simp (maxDischargeDepth := 40) +contextual [own_refl, kC, kC.gate, kC.held, kDraft]

theorem own_execTackSaveDone (readBackOk : Bool) (h : execTackSaveDone readBackOk s = .next nxt)
    (kSets : K.sets = false) : Own K s nxt := by
  unfold execTackSaveDone at h
  cases h
  dsimp only
  split <;> simp (maxDischargeDepth := 40) +contextual [own_refl, kSets]

theorem own_execTackEraseDone (h : execTackEraseDone s = .next nxt) (kSets : K.sets = false) : Own K s nxt := by
  unfold execTackEraseDone at h
  cases h
  dsimp only
  split <;> simp (maxDischargeDepth := 40) +contextual [own_refl, kSets]

theorem own_execGateLoadFault (d : Side) (short : Bool) (h : execGateLoadFault d short s = .next nxt) (kC : Applies K)
    (kLight : K.light = false) (kAcq : K.acq = false) : Own K s nxt := by
  unfold execGateLoadFault at h
  cases h
  dsimp only
  split <;> simp (maxDischargeDepth := 40) +contextual [own_refl, kC, kC.gate, kC.held, kLight, kAcq]

theorem own_execDacFault (d : Side) (q : Bool) (h : execDacFault d q s = .next nxt) (kC : Applies K)
    (kLight : K.light = false) (kAcq : K.acq = false) : Own K s nxt := by
  unfold execDacFault at h; cases h; simp (maxDischargeDepth := 40) +contextual
    [own_refl, kC, kC.gate, kC.held, kLight, kAcq]

theorem own_execLaserEnFall (widthNs : Nat) (h : execLaserEnFall widthNs s = .next nxt) (kC : Applies K)
    (kLight : K.light = false) (kAcq : K.acq = false) (kPwr : K.pwr = false) : Own K s nxt := by
  unfold execLaserEnFall at h; cases h; simp (maxDischargeDepth := 40) +contextual
    [own_refl, kC, kC.gate, kC.held, kLight, kAcq, kPwr]

theorem own_execLaserEnRise (h : execLaserEnRise s = .next nxt) (kPwr : K.pwr = false) : Own K s nxt := by
  unfold execLaserEnRise at h; cases h; simp (maxDischargeDepth := 40) +contextual [own_refl, kPwr]

theorem own_execGatePulseEnd (d : Side) (heldNs : Nat) (energy : Nat)
    (h : execGatePulseEnd d heldNs energy s = .next nxt) (kLight : K.light = false) : Own K s nxt := by
  unfold execGatePulseEnd at h
  cases h
  dsimp only
  split <;> simp (maxDischargeDepth := 40) +contextual [own_refl, kLight]

theorem own_execProofPulse (d : Side) (h : execProofPulse d s = .next nxt) (kLight : K.light = false) : Own K s nxt := by
  unfold execProofPulse at h; cases h; simp (maxDischargeDepth := 40) +contextual [own_refl, kLight]

theorem own_execShotGroupBoundary (d : Side) (h : execShotGroupBoundary d s = .next nxt) (kC : Applies K)
    (kLight : K.light = false) (kAcq : K.acq = false) : Own K s nxt := by
  unfold execShotGroupBoundary at h; cases h; simp (maxDischargeDepth := 40) +contextual
    [own_refl, kC, kC.gate, kC.held, kLight, kAcq]

theorem own_execLaunchGroupLaunch (d : Side) (h : execLaunchGroupLaunch d s = .next nxt) (kLight : K.light = false) :
    Own K s nxt := by
  unfold execLaunchGroupLaunch at h; cases h; simp (maxDischargeDepth := 40) +contextual [own_refl, kLight]

theorem own_execLaunchEdge (d : Side) (h : execLaunchEdge d s = .next nxt) : Own K s nxt := by
  unfold execLaunchEdge at h
  cases h
  simp (maxDischargeDepth := 40) +contextual [own_refl, edge_light, edge_blocked]

theorem own_execLaunchMissing (d : Side) (h : execLaunchMissing d s = .next nxt) : Own K s nxt := by
  unfold execLaunchMissing at h
  cases h
  split <;> simp (maxDischargeDepth := 40) +contextual [own_refl]

theorem own_execRouteBlankingStart (d : Side) (h : execRouteBlankingStart d s = .next nxt) (kC : Applies K)
    (kLight : K.light = false) (kAcq : K.acq = false) : Own K s nxt := by
  unfold execRouteBlankingStart at h
  cases h
  (repeat' split) <;> simp (maxDischargeDepth := 40) +contextual [own_refl, kC, kC.gate, kC.held, kLight, kAcq]

theorem own_execSwitchStrobe (d : Side) (h : execSwitchStrobe d s = .next nxt) : Own K s nxt := by
  unfold execSwitchStrobe at h; cases h; simp (maxDischargeDepth := 40) +contextual [own_refl]

theorem own_execRouteBlankingEnd (d : Side) (h : execRouteBlankingEnd d s = .next nxt) (kC : Applies K)
    (kLight : K.light = false) (kAcq : K.acq = false) : Own K s nxt := by
  unfold execRouteBlankingEnd at h; cases h; simp (maxDischargeDepth := 40) +contextual
    [own_refl, kC, kC.gate, kC.held, kLight, kAcq]

theorem own_execSettlePeriodEnd (d : Side) (lanes : List (List ℤ)) (h : execSettlePeriodEnd d lanes s = .next nxt) :
    Own K s nxt := by
  unfold execSettlePeriodEnd at h; cases h; simp (maxDischargeDepth := 40) +contextual [own_refl]

theorem own_execAprActivation (d : Side) (h : execAprActivation d s = .next nxt) (kC : Applies K)
    (kLight : K.light = false) (kAcq : K.acq = false) (kBlocked : K.blocked = false) : Own K s nxt := by
  unfold execAprActivation at h; cases h; simp (maxDischargeDepth := 40) +contextual
    [own_refl, kC, kC.gate, kC.held, kLight, kAcq, kBlocked]

theorem own_execWavelockAcquired (d : Side) (h : execWavelockAcquired d s = .next nxt) : Own K s nxt := by
  unfold execWavelockAcquired at h; cases h; simp (maxDischargeDepth := 40) +contextual [own_refl]

theorem own_execWavelockLost (d : Side) (h : execWavelockLost d s = .next nxt) : Own K s nxt := by
  unfold execWavelockLost at h; cases h; simp (maxDischargeDepth := 40) +contextual [own_refl]

theorem own_execLbiasLimitReached (d : Side) (upper : Bool) (h : execLbiasLimitReached d upper s = .next nxt) :
    Own K s nxt := by
  unfold execLbiasLimitReached at h; cases h; simp (maxDischargeDepth := 40) +contextual [own_refl]

theorem own_execTecLimitReached (d : Side) (upper : Bool) (h : execTecLimitReached d upper s = .next nxt) :
    Own K s nxt := by
  unfold execTecLimitReached at h; cases h; simp (maxDischargeDepth := 40) +contextual [own_refl]

theorem own_execLockSetOff (o : Origin) (w : Word) (h : execLockSetOff o w s = .next nxt) (kHeld : K.held = false) :
    Own K s nxt := by
  unfold execLockSetOff at h; cases h; simp (maxDischargeDepth := 40) +contextual [own_refl, kHeld]

theorem own_execLockSetOn (o : Origin) (w : Word) (h : execLockSetOn o w s = .next nxt) (kHeld : K.held = false) :
    Own K s nxt := by
  unfold execLockSetOn at h; cases h; simp (maxDischargeDepth := 40) +contextual [own_refl, kHeld]

theorem own_execLockSetManual (o : Origin) (w : Word) (h : execLockSetManual o w s = .next nxt)
    (kHeld : K.held = false) : Own K s nxt := by
  unfold execLockSetManual at h; cases h; simp (maxDischargeDepth := 40) +contextual [own_refl, kHeld]

theorem own_execEmitDiagRead (o : Origin) (w : Word) (h : execEmitDiagRead o w s = .next nxt)
    (kLight : K.light = false) (kHeld : K.held = false) : Own K s nxt := by
  unfold execEmitDiagRead at h; cases h; simp (maxDischargeDepth := 40) +contextual [own_refl, kLight, kHeld]

theorem own_execEmitDiagProof (o : Origin) (w : Word) (h : execEmitDiagProof o w s = .next nxt)
    (kLight : K.light = false) (kHeld : K.held = false) : Own K s nxt := by
  unfold execEmitDiagProof at h; cases h; simp (maxDischargeDepth := 40) +contextual [own_refl, kLight, kHeld]

theorem own_execAcqStopped (d : Side) (h : execAcqStopped d s = .next nxt) (kC : Applies K) (kLight : K.light = false)
    (kAcq : K.acq = false) : Own K s nxt := by
  unfold execAcqStopped at h; cases h; simp (maxDischargeDepth := 40) +contextual
    [own_refl, kC, kC.gate, kC.held, kLight, kAcq]

theorem own_execCurrierShotOutput (d : Side) (data : ShotData) (h : execCurrierShotOutput d data s = .next nxt) :
    Own K s nxt := by
  unfold execCurrierShotOutput at h
  cases h
  dsimp only
  split <;> simp (maxDischargeDepth := 40) +contextual [own_refl]

theorem own_execBaselineCaptureDone (r : Nat) (h : execBaselineCaptureDone r s = .next nxt) (kHeld : K.held = false) :
    Own K s nxt := by
  unfold execBaselineCaptureDone at h; cases h; simp (maxDischargeDepth := 40) +contextual [own_refl, kHeld]

theorem own_execHarnessCommaReceived (p : HPort) (h : execHarnessCommaReceived p s = .next nxt) : Own K s nxt := by
  unfold execHarnessCommaReceived at h; cases h; simp (maxDischargeDepth := 40) +contextual [own_refl]

theorem own_execHarnessLinkLock (p : HPort) (h : execHarnessLinkLock p s = .next nxt) : Own K s nxt := by
  unfold execHarnessLinkLock at h; cases h; simp (maxDischargeDepth := 40) +contextual [own_refl]

theorem own_execHarnessLinkLoss (p : HPort) (h : execHarnessLinkLoss p s = .next nxt) : Own K s nxt := by
  unfold execHarnessLinkLoss at h
  cases h
  dsimp only
  (repeat' split) <;> simp (maxDischargeDepth := 40) +contextual [own_refl]

theorem own_execReplyPassingUp (k : Packet) (h : execReplyPassingUp k s = .next nxt) (kAddress : K.address = false)
    (kPwr : K.pwr = false) : Own K s nxt := by
  unfold execReplyPassingUp at h; cases h; simp (maxDischargeDepth := 40) +contextual [own_refl, kAddress, kPwr]

theorem own_execChainDelayMeasureDone (meanRoundTrip : Nat)
    (h : execChainDelayMeasureDone meanRoundTrip s = .next nxt) : Own K s nxt := by
  unfold execChainDelayMeasureDone at h; cases h; simp (maxDischargeDepth := 40) +contextual [own_refl]

theorem own_execDelayProbeReceived (h : execDelayProbeReceived s = .next nxt) : Own K s nxt := by
  unfold execDelayProbeReceived at h; cases h; simp (maxDischargeDepth := 40) +contextual [own_refl]

theorem own_execHopDelayUpReceived (delay : BitVec 32) (h : execHopDelayUpReceived delay s = .next nxt) : Own K s nxt := by
  unfold execHopDelayUpReceived at h; cases h; simp (maxDischargeDepth := 40) +contextual [own_refl]

theorem own_execArmSymbolReceived (p : HPort) (t : TimingSym) (h : execArmSymbolReceived p t s = .next nxt) :
    Own K s nxt := by
  unfold execArmSymbolReceived at h; cases h; simp (maxDischargeDepth := 40) +contextual [own_refl]

theorem own_execFireSymbolReceived (p : HPort) (t : TimingSym) (h : execFireSymbolReceived p t s = .next nxt) :
    Own K s nxt := by
  unfold execFireSymbolReceived at h; cases h; simp (maxDischargeDepth := 40) +contextual [own_refl]

theorem own_execSyncSymbolReceived (p : HPort) (t : TimingSym) (h : execSyncSymbolReceived p t s = .next nxt) :
    Own K s nxt := by
  unfold execSyncSymbolReceived at h; cases h; simp (maxDischargeDepth := 40) +contextual [own_refl]

theorem own_execTimingSymbolDiscard (p : HPort) (h : execTimingSymbolDiscard p s = .next nxt) : Own K s nxt := by
  unfold execTimingSymbolDiscard at h; cases h; simp (maxDischargeDepth := 40) +contextual [own_refl]

theorem own_execPllChangeTimeout (h : execPllChangeTimeout s = .next nxt) : Own K s nxt := by
  unfold execPllChangeTimeout at h
  cases h
  split <;> simp (maxDischargeDepth := 40) +contextual [own_refl]

theorem own_execRefChoice (refclkSeen : Bool) (freqCode : Nat) (h : execRefChoice refclkSeen freqCode s = .next nxt)
    (kPwr : K.pwr = false) : Own K s nxt := by
  unfold execRefChoice at h; cases h; simp (maxDischargeDepth := 40) +contextual [own_refl, kPwr]

theorem own_execPllPhaseErrorLoss (h : execPllPhaseErrorLoss s = .next nxt) (kC : Applies K)
    (kLight : K.light = false) (kAcq : K.acq = false) : Own K s nxt := by
  unfold execPllPhaseErrorLoss at h; cases h; simp (maxDischargeDepth := 40) +contextual
    [own_refl, kC, kC.gate, kC.held, kLight, kAcq]

theorem own_execPllRefEdgesMissing (h : execPllRefEdgesMissing s = .next nxt) (kC : Applies K)
    (kLight : K.light = false) (kAcq : K.acq = false) : Own K s nxt := by
  unfold execPllRefEdgesMissing at h
  cases h
  split <;> simp (maxDischargeDepth := 40) +contextual [own_refl, kC, kC.gate, kC.held, kLight, kAcq]

theorem own_execPllRefPresent (h : execPllRefPresent s = .next nxt) : Own K s nxt := by
  unfold execPllRefPresent at h
  cases h
  split <;> simp (maxDischargeDepth := 40) +contextual [own_refl]

theorem own_execPllRelockTimeout (h : execPllRelockTimeout s = .next nxt) : Own K s nxt := by
  unfold execPllRelockTimeout at h; cases h; simp (maxDischargeDepth := 40) +contextual [own_refl]

theorem own_execPllLockDeclared (h : execPllLockDeclared s = .next nxt) (kPwr : K.pwr = false) : Own K s nxt := by
  unfold execPllLockDeclared at h
  cases h
  dsimp only
  split <;> simp (maxDischargeDepth := 40) +contextual [own_refl, kPwr]

theorem own_execSyncInEdge (h : execSyncInEdge s = .next nxt) : Own K s nxt := by
  unfold execSyncInEdge at h; cases h; simp (maxDischargeDepth := 40) +contextual [own_refl]

theorem own_execSyncApply (pfdEdges : Nat) (h : execSyncApply pfdEdges s = .next nxt) : Own K s nxt := by
  unfold execSyncApply at h
  cases h
  dsimp only
  split <;> simp (maxDischargeDepth := 40) +contextual [own_refl]

theorem own_execDramRefreshDue (h : execDramRefreshDue s = .next nxt) : Own K s nxt := by
  unfold execDramRefreshDue at h; cases h; simp (maxDischargeDepth := 40) +contextual [own_refl]

theorem own_execZqCalibrationDue (h : execZqCalibrationDue s = .next nxt) : Own K s nxt := by
  unfold execZqCalibrationDue at h; cases h; simp (maxDischargeDepth := 40) +contextual [own_refl]

theorem own_execDqsTrackingDue (h : execDqsTrackingDue s = .next nxt) : Own K s nxt := by
  unfold execDqsTrackingDue at h; cases h; simp (maxDischargeDepth := 40) +contextual [own_refl]

theorem own_execDramPanicBegin (need0 : Nat) (need1 : Nat) (h : execDramPanicBegin need0 need1 s = .next nxt) :
    Own K s nxt := by
  unfold execDramPanicBegin at h; cases h; simp (maxDischargeDepth := 40) +contextual [own_refl]

theorem own_execDramPanicEnd (need0 : Nat) (need1 : Nat) (h : execDramPanicEnd need0 need1 s = .next nxt) :
    Own K s nxt := by
  unfold execDramPanicEnd at h; cases h; simp (maxDischargeDepth := 40) +contextual [own_refl]

theorem own_execDramLongPanic (h : execDramLongPanic s = .next nxt) : Own K s nxt := by
  unfold execDramLongPanic at h; cases h; simp (maxDischargeDepth := 40) +contextual [own_refl]

theorem own_execSelfRefreshEntry (h : execSelfRefreshEntry s = .next nxt) : Own K s nxt := by
  unfold execSelfRefreshEntry at h; cases h; simp (maxDischargeDepth := 40) +contextual [own_refl]

theorem own_execPatrolScrub (errors : List (Nat × Bool)) (h : execPatrolScrub errors s = .next nxt) : Own K s nxt := by
  unfold execPatrolScrub at h; cases h; simp (maxDischargeDepth := 40) +contextual [own_refl]

theorem own_execBulkTimeout (fail : BusFail) (addr : Nat) (words : Nat)
    (h : execBulkTimeout fail addr words s = .next nxt) : Own K s nxt := by
  unfold execBulkTimeout at h
  cases h
  dsimp only
  (repeat' split) <;> simp (maxDischargeDepth := 40) +contextual [own_refl]

theorem own_execMemRead (o : Origin) (p : List Word) (h : execMemRead o p s = .next nxt) (kHeld : K.held = false) :
    Own K s nxt := by
  unfold execMemRead at h; cases h; simp (maxDischargeDepth := 40) +contextual [own_refl, kHeld]

theorem own_execMemReadDone (slot : Nat) (acc : Access) (h : execMemReadDone slot acc s = .next nxt)
    (kHeld : K.held = false) : Own K s nxt := by
  unfold execMemReadDone at h
  cases h
  split <;> simp (maxDischargeDepth := 40) +contextual [own_refl, kHeld]

theorem own_execMemFillDone (acc : Access) (h : execMemFillDone acc s = .next nxt) : Own K s nxt := by
  unfold execMemFillDone at h
  cases h
  split
  · exact own_refl _ _
  · refine own_ite (own_endOfFill _ (own_refl _ _)) ?_
    split
    · exact own_ite (own_fillOn _ (own_engineBurst _ (own_setTurn _ _ (own_refl _ _))))
        (own_engineBurst _ (own_setTurn _ _ (own_refl _ _)))
    · exact own_refl _ _

theorem own_execDmaBurst (acc : Access) (h : execDmaBurst acc s = .next nxt) : Own K s nxt := by
  unfold execDmaBurst at h
  cases h
  split <;> simp (maxDischargeDepth := 40) +contextual [own_refl]

theorem own_execDmaDescriptorFetchDone (n : Nat) (acc : Access) (h : execDmaDescriptorFetchDone n acc s = .next nxt) :
    Own K s nxt := by
  unfold execDmaDescriptorFetchDone at h; cases h; simp (maxDischargeDepth := 40) +contextual [own_refl]

theorem own_execDmaDescriptorEnd (n : Nat) (acc : Access) (h : execDmaDescriptorEnd n acc s = .next nxt) :
    Own K s nxt := by
  unfold execDmaDescriptorEnd at h
  cases h
  refine own_ite (own_refl _ _) (own_ite (own_linkRead _ _ _ ?_ fun t ht => own_followLink _ ht)
    (own_ite (own_linkRead _ _ _ (own_refl _ _) fun t ht => own_relink _ ht) (own_refl _ _)))
  simp (maxDischargeDepth := 40) +contextual [own_refl]

theorem own_execDmaKickStart (o : Origin) (w : Word) (first : Word) (h : execDmaKickStart o w first s = .next nxt)
    (kHeld : K.held = false) : Own K s nxt := by
  unfold execDmaKickStart at h; cases h; simp (maxDischargeDepth := 40) +contextual [own_refl, kHeld]

theorem own_execDmaKickResume (o : Origin) (w : Word) (h : execDmaKickResume o w s = .next nxt)
    (kHeld : K.held = false) : Own K s nxt := by
  unfold execDmaKickResume at h; cases h; simp (maxDischargeDepth := 40) +contextual [own_refl, kHeld]

theorem own_execDmaAbortDone (n : Nat) (h : execDmaAbortDone n s = .next nxt) : Own K s nxt := by
  unfold execDmaAbortDone at h
  cases h
  dsimp only
  (repeat' split) <;> simp (maxDischargeDepth := 40) +contextual [own_refl]

theorem own_execUpdateBeginDone (h : execUpdateBeginDone s = .next nxt) (kHeld : K.held = false) : Own K s nxt := by
  unfold execUpdateBeginDone at h
  cases h
  split <;> simp (maxDischargeDepth := 40) +contextual [own_refl, kHeld]

theorem own_execUpdateChunkStored (h : execUpdateChunkStored s = .next nxt) : Own K s nxt := by
  unfold execUpdateChunkStored at h
  cases h
  split <;> simp (maxDischargeDepth := 40) +contextual [own_refl]

theorem own_execUpdateEndDone (h : execUpdateEndDone s = .next nxt) (kHeld : K.held = false) : Own K s nxt := by
  unfold execUpdateEndDone at h
  cases h
  split
  · refine own_leavePath _ (own_refl _ _) (fun _ hs => ?_) kHeld
    split
    · exact own_planes _ hs fun _ ht => own_judgeImage _ ht
    · exact own_failCrc _ hs
  · exact own_refl _ _

theorem own_execUpdateActivateTrial (o : Origin) (w : Word) (h : execUpdateActivateTrial o w s = .next nxt)
    (kHeld : K.held = false) (kPwr : K.pwr = false) : Own K s nxt := by
  unfold execUpdateActivateTrial at h; cases h; simp (maxDischargeDepth := 40) +contextual [own_refl, kHeld, kPwr]

theorem own_execUpdateActivateConfirm (o : Origin) (w : Word) (h : execUpdateActivateConfirm o w s = .next nxt)
    (kHeld : K.held = false) (kPwr : K.pwr = false) : Own K s nxt := by
  unfold execUpdateActivateConfirm at h; cases h; simp (maxDischargeDepth := 40) +contextual [own_refl, kHeld, kPwr]

theorem own_execUpdateActivateReject (o : Origin) (w : Word) (h : execUpdateActivateReject o w s = .next nxt)
    (kHeld : K.held = false) (kPwr : K.pwr = false) : Own K s nxt := by
  unfold execUpdateActivateReject at h; cases h; simp (maxDischargeDepth := 40) +contextual [own_refl, kHeld, kPwr]

theorem own_execTrialTimerExpiry (h : execTrialTimerExpiry s = .next nxt) (kPwr : K.pwr = false) : Own K s nxt := by
  unfold execTrialTimerExpiry at h; cases h; simp (maxDischargeDepth := 40) +contextual [own_refl, kPwr]

theorem own_execClampDetection (domain : Nat) (peakUa : Nat) (h : execClampDetection domain peakUa s = .next nxt) :
    Own K s nxt := by
  unfold execClampDetection at h
  cases h
  dsimp only
  (repeat' split) <;> simp (maxDischargeDepth := 40) +contextual [own_refl]

theorem own_execSurgeRecordClose (h : execSurgeRecordClose s = .next nxt) : Own K s nxt := by
  unfold execSurgeRecordClose at h
  cases h
  dsimp only
  split <;> simp (maxDischargeDepth := 40) +contextual [own_refl]

theorem own_execSelftestStart (h : execSelftestStart s = .next nxt) : Own K s nxt := by
  unfold execSelftestStart at h
  cases h
  dsimp only
  split <;> simp (maxDischargeDepth := 40) +contextual [own_refl]

theorem own_execCurrierTileTestSlotEnd (pass : Bool) (h : execCurrierTileTestSlotEnd pass s = .next nxt) :
    Own K s nxt := by
  unfold execCurrierTileTestSlotEnd at h
  cases h
  (repeat' split) <;> simp (maxDischargeDepth := 40) +contextual [own_refl]

theorem own_execSelftestDone (analogFails : BitVec 13) (h : execSelftestDone analogFails s = .next nxt) : Own K s nxt := by
  unfold execSelftestDone at h
  cases h
  dsimp only
  split <;> simp (maxDischargeDepth := 40) +contextual [own_refl]

theorem own_execLogEntryWrite (h : execLogEntryWrite s = .next nxt) : Own K s nxt := by
  unfold execLogEntryWrite at h; cases h; simp (maxDischargeDepth := 40) +contextual [own_refl]

theorem own_execLogClearDone (h : execLogClearDone s = .next nxt) (kHeld : K.held = false) : Own K s nxt := by
  unfold execLogClearDone at h
  cases h
  dsimp only
  split <;> simp (maxDischargeDepth := 40) +contextual [own_refl, kHeld]

theorem own_execLifetimeUpdate (h : execLifetimeUpdate s = .next nxt) : Own K s nxt := by
  unfold execLifetimeUpdate at h; cases h; simp (maxDischargeDepth := 40) +contextual [own_refl]

theorem own_execEquivHoursMinute (h : execEquivHoursMinute s = .next nxt) : Own K s nxt := by
  unfold execEquivHoursMinute at h; cases h; simp (maxDischargeDepth := 40) +contextual [own_refl]

theorem own_execBreakIn (h : execBreakIn s = .next nxt) (kHeld : K.held = false) : Own K s nxt := by
  unfold execBreakIn at h; cases h; simp (maxDischargeDepth := 40) +contextual [own_refl, kHeld]

theorem own_execBreakInEnd (h : execBreakInEnd s = .next nxt) : Own K s nxt := by
  unfold execBreakInEnd at h; cases h; simp (maxDischargeDepth := 40) +contextual [own_refl]

theorem own_execResetLevel0 (o : Origin) (w : Word) (h : execResetLevel0 o w s = .next nxt) (kC : Applies K)
    (kLight : K.light = false) (kAcq : K.acq = false) (kPwr : K.pwr = false) : Own K s nxt := by
  unfold execResetLevel0 at h; cases h; simp (maxDischargeDepth := 40) +contextual
    [own_refl, kC, kC.gate, kC.held, kLight, kAcq, kPwr]

theorem own_execResetLevel1 (o : Origin) (w : Word) (h : execResetLevel1 o w s = .next nxt) (kC : Applies K)
    (kLight : K.light = false) (kAcq : K.acq = false) (kPwr : K.pwr = false) : Own K s nxt := by
  unfold execResetLevel1 at h; cases h; simp (maxDischargeDepth := 40) +contextual
    [own_refl, kC, kC.gate, kC.held, kLight, kAcq, kPwr]

theorem own_execResetLevel2 (o : Origin) (w : Word) (h : execResetLevel2 o w s = .next nxt) (kC : Applies K)
    (kLight : K.light = false) (kAcq : K.acq = false) (kPwr : K.pwr = false) : Own K s nxt := by
  unfold execResetLevel2 at h; cases h; simp (maxDischargeDepth := 40) +contextual
    [own_refl, kC, kC.gate, kC.held, kLight, kAcq, kPwr]

theorem own_execResetLevel3 (o : Origin) (w : Word) (h : execResetLevel3 o w s = .next nxt) (kC : Applies K)
    (kLight : K.light = false) (kAcq : K.acq = false) (kPwr : K.pwr = false) : Own K s nxt := by
  unfold execResetLevel3 at h; cases h; simp (maxDischargeDepth := 40) +contextual
    [own_refl, kC, kC.gate, kC.held, kLight, kAcq, kPwr]

theorem own_execResetSoftDone (trainFail : Option (Nat × Nat)) (h : execResetSoftDone trainFail s = .next nxt)
    (kC : Applies K) (kLight : K.light = false) (kAcq : K.acq = false) (kPwr : K.pwr = false) : Own K s nxt := by
  unfold execResetSoftDone at h
  cases h
  dsimp only
  (repeat' split) <;> simp (maxDischargeDepth := 40) +contextual [own_refl, kC, kC.gate, kC.held, kLight, kAcq, kPwr]

theorem own_execResetStart (h : execResetStart s = .next nxt) (kR : Resets K) (kAddress : K.address = false) :
    Own K s nxt := by
  unfold execResetStart at h
  cases h
  split <;> simp (maxDischargeDepth := 40) +contextual [own_refl, kR, kR.pwr, kAddress]

theorem own_execResetOffTimeExpiry (vcoreFell : Bool) (h : execResetOffTimeExpiry vcoreFell s = .next nxt)
    (kPwr : K.pwr = false) : Own K s nxt := by
  unfold execResetOffTimeExpiry at h; cases h; simp (maxDischargeDepth := 40) +contextual [own_refl, kPwr]

theorem own_execVaonPowerOn (h : execVaonPowerOn s = .next nxt) (kAddress : K.address = false)
    (kScratch : K.scratch = false) (kPwr : K.pwr = false) : Own K s nxt := by
  unfold execVaonPowerOn at h; cases h; simp (maxDischargeDepth := 40) +contextual [own_refl, kAddress, kScratch, kPwr]

theorem own_execVaonGood (h : execVaonGood s = .next nxt) (kPwr : K.pwr = false) : Own K s nxt := by
  unfold execVaonGood at h; cases h; simp (maxDischargeDepth := 40) +contextual [own_refl, kPwr]

theorem own_execVaonLoss (h : execVaonLoss s = .next nxt) (kR : Resets K) (kAddress : K.address = false)
    (kScratch : K.scratch = false) : Own K s nxt := by
  unfold execVaonLoss at h; cases h; simp (maxDischargeDepth := 40) +contextual [own_refl, kR, kR.pwr, kAddress, kScratch]

theorem own_execRailsGood (h : execRailsGood s = .next nxt) (kPwr : K.pwr = false) : Own K s nxt := by
  unfold execRailsGood at h; cases h; simp (maxDischargeDepth := 40) +contextual [own_refl, kPwr]

theorem own_execPorRelease (h : execPorRelease s = .next nxt) (kPwr : K.pwr = false) : Own K s nxt := by
  unfold execPorRelease at h; cases h; simp (maxDischargeDepth := 40) +contextual [own_refl, kPwr]

theorem own_execResetNLow (widthNs : Nat) (h : execResetNLow widthNs s = .next nxt) (kR : Resets K)
    (kAddress : K.address = false) : Own K s nxt := by
  unfold execResetNLow at h; cases h; simp (maxDischargeDepth := 40) +contextual [own_refl, kR, kR.pwr, kAddress]

theorem own_execResetNRise (h : execResetNRise s = .next nxt) (kPwr : K.pwr = false) : Own K s nxt := by
  unfold execResetNRise at h; cases h; simp (maxDischargeDepth := 40) +contextual [own_refl, kPwr]

theorem own_execBrownout (monitor : Nat) (h : execBrownout monitor s = .next nxt) (kR : Resets K)
    (kAddress : K.address = false) : Own K s nxt := by
  unfold execBrownout at h; cases h; simp (maxDischargeDepth := 40) +contextual [own_refl, kR, kR.pwr, kAddress]

theorem own_execStandbyPowerDown (h : execStandbyPowerDown s = .next nxt) (kR : Resets K) : Own K s nxt := by
  unfold execStandbyPowerDown at h
  cases h
  (repeat' split) <;> simp (maxDischargeDepth := 40) [own_refl, kR, kR.pwr]

theorem own_execWakePinEdge (highUs : Nat) (h : execWakePinEdge highUs s = .next nxt) (kPwr : K.pwr = false) :
    Own K s nxt := by
  unfold execWakePinEdge at h; cases h; simp (maxDischargeDepth := 40) +contextual [own_refl, kPwr]

theorem own_execWakeTimerExpiry (h : execWakeTimerExpiry s = .next nxt) (kPwr : K.pwr = false) : Own K s nxt := by
  unfold execWakeTimerExpiry at h
  cases h
  split <;> simp (maxDischargeDepth := 40) +contextual [own_refl, kPwr]

theorem own_execStandbyWake (h : execStandbyWake s = .next nxt) (kPwr : K.pwr = false) : Own K s nxt := by
  unfold execStandbyWake at h
  cases h
  dsimp only
  split <;> simp (maxDischargeDepth := 40) +contextual [own_refl, kPwr]

theorem own_execCantleBootVerifyDone (checkA : Nat) (checkB : Nat)
    (h : execCantleBootVerifyDone checkA checkB s = .next nxt) (kPwr : K.pwr = false) : Own K s nxt := by
  unfold execCantleBootVerifyDone at h; cases h; simp (maxDischargeDepth := 40) +contextual [own_refl, kPwr]

theorem own_execDramTrainingDone (fail : Option (Nat × Nat)) (fittedGib : Nat)
    (h : execDramTrainingDone fail fittedGib s = .next nxt) (kLive : K.live = false) (kDraft : K.draft = false)
    (kModified : K.modified = false) (kPwr : K.pwr = false) (kNone : K.liveOr = false) : Own K s nxt := by
  unfold execDramTrainingDone at h
  cases h
  dsimp only
  (repeat' split) <;> simp (maxDischargeDepth := 40) +contextual [own_refl, kLive, kDraft, kModified, kPwr, kNone]

theorem own_execCalStepDone (results : List StepResult) (h : execCalStepDone results s = .next nxt)
    (kLight : K.light = false) (kPwr : K.pwr = false) : Own K s nxt := by
  unfold execCalStepDone at h; cases h; simp (maxDischargeDepth := 40) +contextual [own_refl, kLight, kPwr]

theorem own_execCalStepTimeout (group : Nat) (h : execCalStepTimeout group s = .next nxt) (kLight : K.light = false)
    (kPwr : K.pwr = false) : Own K s nxt := by
  unfold execCalStepTimeout at h; cases h; simp (maxDischargeDepth := 40) +contextual [own_refl, kLight, kPwr]

theorem own_execOvertempTrip (sensor : Nat) (h : execOvertempTrip sensor s = .next nxt) (kC : Applies K)
    (kLight : K.light = false) (kAcq : K.acq = false) (kPwr : K.pwr = false) : Own K s nxt := by
  unfold execOvertempTrip at h; cases h; simp (maxDischargeDepth := 40) +contextual
    [own_refl, kC, kC.gate, kC.held, kLight, kAcq, kPwr]

theorem own_execMonitorSample (temps : List ℤ) (volts : List Nat) (h : execMonitorSample temps volts s = .next nxt)
    (kC : Applies K) (kLight : K.light = false) (kAcq : K.acq = false) (kPwr : K.pwr = false) : Own K s nxt := by
  unfold execMonitorSample at h; cases h; simp (maxDischargeDepth := 40) +contextual
    [own_refl, kC, kC.gate, kC.held, kLight, kAcq, kPwr]

theorem own_execProcessMonitorSample (drifts : List ℤ) (h : execProcessMonitorSample drifts s = .next nxt) :
    Own K s nxt := by
  unfold execProcessMonitorSample at h; cases h; simp (maxDischargeDepth := 40) +contextual [own_refl]

theorem own_execHealthDigestForm (h : execHealthDigestForm s = .next nxt) : Own K s nxt := by
  unfold execHealthDigestForm at h; cases h; simp (maxDischargeDepth := 40) +contextual [own_refl]

theorem own_execHealthDigestEventTimer (h : execHealthDigestEventTimer s = .next nxt) : Own K s nxt := by
  unfold execHealthDigestEventTimer at h; cases h; simp (maxDischargeDepth := 40) +contextual [own_refl]

theorem own_execCantleWatchdogExpiry (h : execCantleWatchdogExpiry s = .next nxt) (kGate : K.gate = false)
    (kHeld : K.held = false) : Own K s nxt := by
  unfold execCantleWatchdogExpiry at h; cases h; simp (maxDischargeDepth := 40) +contextual [own_refl, kGate, kHeld]

theorem own_execMramWriteTimeout (h : execMramWriteTimeout s = .next nxt) (kGate : K.gate = false)
    (kHeld : K.held = false) : Own K s nxt := by
  unfold execMramWriteTimeout at h; cases h; simp (maxDischargeDepth := 40) +contextual [own_refl, kGate, kHeld]

theorem own_execCantleRestartDone (h : execCantleRestartDone s = .next nxt) (kPwr : K.pwr = false) : Own K s nxt := by
  unfold execCantleRestartDone at h
  cases h
  dsimp only
  split <;> simp (maxDischargeDepth := 40) +contextual [own_refl, kPwr]

theorem own_execBridleHangCheck (hung : Bool) (h : execBridleHangCheck hung s = .next nxt) (kHeld : K.held = false) :
    Own K s nxt := by
  unfold execBridleHangCheck at h; cases h; simp (maxDischargeDepth := 40) +contextual [own_refl, kHeld]

theorem own_execMramScrub (region : Nat) (corrected : Nat) (bad : Option Nat) (worn : Bool)
    (h : execMramScrub region corrected bad worn s = .next nxt) (kSets : K.sets = false) : Own K s nxt := by
  unfold execMramScrub at h
  cases h
  dsimp only
  (repeat' split) <;> simp (maxDischargeDepth := 40) +contextual [own_refl, kSets]

theorem own_execXtalFaultCheck (stopped : Bool) (outside : Bool)
    (h : execXtalFaultCheck stopped outside s = .next nxt) (kPwr : K.pwr = false) : Own K s nxt := by
  unfold execXtalFaultCheck at h
  cases h
  dsimp only
  (repeat' split) <;> simp (maxDischargeDepth := 40) +contextual [own_refl, kPwr]

theorem own_paramRequest (o : Origin) (p : List Word) (kHeld : K.held = false) (kId : ∀ x ∈ pairs p, Takes K (pairId x)) :
    Own K s (request hParamSet o p s) := own_request _ _ _ (own_refl _ _) (own_hParamSet o p kId) kHeld

/-- A request of one pair. -/
theorem own_paramRequest_one (o : Origin) (a v : Word) (kHeld : K.held = false) (kId : Takes K (fld a 15 0)) :
    Own K s (request hParamSet o [a, v] s) :=
  own_paramRequest o _ kHeld fun x hx => by
    obtain rfl := List.mem_singleton.1 hx
    exact kId

theorem own_execParamSet (o : Origin) (p : List Word) (h : execParamSet o p s = .next nxt) (kDraft : K.draft = false)
    (kRw : K.rw = false) (kNv : K.nv = false) (kScratch : K.scratch = false) (kHeld : K.held = false)
    (kPwr : K.pwr = false) : Own K s nxt := by
  cases h
  exact own_paramRequest o p kHeld fun x _ => takes_all kDraft kRw kNv kScratch kPwr _

theorem own_execStreamCfg (o : Origin) (p : List Word) (h : execStreamCfg o p s = .next nxt) (kRw : K.rw = false)
    (kHeld : K.held = false) : Own K s nxt := by
  cases h
  exact own_request _ _ _ (own_refl _ _) (own_hStreamCfg o p kRw) kHeld

theorem own_execTackProtectWrite (o : Origin) (v : Word) (h : execTackProtectWrite o v s = .next nxt) (kNv : K.nv = false)
    (kHeld : K.held = false) : Own K s nxt := by
  cases h
  exact own_paramRequest_one o _ v kHeld (takes_nv (by decide) kNv)

theorem own_execEvtMaskWrite (o : Origin) (lo hi : Word) (h : execEvtMaskWrite o lo hi s = .next nxt) (kRw : K.rw = false)
    (kHeld : K.held = false) : Own K s nxt := by
  cases h
  refine own_paramRequest o _ kHeld fun x hx => ?_
  have hx : x = (0x0050, lo) ∨ x = (0x0051, hi) := by simpa [pairs] using hx
  rcases hx with rfl | rfl
  · exact takes_rw (show accessOf (pairId (0x0050, 0)) = .rw by decide) kRw
  · exact takes_rw (show accessOf (pairId (0x0051, 0)) = .rw by decide) kRw

theorem own_execUartCfgWrite (o : Origin) (v : Word) (h : execUartCfgWrite o v s = .next nxt) (kRw : K.rw = false)
    (kHeld : K.held = false) : Own K s nxt := by
  cases h
  exact own_paramRequest_one o _ v kHeld (takes_rw (by decide) kRw)

theorem own_execMemInitWrite (o : Origin) (v : Word) (h : execMemInitWrite o v s = .next nxt) (kNv : K.nv = false)
    (kHeld : K.held = false) : Own K s nxt := by
  cases h
  exact own_paramRequest_one o _ v kHeld (takes_nv (by decide) kNv)

theorem own_execMemPlanWrite (o : Origin) (v : Word) (h : execMemPlanWrite o v s = .next nxt) (kRw : K.rw = false)
    (kHeld : K.held = false) : Own K s nxt := by
  cases h
  exact own_paramRequest_one o _ v kHeld (takes_rw (by decide) kRw)

theorem own_execAdcCheckWrite (o : Origin) (v : Word) (h : execAdcCheckWrite o v s = .next nxt) (kRw : K.rw = false)
    (kHeld : K.held = false) : Own K s nxt := by
  cases h
  exact own_paramRequest_one o _ v kHeld (takes_rw (by decide) kRw)

theorem own_execAuxSeqKick (o : Origin) (v : Word) (h : execAuxSeqKick o v s = .next nxt) (kHeld : K.held = false) :
    Own K s nxt := by
  cases h
  have hid : fld (0x5801 : Word) 15 0 = 0x5801 := by decide
  exact own_paramRequest_one o _ v kHeld (by rw [hid]; simp [Takes, show accessOf 0x5801 = .wo by decide])

theorem takes_pllCfg : Takes K (fld 0x0021 15 0) := by
  rw [show fld (0x0021 : Word) 15 0 = 0x0021 by decide]
  simp [Takes, show accessOf 0x0021 = .own by decide]

theorem own_execPllCfgIcpWrite (o : Origin) (icp : BitVec 6) (h : execPllCfgIcpWrite o icp s = .next nxt)
    (kHeld : K.held = false) : Own K s nxt := by
  cases h
  exact own_paramRequest_one o _ _ kHeld takes_pllCfg

theorem own_execPllDividerChange (o : Origin) (v : Word) (h : execPllDividerChange o v s = .next nxt)
    (kHeld : K.held = false) : Own K s nxt := by
  cases h
  exact own_paramRequest_one o _ _ kHeld takes_pllCfg

theorem own_execHarnessPacketForward (p : HPort) (k : Packet) (h : execHarnessPacketForward p k s = .next nxt) :
    Own K s nxt := by
  unfold execHarnessPacketForward at h
  cases h
  (repeat' split) <;> simp (maxDischargeDepth := 40) +contextual [own_refl]

theorem own_execUartGapTimeout (h : execUartGapTimeout s = .next nxt) : Own K s nxt := by
  unfold execUartGapTimeout at h; cases h; simp (maxDischargeDepth := 40) +contextual [own_refl]

theorem own_execUartFramingError (h : execUartFramingError s = .next nxt) : Own K s nxt := by
  unfold execUartFramingError at h; cases h; simp (maxDischargeDepth := 40) +contextual [own_refl]

end Sys2Proof.Machine
end

section
/-!
SUPPORT. The owners of the live copy, the draft copy, the parameters, the Tack sets, the address and the scratch registers.
-/
namespace Sys2Proof.Machine

-- one theorem after the other: the threads of many at once need more memory than the check has
set_option Elab.async false

variable {K : Track} {org s nxt : State}

/-- The parts that a command leaves. -/
def tracked (c : Instr) : Track :=
  let draft := match c with
    | .routeSet _ _ | .scanSet _ _ | .zoneSet _ _ | .zoneClear _ _ | .trigSet _ _ | .slotSet _ _ | .curveLoad _ _
    | .auxXptSet _ _ | .auxSeqLoad _ _ | .auxLimitSet _ _ | .discard _ _ | .paramSet _ _ | .requestReceived _
    | .uartPacketReceived _ | .commitValidationDone | .dramTrainingDone _ _ | .vaonLoss | .resetNLow _ | .brownout _
    | .resetStart | .standbyPowerDown => false
    | _ => true
  { live := match c with
      | .routeSet _ _ | .scanSet _ _ | .zoneSet _ _ | .zoneClear _ _ | .trigSet _ _ | .slotSet _ _ | .curveLoad _ _
      | .auxXptSet _ _ | .auxSeqLoad _ _ | .auxLimitSet _ _ | .discard _ _ | .paramSet _ _ => true
      | _ => false
    liveOr := draft
    draft := draft
    rw := match c with
      | .paramSet _ _ | .evtMaskWrite _ _ _ | .uartCfgWrite _ _ | .adcCheckWrite _ _ | .adcCheckSet _ _ _
      | .adcCheckRetire _ _ _ | .adcCheckRestore _ _ _ | .adcCheckClear _ _ _ | .tbSelect _ _ | .tdcCfg _ _
      | .streamCfg _ _ | .memPlanWrite _ _ | .requestReceived _ | .uartPacketReceived _ | .vaonLoss | .resetNLow _
      | .brownout _ | .resetStart | .standbyPowerDown => false
      | _ => true
    nv := match c with
      | .paramSet _ _ | .tackProtectWrite _ _ | .memInitWrite _ _ | .requestReceived _ | .uartPacketReceived _ => false
      | _ => true
    sets := match c with
      | .tackSave _ _ | .tackSaveDone _ | .tackErase _ _ | .tackEraseDone | .mramScrub _ _ _ _ | .requestReceived _
      | .uartPacketReceived _ => false
      | _ => true
    address := match c with
      | .chainEnumerate _ _ | .chainAddrSet _ _ | .replyPassingUp _ | .requestReceived _ | .uartPacketReceived _
      | .vaonPowerOn | .vaonLoss | .resetNLow _ | .brownout _ | .resetStart => false
      | _ => true
    scratch := match c with
      | .paramSet _ _ | .requestReceived _ | .uartPacketReceived _ | .vaonPowerOn | .vaonLoss => false
      | _ => true }

theorem own_of_request {x : Handler} {o : Origin} {p : List Word} (kHeld : K.held = false) (hx : HandlerOwn K s x o p)
    (h : (Host.Outcome.next (request x o p s) : Out) = .next nxt) : Own K s nxt := by
  cases h
  exact own_request x o p (own_refl K s) hx kHeld

/-- Nothing is named. -/
theorem own_none : Own {} s nxt := by simp [Own, OwnParts]

/-- Every command leaves what `tracked` says. -/
theorem exec_own {s t : State} : ∀ c : Instr, exec c s = .next t → Own (tracked c) s t
  | .nop _ _, h => own_of_request rfl (own_hNop _ _) h | .identify _ _, h => own_of_request rfl (own_hIdentify _ _) h
  | .status _ _, h => own_of_request rfl (own_hStatus _ _ rfl) h
  | .resetLevel0 _ _, h => own_execResetLevel0 _ _ h ⟨rfl, rfl, rfl, rfl, .inr rfl⟩ rfl rfl rfl
  | .resetLevel1 _ _, h => own_execResetLevel1 _ _ h ⟨rfl, rfl, rfl, rfl, .inr rfl⟩ rfl rfl rfl
  | .resetLevel2 _ _, h => own_execResetLevel2 _ _ h ⟨rfl, rfl, rfl, rfl, .inr rfl⟩ rfl rfl rfl
  | .resetLevel3 _ _, h => own_execResetLevel3 _ _ h ⟨rfl, rfl, rfl, rfl, .inr rfl⟩ rfl rfl rfl
  | .resetStart, h => own_execResetStart h ⟨rfl, rfl, rfl, rfl, rfl, rfl, rfl, rfl, rfl, rfl, rfl, rfl⟩ rfl
  | .resetOffTimeExpiry _, h => own_execResetOffTimeExpiry _ h rfl
  | .resetSoftDone _, h => own_execResetSoftDone _ h ⟨rfl, rfl, rfl, rfl, .inr rfl⟩ rfl rfl rfl
  | .paramGet _ _, h => own_of_request rfl (own_hParamGet _ _) h
  | .paramSet _ _, h => own_execParamSet _ _ h rfl rfl rfl rfl rfl rfl
  | .commit _ _, h => own_of_request rfl (own_hCommit _ _ rfl) h
  | .commitValidationDone, h => own_execCommitValidationDone h ⟨rfl, rfl, rfl, rfl, .inl rfl⟩ rfl
  | .discard _ _, h => own_of_request rfl (own_hDiscard _ _ rfl) h
  | .eventRead _ _, h => own_of_request rfl (own_hEventRead _ _) h
  | .eventAck _ _, h => own_of_request rfl (own_hEventAck _ _) h
  | .result _ _, h => own_of_request rfl (own_hResult _ _ rfl) h
  | .tackLoad _ _, h => own_of_request rfl (own_hTackLoad _ _ rfl) h
  | .tackSave _ _, h => own_of_request rfl (own_hTackSave _ _ rfl) h
  | .tackSaveDone _, h => own_execTackSaveDone _ h rfl | .tackInfo _ _, h => own_of_request rfl (own_hTackInfo _ _) h
  | .tackErase _ _, h => own_of_request rfl (own_hTackErase _ _ rfl) h
  | .tackEraseDone, h => own_execTackEraseDone h rfl
  | .tackProtectWrite _ _, h => own_execTackProtectWrite _ _ h rfl rfl
  | .chainEnumerate _ _, h => own_of_request rfl (own_hChainEnumerate _ _ rfl rfl) h
  | .chainAddrSet _ _, h => own_of_request rfl (own_hChainAddrSet _ _ rfl rfl) h
  | .chainDelayMeasure _ _, h => own_of_request rfl (own_hChainDelayMeasure _ _) h
  | .chainDelayMeasureDone _, h => own_execChainDelayMeasureDone _ h
  | .delayProbeReceived, h => own_execDelayProbeReceived h | .hopDelayUpReceived _, h => own_execHopDelayUpReceived _ h
  | .chainLoopback _ _, h => own_of_request rfl (own_hChainLoopback _ _) h
  | .routeSet _ _, h => own_of_request rfl (own_hRouteSet _ _ rfl) h
  | .routeGet _ _, h => own_of_request rfl (own_hRouteGet _ _) h
  | .scanSet _ _, h => own_of_request rfl (own_hScanSet _ _ rfl) h
  | .scanGet _ _, h => own_of_request rfl (own_hScanGet _ _) h
  | .zoneSet _ _, h => own_of_request rfl (own_hZoneSet _ _ rfl) h
  | .zoneGet _ _, h => own_of_request rfl (own_hZoneGet _ _) h
  | .zoneClear _ _, h => own_of_request rfl (own_hZoneClear _ _ rfl) h
  | .baselineCapture _ _, h => own_of_request rfl (own_hBaselineCapture _ _) h
  | .baselineCaptureDone _, h => own_execBaselineCaptureDone _ h rfl
  | .acqStart _ _, h => own_of_request rfl (own_hAcqStart _ _ ⟨rfl, rfl, rfl, rfl, .inr rfl⟩ rfl rfl rfl) h
  | .acqStop _ _, h => own_of_request rfl (own_hAcqStop _ _) h
  | .acqStopped _, h => own_execAcqStopped _ h ⟨rfl, rfl, rfl, rfl, .inr rfl⟩ rfl rfl
  | .arm _ _, h => own_of_request rfl (own_hArm _ _) h | .disarm _ _, h => own_of_request rfl (own_hDisarm _ _) h
  | .force _ _, h => own_of_request rfl (own_hForce _ _) h
  | .trigSet _ _, h => own_of_request rfl (own_hTrigSet _ _ rfl) h
  | .trigGet _ _, h => own_of_request rfl (own_hTrigGet _ _) h
  | .historyDump _ _, h => own_of_request rfl (own_hHistoryDump _ _ rfl) h
  | .historyDumpDone, h => own_execHistoryDumpDone h rfl
  | .slotSet _ _, h => own_of_request rfl (own_hSlotSet _ _ rfl) h
  | .slotGet _ _, h => own_of_request rfl (own_hSlotGet _ _) h
  | .curveLoad _ _, h => own_of_request rfl (own_hCurveLoad _ _ rfl) h
  | .emitEnable _ _, h => own_of_request rfl (own_hEmitEnable _ _ rfl rfl) h
  | .lockSetOff _ _, h => own_execLockSetOff _ _ h rfl | .lockSetOn _ _, h => own_execLockSetOn _ _ h rfl
  | .lockSetManual _ _, h => own_execLockSetManual _ _ h rfl
  | .emitDiagRead _ _, h => own_execEmitDiagRead _ _ h rfl rfl
  | .emitDiagProof _ _, h => own_execEmitDiagProof _ _ h rfl rfl
  | .auxXptSet _ _, h => own_of_request rfl (own_hAuxXptSet _ _ rfl) h
  | .auxSeqLoad _ _, h => own_of_request rfl (own_hAuxSeqLoad _ _ rfl) h
  | .auxRead _ _, h => own_of_request rfl (own_hAuxRead _ _) h
  | .auxLimitSet _ _, h => own_of_request rfl (own_hAuxLimitSet _ _ rfl) h
  | .auxSeqKick _ _, h => own_execAuxSeqKick _ _ h rfl | .adcCheckSet _ _ _, h => own_execAdcCheckSet _ _ _ h rfl rfl
  | .adcCheckWrite _ _, h => own_execAdcCheckWrite _ _ h rfl rfl
  | .adcCheckRetire _ _ _, h => own_execAdcCheckRetire _ _ _ h rfl rfl
  | .adcCheckRestore _ _ _, h => own_execAdcCheckRestore _ _ _ h rfl rfl
  | .adcCheckClear _ _ _, h => own_execAdcCheckClear _ _ _ h rfl rfl
  | .dtsRefSet _ _, h => own_of_request rfl (own_hDtsRefSet _ _) h
  | .timeSetImmediate _ _ _, h => own_execTimeSetImmediate _ _ _ h rfl
  | .timeSetNextPps _ _ _, h => own_execTimeSetNextPps _ _ _ h rfl
  | .timeSetChainSync _ _ _, h => own_execTimeSetChainSync _ _ _ h rfl
  | .timeLoadTimeout, h => own_execTimeLoadTimeout h | .timeGet _ _, h => own_of_request rfl (own_hTimeGet _ _) h
  | .tbSelect _ _, h => own_of_request rfl (own_hTbSelect _ _ rfl) h
  | .tdcCfg _ _, h => own_of_request rfl (own_hTdcCfg _ _ rfl) h
  | .tdcRead _ _, h => own_of_request rfl (own_hTdcRead _ _) h | .streamCfg _ _, h => own_execStreamCfg _ _ h rfl rfl
  | .streamTrain _ _, h => own_of_request rfl (own_hStreamTrain _ _) h
  | .dmaKickStart _ _ _, h => own_execDmaKickStart _ _ _ h rfl
  | .dmaKickResume _ _, h => own_execDmaKickResume _ _ h rfl
  | .dmaAbort _ _, h => own_of_request rfl (own_hDmaAbort _ _) h | .dmaAbortDone _, h => own_execDmaAbortDone _ h
  | .dmaStatus _ _, h => own_of_request rfl (own_hDmaStatus _ _) h | .memRead _ _, h => own_execMemRead _ _ h rfl
  | .memReadDone _ _, h => own_execMemReadDone _ _ h rfl | .memWrite _ _, h => own_of_request rfl (own_hMemWrite _ _) h
  | .memFill _ _, h => own_of_request rfl (own_hMemFill _ _) h | .memFillDone _, h => own_execMemFillDone _ h
  | .memInitWrite _ _, h => own_execMemInitWrite _ _ h rfl rfl
  | .memPlanWrite _ _, h => own_execMemPlanWrite _ _ h rfl rfl
  | .calRun _ _, h => own_of_request rfl (own_hCalRun _ _) h | .calRunDone, h => own_execCalRunDone h
  | .calRead _ _, h => own_of_request rfl (own_hCalRead _ _) h
  | .calWrite _ _, h => own_of_request rfl (own_hCalWrite _ _) h
  | .calQuality _ _, h => own_of_request rfl (own_hCalQuality _ _) h
  | .healthRead _ _, h => own_of_request rfl (own_hHealthRead _ _) h
  | .logRead _ _, h => own_of_request rfl (own_hLogRead _ _) h
  | .logClear _ _, h => own_of_request rfl (own_hLogClear _ _) h | .logClearDone, h => own_execLogClearDone h rfl
  | .updateBegin _ _, h => own_of_request rfl (own_hUpdateBegin _ _) h
  | .updateBeginDone, h => own_execUpdateBeginDone h rfl
  | .updateChunk _ _, h => own_of_request rfl (own_hUpdateChunk _ _) h
  | .updateChunkStored, h => own_execUpdateChunkStored h
  | .updateEnd _ _, h => own_of_request rfl (own_hUpdateEnd _ _) h | .updateEndDone, h => own_execUpdateEndDone h rfl
  | .updateActivateTrial _ _, h => own_execUpdateActivateTrial _ _ h rfl rfl
  | .updateActivateConfirm _ _, h => own_execUpdateActivateConfirm _ _ h rfl rfl
  | .updateActivateReject _ _, h => own_execUpdateActivateReject _ _ h rfl rfl
  | .trialTimerExpiry, h => own_execTrialTimerExpiry h rfl
  | .standbyEnter _ _, h => own_of_request rfl (own_hStandbyEnter _ _ ⟨rfl, rfl, rfl, rfl, .inr rfl⟩ rfl rfl rfl) h
  | .standbyPowerDown, h => own_execStandbyPowerDown h ⟨rfl, rfl, rfl, rfl, rfl, rfl, rfl, rfl, rfl, rfl, rfl, rfl⟩
  | .lifetimeRead _ _, h => own_of_request rfl (own_hLifetimeRead _ _) h
  | .pllCfgIcpWrite _ _, h => own_execPllCfgIcpWrite _ _ h rfl
  | .pllDividerChange _ _, h => own_execPllDividerChange _ _ h rfl | .pllChangeTimeout, h => own_execPllChangeTimeout h
  | .uartCfgWrite _ _, h => own_execUartCfgWrite _ _ h rfl rfl
  | .evtMaskWrite _ _ _, h => own_execEvtMaskWrite _ _ _ h rfl rfl
  | .vaonPowerOn, h => own_execVaonPowerOn h rfl rfl rfl | .vaonGood, h => own_execVaonGood h rfl
  | .railsGood, h => own_execRailsGood h rfl | .porRelease, h => own_execPorRelease h rfl
  | .refChoice _ _, h => own_execRefChoice _ _ h rfl | .pllLockDeclared, h => own_execPllLockDeclared h rfl
  | .cantleBootVerifyDone _ _, h => own_execCantleBootVerifyDone _ _ h rfl
  | .dramTrainingDone _ _, h => own_execDramTrainingDone _ _ h rfl rfl rfl rfl rfl
  | .calStepDone _, h => own_execCalStepDone _ h rfl rfl | .calStepTimeout _, h => own_execCalStepTimeout _ h rfl rfl
  | .resetNLow _, h => own_execResetNLow _ h ⟨rfl, rfl, rfl, rfl, rfl, rfl, rfl, rfl, rfl, rfl, rfl, rfl⟩ rfl
  | .resetNRise, h => own_execResetNRise h rfl
  | .brownout _, h => own_execBrownout _ h ⟨rfl, rfl, rfl, rfl, rfl, rfl, rfl, rfl, rfl, rfl, rfl, rfl⟩ rfl
  | .wakePinEdge _, h => own_execWakePinEdge _ h rfl | .wakeTimerExpiry, h => own_execWakeTimerExpiry h rfl
  | .standbyWake, h => own_execStandbyWake h rfl
  | .laserEnFall _, h => own_execLaserEnFall _ h ⟨rfl, rfl, rfl, rfl, .inr rfl⟩ rfl rfl rfl
  | .laserEnRise, h => own_execLaserEnRise h rfl
  | .pllPhaseErrorLoss, h => own_execPllPhaseErrorLoss h ⟨rfl, rfl, rfl, rfl, .inr rfl⟩ rfl rfl
  | .pllRefEdgesMissing, h => own_execPllRefEdgesMissing h ⟨rfl, rfl, rfl, rfl, .inr rfl⟩ rfl rfl
  | .pllRefPresent, h => own_execPllRefPresent h | .pllRelockTimeout, h => own_execPllRelockTimeout h
  | .syncInEdge, h => own_execSyncInEdge h | .syncApply _, h => own_execSyncApply _ h
  | .ppsEdge _, h => own_execPpsEdge _ h | .ppsAbsentTimeout, h => own_execPpsAbsentTimeout h
  | .ref10Present, h => own_execRef10Present h | .ref10Absent, h => own_execRef10Absent h
  | .ref10GateEnd _, h => own_execRef10GateEnd _ h | .timeBaseSecond, h => own_execTimeBaseSecond h
  | .ageingDay, h => own_execAgeingDay h | .tinEdge _ _, h => own_execTinEdge _ _ h
  | .awlConversionDone _ _, h => own_execAwlConversionDone _ _ h
  | .awlBackgroundCal _ _, h => own_execAwlBackgroundCal _ _ h | .awlPairTakeover _, h => own_execAwlPairTakeover _ h
  | .xtalFaultCheck _ _, h => own_execXtalFaultCheck _ _ h rfl
  | .harnessCommaReceived _, h => own_execHarnessCommaReceived _ h
  | .harnessLinkLock _, h => own_execHarnessLinkLock _ h | .harnessLinkLoss _, h => own_execHarnessLinkLoss _ h
  | .breakIn, h => own_execBreakIn h rfl | .breakInEnd, h => own_execBreakInEnd h | .requestReceived _, _ => own_none
  | .harnessPacketForward _ _, h => own_execHarnessPacketForward _ _ h
  | .replyPassingUp _, h => own_execReplyPassingUp _ h rfl rfl
  | .armSymbolReceived _ _, h => own_execArmSymbolReceived _ _ h
  | .fireSymbolReceived _ _, h => own_execFireSymbolReceived _ _ h
  | .syncSymbolReceived _ _, h => own_execSyncSymbolReceived _ _ h
  | .timingSymbolDiscard _, h => own_execTimingSymbolDiscard _ h | .uartPacketReceived _, _ => own_none
  | .uartGapTimeout, h => own_execUartGapTimeout h | .uartFramingError, h => own_execUartFramingError h
  | .shotGroupBoundary _, h => own_execShotGroupBoundary _ h ⟨rfl, rfl, rfl, rfl, .inr rfl⟩ rfl rfl
  | .launchGroupLaunch _, h => own_execLaunchGroupLaunch _ h rfl | .launchEdge _, h => own_execLaunchEdge _ h
  | .launchMissing _, h => own_execLaunchMissing _ h
  | .gateLoadFault _ _, h => own_execGateLoadFault _ _ h ⟨rfl, rfl, rfl, rfl, .inr rfl⟩ rfl rfl
  | .gatePulseEnd _ _ _, h => own_execGatePulseEnd _ _ _ h rfl | .proofPulse _, h => own_execProofPulse _ h rfl
  | .wavelockAcquired _, h => own_execWavelockAcquired _ h | .wavelockLost _, h => own_execWavelockLost _ h
  | .lbiasLimitReached _ _, h => own_execLbiasLimitReached _ _ h
  | .tecLimitReached _ _, h => own_execTecLimitReached _ _ h
  | .dacFault _ _, h => own_execDacFault _ _ h ⟨rfl, rfl, rfl, rfl, .inr rfl⟩ rfl rfl
  | .thermalParkingDone _ _, h => own_execThermalParkingDone _ _ h
  | .routeBlankingStart _, h => own_execRouteBlankingStart _ h ⟨rfl, rfl, rfl, rfl, .inr rfl⟩ rfl rfl
  | .switchStrobe _, h => own_execSwitchStrobe _ h
  | .routeBlankingEnd _, h => own_execRouteBlankingEnd _ h ⟨rfl, rfl, rfl, rfl, .inr rfl⟩ rfl rfl
  | .settlePeriodEnd _ _, h => own_execSettlePeriodEnd _ _ h
  | .aprActivation _, h => own_execAprActivation _ h ⟨rfl, rfl, rfl, rfl, .inr rfl⟩ rfl rfl rfl
  | .currierShotOutput _ _, h => own_execCurrierShotOutput _ _ h | .girthEvaluation, h => own_execGirthEvaluation h
  | .holdoffElapsed _, h => own_execHoldoffElapsed _ h | .autoTimeout _, h => own_execAutoTimeout _ h
  | .envelopeIntervalEnd _, h => own_execEnvelopeIntervalEnd _ h | .deltaTraceForm _, h => own_execDeltaTraceForm _ h
  | .digestPeriod _, h => own_execDigestPeriod _ h | .overrangeBurst _ _, h => own_execOverrangeBurst _ _ h
  | .shadowDwellEnd _, h => own_execShadowDwellEnd _ h
  | .backgroundSliceTrim _ _ _, h => own_execBackgroundSliceTrim _ _ _ h | .sliceSwap _, h => own_execSliceSwap _ h
  | .backgroundRamanOffset _ _, h => own_execBackgroundRamanOffset _ _ h
  | .calDriftCheck _, h => own_execCalDriftCheck _ h | .ramanShot _ _, h => own_execRamanShot _ _ h
  | .accumulationComplete _, h => own_execAccumulationComplete _ h
  | .thermalComputationDone _, h => own_execThermalComputationDone _ h
  | .auxSettleDelayEnd, h => own_execAuxSettleDelayEnd h | .auxConversionEnd _, h => own_execAuxConversionEnd _ h
  | .auxTimerTrigger, h => own_execAuxTimerTrigger h | .latFcLock, h => own_execLatFcLock h
  | .latFcLoss, h => own_execLatFcLoss h | .latFcTrainingStatus _, h => own_execLatFcTrainingStatus _ h
  | .streamTrainingTimeout, h => own_execStreamTrainingTimeout h | .creditGrant _, h => own_execCreditGrant _ h
  | .creditStallTimeout, h => own_execCreditStallTimeout h | .frameSend, h => own_execFrameSend h
  | .idleFrameTimeout, h => own_execIdleFrameTimeout h | .statusFrameTimer, h => own_execStatusFrameTimer h
  | .dropFrameTimer, h => own_execDropFrameTimer h | .dramRefreshDue, h => own_execDramRefreshDue h
  | .zqCalibrationDue, h => own_execZqCalibrationDue h | .dqsTrackingDue, h => own_execDqsTrackingDue h
  | .dramPanicBegin _ _, h => own_execDramPanicBegin _ _ h | .dramPanicEnd _ _, h => own_execDramPanicEnd _ _ h
  | .dramLongPanic, h => own_execDramLongPanic h | .bulkTimeout _ _ _, h => own_execBulkTimeout _ _ _ h
  | .selfRefreshEntry, h => own_execSelfRefreshEntry h | .patrolScrub _, h => own_execPatrolScrub _ h
  | .dmaBurst _, h => own_execDmaBurst _ h | .dmaDescriptorFetchDone _ _, h => own_execDmaDescriptorFetchDone _ _ h
  | .dmaDescriptorEnd _ _, h => own_execDmaDescriptorEnd _ _ h
  | .monitorSample _ _, h => own_execMonitorSample _ _ h ⟨rfl, rfl, rfl, rfl, .inr rfl⟩ rfl rfl rfl
  | .processMonitorSample _, h => own_execProcessMonitorSample _ h
  | .overtempTrip _, h => own_execOvertempTrip _ h ⟨rfl, rfl, rfl, rfl, .inr rfl⟩ rfl rfl rfl
  | .clampDetection _ _, h => own_execClampDetection _ _ h | .surgeRecordClose, h => own_execSurgeRecordClose h
  | .selftestStart, h => own_execSelftestStart h | .currierTileTestSlotEnd _, h => own_execCurrierTileTestSlotEnd _ h
  | .selftestDone _, h => own_execSelftestDone _ h | .cantleWatchdogExpiry, h => own_execCantleWatchdogExpiry h rfl rfl
  | .mramWriteTimeout, h => own_execMramWriteTimeout h rfl rfl
  | .cantleRestartDone, h => own_execCantleRestartDone h rfl | .bridleHangCheck _, h => own_execBridleHangCheck _ h rfl
  | .healthDigestForm, h => own_execHealthDigestForm h | .healthDigestEventTimer, h => own_execHealthDigestEventTimer h
  | .lifetimeUpdate, h => own_execLifetimeUpdate h | .equivHoursMinute, h => own_execEquivHoursMinute h
  | .mramScrub _ _ _ _, h => own_execMramScrub _ _ _ _ h rfl | .logEntryWrite, h => own_execLogEntryWrite h
  | .vaonLoss, h => own_execVaonLoss h ⟨rfl, rfl, rfl, rfl, rfl, rfl, rfl, rfl, rfl, rfl, rfl, rfl⟩ rfl rfl

/-! ### The live copy and the draft copy -/

/-- The live copy stands, or is the draft copy as it stands. -/
def Coupled (s t : State) : Prop := t.live = s.live ∨ t.live = t.draft

theorem Own.draft (h : Own K org s) (k : K.draft = true) : s.draft = org.draft := by
  obtain ⟨_, _, h3, _⟩ := h
  exact h3 k

theorem Own.live (h : Own K org s) (k : K.live = true) : s.live = org.live := h.1 k

/-- Where the draft copy stands, the live copy stands or is it. -/
theorem coupled_of_draft (h : Own { liveOr := true, draft := true } org s) : Coupled org s := by
  obtain ⟨_, h2, h3, _⟩ := h
  exact (h2 rfl).imp_right fun x => x.trans (h3 rfl).symm

theorem coupled_of_live (h : Own { live := true } org s) : Coupled org s := .inl (h.1 rfl)

/-- What equal copies were made of leaves them equal. -/
theorem coupled_of_same (h : Own { live := true, draft := true } org s) (ho : org.live = org.draft) : s.live = s.draft := by
  rw [h.live rfl, h.draft rfl, ho]

theorem applies_draft : Applies { liveOr := true, draft := true } := ⟨rfl, rfl, rfl, rfl, .inr rfl⟩

theorem own_hParamSet_live (o : Origin) (p : List Word) : HandlerOwn { live := true } org hParamSet o p :=
  own_hParamSet o p fun _ _ => takes_all rfl rfl rfl rfl rfl _

/-- A request leaves the live copy, or applies a commit and leaves the draft copy. -/
theorem handlerOf_coupled {op : Nat} {x : Handler} (o : Origin) (p : List Word) (hx : handlerOf op = some x) :
    HandlerOwn { live := true } org x o p ∨ HandlerOwn { liveOr := true, draft := true } org x o p := by
  unfold handlerOf handlerLow handlerHigh at hx
  split at hx <;> split at hx <;> cases hx
  all_goals simp [applies_draft, own_hParamSet_live]

theorem respond_coupled (o : Origin) (k : Packet) (hl : Own { live := true } org s)
    (hd : Own { liveOr := true, draft := true } org s) :
    Own { live := true } org (respond o k s).2 ∨ Own { liveOr := true, draft := true } org (respond o k s).2 := by
  unfold respond
  dsimp only
  split
  · exact .inl (own_answerNone _ _ hl)
  · split
    next x hx =>
      exact (handlerOf_coupled o k.payload hx).imp (fun hh => own_answer _ _ _ _ hl hh rfl) fun hh => own_answer _ _ _ _ hd hh rfl
    · split <;> exact .inl (own_refuse _ _ _ hl)

theorem serveRequest_coupled (o : Origin) (k : Packet) (hl : Own { live := true } org s)
    (hd : Own { liveOr := true, draft := true } org s) : Coupled org (serveRequest o k s) := by
  unfold serveRequest
  split
  · exact coupled_of_live (own_sendReply _ _ _ _ (own_againDue _ _ _ hl))
  · rcases respond_coupled o k hl hd with h | h
    · exact coupled_of_live (own_sendReply _ _ _ _ (own_store _ _ h))
    · exact coupled_of_draft (own_sendReply _ _ _ _ (own_store _ _ h))

theorem requestReceived_coupled {k : Packet} (h : exec (.requestReceived k) s = .next nxt) : Coupled s nxt := by
  cases h
  split
  · exact .inl rfl
  · split
    · exact serveRequest_coupled _ _ (own_arrived _ (own_refl _ _)) (own_arrived _ (own_refl _ _))
    · exact coupled_of_live (by simp (maxDischargeDepth := 40) [own_refl])

theorem uartPacketReceived_coupled {raw : List Byte} (h : exec (.uartPacketReceived raw) s = .next nxt) : Coupled s nxt := by
  cases h
  split
  · exact .inl rfl
  · split
    · exact serveRequest_coupled _ _ (own_refl _ _) (own_refl _ _)
    · exact coupled_of_live (by simp (maxDischargeDepth := 40) [own_refl])

/-- A Tack set that is judged enters the draft copy; then the live copy is it, or stands. -/
theorem commitValidationDone_coupled (h : exec .commitValidationDone s = .next nxt) : Coupled s nxt := by
  cases h
  split
  · exact coupled_of_draft (own_judgeDraft _ (own_refl _ _) applies_draft)
  · dsimp only
    split
    · exact coupled_of_draft (org := { s with draft := (s.tacks.sets.getD _ TackSet.empty).cfg })
        (own_judgeDraft _ (own_refl _ _) applies_draft)
    · exact coupled_of_live (by simp (maxDischargeDepth := 40) [own_refl])
  · exact .inl rfl

theorem resetDomains_same (s : State) : (resetDomains s).live = (resetDomains s).draft := rfl

theorem loadSet_same (n : Nat) (s : State) : (loadSet n s).live = (loadSet n s).draft := by
  unfold loadSet
  exact coupled_of_same (own_loadSnapshot _ (own_refl _ _)) rfl

theorem atReady_same {f : State → State} (hf : ∀ s, (f s).live = (f s).draft) (s : State) :
    (atReady f s).live = (atReady f s).draft := hf _

theorem loadStrapped_same (s : State) : (loadStrapped s).live = (loadStrapped s).draft := by
  unfold loadStrapped
  extract_lets n s1 x s2
  have h2 : Own { live := true, draft := true } s1 s2 := own_ite (own_refl _ _) (own_queueStart _ _ (own_refl _ _) rfl)
  split
  · exact atReady_same (loadSet_same n) s1
  · split
    · exact atReady_same (loadSet_same 0) s2
    · exact coupled_of_same (own_queueStart _ _ (own_tacks h2 (fun k => nomatch k) fun k => nomatch k) rfl) rfl

theorem dramTrainingDone_coupled {f : Option (Nat × Nat)} {g : Nat} (h : exec (.dramTrainingDone f g) s = .next nxt) :
    Coupled s nxt := by
  cases h
  split
  · exact .inl rfl
  · exact .inr (loadStrapped_same _)

theorem standbyPowerDown_coupled (h : exec .standbyPowerDown s = .next nxt) : Coupled s nxt := by
  cases h
  split
  · exact .inl rfl
  · split
    · exact .inl rfl
    · exact .inr rfl

theorem vaonLoss_coupled (h : exec .vaonLoss s = .next nxt) : Coupled s nxt := by
  cases h
  exact .inr rfl

theorem startUp_same (d : DevState) (e n : Nat) {t : State} (ht : t.live = t.draft) :
    (startUp d e n t).live = (startUp d e n t).draft :=
  coupled_of_same (own_startUp d e n (own_refl _ t) rfl) ht

theorem resetPin_coupled (s : State) : Coupled s (resetPin s) := by
  unfold resetPin
  extract_lets s1
  split
  · exact coupled_of_live (own_wakeSource _ (own_setPwr _ (own_refl _ s) (by simp) (by simp) rfl) rfl)
  · split
    · exact .inr (startUp_same _ _ _ rfl)
    · exact .inl rfl

theorem resetNLow_coupled {w : Nat} (h : exec (.resetNLow w) s = .next nxt) : Coupled s nxt := by
  cases h
  split
  · exact .inl rfl
  · split
    · exact resetPin_coupled s
    · split
      · exact resetPin_coupled _
      · exact .inl rfl

theorem brownout_coupled {m : Nat} (h : exec (.brownout m) s = .next nxt) : Coupled s nxt := by
  cases h
  split
  · exact .inl rfl
  · exact .inr (startUp_same .railsWait evBrownout m (t := loseAddress (resetDomains s)) rfl)

theorem hardReset_same (s : State) : (hardReset2 s).live = (hardReset2 s).draft ∧ (hardReset3 s).live = (hardReset3 s).draft := by
  refine ⟨?_, startUp_same .offTime evResetCmd 3 (t := loseAddress (resetDomains s)) rfl⟩
  exact coupled_of_same (own_sampleStraps _ (own_refl _ _) rfl) (startUp_same _ _ _ rfl)

theorem resetStart_coupled (h : exec .resetStart s = .next nxt) : Coupled s nxt := by
  cases h
  split
  · exact .inl rfl
  · split
    · exact .inl rfl
    · split
      · exact .inr (hardReset_same s).2
      · exact .inr (hardReset_same s).1

/-- Every command leaves the live copy, or makes it the draft copy as it stands. -/
theorem exec_coupled {c : Instr} {s t : State} (h : exec c s = .next t) : Coupled s t := by
  have ho := exec_own c h
  by_cases hd : (tracked c).draft = true
  · refine coupled_of_draft (org := s) ?_
    obtain ⟨_, h2, h3, _⟩ := ho
    have hl : (tracked c).liveOr = true := hd
    exact ⟨nofun, fun _ => h2 hl, fun _ => h3 hd, nofun, nofun, nofun, nofun, nofun, nofun, nofun, nofun, nofun, nofun, nofun, nofun, nofun⟩
  · by_cases hl : (tracked c).live = true
    · exact .inl (ho.live hl)
    · cases c
      case requestReceived k => exact requestReceived_coupled h
      case uartPacketReceived raw => exact uartPacketReceived_coupled h
      case commitValidationDone => exact commitValidationDone_coupled h
      case dramTrainingDone f g => exact dramTrainingDone_coupled h
      case vaonLoss => exact vaonLoss_coupled h
      case resetNLow w => exact resetNLow_coupled h
      case brownout m => exact brownout_coupled h
      case resetStart => exact resetStart_coupled h
      case standbyPowerDown => exact standbyPowerDown_coupled h
      all_goals first | exact absurd rfl hd | exact absurd rfl hl

/-- Settles O3: a command leaves what `tracked` says of it, and couples the live copy to the draft copy. -/
theorem ownersOfState : Obligations.OwnersOfState := by
  intro c s t h
  have hlive := exec_coupled h
  obtain ⟨_, _, hdraft, hrw, hnv, hsets, haddress, hscratch, _⟩ := exec_own c h
  refine ⟨(exec_keeps c h).pending, hlive, ?_, ?_, ?_, ?_, ?_, ?_⟩
  · cases c <;> first | trivial | exact hnv rfl
  · cases c <;> first | trivial | exact hrw rfl
  · cases c <;> first | trivial | exact hdraft rfl
  · cases c <;> first | trivial | exact hsets rfl
  · cases c <;> first | trivial | exact haddress rfl
  · cases c <;> first | trivial | exact hscratch rfl

end Sys2Proof.Machine
end

section
/-!
SUPPORT. A DAC fault ends a proof pulse that waits (Table 07-10).
-/
namespace Sys2Proof.Machine

-- one theorem after the other: the threads of many at once need more memory than the check has
set_option Elab.async false

/-- A unit whose side A does not emit, with a slot that a proof pulse of that side holds. -/
def proofWaits : State :=
  { State.reset with brg := { State.reset.brg with slots := State.reset.brg.slots.set 0 (.running (.proof .a)) } }

/-- A DAC fault fails that slot, with its event. -/
theorem dacFault_proofWaits {t : State} (h : exec (.dacFault .a false) proofWaits = .next t) : t.evq.q.length = 2 := by
  have ht : (match exec (.dacFault .a false) proofWaits with | .next x => x.evq.q.length | _ => 0) = 2 := by decide +kernel
  rwa [h] at ht

/-- Refutes O48: emission is off and nothing is acquired, yet a slot that waits for its proof pulse ends with the DAC fault, and
EV_CMD_DONE stands in the queue beside EV_DAC_FAULT. -/
theorem not_lightStopsOnFaults : ¬ Obligations.LightStopsOnFaults := by
  intro h
  obtain ⟨_, _, hdac⟩ := h .a proofWaits
  obtain ⟨t, ht, _, _, _, hq⟩ := hdac false
  have hone := congrArg List.length (hq rfl rfl)
  rw [dacFault_proofWaits ht] at hone
  exact absurd hone (by decide +kernel)

end Sys2Proof.Machine
end

section
/-!
SUPPORT. Light off and acquisition over, on a side and on both (Table 07-10).
-/
namespace Sys2Proof.Machine

-- one theorem after the other: the threads of many at once need more memory than the check has
set_option Elab.async false

variable {K : Track} {org s t : State} {d e : Side}

theorem Own.lightOf (h : Own K org s) (k : K.light = true) (d : Side) :
    Machine.lightOf (s.lash.get d) = Machine.lightOf (org.lash.get d) := by
  obtain ⟨_, _, _, _, _, _, _, _, _, _, hl, _⟩ := h
  cases d
  · exact (hl k).1
  · exact (hl k).2

theorem Own.enabled (h : Own K org s) (k : K.light = true) (d : Side) : (s.lash.get d).enabled = (org.lash.get d).enabled :=
  congrArg Prod.fst (h.lightOf k d)

theorem Own.acq (h : Own K org s) (k : K.acq = true) (d : Side) : acquiring s d = acquiring org d := by
  obtain ⟨_, _, _, _, _, _, _, _, _, _, _, ha, _⟩ := h
  cases d
  · exact (ha k).1
  · exact (ha k).2

theorem Own.dark (h : Own K org s) (k : K.dark = true) (d : Side) (hd : acquiring org d = false) : acquiring s d = false := by
  obtain ⟨_, _, _, _, _, _, _, _, _, _, _, _, ha, _⟩ := h
  cases d
  · exact (ha k).1 hd
  · exact (ha k).2 hd

theorem Own.pwr (h : Own K org s) (k : K.pwr = true) : s.pwr = org.pwr := by
  obtain ⟨_, _, _, _, _, _, _, _, _, _, _, _, _, _, hp, _⟩ := h
  exact hp k

/-- A side with its emission just ended: nothing is posted or told yet. -/
def emissionEnded (d : Side) (cause : Nat) (s : State) : State :=
  setLash d (fun l => { l with enabled := false, proofDue := false }) (abandonProof d (if cause = 0 then s else cutPulse d s))

theorem own_emitOff_ended (d : Side) (cause : Nat) (s : State) :
    Own { light := true, acq := true, pwr := true } (emissionEnded d cause s) (emitOff d cause s) := by
  unfold emitOff
  extract_lets s1 s2
  have h1 : Own { light := true, acq := true, pwr := true } (emissionEnded d cause s) s2 := own_postIf _ _ _ (own_refl _ _)
  exact own_ite h1 (own_proofDone _ h1)

theorem emissionEnded_enabled (d : Side) (cause : Nat) (s : State) : ((emissionEnded d cause s).lash.get d).enabled = false := by
  simp [emissionEnded]

theorem emissionEnded_other (cause : Nat) (s : State) (he : e ≠ d) : (emissionEnded d cause s).lash.get e = s.lash.get e := by
  unfold emissionEnded abandonProof cutPulse
  split <;> simp [he]

theorem emitOff_enabled (d : Side) (cause : Nat) (s : State) : ((emitOff d cause s).lash.get d).enabled = false := by
  rw [(own_emitOff_ended d cause s).enabled rfl, emissionEnded_enabled]

theorem emitOff_other (cause : Nat) (s : State) (he : e ≠ d) :
    ((emitOff d cause s).lash.get e).enabled = (s.lash.get e).enabled := by
  rw [(own_emitOff_ended d cause s).enabled rfl, emissionEnded_other cause s he]

theorem emitOff_acquiring (d : Side) (cause : Nat) (s : State) (e : Side) : acquiring (emitOff d cause s) e = acquiring s e :=
  (own_emitOff d cause (K := { acq := true }) (own_refl _ s) rfl).acq rfl e

/-- A side stops acquiring at the end of its acquisition. -/
theorem endAcq_stops (d : Side) (cause : Nat) (s : State) : acquiring (endAcq d cause s) d = false := by
  unfold endAcq
  split
  next h => simpa using h
  next =>
    extract_lets s1 s2 s3
    have h2 : acquiring s2 d = false := by simp [s2, acquiring]
    clear_value s2
    have h3 : Own { acq := true } s2 s3 := own_discardSide _ (own_setTherm _ _ (own_takeCommit _ (own_refl _ _) (by constructor <;> simp)))
    have h4 := own_startProof d (own_fixLane (own_takeIdle d (own_clearOverload (own_applySide d h3)))) (by simp)
    exact (h4.acq rfl d).trans h2

/-- Where a side is off, the end of an acquisition of it leaves what the emitters have of light. -/
theorem own_endAcq_off (d : Side) (cause : Nat) (s : State) (hd : (s.lash.get d).enabled = false) :
    Own { light := true, dark := true, pwr := true } s (endAcq d cause s) :=
  own_endAcq d cause (own_refl _ _) (by constructor <;> simp) rfl fun _ => hd

/-- A side is off and acquires nothing; the other is no more lit than before. -/
structure Darkened (d : Side) (s t : State) : Prop where
  off   : (t.lash.get d).enabled = false
  stops : acquiring t d = false
  other : ∀ e, (s.lash.get e).enabled = false → acquiring s e = false → (t.lash.get e).enabled = false ∧ acquiring t e = false

theorem darkened_end (d : Side) (emit acq : Nat) (s : State) : Darkened d s (endAcq d acq (emitOff d emit s)) := by
  have h := own_endAcq_off d acq (emitOff d emit s) (emitOff_enabled d emit s)
  refine ⟨(h.enabled rfl d).trans (emitOff_enabled d emit s), endAcq_stops _ _ _, fun e he ha => ⟨?_, ?_⟩⟩
  · rw [h.enabled rfl e]
    by_cases hd : e = d
    · rw [hd, emitOff_enabled]
    · rw [emitOff_other emit s hd, he]
  · exact h.dark rfl e ((emitOff_acquiring d emit s e).trans ha)

theorem bothSides_dark (emit acq : Nat) (s : State) (d : Side) :
    ((bothSides (fun d s => endAcq d acq (emitOff d emit s)) s).lash.get d).enabled = false ∧
      acquiring (bothSides (fun d s => endAcq d acq (emitOff d emit s)) s) d = false := by
  have ha := darkened_end .a emit acq s
  have hb := darkened_end .b emit acq (endAcq .a acq (emitOff .a emit s))
  cases d
  · exact hb.other .a ha.off ha.stops
  · exact ⟨hb.off, hb.stops⟩

/-- All light is off, and no side acquires. -/
theorem allDark_dark (emit acq : Nat) (s : State) (d : Side) :
    ((allDark emit acq s).lash.get d).enabled = false ∧ acquiring (allDark emit acq s) d = false :=
  bothSides_dark emit acq _ d

theorem allDark_pwr (emit acq : Nat) (s : State) : (allDark emit acq s).pwr = s.pwr := by
  have h : Own { pwr := true } s (allDark emit acq s) := own_allDark _ _ (own_refl _ _) (by constructor <;> simp) rfl rfl
  exact h.pwr rfl

/-- The bias of a side at 0 V, and its lock OFF. -/
def biasOff (d : Side) (s : State) : State := setLash d (fun l => { l with wl := .off, lbias := 0, trigEnd := 0 }) s

theorem biasOff_dark (s : State) (hs : (s.lash.get d).enabled = false ∧ acquiring s d = false) :
    ((bothSides biasOff s).lash.get d).enabled = false ∧ acquiring (bothSides biasOff s) d = false ∧
      ((bothSides biasOff s).lash.get d).wl = .off ∧ ((bothSides biasOff s).lash.get d).lbias = 0 := by
  obtain ⟨he, ha⟩ := hs
  cases d
  · exact ⟨he, ha, rfl, rfl⟩
  · exact ⟨he, ha, rfl, rfl⟩

theorem laserEnFall_low {w : Nat} (hw : 50 ≤ w) (hl : s.pwr.laserEn = true) (ha : answers s = true) :
    exec (.laserEnFall w) s = .next (bothSides biasOff
      (allDark 1 1 (post evLaserInterlock 0 { s with pwr := { s.pwr with laserEn := false } }))) := by
  have hx : ¬ (!answers { s with pwr := { s.pwr with laserEn := false } }) = true := by
    rw [show answers { s with pwr := { s.pwr with laserEn := false } } = answers s from rfl, ha]
    simp
  exact congrArg Host.Outcome.next ((if_neg (by simp [hl]; omega)).trans (if_neg hx))

/-- Settles O47: both sides end emission, then acquisition; the end of the second one lights nothing of the first. -/
theorem laserInterlock : Obligations.LaserInterlock := by
  intro s
  refine ⟨fun w hw hl ha => ⟨_, laserEnFall_low hw hl ha, ?_, fun d => biasOff_dark _ (allDark_dark _ _ _ d)⟩,
    fun w hw => congrArg Host.Outcome.next (if_pos (by simp [hw])),
    fun hl ha => congrArg Host.Outcome.next ((if_neg (by simp [hl])).trans (if_pos ha))⟩
  rw [show ∀ x : State, (bothSides biasOff x).pwr = x.pwr from fun _ => rfl, allDark_pwr]
  rfl

end Sys2Proof.Machine
end

section
/-!
SUPPORT. `Far`: what the end of an acquisition, a commit that comes into force with it and the end of a calibration leave as it
was: everything outside the acquisition path. `live` and `brg` name the parts that only some of them leave.
-/
namespace Sys2Proof.Machine

-- one theorem after the other: the threads of many at once need more memory than the check has
set_option Elab.async false

/-- `Far` over the parts of the state that it looks at. -/
def FarParts (live brg : Bool) (org : State) (pwr : Power) (pll : Pll) (harn : Harness) (b : Bridle) (l draft : Cfg) (rw nv : Store)
    (tacks : Tacks) (dump : Option Dump) (tb : TimeBase) (awl : List AwlInput) (tiles : BitVec 64) (usable : Bool)
    (fill : Option (Nat × Nat × Word)) (dma : Dma) (phase : Nat) (cantle : BitVec 4) (can : Cantle) (drawn : Nat) : Prop :=
  (brg = true → b = org.brg) ∧ (live = true → l = org.live ∧ tacks = org.tacks) ∧ pwr = org.pwr ∧ pll = org.pll ∧
  harn = org.harn ∧ draft = org.draft ∧ rw = org.rw ∧ nv = org.nv ∧ dump = org.girth.dump ∧ tb = org.tb ∧ awl = org.awl ∧
  tiles = org.tiles ∧ usable = org.mem.usable ∧ fill = org.mem.fill ∧ dma = org.dma ∧ phase = org.cal.phase ∧
  cantle = org.cal.cantle ∧ can = org.can ∧ drawn = org.drawn

/-- A state reached from another has what lies outside the acquisition path as it was there. -/
def Far (live brg : Bool) (org s : State) : Prop :=
  FarParts live brg org s.pwr s.pll s.harn s.brg s.live s.draft s.rw s.nv s.tacks s.girth.dump s.tb s.awl s.tiles s.mem.usable
    s.mem.fill s.dma s.cal.phase s.cal.cantle s.can s.drawn

variable {live brg : Bool} {org s : State}

theorem far_refl (live brg : Bool) (org : State) : Far live brg org org := by simp [Far, FarParts]

@[simp] theorem far_mk {pwr pll harn b evq l draft rw nv tacks lash recv cur zones base therm girth tb awl aux strm tiles mem dma
    cal can drawn pending} :
    Far live brg org (State.mk pwr pll harn b evq l draft rw nv tacks lash recv cur zones base therm girth tb awl aux strm tiles
      mem dma cal can drawn pending) ↔
    FarParts live brg org pwr pll harn b l draft rw nv tacks girth.dump tb awl tiles mem.usable mem.fill dma cal.phase
      cal.cantle can drawn := ⟨id, id⟩

@[simp] theorem farParts_fold :
    FarParts live brg org s.pwr s.pll s.harn s.brg s.live s.draft s.rw s.nv s.tacks s.girth.dump s.tb s.awl s.tiles s.mem.usable
      s.mem.fill s.dma s.cal.phase s.cal.cantle s.can s.drawn ↔ Far live brg org s := ⟨id, id⟩

@[simp ↓] theorem far_ite {c : Prop} [Decidable c] {a b : State} (ha : Far live brg org a) (hb : Far live brg org b) :
    Far live brg org (if c then a else b) := by split <;> assumption

@[simp ↓] theorem far_foldl {α : Type} (f : State → α → State) (l : List α) (h : Far live brg org s)
    (hf : ∀ s x, Far live brg org s → Far live brg org (f s x)) : Far live brg org (l.foldl f s) := by
  induction l generalizing s with
  | nil => exact h
  | cons x l ih => exact ih (hf s x h)

@[simp ↓] theorem far_planes (f : State → State) (h : Far live brg org s) (hf : ∀ s, Far live brg org s → Far live brg org (f s))
    (kBrg : brg = false) : Far live brg org (planes f s) := by
  obtain ⟨_, ht⟩ := hf { s with evq := { s.evq with q := [], logQ := [] } } h
  exact ⟨by simp [kBrg], ht⟩

@[simp ↓] theorem far_brg {b : Bridle} (h : Far live brg org s) (kBrg : brg = false) : Far live brg org { s with brg := b } :=
  ⟨by simp [kBrg], h.2⟩

@[simp ↓] theorem far_bothSides (f : Side → State → State) (h : Far live brg org s)
    (hf : ∀ d x, Far live brg org x → Far live brg org (f d x)) : Far live brg org (bothSides f s) := hf _ _ (hf _ _ h)

@[simp ↓] theorem far_setLash (d : Side) (f : Lash → Lash) (h : Far live brg org s) : Far live brg org (setLash d f s) := h

@[simp ↓] theorem far_setGirth (d : Side) (f : GirthSide → GirthSide) (h : Far live brg org s) :
    Far live brg org (setGirth d f s) := by cases d <;> exact h

@[simp ↓] theorem far_setCur (d : Side) (f : Currier → Currier) (h : Far live brg org s) : Far live brg org (setCur d f s) := h

@[simp ↓] theorem far_setTherm (d : Side) (f : Thermal → Thermal) (h : Far live brg org s) : Far live brg org (setTherm d f s) := h

@[simp ↓] theorem far_setZone (z : Nat) (f : ZoneRun → ZoneRun) (h : Far live brg org s) : Far live brg org (setZone z f s) := h

@[simp ↓] theorem far_setDigZone (z : Nat) (f : List Nat → List Nat) (h : Far live brg org s) :
    Far live brg org (setDigZone z f s) := h

@[simp ↓] theorem far_setLane (n : Nat) (f : Lane → Lane) (h : Far live brg org s) : Far live brg org (setLane n f s) := h

@[simp ↓] theorem far_setRecv (f : Recv → Recv) (h : Far live brg org s) : Far live brg org (setRecv f s) := h

@[simp ↓] theorem far_setBase (r : Nat) (f : Baseline → Baseline) (h : Far live brg org s) : Far live brg org (setBase r f s) := h

@[simp ↓] theorem far_setAux (f : Aux → Aux) (h : Far live brg org s) : Far live brg org (setAux f s) := h

@[simp ↓] theorem far_setStrm (f : Stream → Stream) (h : Far live brg org s) : Far live brg org (setStrm f s) := h

@[simp ↓] theorem far_setCal (g : Nat) (f : CalGroup → CalGroup) (h : Far live brg org s) : Far live brg org (setCal g f s) := h

@[simp ↓] theorem far_setBytes (f : List Host.Cell → List Host.Cell) (h : Far live brg org s) : Far live brg org (setBytes f s) := h

@[simp ↓] theorem far_wakeMem (h : Far live brg org s) : Far live brg org (wakeMem s) := h

@[simp ↓] theorem far_postAt (n d : Nat) (tag : Word) (h : Far live brg org s) : Far live brg org (postAt n d tag s) := h

@[simp ↓] theorem far_finish (r : Res) (st : Nat) (res : List Word) (h : Far live brg org s) (kBrg : brg = false) :
    Far live brg org (finish r st res s) := by
  unfold finish
  split
  · exact ⟨by simp [kBrg], h.2⟩
  · exact h

@[simp ↓] theorem far_passGate (d : Side) (h : Far live brg org s) (kBrg : brg = false) : Far live brg org (passGate d s) := by
  unfold passGate
  split
  · exact ⟨by simp [kBrg], h.2⟩
  · exact h

@[simp ↓] theorem far_commitDone (h : Far live brg org s) (kLive : live = false) (kBrg : brg = false) :
    Far live brg org (commitDone s) := by
  unfold commitDone
  split
  · exact far_finish _ _ _ ⟨by simp [kBrg], by simp [kLive], h.2.2⟩ kBrg
  · exact h

@[simp ↓] theorem far_post (n : Nat) (d : Nat) (h : Far live brg org s) : Far live brg org (post n d s) := by
  unfold post
  simp (maxDischargeDepth := 40) +contextual [h]

@[simp ↓] theorem far_postIf (c : Bool) (n : Nat) (d : Nat) (h : Far live brg org s) : Far live brg org (postIf c n d s) := by
  unfold postIf
  split <;> simp (maxDischargeDepth := 40) +contextual [h]

@[simp ↓] theorem far_dropTrackers (d : Side) (bits : Nat) (h : Far live brg org s) :
    Far live brg org (dropTrackers d bits s) := by
  unfold dropTrackers
  simp (maxDischargeDepth := 40) +contextual [h]

@[simp ↓] theorem far_watchExcl (f : State → State) (h : Far live brg org s) (hf : ∀ (x0 : State), Far live brg org x0 → Far live brg org (f x0)) :
    Far live brg org (watchExcl f s) := by
  unfold watchExcl
  simp (maxDischargeDepth := 40) +contextual [h, hf]

@[simp ↓] theorem far_changeLane (n : Nat) (f : Lane → Lane) (h : Far live brg org s) :
    Far live brg org (changeLane n f s) := by
  unfold changeLane
  simp (maxDischargeDepth := 40) +contextual [h]

@[simp ↓] theorem far_takePols (m : BitVec 4) (h : Far live brg org s) : Far live brg org (takePols m s) := by
  exact h

@[simp ↓] theorem far_freePols (m : BitVec 4) (h : Far live brg org s) : Far live brg org (freePols m s) := by
  exact h

@[simp ↓] theorem far_pairsDue (d : Side) (h : Far live brg org s) : Far live brg org (pairsDue d s) := by
  exact h

@[simp ↓] theorem far_takeIdle (d : Side) (h : Far live brg org s) : Far live brg org (takeIdle d s) := by
  unfold takeIdle
  simp (maxDischargeDepth := 40) +contextual [h]

@[simp ↓] theorem far_restartDwell (h : Far live brg org s) : Far live brg org (restartDwell s) := by
  unfold restartDwell
  simp (maxDischargeDepth := 40) +contextual [h]

@[simp ↓] theorem far_takeSlices (n : Nat) (l : List Nat) (h : Far live brg org s) : Far live brg org (takeSlices n l s) := by
  unfold takeSlices
  simp (maxDischargeDepth := 40) +contextual [h]

@[simp ↓] theorem far_applyRecord (g : Nat) (p : List Word) (h : Far live brg org s) :
    Far live brg org (applyRecord g p s) := by
  unfold applyRecord
  simp (maxDischargeDepth := 40) +contextual [h]

@[simp ↓] theorem far_applyRecords (f : Nat → Bool) (h : Far live brg org s) : Far live brg org (applyRecords f s) := by
  unfold applyRecords
  simp (maxDischargeDepth := 40) +contextual [h]

@[simp ↓] theorem far_moveLane (h : Far live brg org s) : Far live brg org (moveLane s) := by
  exact h

@[simp ↓] theorem far_fixLane (h : Far live brg org s) : Far live brg org (fixLane s) := by
  unfold fixLane
  simp (maxDischargeDepth := 40) +contextual [h]

@[simp ↓] theorem far_setAuxEntry (n : Nat) (f : AuxEntry → AuxEntry) (h : Far live brg org s) :
    Far live brg org (setAuxEntry n f s) := by
  unfold setAuxEntry
  simp (maxDischargeDepth := 40) +contextual [h]

@[simp ↓] theorem far_noInput (n : Nat) (h : Far live brg org s) : Far live brg org (noInput n s) := by
  unfold noInput
  simp (maxDischargeDepth := 40) +contextual [h]

@[simp ↓] theorem far_beginEntry (n : Nat) (h : Far live brg org s) : Far live brg org (beginEntry n s) := by
  exact h

@[simp ↓] theorem far_passEnd (h : Far live brg org s) : Far live brg org (passEnd s) := by
  unfold passEnd
  simp (maxDischargeDepth := 40) +contextual [h]

@[simp ↓] theorem far_runOver (h : Far live brg org s) : Far live brg org (runOver s).2 := by
  unfold runOver
  split <;> exact h

@[simp ↓] theorem far_goOn (fuel n : Nat) (h : Far live brg org s) : Far live brg org (goOn fuel n s) := by
  induction fuel generalizing n s with
  | zero => unfold goOn; simp (maxDischargeDepth := 40) [h]
  | succ k ih => unfold goOn; dsimp only; simp (maxDischargeDepth := 40) +contextual [h, ih]

@[simp ↓] theorem far_auxResume (h : Far live brg org s) : Far live brg org (auxResume s) := by
  unfold auxResume
  dsimp only
  (repeat' split) <;> simp (maxDischargeDepth := 40) +contextual [h]

@[simp ↓] theorem far_watchMarks (h : Far live brg org s) : Far live brg org (watchMarks s) := by
  unfold watchMarks
  simp (maxDischargeDepth := 40) +contextual [h]

@[simp ↓] theorem far_dropFrame (f : Frame) (h : Far live brg org s) : Far live brg org (dropFrame f s) := by
  exact h

@[simp ↓] theorem far_overflowed (f : Frame) (h : Far live brg org s) : Far live brg org (overflowed f s) := by
  unfold overflowed
  simp (maxDischargeDepth := 40) +contextual [h]

@[simp ↓] theorem far_beginEpisode (detail : Nat) (h : Far live brg org s) : Far live brg org (beginEpisode detail s) := by
  unfold beginEpisode
  simp (maxDischargeDepth := 40) +contextual [h]

@[simp ↓] theorem far_fillRisen (h : Far live brg org s) : Far live brg org (fillRisen s) := by
  unfold fillRisen
  simp (maxDischargeDepth := 40) +contextual [h]

@[simp ↓] theorem far_enqueue (f : Frame) (h : Far live brg org s) : Far live brg org (enqueue f s) := by
  unfold enqueue
  simp (maxDischargeDepth := 40) +contextual [h]

@[simp ↓] theorem far_endDead (d : Side) (z : Nat) (h : Far live brg org s) : Far live brg org (endDead d z s) := by
  unfold endDead
  split <;> simp (maxDischargeDepth := 40) +contextual [h]

@[simp ↓] theorem far_endHoldoff (d : Side) (z : Nat) (h : Far live brg org s) : Far live brg org (endHoldoff d z s) := by
  unfold endHoldoff
  simp (maxDischargeDepth := 40) +contextual [h]

@[simp ↓] theorem far_entryFreed (h : Far live brg org s) : Far live brg org (entryFreed s) := by
  unfold entryFreed
  simp (maxDischargeDepth := 40) +contextual [h]

@[simp ↓] theorem far_closeRecord (d : Side) (z : Nat) (cause : Nat) (ns : Nat) (h : Far live brg org s) :
    Far live brg org (closeRecord d z cause ns s) := by
  unfold closeRecord
  split <;> simp (maxDischargeDepth := 40) +contextual [h]

@[simp ↓] theorem far_closeAll (d : Side) (cause : Nat) (h : Far live brg org s) : Far live brg org (closeAll d cause s) := by
  unfold closeAll
  simp (maxDischargeDepth := 40) +contextual [h]

@[simp ↓] theorem far_stopRecords (d : Side) (h : Far live brg org s) : Far live brg org (stopRecords d s) := by
  unfold stopRecords
  simp (maxDischargeDepth := 40) +contextual [h]

@[simp ↓] theorem far_clearSums (d : Side) (h : Far live brg org s) : Far live brg org (clearSums d s) := by
  unfold clearSums
  simp (maxDischargeDepth := 40) +contextual [h]

@[simp ↓] theorem far_discardPresent (d : Side) (h : Far live brg org s) : Far live brg org (discardPresent d s) := by
  unfold discardPresent
  simp (maxDischargeDepth := 40) +contextual [h]

@[simp ↓] theorem far_discardParked (d : Side) (r : Nat) (h : Far live brg org s) :
    Far live brg org (discardParked d r s) := by
  exact h

@[simp ↓] theorem far_discardRoute (d : Side) (r : Nat) (h : Far live brg org s) : Far live brg org (discardRoute d r s) := by
  unfold discardRoute
  simp (maxDischargeDepth := 40) +contextual [h]

@[simp ↓] theorem far_discardSide (d : Side) (h : Far live brg org s) : Far live brg org (discardSide d s) := by
  unfold discardSide
  simp (maxDischargeDepth := 40) +contextual [h]

@[simp ↓] theorem far_ramanStart (d : Side) (h : Far live brg org s) : Far live brg org (ramanStart d s) := by
  unfold ramanStart
  simp (maxDischargeDepth := 40) +contextual [h]

@[simp ↓] theorem far_clockCommit (d : Side) (old : Cfg) (new : Cfg) (h : Far live brg org s) :
    Far live brg org (clockCommit d old new s) := by
  unfold clockCommit
  simp (maxDischargeDepth := 40) +contextual [h]

@[simp ↓] theorem far_thermalCommit (d : Side) (all : Bool) (old new : Cfg) (h : Far live brg org s) :
    Far live brg org (thermalCommit d all old new s) := by
  unfold thermalCommit
  extract_lets differs s0 s1 zone changed kept moved m s2
  have h0 : Far live brg org s0 := by
    refine far_ite (far_discardSide d h) (far_foldl _ _ h fun s x hs => ?_)
    extract_lets shape s'
    have h2 : Far live brg org s' := far_ite (far_discardRoute d x hs) hs
    exact far_ite (far_discardRoute d x h2) h2
  have h1 : Far live brg org s1 := far_clockCommit _ _ _ h0
  have h3 : Far live brg org s2 := far_setBytes _ h1
  refine far_ite h1 ?_
  simp (maxDischargeDepth := 40) [h3]

@[simp ↓] theorem far_dropRuns (h : Far live brg org s) : Far live brg org (dropRuns s) := by
  unfold dropRuns
  simp (maxDischargeDepth := 40) +contextual [h]

@[simp ↓] theorem far_trigCommit (d : Side) (old : Cfg) (new : Cfg) (h : Far live brg org s) :
    Far live brg org (trigCommit d old new s) := by
  unfold trigCommit
  simp (maxDischargeDepth := 40) +contextual [h]

@[simp ↓] theorem far_baselineRoute (d : Side) (old : Cfg) (new : Cfg) (r : Nat) (h : Far live brg org s) (kBrg : brg = false) :
    Far live brg org (baselineRoute d old new r s) := by
  subst kBrg
  unfold baselineRoute
  simp (maxDischargeDepth := 40) +contextual [h]

@[simp ↓] theorem far_clearOverload (h : Far live brg org s) : Far live brg org (clearOverload s) := by
  unfold clearOverload
  simp (maxDischargeDepth := 40) +contextual [h]

@[simp ↓] theorem far_energyCommit (d : Side) (c : Cfg) (h : Far live brg org s) : Far live brg org (energyCommit d c s) := by
  unfold energyCommit
  simp (maxDischargeDepth := 40) +contextual [h]

@[simp ↓] theorem far_takeCommit (d : Side) (h : Far live brg org s) (kLive : live = false) (kBrg : brg = false) :
    Far live brg org (takeCommit d s) := by
  subst kLive kBrg
  unfold takeCommit
  simp (maxDischargeDepth := 40) +contextual [h]

@[simp ↓] theorem far_beginProof (d : Side) (h : Far live brg org s) : Far live brg org (beginProof d s) := by
  unfold beginProof
  simp (maxDischargeDepth := 40) +contextual [h]

@[simp ↓] theorem far_startProof (d : Side) (h : Far live brg org s) : Far live brg org (startProof d s) := by
  unfold startProof
  simp (maxDischargeDepth := 40) +contextual [h]

@[simp ↓] theorem far_proofDone (d : Side) (h : Far live brg org s) (kBrg : brg = false) :
    Far live brg org (proofDone d s) := by
  subst kBrg
  unfold proofDone
  simp (maxDischargeDepth := 40) +contextual [h]

@[simp ↓] theorem far_discardShots (d : Side) (h : Far live brg org s) : Far live brg org (discardShots d s) := by
  unfold discardShots
  simp (maxDischargeDepth := 40) +contextual [h]

@[simp ↓] theorem far_cutPulse (d : Side) (h : Far live brg org s) : Far live brg org (cutPulse d s) := by
  unfold cutPulse
  simp (maxDischargeDepth := 40) +contextual [h]

@[simp ↓] theorem far_abandonProof (d : Side) (h : Far live brg org s) : Far live brg org (abandonProof d s) := by
  unfold abandonProof
  simp (maxDischargeDepth := 40) +contextual [h]

@[simp ↓] theorem far_emitOff (d : Side) (cause : Nat) (h : Far live brg org s) (kBrg : brg = false) :
    Far live brg org (emitOff d cause s) := by
  subst kBrg
  unfold emitOff
  simp (maxDischargeDepth := 40) +contextual [h]

@[simp ↓] theorem far_applySide (d : Side) (h : Far live brg org s) : Far live brg org (applySide d s) := by
  unfold applySide
  simp (maxDischargeDepth := 40) +contextual [h]

@[simp ↓] theorem far_endSettle (d : Side) (dwellEnd : Bool) (failing : Bool) (h : Far live brg org s) :
    Far live brg org (endSettle d dwellEnd failing s) := by
  unfold endSettle
  simp (maxDischargeDepth := 40) +contextual [h]

@[simp ↓] theorem far_endAcq (d : Side) (cause : Nat) (h : Far live brg org s) (kLive : live = false) (kBrg : brg = false) :
    Far live brg org (endAcq d cause s) := by
  subst kLive kBrg
  unfold endAcq
  simp (maxDischargeDepth := 40) +contextual [h]

@[simp ↓] theorem far_allDark (emit : Nat) (acq : Nat) (h : Far live brg org s) (kLive : live = false) (kBrg : brg = false) :
    Far live brg org (allDark emit acq s) := by
  subst kLive kBrg
  unfold allDark
  simp (maxDischargeDepth := 40) +contextual [h]

/-! ### What is left, part by part -/

section
variable {f g : Bool} {o t : State}

theorem Far.bridle (h : Far f true o t) : t.brg = o.brg := h.1 rfl

theorem Far.liveCopy (h : Far true f o t) : t.live = o.live := (h.2.1 rfl).1

theorem Far.tackState (h : Far true f o t) : t.tacks = o.tacks := (h.2.1 rfl).2

theorem Far.power (h : Far f g o t) : t.pwr = o.pwr := h.2.2.1

theorem Far.harness (h : Far f g o t) : t.harn = o.harn := by
  obtain ⟨_, _, _, _, h5, _⟩ := h; exact h5

theorem Far.draftCopy (h : Far f g o t) : t.draft = o.draft := by
  obtain ⟨_, _, _, _, _, h6, _⟩ := h; exact h6

theorem Far.stores (h : Far f g o t) : t.rw = o.rw ∧ t.nv = o.nv := by
  obtain ⟨_, _, _, _, _, _, h7, h8, _⟩ := h; exact ⟨h7, h8⟩

theorem Far.dump (h : Far f g o t) : t.girth.dump = o.girth.dump := by
  obtain ⟨_, _, _, _, _, _, _, _, h9, _⟩ := h; exact h9

theorem Far.timeBase (h : Far f g o t) : t.tb = o.tb := by
  obtain ⟨_, _, _, _, _, _, _, _, _, h10, _⟩ := h; exact h10

theorem Far.memory (h : Far f g o t) : t.mem.usable = o.mem.usable ∧ t.mem.fill = o.mem.fill := by
  obtain ⟨_, _, _, _, _, _, _, _, _, _, _, _, h13, h14, _⟩ := h; exact ⟨h13, h14⟩

theorem Far.phase (h : Far f g o t) : t.cal.phase = o.cal.phase := by
  obtain ⟨_, _, _, _, _, _, _, _, _, _, _, _, _, _, _, h16, _⟩ := h; exact h16

theorem Far.cantleHolds (h : Far f g o t) : t.cal.cantle = o.cal.cantle := by
  obtain ⟨_, _, _, _, _, _, _, _, _, _, _, _, _, _, _, _, h17, _⟩ := h; exact h17

theorem Far.cantle (h : Far f g o t) : t.can = o.can := by
  obtain ⟨_, _, _, _, _, _, _, _, _, _, _, _, _, _, _, _, _, h18, _⟩ := h; exact h18

theorem Far.weaken (h : Far true true o t) : Far f g o t := ⟨fun _ => h.1 rfl, fun _ => h.2.1 rfl, h.2.2⟩

end

end Sys2Proof.Machine
end

section
/-!
SUPPORT. Watchdogs and the periodic work of Cantle (R375 to R389).
-/
namespace Sys2Proof.Machine

-- one theorem after the other: the threads of many at once need more memory than the check has
set_option Elab.async false

variable {s org : State}

/-- Deferred commands forgotten, before the calibrations of CAL_RUN end. -/
def slotsDropped (s : State) : State := dropTackOp (setTb (fun t => { t with loader := none }) (freeSlots s))

theorem abandon_far (s : State) : Far true true (slotsDropped s) (abandon s) := far_dropRuns (far_refl _ _ _)

theorem abandon_brg (s : State) : (abandon s).brg = { s.brg with slots := List.replicate 16 .free, recent := [] } :=
  (abandon_far s).bridle

theorem resetBridle_brg (s : State) : (resetBridle s).brg =
    { s.brg with slots := List.replicate 16 .free, recent := [], storedH := none, storedU := none } := by
  show { (abandon s).brg with storedH := none, storedU := none } = _
  rw [abandon_brg]

theorem far_dropTackOp (h : Far false false org s) : Far false false org (dropTackOp s) := ⟨nofun, nofun, h.2.2⟩

theorem far_endCantleWork (h : Far false false org s) : Far false false org (endCantleWork s) := by
  have hgate : Far false false org (match s.brg.gate with
      | .validating (some _) => finish .draft stInternal [] { s with brg := { s.brg with gate := .idle } }
      | .frozen (some _) _ _ _ _ => finish .draft stInternal [] s
      | _ => s) := by
    split
    · exact far_finish _ _ _ (far_brg h rfl) rfl
    · exact far_finish _ _ _ h rfl
    · exact h
  have hworks := far_finish .update stInternal [] (far_finish .log stInternal [] (far_finish .tack stInternal []
    (far_dropTackOp hgate) rfl) rfl) rfl
  exact far_foldl _ _ (far_dropRuns hworks) fun x r hx => far_finish _ _ _ hx rfl

/-- Cantle stopped, before the commands that need it end. -/
theorem stopCantle_far (cause : Nat) (s : State) : ∃ u : State, Far false false u (stopCantle cause s) ∧
    u.can = s.can.halt cause ∧ u.cal.cantle = 0 := by
  have hz : Far true true { s with cal := { s.cal with cantle := 0 } }
      (if s.can.test.isSome then endHolds s else { s with cal := { s.cal with cantle := 0 } }) := by
    refine far_ite ?_ (far_refl _ _ _)
    exact far_ite (far_refl _ _ _) (far_auxResume (far_refl _ _ _))
  unfold stopCantle
  extract_lets s1 s2
  refine ⟨setCan (fun c => c.halt cause) s2, far_endCantleWork (far_refl _ _ _), ?_, hz.cantleHolds⟩
  exact congrArg (Cantle.halt · cause) hz.cantle

/-- What a stop of Cantle leaves of it, and of the hold requests. -/
theorem planes_stopCantle (cause : Nat) (s : State) : (planes (stopCantle cause) s).can = s.can.halt cause ∧
    (planes (stopCantle cause) s).cal.cantle = 0 := by
  obtain ⟨u, hu, hcan, hcal⟩ := stopCantle_far cause { s with evq := { s.evq with q := [], logQ := [] } }
  exact ⟨hu.cantle.trans hcan, hu.cantleHolds.trans hcal⟩

theorem stopCantle_states (cause : Nat) (s : State) : ∃ t, Host.Outcome.next (planes (stopCantle cause) s) = (.next t : Out) ∧
    t.can.running = false ∧ t.can.restart = some cause ∧ t.cal.cantle = 0 ∧ t.can.buffer = [] ∧ t.can.surge = none ∧
    t.can.log = s.can.log := by
  obtain ⟨hcan, hcal⟩ := planes_stopCantle cause s
  refine ⟨_, rfl, ?_, ?_, hcal, ?_, ?_, ?_⟩ <;> rw [hcan] <;> rfl

/-- Cantle runs, and no restart is due. -/
def CantleUp (s : State) : Prop := s.can.running = true ∧ s.can.restart = none

theorem openStale_up (h : CantleUp s) : CantleUp (openStale s) := by
  unfold openStale
  split <;> exact h

theorem rollback_up (cause : Nat) (h : CantleUp s) : CantleUp (rollback cause s) := by
  unfold rollback schedule
  split <;> exact h

theorem cantleRestartDone_up {k : Nat} (h : s.can.restart = some k) :
    ∃ t, exec .cantleRestartDone s = .next t ∧ CantleUp t := by
  refine ⟨_, rfl, ?_⟩
  simp only [h]
  have hup := openStale_up (s := logRecord 0x85 0 (now (setCan (fun c => { c with running := true, restart := none }) s)) [0]
    (lifeUp 8 (post evWdtCantle k (setCan (fun c => { c with running := true, restart := none }) s)))) ⟨rfl, rfl⟩
  split
  · exact rollback_up 2 hup
  · exact hup

theorem bridleHang_brg (s : State) :
    (planes (fun s => logRecord 0x85 1 (now s) [0] (lifeUp 9 (post evWdtBridle 0 (resetBridle s)))) s).brg.slots =
        List.replicate 16 .free ∧
      (planes (fun s => logRecord 0x85 1 (now s) [0] (lifeUp 9 (post evWdtBridle 0 (resetBridle s)))) s).brg.storedH = none ∧
      (planes (fun s => logRecord 0x85 1 (now s) [0] (lifeUp 9 (post evWdtBridle 0 (resetBridle s)))) s).brg.storedU = none ∧
      (planes (fun s => logRecord 0x85 1 (now s) [0] (lifeUp 9 (post evWdtBridle 0 (resetBridle s)))) s).brg.gate =
        s.brg.gate := by
  have h := resetBridle_brg { s with evq := { s.evq with q := [], logQ := [] } }
  have hslots := congrArg Bridle.slots h
  have hharness := congrArg Bridle.storedH h
  have huart := congrArg Bridle.storedU h
  have hgate := congrArg Bridle.gate h
  exact ⟨hslots, hharness, huart, hgate⟩

theorem scrubBad_acc (region i : Nat) (s : State) : (scrubBad region i s).can.acc = s.can.acc := by
  unfold scrubBad
  split
  · rfl
  · rfl
  · rfl
  · rfl
  · split
    · split <;> rfl
    · rfl
  · rfl

theorem mramScrub_acc (r c : Nat) (b : Option Nat) (w : Bool) (h : s.can.running = true) :
    ∃ t, exec (.mramScrub r c b w) s = .next t ∧ t.can.acc.mram = sat 16 (s.can.acc.mram + c) := by
  refine ⟨_, congrArg Host.Outcome.next (if_neg (by simp [h])), ?_⟩
  extract_lets give s1 s2 s3
  have h2 : s2.can.acc = s1.can.acc := congrArg Cantle.acc (postIf_can _ _ _ _)
  have h3 : s3.can.acc = s2.can.acc := by
    cases b with
    | none => rfl
    | some i => exact scrubBad_acc _ _ _
  rw [postIf_can, h3, h2]
  rfl

/-- Hours of operation are added; the older copies of the counters stand. -/
theorem addHours_old (l : List Nat) (n : Nat) (s : State) :
    (l.foldl (fun s i => if hoursRun s i then addHours i n s else s) s).can.lifeAt = s.can.lifeAt ∧
      (l.foldl (fun s i => if hoursRun s i then addHours i n s else s) s).can.lifeOld = s.can.lifeOld := by
  induction l generalizing s with
  | nil => exact ⟨rfl, rfl⟩
  | cons i l ih =>
    rw [List.foldl_cons]
    refine ⟨(ih _).1.trans ?_, (ih _).2.trans ?_⟩ <;> split <;> rfl

theorem lifetimeUpdate_old (h : s.can.running = true) : ∃ t, exec .lifetimeUpdate s = .next t ∧ t.can.lifeAt = s.tb.mono ∧
    t.can.lifeOld = (s.can.life :: s.can.lifeOld).take 7 := by
  refine ⟨_, congrArg Host.Outcome.next (if_pos h), ?_⟩
  unfold updateLife
  extract_lets n s1 s2
  have hold := addHours_old (List.range 6) n s1
  exact ⟨hold.1, hold.2⟩

/-- The parts of the log that one item changes. -/
def logOf (s : State) : List LogEntry × BitVec 32 × Nat := (s.can.log, s.can.logNext, s.can.logRate)

theorem nearFull_log (s : State) : logOf (nearFull s) = logOf s := by
  unfold nearFull
  simp only [logOf, postIf_can]
  rfl

theorem appendLog_log (es : List LogEntry) (s : State) : logOf (appendLog es s) =
    ((s.can.log ++ es).drop ((s.can.log ++ es).length - logSize), s.can.logNext + BitVec.ofNat 32 es.length,
      s.can.logRate + es.length) := by
  simp only [appendLog, logOf, setCan]

theorem writeLog_appends {x : LogItem} (hsec : s.tb.mono < s.can.logSec + sCycles)
    (hrate : s.can.logRate + x.entries.length ≤ logPerSecond) (hsize : s.can.log.length + x.entries.length ≤ logSize) :
    logOf (writeLog x s) = (s.can.log ++ x.entries, s.can.logNext + BitVec.ofNat 32 x.entries.length,
      s.can.logRate + x.entries.length) := by
  unfold writeLog
  simp only [if_neg (show ¬ s.can.logSec + sCycles ≤ s.tb.mono by omega)]
  have hlen : (s.can.log ++ x.entries).length - logSize = 0 := by simp; omega
  rw [if_neg (by simp; omega), nearFull_log, appendLog_log, hlen, List.drop_zero]

theorem logEntryWrite_first {x : LogItem} {r : List LogItem} (ha : mramAlive s = true) (hq : s.evq.logQ = x :: r) :
    exec .logEntryWrite s = .next (writeLog x { s with evq := { s.evq with logQ := r } }) := by
  refine congrArg Host.Outcome.next ((if_pos ha).trans ?_)
  rw [drainLog, hq]
  rfl

theorem logEntryWrite_appends {x : LogItem} {r : List LogItem} (ha : mramAlive s = true) (hq : s.evq.logQ = x :: r)
    (hsec : s.tb.mono < s.can.logSec + sCycles) (hrate : s.can.logRate + x.entries.length ≤ logPerSecond)
    (hsize : s.can.log.length + x.entries.length ≤ logSize) :
    ∃ t, exec .logEntryWrite s = .next t ∧ t.can.log = s.can.log ++ x.entries ∧
      t.can.logNext = s.can.logNext + BitVec.ofNat 32 x.entries.length ∧ t.can.logRate = s.can.logRate + x.entries.length := by
  refine ⟨_, logEntryWrite_first ha hq, ?_⟩
  have h := writeLog_appends (s := { s with evq := { s.evq with logQ := r } }) hsec hrate hsize
  simp only [logOf, Prod.mk.injEq] at h
  exact h

theorem logEntryWrite_empty (hq : s.evq.logQ = []) : exec .logEntryWrite s = .next s := by
  have h : drainLog 1 s = s := by
    unfold drainLog
    rw [hq]
  exact congrArg Host.Outcome.next (by rw [h, ite_self])

/-- Settles O60, watchdog by watchdog and task by task. -/
theorem cantleEvents : Obligations.CantleEvents := by
  refine ⟨fun s => ⟨fun hr => ⟨?_, ?_⟩, fun hr => ⟨?_, ?_⟩, fun k hk => ?_, fun hk => ?_, fun hr => ?_, ?_⟩,
    fun s => ⟨fun hr => ⟨?_, lifetimeUpdate_old hr, ?_, fun r c b w => mramScrub_acc r c b w hr, fun hd => ?_⟩,
      fun hr => ⟨?_, ?_, ?_, ?_⟩, fun x r ha hq hs hrate hsize => logEntryWrite_appends ha hq hs hrate hsize, logEntryWrite_empty⟩⟩
  · obtain ⟨t, ht, h⟩ := stopCantle_states 0 s
    exact ⟨t, (congrArg Host.Outcome.next (if_pos hr)).trans ht, h⟩
  · obtain ⟨t, ht, h⟩ := stopCantle_states 1 s
    exact ⟨t, (congrArg Host.Outcome.next (if_pos hr)).trans ht, h⟩
  · exact congrArg Host.Outcome.next (if_neg (by simp [hr]))
  · exact congrArg Host.Outcome.next (if_neg (by simp [hr]))
  · exact cantleRestartDone_up hk
  · show execCantleRestartDone s = _
    simp only [execCantleRestartDone, hk]
  · exact ⟨_, congrArg Host.Outcome.next (if_pos (by simp [hr])), bridleHang_brg s⟩
  · exact congrArg Host.Outcome.next (if_neg (by simp))
  · exact congrArg Host.Outcome.next (if_pos hr)
  · exact congrArg Host.Outcome.next (if_pos hr)
  · exact congrArg Host.Outcome.next (if_pos (by simp [hr, hd]))
  · exact congrArg Host.Outcome.next (if_neg (by simp [hr]))
  · exact congrArg Host.Outcome.next (if_neg (by simp [hr]))
  · exact congrArg Host.Outcome.next (if_neg (by simp [hr]))
  · exact congrArg Host.Outcome.next (if_neg (by simp [hr]))

end Sys2Proof.Machine
end

section
/-!
SUPPORT. Monitors, the over-temperature trip, surge records and the self-test (R57, R379 to R386).
-/
namespace Sys2Proof.Machine

-- one theorem after the other: the threads of many at once need more memory than the check has
set_option Elab.async false

variable {s : State}

/-! ### Standby -/

theorem enterStandby_far (n : Nat) (s : State) : ∃ u, Far false false (slotsDropped s) u ∧
    enterStandby n s = setPwr (fun p => { p with
      stand := some { seconds := n, sources := match p.stand with | some x => x.sources | none => 0 } }) u :=
  ⟨_, far_allDark 5 6 (abandon_far s).weaken rfl rfl, rfl⟩

theorem enterStandby_can (n : Nat) (s : State) : (enterStandby n s).can = s.can := by
  obtain ⟨u, hu, he⟩ := enterStandby_far n s
  rw [he]
  exact hu.cantle

theorem enterStandby_pwr (n : Nat) (hs : s.pwr.stand = none) :
    (enterStandby n s).pwr = { s.pwr with stand := some { seconds := n, sources := 0 } } := by
  obtain ⟨u, hu, he⟩ := enterStandby_far n s
  have hp : u.pwr = s.pwr := hu.power
  rw [he]
  simp only [setPwr, hp, hs]

theorem enterStandby_dark (n : Nat) (s : State) (d : Side) :
    ((enterStandby n s).lash.get d).enabled = false ∧ acquiring (enterStandby n s) d = false :=
  allDark_dark 5 6 (abandon s) d

/-! ### Monitors -/

/-- The samples that Cantle keeps. -/
def samplesOf (s : State) : List Int × List Nat := (s.can.temps, s.can.volts)

theorem quiet_samples : Quiet samplesOf := fun _ _ _ => rfl

theorem samplesOf_railEvent (i : Nat) (high : Bool) (s : State) : samplesOf (railEvent i high s) = samplesOf s := by
  unfold railEvent
  split <;> rfl

theorem samplesOf_judgeTemps (s : State) : samplesOf (judgeTemps s) = samplesOf s := by
  have hkeep : ∀ x, samplesOf (keepHighest x) = samplesOf x := fun x => ite_leaves samplesOf rfl rfl
  have hstep : ∀ x, samplesOf (judgeStep x) = samplesOf x := fun x => ite_leaves samplesOf rfl rfl
  have hwarn : ∀ x, samplesOf (judgeWarn x) = samplesOf x := by
    intro x
    unfold judgeWarn
    extract_lets runs cool s1
    split
    · rfl
    · split <;> rfl
    · rfl
  exact (hwarn _).trans ((hstep _).trans ((hkeep _).trans rfl))

theorem samplesOf_judgeRail (ms : List Nat) (s : State) : samplesOf (judgeRail ms s) = samplesOf s := by
  unfold judgeRail
  extract_lets i below above run nl nh ni tellLow tellHigh one ups s1 s2
  have h2 : samplesOf s2 = samplesOf s := ite_leaves samplesOf (samplesOf_railEvent _ _ _) rfl
  exact ite_leaves samplesOf ((samplesOf_railEvent _ _ _).trans h2) h2

theorem samplesOf_afterTrip (s : State) : samplesOf (afterTrip s) = samplesOf s := by
  unfold afterTrip
  refine ite_leaves samplesOf rfl (ite_leaves samplesOf ?_ rfl)
  unfold tripStandby
  rw [samplesOf, enterStandby_can]
  rfl

/-- What Cantle makes of a sample of the monitors. -/
def sampleJudged (s : State) : State := afterTrip (railMonitors.foldl (fun s ms => judgeRail ms s) (judgeTemps s))

theorem samplesOf_judged (s : State) : samplesOf (sampleJudged s) = samplesOf s :=
  (samplesOf_afterTrip _).trans
    ((foldl_leaves samplesOf (fun t ms => samplesOf_judgeRail ms t) _ _).trans (samplesOf_judgeTemps s))

theorem monitorSample_kept {a : List Int} {b : List Nat} (hr : s.can.running = true) (ha : a.length = 12) (hb : b.length = 16) :
    ∃ t, exec (.monitorSample a b) s = .next t ∧ t.can.temps = a ∧ t.can.volts = b := by
  have h := planes_leaves samplesOf quiet_samples samplesOf_judged (setCan (fun c => { c with temps := a, volts := b }) s)
  simp only [samplesOf, Prod.mk.injEq] at h
  exact ⟨planes sampleJudged _, congrArg Host.Outcome.next (if_neg (by simp [hr, ha, hb])), h⟩

theorem processMonitorSample_kept {l : List Int} (hr : s.can.running = true) (hl : l.length = 8) :
    ∃ t, exec (.processMonitorSample l) s = .next t ∧ t.can.procs = l := by
  refine ⟨_, congrArg Host.Outcome.next (if_neg (by simp [hr, hl])), ?_⟩
  refine foldl_leaves (fun t => t.can.procs) (fun t i => ?_) _ _
  exact ite_leaves (fun t => t.can.procs) rfl rfl

theorem overtempTrip_dark (n : Nat) (hp : powered s.pwr.dev = true) (hs : s.pwr.stand = none) :
    ∃ t, exec (.overtempTrip n) s = .next t ∧ t.pwr.stand = some { seconds := tripWake s, sources := 0 } ∧
      t.pwr.tripWake = true ∧ t.pwr.wake = s.pwr.wake ∧ ∀ d, (t.lash.get d).enabled = false ∧ acquiring t d = false := by
  let f : State → State := fun x => if x.pwr.stand.isSome then lifeUp 23 (post evOvertempTrip n x)
    else tripStandby (lifeUp 23 (post evOvertempTrip n x))
  have hout : exec (.overtempTrip n) s = .next (planes f s) := congrArg Host.Outcome.next (if_neg (by simp [hp]))
  have hf : ∀ x : State, x.pwr.stand = none →
      f x = enterStandby (tripWake (lifeUp 23 (post evOvertempTrip n x)))
        (setPwr (fun p => { p with tripWake := true }) (lifeUp 23 (post evOvertempTrip n x))) :=
    fun x hx => if_neg (by simp [hx])
  have hx := hf { s with evq := { s.evq with q := [], logQ := [] } } hs
  have hpwr := enterStandby_pwr (s := setPwr (fun p => { p with tripWake := true })
    (lifeUp 23 (post evOvertempTrip n { s with evq := { s.evq with q := [], logQ := [] } }))) (tripWake s) hs
  refine ⟨_, hout, ?_⟩
  change f _ = enterStandby (tripWake s) _ at hx
  have hplanes : (planes f s).pwr = (f { s with evq := { s.evq with q := [], logQ := [] } }).pwr := rfl
  rw [hplanes, hx, hpwr]
  refine ⟨rfl, rfl, rfl, fun d => ?_⟩
  have hd := enterStandby_dark (tripWake s) (setPwr (fun p => { p with tripWake := true })
    (lifeUp 23 (post evOvertempTrip n { s with evq := { s.evq with q := [], logQ := [] } }))) d
  rw [← hx] at hd
  exact hd

/-! ### Surges -/

theorem clampDetection_small {d i : Nat} (hd : d < 7) (hi : i ≤ 1000) : exec (.clampDetection d i) s = .next s := by
  have hmod : d % 8 = d := by omega
  exact congrArg Host.Outcome.next (if_pos (by simp [hmod, domSupply, hi]; omega))

theorem clampDetection_opens {d i : Nat} (hd : d < 8) (hi : d = 7 ∨ 1000 < i) (hr : s.can.running = true) :
    ∃ t r, exec (.clampDetection d i) s = .next t ∧ t.can.surge = some r ∧ r.domains.getLsbD d = true ∧
      r.lastAt = s.tb.mono := by
  have hmod : d % 8 = d := by omega
  have hbit : ∀ w : BitVec 8, (w ||| ((1 : BitVec 8) <<< d)).getLsbD d = true := by
    intro w
    simp [BitVec.getLsbD_or, hd]
  have hlarge : ¬ (d % 8 ≠ domSupply && decide (i ≤ 1000)) = true := by
    simp [hmod, domSupply]
    omega
  have hout : ∀ u, exec (.clampDetection d i) s = .next u ↔ execClampDetection d i s = .next u := fun _ => Iff.rfl
  unfold execClampDetection at hout
  simp only [if_neg hlarge, hr, Bool.not_true, Bool.false_eq_true, if_false] at hout
  cases hs : s.can.surge with
  | some r =>
    simp only [hs] at hout
    exact ⟨_, _, (hout _).2 rfl, rfl, by simpa [Surge.detect, hmod] using hbit r.domains, rfl⟩
  | none =>
    simp only [hs] at hout
    exact ⟨_, _, (hout _).2 rfl, rfl, by simpa [Surge.detect, hmod] using hbit (newSurge s).domains, rfl⟩

theorem clampDetection_latched {d i : Nat} (hd : d < 8) (hi : d = 7 ∨ 1000 < i) (hr : s.can.running = false) :
    exec (.clampDetection d i) s =
      .next { s with can := { s.can with latched := s.can.latched ||| ((1 : BitVec 8) <<< d) } } := by
  have hmod : d % 8 = d := by omega
  have hlarge : ¬ (d % 8 ≠ domSupply && decide (i ≤ 1000)) = true := by
    simp [hmod, domSupply]
    omega
  refine congrArg Host.Outcome.next ((if_neg hlarge).trans ((if_pos (by simp [hr])).trans ?_))
  rw [hmod]
  rfl

theorem surgeRecordClose_states {r : Surge} (h : s.can.surge = some r) :
    ∃ t, exec .surgeRecordClose s = .next t ∧ t.can.surge = none ∧
      t.can.surges.length = min 16 (s.can.surges.length + 1) ∧
      (r.domains.toNat &&& selftestMask s = 0 → t.can.due = s.can.due ∧ t.can.queued = s.can.queued) ∧
      (r.domains.toNat &&& selftestMask s ≠ 0 → s.can.test = none → t.can.due.isSome = true) := by
  refine ⟨_, rfl, ?_⟩
  simp only [h]
  split
  next hm =>
    refine ⟨?_, ?_, fun h0 => absurd h0 hm, fun _ ht => ?_⟩
    · show (requestTest r _).surge = none
      unfold requestTest
      split <;> rfl
    · show (requestTest r _).surges.length = _
      unfold requestTest
      split <;> exact List.length_take
    · show (requestTest r _).due.isSome = true
      unfold requestTest
      rw [if_neg]
      · rfl
      · show ¬ s.can.test.isSome = true
        simp [ht]
  next hm =>
    exact ⟨rfl, List.length_take, fun _ => ⟨rfl, rfl⟩, fun h0 => absurd h0 hm⟩

/-! ### The self-test -/

theorem selftestStart_runs {x : SelfTest} (hd : s.can.due = some x) (hr : s.can.running = true) (ht : s.can.test = none) :
    ∃ t, exec .selftestStart s = .next t ∧ t.can.due = none ∧ t.can.test.isSome = true := by
  refine ⟨_, rfl, ?_⟩
  simp only [hd, hr, ht, Bool.not_true, Option.isSome_none, Bool.or_self, Bool.false_eq_true, if_false]
  have hpause : ∀ u, (auxPause u).can = u.can := fun u => ite_leaves State.can rfl rfl
  have hhold : ∀ (u : State) (p : Nat), (if pathLive u p then holdCantle p u else u).can = u.can :=
    fun u p => ite_leaves State.can rfl rfl
  rw [hpause, foldl_leaves State.can hhold, (far_fixLane (far_refl true true _)).cantle]
  exact ⟨rfl, rfl⟩

theorem setTile_bit {n : Nat} (hn : n < 64) (b : Bool) (s : State) : (setTile n b s).tiles.getLsbD n = b := by
  unfold setTile
  cases b <;> simp [BitVec.getLsbD_or, BitVec.getLsbD_and, hn]

theorem tileOverload_tiles (s : State) : (tileOverload s).tiles = s.tiles ∧ (tileOverload s).can = s.can := by
  unfold tileOverload
  split
  · unfold bothSides
    dsimp only
    exact ⟨ite_leaves State.tiles (ite_leaves State.tiles rfl rfl) (ite_leaves State.tiles rfl rfl),
      ite_leaves State.can (ite_leaves State.can rfl rfl) (ite_leaves State.can rfl rfl)⟩
  · exact ⟨rfl, rfl⟩

/-- A test of a tile: its verdict, and what of the running test and of the tests at rest stands. -/
theorem tileTested_states {n : Nat} (hn : n < 64) (b : Bool) (s : State) : (tileTested n b s).tiles.getLsbD n = b ∧
    (tileTested n b s).can.test = s.can.test ∧ (tileTested n b s).can.tested = s.can.tested := by
  have hbit := setTile_bit hn b (useTiles s)
  unfold tileTested
  split
  · exact ⟨hbit, rfl, rfl⟩
  · extract_lets s1 s2
    have h2 : s2.tiles = (setTile n b (useTiles s)).tiles := rfl
    split
    · rw [(tileOverload_tiles s2).1, (tileOverload_tiles s2).2, h2]
      exact ⟨hbit, rfl, rfl⟩
    · exact ⟨hbit, rfl, rfl⟩

theorem tileSlot_test {x : SelfTest} {b : Bool} (hr : s.can.running = true) (ht : s.can.test = some x) (hx : x.tiles < 64) :
    ∃ t, exec (.currierTileTestSlotEnd b) s = .next t ∧ t.tiles.getLsbD x.tiles = b ∧
      t.can.test.map (·.tiles) = some (x.tiles + 1) := by
  refine ⟨_, congrArg Host.Outcome.next (if_neg (by simp [hr])), ?_⟩
  simp only [ht, if_neg (show ¬ 64 ≤ x.tiles by omega)]
  obtain ⟨hbit, htest, _⟩ := tileTested_states hx b (setCan (fun c => { c with
    test := some { x with tiles := x.tiles + 1, tileBad := x.tileBad || !b } }) s)
  exact ⟨hbit, by rw [htest]; rfl⟩

theorem tileSlot_rest {b : Bool} (hr : s.can.running = true) (ht : s.can.test = none) (hn : s.can.tested < 64) :
    ∃ t, exec (.currierTileTestSlotEnd b) s = .next t ∧ t.tiles.getLsbD s.can.tested = b ∧
      t.can.tested = s.can.tested + 1 := by
  refine ⟨_, congrArg Host.Outcome.next (if_neg (by simp [hr])), ?_⟩
  simp only [ht, if_neg (show ¬ 64 ≤ s.can.tested by omega)]
  obtain ⟨hbit, _, hrest⟩ := tileTested_states hn b (setCan (fun c => { c with tested := c.tested + 1 }) s)
  exact ⟨hbit, by rw [hrest]; rfl⟩

/-- The end of a self-test, before its events enter the queue. -/
def testEnded (analogFails : BitVec 13) (t : SelfTest) (s : State) : State :=
  let f := BitVec.ofNat 13 (ownChecks s t) ||| (analogFails &&& analogMask)
  let time := sat 32 (Config.quot 386 (Int.ofNat (s.tb.mono - t.cycle)) usCycles).toNat
  let s1 := logRecord 0x83 f.toNat (now s) [BitVec.ofNat 64 time] s
  let s2 := setCan (fun c => { c with
    test := none, due := c.queued, queued := none, failed := f, domains := t.domains
    testedAt := BitVec.ofNat 32 (fld (now s) 63 30)
    acc := { c.acc with failed := sat 8 (c.acc.failed + b2n (f != 0)) } }) s1
  let s3 := if f = 0 then s2 else lifeUp 11 s2
  endHolds (post evSurge (0x8000 + 0x4000 * b2n (f != 0) + t.domains.toNat) (fixLane s3))

theorem endHolds_states (s : State) : (endHolds s).can = s.can ∧ (endHolds s).cal.cantle = 0 := by
  have h : Far true true { s with cal := { s.cal with cantle := 0 } } (endHolds s) :=
    far_ite (far_refl _ _ _) (far_auxResume (far_refl _ _ _))
  exact ⟨h.cantle, h.cantleHolds⟩

theorem testEnded_states (f : BitVec 13) (t : SelfTest) (s : State) : (testEnded f t s).can.test = none ∧
    (testEnded f t s).can.due = s.can.queued ∧ (testEnded f t s).can.queued = none ∧ (testEnded f t s).cal.cantle = 0 ∧
    (testEnded f t s).can.domains = t.domains ∧
    (testEnded f t s).can.failed = BitVec.ofNat 13 (ownChecks s t) ||| (f &&& analogMask) := by
  unfold testEnded
  extract_lets g time s1 s2 s3
  rw [(endHolds_states _).1, (endHolds_states _).2]
  have hcan : (fixLane s3).can = s3.can := (far_fixLane (far_refl true true s3)).cantle
  have h3 : (s3.can.test, s3.can.due, s3.can.queued, s3.can.domains, s3.can.failed) =
      (s2.can.test, s2.can.due, s2.can.queued, s2.can.domains, s2.can.failed) :=
    ite_leaves (fun u => (u.can.test, u.can.due, u.can.queued, u.can.domains, u.can.failed)) rfl rfl
  simp only [Prod.mk.injEq] at h3
  obtain ⟨htest, hdue, hqueued, hdomains, hfailed⟩ := h3
  show (fixLane s3).can.test = none ∧ (fixLane s3).can.due = _ ∧ (fixLane s3).can.queued = none ∧ _ ∧
    (fixLane s3).can.domains = _ ∧ (fixLane s3).can.failed = _
  rw [hcan, htest, hdue, hqueued, hdomains, hfailed]
  exact ⟨rfl, rfl, rfl, rfl, rfl, rfl⟩

theorem selftestDone_ends {x : SelfTest} (f : BitVec 13) (h : s.can.test = some x) :
    exec (.selftestDone f) s = .next (planes (testEnded f x) s) := by
  show execSelftestDone f s = _
  simp only [execSelftestDone, h]
  rfl

/-- Settles O59, monitors and surges first, then the self-test from its start to its end. -/
theorem monitorAndSurge : Obligations.MonitorAndSurge := by
  refine ⟨fun s => ⟨fun a b hr ha hb => monitorSample_kept hr ha hb, fun l hr hl => processMonitorSample_kept hr hl,
    fun hr a b => ⟨?_, ?_⟩, fun n hp hs => overtempTrip_dark n hp hs, fun d i hd hi => clampDetection_small hd hi,
    fun d i hd hi hr => clampDetection_latched hd hi hr, fun d i hd hi hr => clampDetection_opens hd hi hr⟩,
    fun s => ⟨fun r hr => surgeRecordClose_states hr, fun x hd hr ht => selftestStart_runs hd hr ht, fun hd => ?_,
      fun x b hr ht hx => tileSlot_test hr ht hx, fun b hr ht hn => tileSlot_rest hr ht hn,
      fun x f ht => ⟨_, selftestDone_ends f ht, testEnded_states f x { s with evq := { s.evq with q := [], logQ := [] } }⟩,
      fun f ht => ?_⟩⟩
  · exact congrArg Host.Outcome.next (if_pos (by simp [hr]))
  · exact congrArg Host.Outcome.next (if_pos (by simp [hr]))
  · show execSelftestStart s = _
    simp only [execSelftestStart, hd]
  · show execSelftestDone f s = _
    simp only [execSelftestDone, ht]

end Sys2Proof.Machine
end

section
/-!
SUPPORT. The harness: forwarding, timing symbols, links and break-in (R75 to R91).
-/
namespace Sys2Proof.Machine

-- one theorem after the other: the threads of many at once need more memory than the check has
set_option Elab.async false

variable {s org : State} {live brg : Bool}

/-! ### A trigger that sends no FIRE itself -/

/-- The causes that send no FIRE: another unit's, a discarded symbol, AUTO_TRIGGER. -/
def Silent (t : Trigger) : Prop := t.cause = 4 ∨ 6 ≤ t.cause

theorem far_digestAdd (d : Side) (i : Nat) (h : Far live brg org s) : Far live brg org (digestAdd d i s) := by
  unfold digestAdd
  simp [h]

theorem far_refuseRecord (d : Side) (z : Nat) (h : Far live brg org s) : Far live brg org (refuseRecord d z s) := by
  unfold refuseRecord
  exact far_setZone _ _ (far_digestAdd _ _ (far_setGirth _ _ (far_ite (far_watchMarks h) (far_post _ _ (far_watchMarks h)))))

theorem far_openRecord {t : Trigger} (ht : Silent t) (c : Cfg) (d : Side) (z first last : Nat) (active : Bool)
    (h : Far live brg org s) : Far live brg org (openRecord c d z t first last active s) := by
  have hcause : (decide (t.cause ≤ 3) || decide (t.cause = 5)) = false := by
    unfold Silent at ht
    simp only [Bool.or_eq_false_iff, decide_eq_false_iff_not]
    omega
  unfold openRecord
  refine far_ite (far_refuseRecord d z h) ?_
  extract_lets u id sends r us s1 s2 g s3 s4 s5
  have hsends : sends = false := by simp only [sends, hcause, Bool.and_false, Bool.false_and]
  have h1 : Far live brg org s1 := far_setZone _ _ (far_endDead _ _ h)
  have h2 : Far live brg org s2 := far_setGirth _ _ (far_digestAdd _ _ h1)
  have h3 : Far live brg org s3 := far_enqueue _ h2
  have h5 : Far live brg org s5 := far_postIf _ _ _ (far_watchMarks (far_setStrm _ h3))
  rw [hsends]
  exact h5

theorem far_retrigger (c : Cfg) (d : Side) (z : Nat) (source : Bool) (x : Int) (h : Far live brg org s) :
    Far live brg org (retrigger c d z source x s) := by
  unfold retrigger
  split
  · exact h
  · refine far_ite (far_setZone _ _ h) (far_postIf _ _ _ (far_digestAdd _ _ (far_setGirth _ _ (far_setZone _ _ h))))

theorem far_sourceAt {t : Trigger} (ht : Silent t) (d : Side) (z : Nat) (h : Far live brg org s) :
    Far live brg org (sourceAt t d z s) := by
  unfold sourceAt
  dsimp only
  split
  · exact h
  · exact far_ite (far_openRecord ht _ _ _ _ _ _ h) h
  · exact far_setZone _ _ h
  · exact far_retrigger _ _ _ _ _ h

theorem far_sideTrigger {t : Trigger} (ht : Silent t) (d : Side) (on : Cfg → Nat → Bool) (h : Far live brg org s) :
    Far live brg org (sideTrigger t d on s) := far_foldl _ _ h fun _ z hx => far_sourceAt ht d z hx

theorem far_sourceTrigger {t : Trigger} (ht : Silent t) (on : Cfg → Nat → Bool) (h : Far live brg org s) :
    Far live brg org (sourceTrigger t on s) := far_bothSides _ h fun d _ hx => far_sideTrigger ht d on hx

theorem far_lineArm (code : Nat) (h : Far live brg org s) : Far live brg org (lineArm code s) :=
  far_bothSides _ h fun _ _ hx => far_ite (far_foldl _ _ hx fun _ _ hy => far_setZone _ _ hy) hx

/-! ### Packets -/

/-- A packet that leaves by DOWN: what of the harness it changes, and that it changes nothing else. -/
theorem packetForward_up {k : Packet} (hf : forwards s .up = true) (hk : keepsBack s k = false) :
    ∃ t, exec (.harnessPacketForward .up k) s = .next t ∧ t.harn.outDown = some (readdress s k) ∧
      t.harn.downBusy = s.tb.mono + packetCycles (readdress s k) ∧ t.harn.outUp = s.harn.outUp ∧
      t = { s with harn := t.harn } := by
  have harrived : ∃ h, arrived k s = { s with harn := h } ∧ h.outUp = s.harn.outUp := by
    unfold arrived
    split
    · exact ⟨_, rfl, rfl⟩
    · exact ⟨s.harn, rfl, rfl⟩
  obtain ⟨h, hh, hup⟩ := harrived
  have hown : ∃ g, dropOwn k (arrived k s) = { s with harn := g } ∧ g.outUp = s.harn.outUp := by
    rw [hh]
    unfold dropOwn
    split
    · split
      · exact ⟨h, rfl, hup⟩
      · exact ⟨_, rfl, hup⟩
    · exact ⟨h, rfl, hup⟩
  obtain ⟨g, hg, hgup⟩ := hown
  refine ⟨_, congrArg Host.Outcome.next ((if_neg (by simp [hf])).trans (if_neg (by simp [hk]))), ?_⟩
  rw [hg]
  exact ⟨rfl, rfl, hgup, rfl⟩

theorem packetForward_keptBack {k : Packet} (hf : forwards s .up = true) (hk : keepsBack s k = true) :
    exec (.harnessPacketForward .up k) s = .next s :=
  congrArg Host.Outcome.next ((if_neg (by simp [hf])).trans (if_pos hk))

theorem packetForward_stopped {p : HPort} {k : Packet} (hf : forwards s p = false) :
    exec (.harnessPacketForward p k) s = .next s := congrArg Host.Outcome.next (if_pos (by simp [hf]))

theorem packetForward_down {k : Packet} (hf : forwards s .down = true) (hb : downBlock s = false) :
    exec (.harnessPacketForward .down k) s = .next (sendUp k s) :=
  congrArg Host.Outcome.next ((if_neg (by simp [hf])).trans (if_neg (by simp [hb])))

theorem downBlocked {k : Packet} (h : forwards s .down = false ∨ downBlock s = true) :
    exec (.harnessPacketForward .down k) s = .next s ∧ exec (.replyPassingUp k) s = .next s := by
  refine ⟨?_, congrArg Host.Outcome.next (if_pos (by simpa using h))⟩
  rcases h with h | h
  · exact packetForward_stopped h
  · by_cases hf : forwards s .down = true
    · exact congrArg Host.Outcome.next ((if_neg (by simp [hf])).trans (if_pos h))
    · exact packetForward_stopped (by simpa using hf)

theorem replyPassingUp_out {k : Packet} (hf : forwards s .down = true) (hb : downBlock s = false) (hk : packetOk k = true) :
    exec (.replyPassingUp k) s = .next (setHarn (fun h => { h with own := none, clearDue := false })
      (contributed k (sendUp (accumulate s k) s))) := by
  refine congrArg Host.Outcome.next ((if_neg (by simp [hf, hb])).trans ?_)
  simp only [hk, if_true]

/-- Adding to a reply leaves harness and events; it takes this unit's address, where an enumeration asks so. -/
theorem contributed_states (k : Packet) (u : State) : (contributed k u).harn = u.harn ∧ (contributed k u).evq = u.evq ∧
    (u.harn.own = none ∨ u.harn.clearDue = false → (contributed k u).pwr = u.pwr) := by
  unfold contributed
  split
  next x hx =>
    split
    next hc =>
      refine ⟨rfl, rfl, fun h => ?_⟩
      rcases h with h | h
      · rw [hx] at h
        exact nomatch h
      · simp [h] at hc
    · exact ⟨rfl, rfl, fun _ => rfl⟩
  · exact ⟨rfl, rfl, fun _ => rfl⟩

theorem contributed_clears {k : Packet} {u : State} {x : OwnReply} (ho : u.harn.own = some x) (hx : x.fits k = true)
    (hop : x.op = 0x18) (hst : x.status = 0) (hc : u.harn.clearDue = true) : (contributed k u).pwr.address = 0 := by
  unfold contributed
  simp only [ho]
  rw [if_pos (by simp [hx, hop, hst, hc])]
  rfl

theorem replyPassingUp_states {k : Packet} (hf : forwards s .down = true) (hb : downBlock s = false) (hk : packetOk k = true) :
    ∃ t, exec (.replyPassingUp k) s = .next t ∧
      t.harn.outUp = some (accumulate s k) ∧ t.harn.upBusy = s.tb.mono + packetCycles (accumulate s k) ∧
      t.harn.own = none ∧ t.harn.clearDue = false ∧ t.evq = s.evq ∧
      (∀ x, s.harn.own = some x → x.fits k = true → x.op = 0x18 → x.status = 0 → s.harn.clearDue = true →
        t.pwr.address = 0) ∧
      (s.harn.own = none ∨ s.harn.clearDue = false → t.pwr = s.pwr) := by
  obtain ⟨hh, he, hp⟩ := contributed_states k (sendUp (accumulate s k) s)
  refine ⟨_, replyPassingUp_out hf hb hk, congrArg Harness.outUp hh, congrArg Harness.upBusy hh, rfl, rfl, he,
    fun x ho hx hop hst hc => contributed_clears (u := sendUp (accumulate s k) s) ho hx hop hst hc, hp⟩

theorem replyPassingUp_bad {k : Packet} (hf : forwards s .down = true) (hb : downBlock s = false) (hk : packetOk k = false) :
    ∃ t, exec (.replyPassingUp k) s = .next t ∧ t.harn.outUp = some k ∧ t.harn.own = none ∧
      t.harn.downCrc = sat 16 (s.harn.downCrc + 1) ∧ t.pwr = s.pwr ∧ t.evq = (post evChainCrc 1 s).evq := by
  refine ⟨_, congrArg Host.Outcome.next (if_neg (by simp [hf, hb])), ?_⟩
  simp only [hk, Bool.false_eq_true, if_false]
  exact ⟨rfl, rfl, rfl, rfl, rfl⟩

/-! ### Timing symbols -/

/-- A symbol that passes on leaves the time base. -/
theorem passSymbol_tb (p : HPort) (k : TimKind) (x : TimingSym) (s : State) : (passSymbol p k x s).tb = s.tb ∧
    (passSymbol p k x s).pll = s.pll := by
  unfold passSymbol
  cases p with
  | up => exact ⟨rfl, rfl⟩
  | down => exact ⟨ite_leaves State.tb rfl rfl, ite_leaves State.pll rfl rfl⟩

theorem armSymbol_up (x : TimingSym) (ha : answers s = true) : exec (.armSymbolReceived .up x) s = .next (lineArm x.code.toNat
    (postAt evArmReceived x.code.toNat (tagOfNs (originAt s .up x / 256)) (passSymbol .up .arm x s))) :=
  congrArg Host.Outcome.next (if_neg (by simp [ha]))

/-- The trigger that a FIRE from the harness gives. -/
def fireTrigger (p : HPort) (x : TimingSym) (s : State) : Trigger where
  cause := 4
  code := x.code.toNat
  ns := originAt s p x / 256
  frac := originAt s p x % 256
  origin := x.origin.toNat
  fire := tagOfNs (originAt s p x / 256)

theorem fireSymbol_out (p : HPort) (x : TimingSym) (ha : answers s = true) : exec (.fireSymbolReceived p x) s = .next
    (postAt evFireReceived x.origin.toNat (tagOfNs (originAt s p x / 256))
      (sourceTrigger (fireTrigger p x s) trigFire (passSymbol p .fire x s))) :=
  congrArg Host.Outcome.next (if_neg (by simp [ha]))

theorem syncSymbol_off (x : TimingSym) (ha : answers s = true) (hl : lineSyncOn s = false) :
    exec (.syncSymbolReceived .up x) s = .next (passSymbol .up .sync x s) :=
  congrArg Host.Outcome.next ((if_neg (by simp [ha])).trans (if_pos (by simp [hl])))

/-- A SYNC that passed on, with the line sync that it asks for. -/
def syncQueued (x : TimingSym) (s : State) : State :=
  let t := passSymbol .up .sync x s
  { t with pll := { t.pll with syncWait := t.pll.syncWait ++ [{ line := true, due := syncDue s .up x }] } }

theorem syncSymbol_on (x : TimingSym) (ha : answers s = true) (hl : lineSyncOn s = true) :
    exec (.syncSymbolReceived .up x) s = .next (loadAtSync .up x (syncQueued x s)) :=
  congrArg Host.Outcome.next ((if_neg (by simp [ha])).trans (if_neg (by simp [hl])))

theorem syncQueued_pll (x : TimingSym) (s : State) : (syncQueued x s).pll.syncWait =
    s.pll.syncWait ++ [{ line := true, due := syncDue s .up x }] := by
  show (passSymbol .up .sync x s).pll.syncWait ++ _ = _
  rw [(passSymbol_tb .up .sync x s).2]

theorem loadAtSync_none {p : HPort} {x : TimingSym} (h : s.tb.loader = none) : loadAtSync p x s = s := by
  unfold loadAtSync
  simp only [h]

/-- The harness, the loop and what waits for a SYNC. -/
def syncView (s : State) : Harness × Pll × Option Loader := (s.harn, s.pll, s.tb.loader)

theorem quiet_syncView : Quiet syncView := fun _ _ _ => rfl

theorem syncView_stepTo (v : Nat) (b : Bool) (s : State) : syncView (stepTo v b s) = syncView s := by
  unfold stepTo
  extract_lets old size log event s1
  exact ite_leaves syncView rfl rfl

theorem syncView_finish (r : Res) (st : Nat) (res : List Word) (s : State) : syncView (finish r st res s) = syncView s := by
  unfold finish
  split <;> rfl

/-- A SYNC takes the load that waits for it. -/
theorem syncView_loadAtSync (p : HPort) (x : TimingSym) {tag : Word} (h : s.tb.loader = some (.chainSync tag)) :
    syncView (loadAtSync p x s) = (s.harn, s.pll, none) := by
  unfold loadAtSync
  simp only [h]
  rw [quiet_syncView]
  exact (syncView_finish _ _ _ _).trans (syncView_stepTo _ _ _)

theorem harn_loadAtSync (p : HPort) (x : TimingSym) (s : State) : (loadAtSync p x s).harn = s.harn := by
  unfold loadAtSync
  split
  · refine planes_leaves State.harn (fun _ _ _ => rfl) (fun u => ?_) s
    exact (congrArg Prod.fst (syncView_finish ..)).trans (congrArg Prod.fst (syncView_stepTo ..))
  · rfl

theorem symbolDiscard_plain (p : HPort) (ha : answers s = true) (hA : bit (girthCtrl s .a) 3 = false)
    (hB : bit (girthCtrl s .b) 3 = false) : exec (.timingSymbolDiscard p) s =
      .next (post evTimingSymErr (match p with | .up => 0 | .down => 1)
        { s with harn := { s.harn with timErr := sat 16 (s.harn.timErr + 1) } }) := by
  refine congrArg Host.Outcome.next ((if_neg (by simp [ha])).trans ?_)
  extract_lets s1 x
  have hboth : bothSides (fun d s => if bit (girthCtrl s d) 3 then sideTrigger (Trigger.own 7 0 (x / 256) 0) d trigFire s else s) s1 =
      s1 := by
    unfold bothSides
    dsimp only
    rw [if_neg (show ¬ bit (girthCtrl s1 .a) 3 = true by rw [show girthCtrl s1 .a = girthCtrl s .a from rfl, hA]; simp)]
    exact if_neg (show ¬ bit (girthCtrl s1 .b) 3 = true by rw [show girthCtrl s1 .b = girthCtrl s .b from rfl, hB]; simp)
  rw [hboth]
  rfl

/-- A discarded symbol is counted, and what it triggers sends nothing. -/
theorem symbolDiscard_harn (p : HPort) (ha : answers s = true) : ∃ t, exec (.timingSymbolDiscard p) s = .next t ∧
    t.harn.timErr = sat 16 (s.harn.timErr + 1) := by
  refine ⟨_, congrArg Host.Outcome.next (if_neg (by simp [ha])), ?_⟩
  have h : Far true true (setHarn (fun h => { h with timErr := sat 16 (h.timErr + 1) }) s) (bothSides (fun d u =>
      if bit (girthCtrl u d) 3 then sideTrigger (Trigger.own 7 0 (backBy s (hopOf s p) / 256) 0) d trigFire u else u)
      (setHarn (fun h => { h with timErr := sat 16 (h.timErr + 1) }) s)) :=
    far_bothSides _ (far_refl _ _ _) fun d _ hx => far_ite (far_sideTrigger (.inr (by simp [Trigger.own])) d _ hx) hx
  exact congrArg Harness.timErr h.harness

/-- Nothing that comes by the timing line is taken by a unit that does not answer. -/
theorem symbols_unanswered (p : HPort) (x : TimingSym) (ha : answers s = false) (d : BitVec 32) :
    exec (.armSymbolReceived p x) s = .next s ∧ exec (.fireSymbolReceived p x) s = .next s ∧
      exec (.syncSymbolReceived p x) s = .next s ∧ exec (.timingSymbolDiscard p) s = .next s ∧
      exec .delayProbeReceived s = .next s ∧ exec (.hopDelayUpReceived d) s = .next s := by
  refine ⟨?_, ?_, ?_, ?_, ?_, ?_⟩
  · exact congrArg Host.Outcome.next (if_pos (by simp [ha]))
  · exact congrArg Host.Outcome.next (if_pos (by simp [ha]))
  · exact congrArg Host.Outcome.next (if_pos (by simp [ha]))
  · exact congrArg Host.Outcome.next (if_pos (by simp [ha]))
  · exact congrArg Host.Outcome.next (if_neg (by simp [ha]))
  · exact congrArg Host.Outcome.next (if_neg (by simp [ha]))

theorem probe_echoed (ha : answers s = true) :
    exec .delayProbeReceived s = .next (timSend .up .echo { origin := 0, code := 0, acc := 0 } s) :=
  congrArg Host.Outcome.next (if_pos ha)

theorem hopDelay_taken (ha : answers s = true) (d : BitVec 32) :
    exec (.hopDelayUpReceived d) s = .next { s with harn := { s.harn with hopUp := d } } :=
  congrArg Host.Outcome.next (if_pos ha)

/-- Settles O46, packets first, then the timing line. -/
theorem harnessTraffic : Obligations.HarnessTraffic := by
  refine ⟨fun k s => ⟨fun hf hk => packetForward_up hf hk, fun hf hk => packetForward_keptBack hf hk, fun hf => packetForward_stopped hf,
    fun hf hb => packetForward_down hf hb, fun h => downBlocked h, fun hf hb hk => replyPassingUp_states hf hb hk,
    fun hf hb hk => replyPassingUp_bad hf hb hk⟩, fun p x s => ⟨fun ha => ?_, fun ha d => symbols_unanswered p x ha d⟩⟩
  refine ⟨?_, ?_, armSymbol_up x ha, ⟨_, rfl, rfl, rfl, rfl, rfl, rfl, fireSymbol_out p x ha⟩, fun hl => syncSymbol_off x ha hl,
    fun hl hn => ?_, fun tag hl hn => ⟨_, syncSymbol_on x ha hl, ?_⟩, fun hA hB => symbolDiscard_plain p ha hA hB,
    probe_echoed ha, hopDelay_taken ha⟩
  · exact congrArg Host.Outcome.next (if_pos (by simp))
  · exact congrArg Host.Outcome.next (if_pos (by simp))
  · rw [syncSymbol_on x ha hl, loadAtSync_none]
    · rfl
    · exact (congrArg TimeBase.loader (passSymbol_tb .up .sync x s).1).trans hn
  · have hload : (syncQueued x s).tb.loader = some (.chainSync tag) :=
      (congrArg TimeBase.loader (passSymbol_tb .up .sync x s).1).trans hn
    have h := syncView_loadAtSync .up x hload
    simp only [syncView, Prod.mk.injEq] at h
    obtain ⟨_, hpll, hnone⟩ := h
    exact ⟨hnone, by rw [hpll, syncQueued_pll]⟩

/-! ### Links and break-in -/

theorem linkLoss_up (h : s.harn.up = .locked) : ∃ t, exec (.harnessLinkLoss .up) s = .next t ∧ t.harn.up = .noLink ∧
    t.harn.down = s.harn.down ∧ t.harn.outUp = s.harn.outUp ∧ t.evq = (post evChainUpLoss 0 s).evq :=
  ⟨_, congrArg Host.Outcome.next (if_neg (by simp [linkOf, h])), rfl, rfl, rfl, rfl⟩

theorem linkLoss_down (h : s.harn.down = .locked) : ∃ t, exec (.harnessLinkLoss .down) s = .next t ∧ t.harn.down = .noLink ∧
    t.harn.up = s.harn.up ∧ t.harn.outDown = s.harn.outDown ∧ t.evq = (post evChainDownLoss 0 s).evq :=
  ⟨_, congrArg Host.Outcome.next (if_neg (by simp [linkOf, h])), rfl, rfl, rfl, rfl⟩

/-- The aux sequencer changes its own state and posts. -/
theorem goOn_leaves {β : Type} (v : State → β) (hv : ∀ (u : State) (a : Aux) (e : Events), v { u with aux := a, evq := e } = v u)
    (fuel n : Nat) (s : State) : v (goOn fuel n s) = v s := by
  have hset : ∀ (f : Aux → Aux) (u : State), v (setAux f u) = v u := fun f u => hv u (f u.aux) u.evq
  have hpass : ∀ u : State, v (passEnd u) = v u := by
    intro u
    unfold passEnd postIf
    extract_lets c s1
    exact ite_leaves v (hv u _ _) (hset _ u)
  have hover : ∀ u : State, v (runOver u).2 = v u := by
    intro u
    unfold runOver
    split
    · dsimp only; exact hset _ u
    · dsimp only; exact hset _ u
  have hnone : ∀ (m : Nat) (u : State), v (noInput m u) = v u := by
    intro m u
    unfold noInput setAuxEntry
    exact hset _ u
  have hbegin : ∀ (m : Nat) (u : State), v (beginEntry m u) = v u := by
    intro m u
    unfold beginEntry
    exact hset _ u
  induction fuel generalizing n s with
  | zero => exact hset _ s
  | succ k ih =>
    have hrun := (hover (passEnd s)).trans (hpass s)
    unfold goOn
    dsimp only
    refine ite_leaves v (ite_leaves v (ite_leaves v ((ih _ _).trans hrun) hrun) ((ih _ _).trans (hpass s))) ?_
    exact ite_leaves v (ih _ _) (ite_leaves v ((ih _ _).trans (hnone n s)) (hbegin n s))

theorem auxResume_leaves {β : Type} (v : State → β)
    (hv : ∀ (u : State) (a : Aux) (e : Events), v { u with aux := a, evq := e } = v u) (s : State) : v (auxResume s) = v s := by
  unfold auxResume
  extract_lets c a s1
  have h1 : v s1 = v s := hv s _ s.evq
  refine ite_leaves v h1 ?_
  split
  · exact h1
  · refine ite_leaves v ?_ ((goOn_leaves v hv _ _ _).trans h1)
    have hset : ∀ f : Aux → Aux, v (setAux f s1) = v s := fun f => (hv s1 (f s1.aux) s1.evq).trans h1
    have hover : v (runOver s1).2 = v s := by
      unfold runOver
      split
      · dsimp only; exact hset _
      · dsimp only; exact hset _
    exact ite_leaves v ((goOn_leaves v hv _ _ _).trans hover) hover
  · exact (goOn_leaves v hv _ _ _).trans h1

/-- Calibrations of CAL_RUN end where no start-up calibration runs. -/
theorem dropRuns_runs (h : s.cal.phase = 0) : (dropRuns s).cal.runs = [] := by
  have hpost : ∀ (d : Side) (b : Nat) (u : State), (dropTrackers d b u).cal = u.cal := fun d b u => ite_leaves State.cal rfl rfl
  have hwatch : ∀ (f : State → State) (u : State), (watchExcl f u).cal = (f u).cal := fun f u => (hpost _ _ _).trans (hpost _ _ _)
  have hlane : ∀ u : State, (fixLane u).cal = u.cal :=
    fun u => ite_leaves State.cal (ite_leaves State.cal rfl rfl) (ite_leaves State.cal rfl rfl)
  unfold dropRuns
  rw [if_neg (by simp [h])]
  extract_lets aux s0 s1
  have h1 : s1.cal.runs = [] := (congrArg Cal.runs ((hlane _).trans (hwatch _ _))).trans rfl
  exact ite_leaves (fun u => u.cal.runs) ((auxResume_leaves (fun u => u.cal.runs) (fun _ _ _ => rfl) _).trans h1) h1

theorem breakIn_out (ha : answers s = true) (hu : s.harn.up = .locked) : exec .breakIn s = .next (setHarn (fun h => { h with
    breakIn := true, lineDown := h.lineDown.drive s.tb.mono (.k 28 7) }) (resetBridle s)) :=
  congrArg Host.Outcome.next (if_pos (by simp [ha, hu]))

theorem resetBridle_harn (s : State) : (resetBridle s).harn =
    { s.harn with own := none, clearDue := false, claim := none, upBusy := 0, downBusy := 0 } := by
  show { (abandon s).harn with own := none, clearDue := false, claim := none, upBusy := 0, downBusy := 0 } = _
  rw [(abandon_far s).harness]
  rfl

/-- What a break-in ends, and what stands. -/
theorem breakIn_states (ha : answers s = true) (hu : s.harn.up = .locked) : ∃ t, exec .breakIn s = .next t ∧ t.harn.breakIn = true ∧
    t.brg.storedH = none ∧ t.brg.storedU = none ∧ t.brg.slots = List.replicate 16 .free ∧ t.brg.gate = s.brg.gate ∧
    t.tb.loader = none ∧ t.tacks.op = none ∧ (s.cal.phase = 0 → t.cal.runs = []) ∧ t.mem.fill = s.mem.fill ∧
    t.girth.dump = s.girth.dump ∧ t.harn.measuring = s.harn.measuring ∧ t.can.clear = s.can.clear ∧
    t.draft = s.draft ∧ t.live = s.live ∧ t.rw = s.rw ∧ t.nv = s.nv ∧ t.pwr = s.pwr := by
  have hf := abandon_far s
  have hb := resetBridle_brg s
  have hstoredH := congrArg Bridle.storedH hb
  have hstoredU := congrArg Bridle.storedU hb
  have hslots := congrArg Bridle.slots hb
  have hgate := congrArg Bridle.gate hb
  have hmeasuring := congrArg Harness.measuring (resetBridle_harn s)
  have hloader := congrArg TimeBase.loader hf.timeBase
  have hop := congrArg Tacks.op hf.tackState
  exact ⟨_, breakIn_out ha hu, rfl, hstoredH, hstoredU, hslots, hgate, hloader, hop,
    fun hp => dropRuns_runs (s := slotsDropped s) hp, hf.memory.2, hf.dump, hmeasuring, congrArg Cantle.clear hf.cantle,
    hf.draftCopy, hf.liveCopy, hf.stores.1, hf.stores.2, hf.power⟩

theorem breakIn_line (ha : answers s = true) (hu : s.harn.up = .locked) : ∃ t, exec .breakIn s = .next t ∧
    t.harn.lineDown = s.harn.lineDown.drive s.tb.mono (.k 28 7) := by
  refine ⟨_, breakIn_out ha hu, ?_⟩
  show (resetBridle s).harn.lineDown.drive s.tb.mono (.k 28 7) = _
  rw [resetBridle_harn]

theorem forwards_locked {p : HPort} (ha : answers s = true) (hb : s.harn.breakIn = false) (hl : linkOf s p = .locked) :
    forwards s p = true := by simp [forwards, ha, hb, hl]

/-- Settles O45: links and break-in, and the rows of harness traffic by the lemmas about them. -/
theorem linksAndBreakIn : Obligations.LinksAndBreakIn := by
  refine ⟨fun s => ⟨fun ha hl => ?_, fun ha hl => ?_, fun ha hl => ?_, fun ha hl => ?_, linkLoss_up, linkLoss_down⟩,
    fun s => ⟨breakIn_states, fun h => ?_, fun h => congrArg Host.Outcome.next (if_pos h), breakIn_line⟩,
    fun s ha => ⟨fun hb hl k hk => ?_, fun hb hl hd k => ⟨⟨_, packetForward_down (forwards_locked ha hb hl) hd, rfl⟩, fun hk => ?_⟩,
      fun x => ⟨⟨_, armSymbol_up x ha, ?_⟩, ?_, fun p => ⟨_, fireSymbol_out p x ha, ?_⟩⟩, fun p => symbolDiscard_harn p ha,
      ⟨_, probe_echoed ha, rfl⟩, fun d => ⟨_, hopDelay_taken ha d, rfl⟩⟩⟩
  · exact congrArg Host.Outcome.next (if_pos (by simp [ha, linkOf, hl]))
  · refine congrArg Host.Outcome.next ((if_pos (by simp [ha, linkOf, hl])).trans ?_)
    simp [setLink, setHarn]
  · exact congrArg Host.Outcome.next (if_pos (by simp [ha, linkOf, hl]))
  · refine congrArg Host.Outcome.next ((if_pos (by simp [ha, linkOf, hl])).trans ?_)
    simp [setLink, setHarn]
  · exact congrArg Host.Outcome.next (if_neg (by rcases h with h | h <;> simp [h]))
  · obtain ⟨t, ht, hout, _⟩ := packetForward_up (forwards_locked ha hb hl) hk
    exact ⟨t, ht, hout⟩
  · obtain ⟨t, ht, hout, _, hown, _⟩ := replyPassingUp_states (forwards_locked ha hb hl) hd hk
    exact ⟨t, ht, hout, hown⟩
  · exact congrArg Harness.timDown (far_lineArm x.code.toNat (far_postAt _ _ _ (far_refl true true _))).harness
  · by_cases hl : lineSyncOn s = true
    · refine ⟨_, syncSymbol_on x ha hl, ?_⟩
      rw [harn_loadAtSync]
      rfl
    · exact ⟨_, syncSymbol_off x ha (by simpa using hl), rfl⟩
  · have h := (far_sourceTrigger (t := fireTrigger p x s) (.inl rfl) trigFire
      (far_refl true true (passSymbol p .fire x s))).harness
    exact ⟨congrArg Harness.timUp h, congrArg Harness.timDown h⟩

end Sys2Proof.Machine
end

section
/-!
SUPPORT. The root PLL and SYNC (Table 04-6, R68 to R71).
-/
namespace Sys2Proof.Machine

-- one theorem after the other: the threads of many at once need more memory than the check has
set_option Elab.async false

variable {s : State}

/-- The loop in HOLD, as a loss of lock leaves it. -/
def holdLoop (refLost : Bool) (p : Pll) : Pll :=
  { p with state := .hold, refPresent := !refLost, refLost := refLost, synced := false, phaseKnown := false
           unlockCount := min (p.unlockCount + 1) 65535 }

/-- A loss of lock of a unit in the state u, before it is told. -/
def lockLost (refLost : Bool) (u : State) : State :=
  allDark 5 5 (duringSurge (fun r => { r with unlocks := r.unlocks + 1 }) { u with pll := holdLoop refLost u.pll })

theorem setPll_hold (b : Bool) (u : State) : setPll (fun p => { p with
    state := .hold, refPresent := !b, refLost := b, synced := false, phaseKnown := false
    unlockCount := sat 16 (p.unlockCount + 1) }) u = { u with pll := holdLoop b u.pll } := rfl

theorem loseLock_eq (b : Bool) (s : State) :
    loseLock b s = postIf b evClockLoss (b2n s.pll.refclk) (post evPllUnlock 0 (lockLost b (restoreCfg s))) := by
  unfold loseLock lockLost
  rw [setPll_hold]

theorem restoreCfg_none (h : s.pll.change = none) : restoreCfg s = s := by
  unfold restoreCfg
  simp only [h]

theorem restoreCfg_some {c : PllChange} (h : s.pll.change = some c) :
    restoreCfg s = { s with pll := { s.pll with cfg := c.old, change := some { c with restoring := true } } } := by
  unfold restoreCfg
  simp only [h]
  rfl

theorem phaseErrorLoss_out (h : pllLocked s = true) : exec .pllPhaseErrorLoss s = .next (loseLock false s) :=
  congrArg Host.Outcome.next (if_pos h)

theorem refEdgesMissing_out (h : pllLocked s = true) : exec .pllRefEdgesMissing s = .next (loseLock true s) := by
  have hs : s.pll.state = .locked := by simpa [pllLocked] using h
  show execPllRefEdgesMissing s = _
  simp only [execPllRefEdgesMissing, hs]

theorem loseLock_states (h : pllLocked s = true) :
    exec .pllPhaseErrorLoss s = .next (post evPllUnlock 0 (lockLost false (restoreCfg s))) ∧
    exec .pllRefEdgesMissing s = .next (post evClockLoss (b2n s.pll.refclk) (post evPllUnlock 0 (lockLost true (restoreCfg s)))) := by
  rw [phaseErrorLoss_out h, refEdgesMissing_out h, loseLock_eq, loseLock_eq]
  exact ⟨rfl, rfl⟩

theorem refEdgesMissing_back (h : s.pll.state = .hold ∨ s.pll.state = .relock) : exec .pllRefEdgesMissing s =
    .next { s with pll := { s.pll with state := .hold, refPresent := false } } := by
  show execPllRefEdgesMissing s = _
  rcases h with h | h <;> simp only [execPllRefEdgesMissing, h, setPll]

theorem endChange_none (h : s.pll.change = none) : endChange s = s := by
  unfold endChange
  simp only [h]

theorem endChange_some {c : PllChange} (h : s.pll.change = some c) :
    endChange s = finish .pll (if c.restoring then 0xFF else 0) [] { s with pll := { s.pll with change := none } } := by
  unfold endChange
  simp only [h, setPll]

/-- Lock after HOLD, told. -/
def lockBack (s : State) : State := postIf s.pll.refLost evClockLoss (0x8000 + b2n s.pll.refclk) (post evPllUnlock 1
  { s with pll := { s.pll with state := .locked, refPresent := true, refLost := false } })

theorem lockBack_change (s : State) : (lockBack s).pll.change = s.pll.change := by
  unfold lockBack postIf
  split <;> rfl

theorem lockDeclared_relock (h : s.pll.state = .relock) : exec .pllLockDeclared s = .next (endChange (lockBack s)) := by
  show execPllLockDeclared s = _
  simp only [execPllLockDeclared, h]
  rfl

theorem lockDeclared_locked (h : s.pll.state = .locked) : exec .pllLockDeclared s = .next (endChange s) := by
  show execPllLockDeclared s = _
  simp only [execPllLockDeclared, h]

theorem lockDeclared_first (h : s.pll.state = .start) (hd : s.pwr.dev = .starting 2) : exec .pllLockDeclared s = .next { s with
    pll := { s.pll with state := .locked, refPresent := true }
    pwr := { s.pwr with dev := .starting 3 }
    harn := driveLines s.tb.mono s.harn } := by
  show execPllLockDeclared s = _
  simp only [execPllLockDeclared, h]
  exact congrArg Host.Outcome.next (if_pos (by simp [hd]))

theorem refPresent_hold (h : s.pll.state = .hold) : exec .pllRefPresent s =
    .next { s with pll := { s.pll with state := .relock, refPresent := true } } := by
  show execPllRefPresent s = _
  simp only [execPllRefPresent, h, setPll]

theorem changeTimeout_restores {c : PllChange} (hl : s.pll.state = .locked) (h : s.pll.change = some c) (hr : c.restoring = false) :
    exec .pllChangeTimeout s = .next { s with pll := { s.pll with cfg := c.old, change := some { c with restoring := true } } } := by
  show execPllChangeTimeout s = _
  simp only [execPllChangeTimeout, h]
  exact congrArg Host.Outcome.next ((if_neg (by simp [hr, pllLocked, hl])).trans (restoreCfg_some h))

/-! ### SYNC -/

theorem syncApply_held {n : Nat} {x : SyncWait} {r : List SyncWait} (hn : nextSync s.tb.mono s.pll.syncWait = some (x, r))
    (h : pllLocked s = false ∨ s.pll.change ≠ none ∨
      ((anyAcquiring s || anyAccumulating s) = true ∧ bit (rwGet s 0x0022) 2 = false)) :
    exec (.syncApply n) s = .next (post evSyncReceived (b2n x.line + 0x8000)
      { s with pll := { s.pll with syncWait := r, syncHeld := min (s.pll.syncHeld + 1) 65535 } }) := by
  have hc : (!pllLocked s || s.pll.change.isSome || ((anyAcquiring s || anyAccumulating s) && !syncWhileAcq s)) = true := by
    rcases h with h | h | ⟨h, hb⟩
    · simp [h]
    · simp [Option.isSome_iff_ne_none.2 h]
    · rw [h, syncWhileAcq, hb]
      simp
  show execSyncApply n s = _
  simp only [execSyncApply, hn]
  exact congrArg Host.Outcome.next (if_pos hc)

/-- No divider moves where the loop's count is whole in all of them. -/
theorem movedDividers_whole {n : Nat} (hk : s.pll.phaseKnown = true) (hn : n * pllN s.pll.cfg % 24 = 0) : movedDividers s n = 0 := by
  have h2 : n * pllN s.pll.cfg % 2 = 0 := by omega
  have h4 : n * pllN s.pll.cfg % 4 = 0 := by omega
  have h12 : n * pllN s.pll.cfg % 12 = 0 := by omega
  unfold movedDividers
  simp [hk, hn, h2, h4, h12, b2n]

theorem syncApply_applied {n : Nat} {x : SyncWait} {r : List SyncWait} (hn : nextSync s.tb.mono s.pll.syncWait = some (x, r))
    (hl : pllLocked s = true) (hc : s.pll.change = none) (ha : anyAcquiring s = false) (hb : anyAccumulating s = false)
    (hk : s.pll.phaseKnown = true) (hw : n * pllN s.pll.cfg % 24 = 0) :
    ∃ t, exec (.syncApply n) s = .next t ∧ t.pll.synced = true ∧ t.pll.phaseKnown = true ∧ t.pll.syncWait = r ∧
      t.evq = (post evSyncReceived (b2n x.line) s).evq := by
  have hm : movedDividers (setPll (fun p => { p with syncWait := r }) s) n = 0 :=
    movedDividers_whole (s := setPll (fun p => { p with syncWait := r }) s) hk hw
  have hm' : movedDividers (post evSyncReceived (b2n x.line) (setPll (fun p => { p with syncWait := r }) s)) n = 0 := hm
  have hout : exec (.syncApply n) s =
      .next (applySync n (post evSyncReceived (b2n x.line) (setPll (fun p => { p with syncWait := r }) s))) := by
    show execSyncApply n s = _
    simp only [execSyncApply, hn]
    exact congrArg Host.Outcome.next ((if_neg (by simp [hl, hc, ha, hb])).trans (if_pos (by rw [hm])))
  refine ⟨_, hout, ?_⟩
  unfold applySync
  simp only [hm']
  exact ⟨rfl, rfl, rfl, rfl⟩

/-- Settles O38, state by state of Table 04-6, then SYNC. -/
theorem pllAndSync : Obligations.PllAndSync := by
  refine ⟨fun s => ⟨fun hl hc => ?_, fun c hl hc => ?_, fun h => refEdgesMissing_back (.inl h) |>.trans ?_, fun h => ⟨fun hc => ?_, fun c hc => ?_⟩,
    refPresent_hold, fun h => ⟨?_, refEdgesMissing_back (.inr h)⟩, fun h hd => lockDeclared_first h hd, fun c h hc => ?_,
    fun c hl hc hr => changeTimeout_restores hl hc hr⟩,
    fun s => ⟨rfl, fun n x r hn => ⟨fun h => syncApply_held hn h, fun hl hc ha hb hk hw => syncApply_applied hn hl hc ha hb hk hw⟩⟩⟩
  · have h := loseLock_states hl
    rw [restoreCfg_none hc] at h
    exact h
  · have h := loseLock_states hl
    rw [restoreCfg_some hc] at h
    exact h
  · rw [← h]
  · rw [lockDeclared_relock h, endChange_none ((lockBack_change s).trans hc)]
    rfl
  · rw [lockDeclared_relock h, endChange_some ((lockBack_change s).trans hc)]
    rfl
  · exact congrArg Host.Outcome.next (if_pos (by simp [h]))
  · rw [lockDeclared_locked h, endChange_some hc]

end Sys2Proof.Machine
end

section
/-!
SUPPORT. The ends of deferred work (R52, R87, R242, R279, R352, R360, R383).
-/
namespace Sys2Proof.Machine

-- one theorem after the other: the threads of many at once need more memory than the check has
set_option Elab.async false

variable {s : State}

/-! ### Resets, hop delay, time load, LOG_CLEAR, CAL_RUN -/

theorem restartAcq_idle {d : Side} (h : acquiring s d = false) : restartAcq d s = s := if_pos (by simp [h])

theorem bothSides_idle {f : Side → State → State} (ha : f .a s = s) (hb : f .b s = s) : bothSides f s = s := by
  unfold bothSides
  rw [ha, hb]

/-- Events in a queue of their own first: what runs on equal states gives equal ones. -/
theorem planes_congr {f g : State → State}
    (h : f { s with evq := { s.evq with q := [], logQ := [] } } = g { s with evq := { s.evq with q := [], logQ := [] } }) :
    planes f s = planes g s := by
  unfold planes
  rw [h]

theorem resetSoftDone_level0 (hs : s.pwr.soft = some 0) (ha : acquiring s .a = false) (hb : acquiring s .b = false)
    (f : Option (Nat × Nat)) : exec (.resetSoftDone f) s = .next
      (planes (finish .reset stOk []) { s with pwr := { s.pwr with soft := none } }) := by
  show execResetSoftDone f s = _
  simp only [execResetSoftDone, hs]
  exact congrArg Host.Outcome.next (planes_congr (congrArg (finish .reset stOk [])
    (bothSides_idle (restartAcq_idle ha) (restartAcq_idle hb))))

theorem resetSoftDone_level1 (hs : s.pwr.soft = some 1) :
    exec (.resetSoftDone none) s = .next (finish .reset stOk [] (initDram none { s with pwr := { s.pwr with soft := none } })) ∧
    ∀ f, exec (.resetSoftDone (some f)) s = .next (finish .reset stInternal [] (post evDramTrainFail (trainDetail f)
      (initDram (some f) { s with pwr := { s.pwr with soft := none } }))) := by
  refine ⟨?_, fun f => ?_⟩
  · show execResetSoftDone none s = _
    simp only [execResetSoftDone, hs]
    rfl
  · show execResetSoftDone (some f) s = _
    simp only [execResetSoftDone, hs]
    rfl

/-- Half of an even number is exact. -/
theorem halfTrip_even (r : Nat) : halfTrip (2 * r) = BitVec.ofNat 32 r := by
  have h : Config.quot 87 ((2 * r : Nat) : Int) 2 = (r : Int) := by
    rw [Config.quot, if_pos (by omega)]
    omega
  rw [halfTrip, h]
  exact BitVec.ofInt_natCast ..

theorem delayMeasured (r : Nat) (h : s.harn.measuring = true) : ∃ t, exec (.chainDelayMeasureDone (2 * r)) s = .next t ∧
    t.harn.hopDown = BitVec.ofNat 32 r ∧ t.harn.sentDelay = some (BitVec.ofNat 32 r) ∧ t.harn.measuring = false ∧
    t.harn.hopUp = s.harn.hopUp := by
  refine ⟨_, congrArg Host.Outcome.next (if_pos h), ?_⟩
  rw [halfTrip_even]
  unfold delayDone
  rw [finish_harn]
  exact ⟨rfl, rfl, rfl, rfl⟩

theorem nearFull_brg (s : State) : (nearFull s).brg = s.brg := by
  unfold nearFull postIf
  exact ite_leaves State.brg rfl rfl

theorem nearFull_can (s : State) : (nearFull s).can.clear = s.can.clear ∧ (nearFull s).can.log = s.can.log ∧
    (nearFull s).can.logNext = s.can.logNext := by
  unfold nearFull
  extract_lets up
  rw [postIf_can]
  exact ⟨rfl, rfl, rfl⟩

/-- What LOG_CLEAR changes at its end: the log, the clears that wait, and the command's slot. -/
theorem logClearDone_states {u : BitVec 32} {r : List (BitVec 32)} (h : s.can.clear = u :: r) :
    ∃ t, exec .logClearDone s = .next t ∧ t.can.clear = r ∧ (r ≠ [] → t.brg.slots = s.brg.slots) ∧
      (∀ k, r = [] → s.brg.slots.findIdx? (· == .running .log) = some k → t.brg.slots = s.brg.slots.set k (.done 0 [])) ∧
      t.can.log = s.can.log.drop ((logSkip s u).getD s.can.log.length) ∧ t.can.logNext = s.can.logNext := by
  let f : State → State := fun s => endsFor (decide (r ≠ [])) (finish .log stOk []) (nearFull s)
  let s1 := setCan (fun c => { c with log := c.log.drop ((logSkip s u).getD s.can.log.length), clear := r }) s
  have hout : exec .logClearDone s = .next (planes f s1) := by
    show execLogClearDone s = _
    simp only [execLogClearDone, h]
    rfl
  have hleaves : ∀ {β : Type} (v : State → β), (∀ x e b, v { x with evq := e, brg := b } = v x) →
      (∀ x, v (nearFull x) = v x) → ∀ x, v (f x) = v x := by
    intro β v hv hn x
    refine (endsFor_leaves v (fun x b => hv x x.evq b) (fun x => ?_) _ _).trans (hn x)
    unfold finish
    split
    · exact hv x _ _
    · rfl
  have hclear : ∀ x, (nearFull x).can.clear = x.can.clear := fun x => (nearFull_can x).1
  have hlog : ∀ x, (nearFull x).can.log = x.can.log := fun x => (nearFull_can x).2.1
  have hnext : ∀ x, (nearFull x).can.logNext = x.can.logNext := fun x => (nearFull_can x).2.2
  let s2 : State := { s1 with evq := { s1.evq with q := [], logQ := [] } }
  have hslots : (planes f s1).brg.slots = (f s2).brg.slots := rfl
  have hbrg : (nearFull s2).brg = s.brg := (nearFull_brg s2).trans rfl
  refine ⟨_, hout, hleaves (fun x => x.can.clear) (fun _ _ _ => rfl) hclear s2, fun hr => ?_, fun k hr hk => ?_,
    hleaves (fun x => x.can.log) (fun _ _ _ => rfl) hlog s2, hleaves (fun x => x.can.logNext) (fun _ _ _ => rfl) hnext s2⟩
  · exact hslots.trans ((endsFor_slots (by simpa using hr)).trans (congrArg Bridle.slots hbrg))
  · have hf : f s2 = finish .log stOk [] (nearFull s2) := if_neg (by simp [hr])
    have hk' : (nearFull s2).brg.slots.findIdx? (· == .running .log) = some k := by rw [hbrg, hk]
    rw [hslots, hf, finish]
    simp only [hk']
    show (nearFull s2).brg.slots.set k _ = _
    rw [hbrg]
    rfl

theorem acqStopped_ends {d : Side} (ha : acquiring s d = true) (hs : (s.girth.side d).stopping = true)
    (hn : (s.lash.get d).shots = []) (hw : (s.girth.waiting.any fun o => o.side == d) = false) :
    exec (.acqStopped d) s = .next (planes (endAcq d 0) s) :=
  congrArg Host.Outcome.next (if_pos (by simp [ha, hs, hn, hw]))

theorem calRunDone_one {r : CalRun} (hr : s.cal.runs = [r]) (hl : r.left = 0) : exec .calRunDone s = .next
    (planes (fun t => finish (.cal r.mask) stOk [mk [(0, 17, r.late.toNat), (32, 17, r.low.toNat)]] (post evCalDone 1 t))
      { s with cal := { s.cal with runs := [] } }) := by
  show execCalRunDone s = _
  have hended : (s.cal.runs.filter fun r => r.left = 0) = [r] := by simp [hr, hl]
  have hrest : (s.cal.runs.filter fun r => r.left ≠ 0) = [] := by simp [hr, hl]
  unfold execCalRunDone planes
  simp only [hended, hrest, List.foldl_cons, List.foldl_nil]

/-! ### DMA_ABORT -/

/-- What says where the host's part of the memory ends, and the channels. -/
def placeView (s : State) : Nat × Bool × Store × Dma := (s.mem.fitted, s.mem.ecc, s.rw, s.dma)

theorem placeView_wakeAt (a : Nat) (s : State) : placeView (wakeAt a s) = placeView s := ite_leaves placeView rfl rfl

theorem placeView_hostPut (a : Nat) (ws : List Word) (s : State) : placeView (hostPut a ws s) = placeView s := by
  unfold hostPut
  rw [placeView_wakeAt]
  exact ite_leaves placeView rfl rfl

theorem placeView_wordsFound (port : Nat) (acc : Access) (a n : Nat) (s : State) :
    placeView (wordsFound port acc a n s) = placeView s := by
  refine foldl_leaves placeView (fun t i => ?_) _ _
  split
  · exact ite_leaves placeView rfl rfl
  · exact ite_leaves placeView rfl rfl
  · rfl

theorem placeView_accessDone (acc : Access) (a n : Nat) (s : State) : placeView (accessDone acc a n s) = placeView s := by
  cases acc with
  | ok => exact placeView_wakeAt a s
  | timeout => exact placeView_wakeAt a _
  | corrected => exact (placeView_wordsFound ..).trans (placeView_wakeAt a s)
  | ecc => exact (placeView_wordsFound ..).trans (placeView_wakeAt a s)

/-- A burst of a channel: the memory's parts stand, and the channel keeps its descriptor and fetches none. -/
structure BurstDone (n : Nat) (s t : State) : Prop where
  fitted : t.mem.fitted = s.mem.fitted
  ecc    : t.mem.ecc = s.mem.ecc
  rw     : t.rw = s.rw
  desc   : (chan t n).desc = (chan s n).desc
  phase  : (chan s n).phase ≠ .fetch → (chan t n).phase ≠ .fetch

theorem burstDone_of_view {n : Nat} {t : State} (h : placeView t = placeView s) : BurstDone n s t := by
  simp only [placeView, Prod.mk.injEq] at h
  obtain ⟨hf, he, hr, hd⟩ := h
  have hc : chan t n = chan s n := by rw [chan, chan, hd]
  exact ⟨hf, he, hr, by rw [hc], by rw [hc]; exact id⟩

theorem BurstDone.trans {n : Nat} {t u : State} (h : BurstDone n s t) (h' : BurstDone n t u) : BurstDone n s u :=
  ⟨h'.fitted.trans h.fitted, h'.ecc.trans h.ecc, h'.rw.trans h.rw, h'.desc.trans h.desc, fun hp => h'.phase (h.phase hp)⟩

/-- A channel that is written: the record itself, or none where it is not one of the list. -/
theorem chan_setChan (n : Nat) (f : DmaChan → DmaChan) (s : State) :
    chan (setChan n f s) n = f (chan s n) ∨ chan (setChan n f s) n = chan s n := by
  unfold chan setChan upd
  dsimp only
  by_cases h : n < s.dma.chans.length
  · left
    simp [List.getD, List.getElem?_modify, List.getElem?_eq_getElem h]
  · right
    rw [List.modify_eq_self (by omega)]

theorem burstDone_setChan {n : Nat} {f : DmaChan → DmaChan} (hd : (f (chan s n)).desc = (chan s n).desc)
    (hp : (f (chan s n)).phase ≠ .fetch) : BurstDone n s (setChan n f s) := by
  refine ⟨rfl, rfl, rfl, ?_, fun h => ?_⟩
  · rcases chan_setChan n f s with hc | hc <;> rw [hc]
    exact hd
  · rcases chan_setChan n f s with hc | hc <;> rw [hc]
    · exact hp
    · exact h

theorem burstDone_moveBurst (n : Nat) (b : Burst) (s : State) : BurstDone n s (moveBurst n b s) := by
  unfold moveBurst
  extract_lets c ws done s1 s2
  have h1 : placeView s1 = placeView s := by
    simp only [s1]
    split <;> rfl
  have h2 : placeView s2 = placeView s := by
    simp only [s2]
    split
    · exact (placeView_hostPut ..).trans h1
    · exact h1
  refine (burstDone_of_view h2).trans (burstDone_setChan rfl ?_)
  dsimp only
  split <;> simp

theorem burstDone_dataBurst (n : Nat) (b : Burst) (acc : Access) (s : State) : BurstDone n s (dataBurst n b acc s).2 := by
  unfold dataBurst
  extract_lets put at' x s1
  have h1 : BurstDone n s s1 := burstDone_of_view (placeView_accessDone ..)
  clear_value s1
  cases x with
  | ok => exact h1.trans (burstDone_moveBurst n b s1)
  | corrected => exact h1.trans (burstDone_moveBurst n b s1)
  | timeout =>
    refine h1.trans (burstDone_of_view ?_)
    exact ite_leaves placeView ((placeView_hostPut ..).trans rfl) rfl
  | ecc => exact h1

theorem burstDone_runBurst (n : Nat) (acc : Access) (s : State) : BurstDone n s (runBurst n acc s).2 := by
  have hself : BurstDone n s s := burstDone_of_view rfl
  have hdata : ∀ (b : Burst) (x : Access) (u : State), BurstDone n u (if b.cause ≠ 0 then (b.cause, u) else dataBurst n b x u).2 := by
    intro b x u
    split
    · exact burstDone_of_view rfl
    · exact burstDone_dataBurst n b x u
  unfold runBurst
  extract_lets b data
  split
  · exact hdata b acc s
  next a =>
    split
    · exact hself
    · extract_lets met x s1
      have h1 : BurstDone n s s1 := burstDone_of_view (placeView_accessDone ..)
      split
      · exact h1
      · exact h1.trans (hdata b _ s1)

theorem burstDone_lastBurst (n : Nat) (s : State) : BurstDone n s (lastBurst n s) := by
  unfold lastBurst
  split
  · exact burstDone_of_view rfl
  · extract_lets x s1
    have h1 : BurstDone n s s1 := burstDone_of_view rfl
    split
    · exact h1
    · exact h1.trans (burstDone_runBurst n _ s1)

theorem BurstDone.descPlace {n : Nat} {t : State} (h : BurstDone n s t) (a : Nat) : descPlace t a = descPlace s a := by
  have hcap : usableCap t = usableCap s := by
    unfold usableCap
    rw [h.fitted, h.ecc]
  have hend : hostEnd t = hostEnd s := by simp only [hostEnd, hcap, historySize, dumpSize, elasticSize, rwGet, h.rw]
  unfold Machine.descPlace inHost
  rw [hend]

theorem lastBurst_none {n : Nat} (h : (chan s n).phase ≠ .burst) : lastBurst n s = s := if_pos (by simpa using h)

theorem dmaAbortDone_ends {n : Nat} (hn : n < 16) (hr : (chan s n).state = .running) (ha : (chan s n).abort = true)
    (hp : (chan s n).phase ≠ .fetch) (hd : descPlace s (chan s n).desc = true) (hb : bulkWaits s (chan s n).desc = false) :
    exec (.dmaAbortDone n) s = .next
      (finishAll (.dmaAbort n) stOk [BitVec.ofNat 64 (chan s n).desc, BitVec.ofNat 64 (chan (lastBurst n s) n).done]
        (setChan n (fun c => { c with state := .aborted, abort := false, kick := false })
          (hostPut ((chan s n).desc + 8) [mk [(0, 2, 3), (32, 32, (chan (lastBurst n s) n).done)]] (lastBurst n s)))) := by
  have h := burstDone_lastBurst n s
  refine congrArg Host.Outcome.next ((if_neg (by simp [hn, hr, ha, hd, hb])).trans ?_)
  have hphase : ¬ ((chan (lastBurst n s) n).phase == .fetch) = true := by simpa using h.phase hp
  have hplace : descPlace (lastBurst n s) (chan s n).desc = true := (h.descPlace _).trans hd
  simp only [if_neg hphase, h.desc, hplace, if_true]

/-- Settles O41, work by work. -/
theorem deferredWorkEnds : Obligations.DeferredWorkEnds := by
  intro s
  refine ⟨fun hs ha hb f => resetSoftDone_level0 hs ha hb f, fun hs => resetSoftDone_level1 hs, fun r h => delayMeasured r h,
    fun h => congrArg Host.Outcome.next (if_pos h), fun u r h => logClearDone_states h,
    fun d ha hs hn hw => acqStopped_ends ha hs hn hw, fun r hr hl => calRunDone_one hr hl,
    fun n hn hr ha hp hd hb => ⟨dmaAbortDone_ends hn hr ha hp hd hb, lastBurst_none⟩⟩

end Sys2Proof.Machine
end

section
/-!
SUPPORT. The thermal path: shots, accumulations and their computation (R144, R219 to R229).
-/
namespace Sys2Proof.Machine

-- one theorem after the other: the threads of many at once need more memory than the check has
set_option Elab.async false

variable {s t : State} {d : Side}

/-! ### A Raman shot -/

theorem ramanRange_therm (d : Side) (tr : List Word) (lane : Nat) (s : State) : (ramanRange d tr lane s).therm = s.therm := by
  unfold ramanRange
  extract_lets i blank up now any
  exact ite_leaves State.therm rfl rfl

theorem ramanRange_cfg (d : Side) (tr : List Word) (lane : Nat) (s : State) (e : Side) :
    cfgOf (ramanRange d tr lane s) e = cfgOf s e := by
  unfold ramanRange
  extract_lets i blank up now any
  exact ite_leaves (cfgOf · e) rfl rfl

/-- A trace counts as a shot unless a settle group marks it or the accumulation is complete. -/
theorem addTrace_shots (d : Side) (tr : List Word) (s : State) : ((addTrace d tr s).therm.get d).shots =
    if tr.any (fun w => bit w 17 || bit w 49) || thShots (cfgOf s d) d ≤ (s.therm.get d).shots then (s.therm.get d).shots
    else (s.therm.get d).shots + 1 := by
  unfold addTrace
  extract_lets t a b s1
  split
  · rfl
  · rw [postIf_therm]
    simp only [s1, setTherm_therm, Both.get_set_same]
    rfl

theorem ramanShot_counts (tr : List RamanSample) (h : ramanReady s d = true) :
    ∃ t, exec (.ramanShot d tr) s = .next t ∧ (t.therm.get d).shots =
      (if s.cal.raman.getLsbD d.num = true ∨
            (ramanWords (cfgOf s d) d (decide ((s.lash.get d).settleLeft ≠ 0)) (tr.take (thTrace (cfgOf s d) d + 2))).any
            (fun w => bit w 17 || bit w 49) = true ∨
          thShots (cfgOf s d) d ≤ (s.therm.get d).shots then (s.therm.get d).shots else (s.therm.get d).shots + 1) := by
  refine ⟨_, if_neg (by simp [h]), ?_⟩
  by_cases hc : s.cal.raman.getLsbD d.num = true
  · rw [if_pos hc, if_pos (.inl hc)]
    rfl
  · rw [if_neg hc, addTrace_shots, ramanRange_cfg, ramanRange_cfg, ramanRange_therm, ramanRange_therm]
    simp only [hc, Bool.false_eq_true, false_or, Bool.or_eq_true, decide_eq_true_eq]
    rfl

/-! ### The end of a computation -/

/-- The completion under computation, and how many were completed. -/
def compOf (d : Side) (s : State) : Option Completion × Nat := ((s.therm.get d).comp, (s.therm.get d).completed)

theorem compOf_setTherm {f : Thermal → Thermal} (s : State) (hc : ∀ t, (f t).comp = t.comp := by intro t; rfl)
    (hn : ∀ t, (f t).completed = t.completed := by intro t; rfl) : compOf d (setTherm d f s) = compOf d s := by
  simp only [compOf, setTherm_therm, Both.get_set_same, hc, hn]

theorem compOf_of_therm (h : t.therm = s.therm) : compOf d t = compOf d s := by rw [compOf, compOf, h]

theorem TriggerOnly.therm (h : TriggerOnly s t) : t.therm = s.therm := by
  obtain ⟨_, _, _, _, _, _, _, rfl⟩ := h
  rfl

theorem StreamOnly.therm (h : StreamOnly s t) : t.therm = s.therm := h.trigger.therm

theorem sideTrigger_therm (x : Trigger) (d : Side) (on : Cfg → Nat → Bool) (s : State) : (sideTrigger x d on s).therm = s.therm :=
  foldl_leaves State.therm (fun u z => (sourceAt_trigger x d z u).therm) _ s

theorem compOf_keepChannel (c : Cfg) (z ord : Nat) (tag : Word) (x : Nat × Nat) (s : State) :
    compOf d (keepChannel c d z ord tag x s) = compOf d s := by
  unfold keepChannel
  extract_lets r s1 t old a n n'
  exact ite_leaves (compOf d) rfl (compOf_setTherm _)

theorem compOf_thermalChannel (c : Cfg) (z : Nat) (ord : Option Nat) (tag : Word) (x : Nat × Nat) (s : State) :
    compOf d (thermalChannel c d z ord tag x s) = compOf d s := by
  unfold thermalChannel
  extract_lets s1
  have h1 : compOf d s1 = compOf d s := by
    cases ord with
    | none => rfl
    | some k => exact compOf_keepChannel c z k tag x s
  exact ite_leaves (compOf d) h1 h1

theorem compOf_zoneAlarm (c : Cfg) (z : Nat) (tag : Word) (s : State) : compOf d (zoneAlarm c d z tag s) = compOf d s := by
  unfold zoneAlarm
  extract_lets a p now up
  refine ite_leaves (compOf d) ((compOf_of_therm (sideTrigger_therm ..)).trans ?_) (ite_leaves (compOf d) ?_ rfl)
  · rw [compOf_of_therm (post_therm ..)]
    exact compOf_setTherm s
  · rw [compOf_of_therm (post_therm ..)]
    exact compOf_setTherm s

theorem compOf_enqueueAll (l : List Frame) (s : State) : compOf d (enqueueAll l s) = compOf d s :=
  compOf_of_therm (foldl_leaves State.therm (fun u f => (enqueue_streamOnly f u).therm) l s)

theorem compOf_thermalZone (x : Completion) (tag : Word) (z : Nat) (l : List (Nat × Nat)) (s : State) :
    compOf d (thermalZone d x tag z l s) = compOf d s := by
  unfold thermalZone
  extract_lets c s1 s2
  have h1 : compOf d s1 = compOf d s := foldl_leaves (compOf d) (fun u y => compOf_thermalChannel ..) _ s
  have h2 : compOf d s2 = compOf d s := ite_leaves (compOf d) h1 ((compOf_zoneAlarm ..).trans h1)
  exact ite_leaves (compOf d) ((compOf_enqueueAll ..).trans h2) h2

theorem compOf_histograms (c : Cfg) (r : Nat) (tag : Word) (s : State) : compOf d (histograms c d r tag s) = compOf d s := by
  unfold histograms
  extract_lets every n due s1
  have h1 : compOf d s1 = compOf d s := by
    simp only [s1]
    exact compOf_setTherm s
  refine ite_leaves (compOf d) ((foldl_leaves (compOf d) (fun u z => ?_) _ s1).trans h1) h1
  exact compOf_of_therm (enqueue_streamOnly _ u).therm

theorem compOf_computeThermal (x : Completion) (s : State) : compOf d (computeThermal d x s) = compOf d s := by
  unfold computeThermal
  extract_lets b tag s1
  have h1 : compOf d s1 = compOf d s := by
    simp only [s1]
    exact compOf_setTherm s
  exact (compOf_histograms ..).trans ((foldl_leaves (compOf d) (fun u y => compOf_thermalZone ..) _ s1).trans h1)

theorem compOf_clearSums (s : State) : compOf d (clearSums d s) = compOf d s := rfl

theorem compOf_thermalEnter (r : Nat) (s : State) : compOf d (thermalEnter d r s) = compOf d s := by
  unfold thermalEnter
  refine ite_leaves (compOf d) rfl (ite_leaves (compOf d) ?_ ?_)
  · exact compOf_setTherm s
  · rw [compOf_clearSums]
    exact compOf_setTherm s

theorem compOf_ramanStart (s : State) : compOf d (ramanStart d s) = compOf d s := by
  unfold ramanStart
  exact ite_leaves (compOf d) (compOf_setTherm s) rfl

theorem thermalComputationDone_releases (h : (s.therm.get d).comp ≠ none) : ∃ t, exec (.thermalComputationDone d) s = .next t ∧
    (t.therm.get d).comp = none ∧ (t.therm.get d).completed = (s.therm.get d).completed := by
  obtain ⟨x, hx⟩ := Option.ne_none_iff_exists'.1 h
  refine ⟨_, rfl, ?_⟩
  simp only [hx]
  have hcomp : compOf d (computeThermal d x s) = compOf d s := compOf_computeThermal x s
  have hclear : compOf d (clearSums d (setTherm d (fun t => { t with comp := none }) (computeThermal d x s))) =
      (none, (s.therm.get d).completed) := by
    show ((((computeThermal d x s).therm.set d _).get d).comp, (((computeThermal d x s).therm.set d _).get d).completed) = _
    rw [Both.get_set_same]
    exact congrArg (Prod.mk none) (congrArg Prod.snd hcomp)
  rw [show ∀ u : State, (u.therm.get d).comp = (compOf d u).1 from fun _ => rfl,
    show ∀ u : State, (u.therm.get d).completed = (compOf d u).2 from fun _ => rfl, compOf_ramanStart,
    ite_leaves (compOf d) hclear ((compOf_thermalEnter ..).trans hclear)]
  exact ⟨rfl, rfl⟩

theorem accumulationComplete_states (hs : thShots (cfgOf s d) d ≤ (s.therm.get d).shots) (hc : (s.therm.get d).computing = false) :
    ∃ t x, exec (.accumulationComplete d) s = .next t ∧ (t.therm.get d).comp = some x ∧
      x.route = (s.therm.get d).route ∧ x.first = (s.therm.get d).first ∧ x.last = (s.therm.get d).last ∧
      x.tref = (s.therm.get d).tref ∧ x.age = refAge s d ∧ x.cfg = cfgOf s d ∧ x.held = (s.therm.get d).held ∧
      (t.therm.get d).shots = 0 ∧ (t.therm.get d).running = false ∧
      (t.therm.get d).completed = ((s.therm.get d).completed + 1) % 2 ^ 32 ∧
      t = { s with therm := t.therm, evq := t.evq } := by
  obtain ⟨t, ht, hout⟩ : ∃ t, t = _ ∧ exec (.accumulationComplete d) s = .next t :=
    ⟨_, rfl, congrArg Host.Outcome.next (if_pos (by simp [hs, hc]))⟩
  have htherm := congrArg State.therm ht
  rw [postIf_therm, post_therm, setTherm_therm] at htherm
  refine ⟨t, _, hout, by rw [htherm, Both.get_set_same], rfl, rfl, rfl, rfl, rfl, rfl, rfl, ?_, ?_, ?_, ?_⟩
  · rw [htherm, Both.get_set_same]
  · rw [htherm, Both.get_set_same]
  · rw [htherm, Both.get_set_same]
  · rw [ht]
    unfold postIf
    split <;> rfl

/-- Settles O53: shot, completion and the end of the computation in their order. -/
theorem thermalEvents : Obligations.ThermalEvents := by
  intro d s
  refine ⟨fun tr h => ramanShot_counts tr h, fun tr h => if_pos (by simp [h]), fun hs hc => accumulationComplete_states hs hc,
    fun h => thermalComputationDone_releases h, fun h => ?_⟩
  show execThermalComputationDone d s = _
  simp only [execThermalComputationDone, h]

end Sys2Proof.Machine
end

section
/-!
SUPPORT. The converters and their background calibration (R154, R161, R365, R366).
-/
namespace Sys2Proof.Machine

-- one theorem after the other: the threads of many at once need more memory than the check has
set_option Elab.async false

variable {s : State}

/-! ### Over-range bursts -/

theorem overrangeBurst_states {m r : List OverSample} {b : BitVec 8 × Bool} (hn : burstLanes s ≠ 0) (hb : findBurst s m r = some b) :
    ∃ t, exec (.overrangeBurst m r) s = .next t ∧ t.recv.burstAt = some s.tb.mono ∧
      (s.recv.burstAt = none → t.evq = (post evAdcOverrangeBurst (b.1.toNat + 256 * b2n b.2) s).evq) := by
  refine ⟨_, if_neg hn, ?_⟩
  simp only [hb]
  refine ⟨ite_leaves (fun t => t.recv.burstAt) rfl rfl, fun h => ?_⟩
  simp only [h, if_true]
  rfl

theorem overrangeBurst_none {m r : List OverSample} (h : burstLanes s = 0 ∨ findBurst s m r = none) :
    exec (.overrangeBurst m r) s = .next s := by
  show execOverrangeBurst m r s = _
  unfold execOverrangeBurst
  rcases h with h | h
  · exact if_pos h
  · simp only [h, ite_self]

/-! ### Dwells of the shadow converter -/

/-- The converters' part of the state, but for the lanes and what a dwell starts. -/
def dwellsOf (s : State) : Nat := s.recv.dwells

theorem dwellsOf_watchExcl (f : State → State) (s : State) : dwellsOf (watchExcl f s) = dwellsOf (f s) := by
  have hdrop : ∀ (d : Side) (b : Nat) (u : State), dwellsOf (dropTrackers d b u) = dwellsOf u :=
    fun d b u => ite_leaves dwellsOf rfl rfl
  exact (hdrop _ _ _).trans (hdrop _ _ _)

theorem dwellsOf_retireSlice (n x : Nat) (s : State) : dwellsOf (retireSlice n x s) = dwellsOf s := by
  unfold retireSlice
  extract_lets had s0 s1 l bad
  have h0 : dwellsOf s0 = dwellsOf s := (dwellsOf_watchExcl ..).trans rfl
  have h1 : dwellsOf s1 = dwellsOf s := by
    refine Eq.trans (?_ : _ = dwellsOf (if had && (lane s0 n).out.isNone then giveBack s0 else s0)) ?_
    · rfl
    · refine ite_leaves dwellsOf ?_ h0
      unfold giveBack
      exact ite_leaves dwellsOf h0 h0
  exact Eq.trans rfl h1

theorem dwellsOf_creditVerdict (n p v : Nat) (s : State) : dwellsOf (creditVerdict n p v s) = dwellsOf s := by
  unfold creditVerdict
  extract_lets x set s1
  have h1 : dwellsOf s1 = dwellsOf s := rfl
  exact ite_leaves dwellsOf rfl (ite_leaves dwellsOf rfl
    (ite_leaves dwellsOf ((dwellsOf_retireSlice ..).trans h1) h1))

theorem dwellsOf_laneFailure (n : Nat) (s : State) : dwellsOf (laneFailure n s) = dwellsOf s := by
  unfold laneFailure
  extract_lets twice s1
  exact ite_leaves dwellsOf rfl rfl

theorem dwellsOf_laneToTest (n : Nat) (b : Bool) (s : State) : dwellsOf (laneToTest n b s) = dwellsOf s :=
  ite_leaves dwellsOf rfl rfl

/-- The end of a dwell: the verdicts, and the lane that comes next. -/
def dwellEnded (samples : List Comparison) (s : State) : State :=
  let n := s.recv.lane
  let counts := (List.range 8).map (dwellCount s samples)
  let vs := counts.map (verdict s)
  let s1 := setRecv (fun r => { r with tally := counts }) <|
    laneToTest n (vs.contains 3) (setRecv (fun r => { r with dwells := (r.dwells + 1) % 65536 }) s)
  moveLane (if 4 ≤ vs.countP (· = 3) then laneFailure n s1
    else vs.zipIdx.foldl (fun s v => creditVerdict n v.2 v.1 s) (setRecv (fun r => { r with lastFail := none }) s1))

theorem dwellEnded_counts (x : List Comparison) (s : State) : dwellsOf (dwellEnded x s) = (s.recv.dwells + 1) % 65536 := by
  unfold dwellEnded
  extract_lets n counts vs s1
  have h1 : dwellsOf s1 = (s.recv.dwells + 1) % 65536 :=
    Eq.trans (b := dwellsOf (laneToTest n (vs.contains 3)
      (setRecv (fun r => { r with dwells := (r.dwells + 1) % 65536 }) s))) rfl (dwellsOf_laneToTest ..)
  refine ite_leaves dwellsOf ((dwellsOf_laneFailure n s1).trans h1)
    ((foldl_leaves dwellsOf (fun u v => dwellsOf_creditVerdict n v.2 v.1 u) vs.zipIdx _).trans ?_)
  exact h1

theorem shadowDwellEnd_counts (x : List Comparison) (h : dwelling s = true) :
    ∃ t, exec (.shadowDwellEnd x) s = .next t ∧ t.recv.dwells = (s.recv.dwells + 1) % 65536 :=
  ⟨dwellEnded x s, if_neg (by simp [h]), dwellEnded_counts x s⟩

/-! ### Lanes and groups written -/

theorem lane_setLane {n : Nat} (f : Lane → Lane) (hn : n < s.recv.lanes.length) : lane (setLane n f s) n = f (lane s n) := by
  simp [lane, setLane, upd, List.getD, List.getElem?_modify, List.getElem?_eq_getElem hn]

theorem backgroundTrim_borrows {n : Nat} {tr : List Word} {f : List Nat} (hs : Sound s) (hn : n < 8) (hbg : bgOn s = true)
    (hms : sliceMs s ≠ 0) (hdeg : (lane s n).degraded = 0) (hfg : foreground s n = false) (hsus : s.recv.suspect = false)
    (hbor : s.recv.borrowed = false) (hout : (lane s n).out = none) (htr : (lane s n).trimmable ≠ []) :
    ∃ t, exec (.backgroundSliceTrim n tr f) s = .next t ∧ t.recv.borrowed = true ∧ (lane t n).outTrims = tr ∧
      ∃ x ∈ (lane s n).trimmable, (lane t n).out = some x := by
  have hlen : n < s.recv.lanes.length := by rw [hs.lanes]; exact hn
  have hpos : 0 < (lane s n).trimmable.length := List.length_pos_iff.2 htr
  have hk : Config.free 365 s.drawn % (lane s n).trimmable.length < (lane s n).trimmable.length := Nat.mod_lt _ hpos
  refine ⟨_, congrArg Host.Outcome.next (if_pos ?_), rfl, ?_, _, List.getElem_mem hk, ?_⟩
  · simp [hn, hbg, hms, hdeg, hfg, hsus, hbor, hout, htr]
  · exact congrArg Lane.outTrims (lane_setLane (s := { s with drawn := s.drawn + 1 }) _ hlen)
  · refine (congrArg Lane.out (lane_setLane (s := { s with drawn := s.drawn + 1 }) _ hlen)).trans ?_
    exact congrArg some (List.getD_eq_getElem _ _ hk)

/-! ### The swap of slices -/

/-- A figure that is judged leaves the converters. -/
theorem setFigure_recv (g k : Nat) (b : Bool) (s : State) : (setFigure g k b s).recv = s.recv := ite_leaves State.recv rfl rfl

theorem judge_recv (g : Nat) (s : State) : (judge g s).recv = s.recv :=
  foldl_leaves State.recv (fun u k => setFigure_recv ..) _ s

theorem lane_judge (g n : Nat) (s : State) : lane (judge g s) n = lane s n := by rw [lane, lane, judge_recv]

theorem watchExcl_recv (f : State → State) (s : State) : (watchExcl f s).recv = (f s).recv := by
  have hdrop : ∀ (d : Side) (b : Nat) (u : State), (dropTrackers d b u).recv = u.recv := fun d b u => ite_leaves State.recv rfl rfl
  exact (hdrop _ _ _).trans (hdrop _ _ _)

theorem lane_changeLane {n : Nat} (f : Lane → Lane) (hn : n < s.recv.lanes.length) : lane (changeLane n f s) n = f (lane s n) := by
  have h : (changeLane n f s).recv.lanes = (setLane n f s).recv.lanes := (congrArg Recv.lanes (watchExcl_recv _ s)).trans rfl
  rw [← lane_setLane f hn, lane, lane, h]

theorem giveBack_states (s : State) : (giveBack s).recv.borrowed = false ∧ (giveBack s).recv.lanes = s.recv.lanes := by
  unfold giveBack
  split
  · exact ⟨rfl, rfl⟩
  next h => exact ⟨by simpa using h, rfl⟩

theorem sliceSwap_places {n x : Nat} (hs : Sound s) (hn : n < 8) (hx : (lane s n).out = some x) :
    ∃ t, exec (.sliceSwap n) s = .next t ∧ t.recv.borrowed = false ∧ (lane t n).out = none ∧
      (lane t n).pos = (lane s n).pos.set (oldestPos (lane s n)) x := by
  have hlen : n < s.recv.lanes.length := by rw [hs.lanes]; exact hn
  refine ⟨_, rfl, ?_⟩
  simp only [hx]
  let f : Lane → Lane := fun l =>
    { (l.place (oldestPos l) x (mainNow s)) with trimmed := l.trimmed.set x s.tb.mono }
  have hf : lane (changeLane n f s) n = f (lane s n) := lane_changeLane f hlen
  obtain ⟨u, hu, hrecv⟩ : ∃ u, u = (if (lane s n).outTrims = [] then freshTrims n (changeLane n f s)
      else formTrims n (lane s n).outTrims (changeLane n f s)) ∧ u.recv = (changeLane n f s).recv :=
    ⟨_, rfl, ite_leaves State.recv rfl rfl⟩
  rw [← hu, lane_judge, judge_recv]
  obtain ⟨hbor, hlanes⟩ := giveBack_states u
  refine ⟨hbor, ?_⟩
  show ((giveBack u).recv.lanes.getD n Lane.init).out = none ∧ ((giveBack u).recv.lanes.getD n Lane.init).pos = _
  rw [hlanes, hrecv, show (changeLane n f s).recv.lanes.getD n Lane.init = f (lane s n) from hf]
  exact ⟨if_pos hx, rfl⟩

theorem sliceSwap_none {n : Nat} (hx : (lane s n).out = none) : exec (.sliceSwap n) s = .next (giveBack s) := by
  show execSliceSwap n s = _
  simp only [execSliceSwap, hx]

/-! ### Drift -/

theorem calGroup_setCal {g h : Nat} (f : CalGroup → CalGroup) (hg : g < s.cal.groups.length) :
    calGroup (setCal h f s) g = if g = h then f (calGroup s g) else calGroup s g := by
  simp only [calGroup, setCal, upd, List.getD, List.getElem?_modify, List.getElem?_eq_getElem hg]
  by_cases hh : g = h
  · simp [hh]
  · simp [hh, Ne.symm hh]

/-- One figure marked low: what it keeps of each group. -/
theorem setFigure_group {g h k : Nat} (hg : g < s.cal.groups.length) (hk : k < 8) :
    (setFigure h k true s).cal.groups.length = s.cal.groups.length ∧
      (calGroup (setFigure h k true s) g).temp = (calGroup s g).temp ∧
      (g = h ∨ (calGroup s g).low.getLsbD k = true → (calGroup (setFigure h k true s) g).low.getLsbD k = true) := by
  unfold setFigure
  extract_lets old
  split
  next hold =>
    refine ⟨rfl, rfl, fun hl => ?_⟩
    rcases hl with rfl | hl
    · simpa [old] using hold
    · exact hl
  next hold =>
    refine ⟨by simp [post, postAt, setCal, upd], ?_, fun hl => ?_⟩
    · show (calGroup (setCal h _ s) g).temp = _
      rw [calGroup_setCal _ hg]
      split <;> rfl
    · show (calGroup (setCal h _ s) g).low.getLsbD k = true
      rw [calGroup_setCal _ hg]
      split
      · have hone : (BitVec.ofNat 8 (1 <<< k)).getLsbD k = true := by simp [BitVec.getLsbD_ofNat, hk]
        refine (BitVec.getLsbD_or ..).trans ?_
        rw [Bool.or_eq_true]
        exact .inr hone
      next hne => exact hl.resolve_left hne

/-- A drift of one group judged. -/
def driftJudged (k : Nat) (temps : List Int) (s : State) (g : Nat) : State :=
  match temps[g]? with
  | some t => if 10 * k < (t - (calGroup s g).temp).natAbs then setFigure g 6 true s else s
  | none => s

theorem driftJudged_keeps {k : Nat} {l : List Int} {g h : Nat} (hg : g < s.cal.groups.length) :
    (driftJudged k l s h).cal.groups.length = s.cal.groups.length ∧
      (calGroup (driftJudged k l s h) g).temp = (calGroup s g).temp ∧
      ((calGroup s g).low.getLsbD 6 = true → (calGroup (driftJudged k l s h) g).low.getLsbD 6 = true) := by
  have hset := setFigure_group (h := h) hg (show 6 < 8 by decide)
  unfold driftJudged
  split
  · split
    · exact ⟨hset.1, hset.2.1, fun hl => hset.2.2 (.inr hl)⟩
    · exact ⟨rfl, rfl, id⟩
  · exact ⟨rfl, rfl, id⟩

theorem driftJudged_marks {k : Nat} {l : List Int} {g : Nat} {x : Int} (hg : g < s.cal.groups.length) (hx : l[g]? = some x)
    (hd : 10 * k < (x - (calGroup s g).temp).natAbs) : (calGroup (driftJudged k l s g) g).low.getLsbD 6 = true := by
  have hset := setFigure_group (h := g) hg (show 6 < 8 by decide)
  unfold driftJudged
  simp only [hx, if_pos hd]
  exact hset.2.2 (.inl rfl)

/-- Whatever groups are judged, those whose drift is beyond the limit are marked. -/
theorem drift_marks {k : Nat} {temps : List Int} {g : Nat} {x : Int} (hx : temps[g]? = some x) (l : List Nat) (s : State)
    (hg : g < s.cal.groups.length) (hd : 10 * k < (x - (calGroup s g).temp).natAbs)
    (hl : g ∈ l ∨ (calGroup s g).low.getLsbD 6 = true) :
    (calGroup (l.foldl (driftJudged k temps) s) g).low.getLsbD 6 = true := by
  induction l generalizing s with
  | nil => exact hl.resolve_left (by simp)
  | cons h l ih =>
    obtain ⟨hlen, htemp, hlow⟩ := driftJudged_keeps (k := k) (l := temps) (h := h) hg
    refine ih _ (by rw [hlen]; exact hg) (by rw [htemp]; exact hd) ?_
    rcases hl with hl | hl
    · rcases List.mem_cons.1 hl with rfl | hl
      · exact .inr (driftJudged_marks hg hx hd)
      · exact .inl hl
    · exact .inr (hlow hl)

/-- Settles O54, task by task. -/
theorem converterEvents : Obligations.ConverterEvents := by
  intro s hs
  refine ⟨fun m r b hn hb => overrangeBurst_states hn hb, fun m r h => overrangeBurst_none h, fun x h => shadowDwellEnd_counts x h,
    fun x h => if_pos (by simp [h]), fun n tr f hn hbg hms hdeg hfg hsus hbor hout htr =>
      backgroundTrim_borrows hs hn hbg hms hdeg hfg hsus hbor hout htr,
    fun n x hn hx => sliceSwap_places hs hn hx, fun n hx => sliceSwap_none hx, fun d tr hbg hr hfg => ?_, fun d tr hfg => ?_,
    fun n tr f hfg => ?_, fun l hk => ⟨_, congrArg Host.Outcome.next (if_neg hk), fun g x hg hx hd => ?_⟩⟩
  · exact congrArg Host.Outcome.next (if_pos (by simp [hbg, hr, hfg]))
  · exact congrArg Host.Outcome.next (if_neg (by simp [hfg]))
  · exact congrArg Host.Outcome.next (if_neg (by simp [hfg]))
  · exact drift_marks hx (List.range 17) s (by rw [hs.groups]; exact hg) hd (.inl (List.mem_range.2 hg))

end Sys2Proof.Machine
end

section
/-!
SUPPORT. Gate pulses, proof pulses and the wavelength lock (R125 to R131).
-/
namespace Sys2Proof.Machine

-- one theorem after the other: the threads of many at once need more memory than the check has
set_option Elab.async false

variable {s : State} {d : Side}

/-- The verdict on a gate after an ordinary pulse that was not cut. -/
def plainVerdict (code held : Nat) (g : GateState) : GateState :=
  if proofCode ≤ code ∧ 48 ≤ held then (if g = .unverified then .verified else g)
  else if g = .verified then .unverified else g

/-- What is judged of a side's emitter when a pulse ends. -/
def pulseOf (d : Side) (s : State) : GateState × List Nat × Bool :=
  ((s.lash.get d).gate, (s.lash.get d).energies, (s.lash.get d).proofDue)

theorem gateVerdict_plain (code held : Nat) (hp : (s.lash.get d).proof = false) : pulseOf d (gateVerdict d code held false s) =
    (plainVerdict code held (s.lash.get d).gate, (s.lash.get d).energies, (s.lash.get d).proofDue) := by
  unfold gateVerdict plainVerdict
  extract_lets l weak brief
  by_cases hc : proofCode ≤ code ∧ 48 ≤ held
  · have hweak : weak = false := decide_eq_false (by omega)
    have hbrief : brief = false := by simp only [brief, hweak, Bool.and_false, Bool.or_false]; exact decide_eq_false (by omega)
    simp only [hweak, hbrief, Bool.not_false, Bool.and_self, if_true, if_pos hc, pulseOf, setLash_lash, Both.get_set_same, hp,
      Bool.false_and, Bool.and_true, beq_iff_eq]
  · have hor : (!weak && !brief && !false) = false := by
      simp only [weak, brief, Bool.false_and, Bool.or_false, Bool.not_false, Bool.and_true, Bool.and_eq_false_iff,
        Bool.not_eq_false', decide_eq_true_eq]
      omega
    rw [if_neg (by rw [hor]; simp), if_neg hc]
    by_cases hg : (s.lash.get d).gate = .verified
    · rw [if_pos (by simp [l, hg]), if_pos hg]
      simp only [pulseOf, post_lash, setLash_lash, Both.get_set_same]
    · rw [if_neg (by simpa [l] using hg), if_neg hg]
      rfl

theorem energyLoop_pulse (g e : Nat) (s : State) : pulseOf d (energyLoop d g e s) = pulseOf d s ∧
    ((energyLoop d g e s).lash.get d).pulse = (s.lash.get d).pulse := by
  unfold energyLoop
  extract_lets c l t k new limit far b w was s1
  split
  · exact ⟨rfl, rfl⟩
  · simp only [pulseOf, postIf_lash, s1, setLash_lash, Both.get_set_same]
    trivial

theorem startProof_none (h : (s.lash.get d).proofDue = false) : startProof d s = s := by
  unfold startProof
  exact if_neg (by simp [h])

/-- The end of an ordinary pulse that was not cut. -/
theorem gatePulseEnd_plain {code : Nat} (held e : Nat) (hc : (s.lash.get d).pulse = some code) (hp : (s.lash.get d).proof = false)
    (hcut : (s.lash.get d).cut = false) (hdue : (s.lash.get d).proofDue = false) :
    ∃ t, exec (.gatePulseEnd d held e) s = .next t ∧ (t.lash.get d).pulse = none ∧ pulseOf d t =
      (plainVerdict code held (s.lash.get d).gate, (s.lash.get d).energies.set ((s.lash.get d).launched - 1) e, false) := by
  obtain ⟨u, hu⟩ : ∃ u, u = setLash d (fun l => { l with energies := l.energies.set ((s.lash.get d).launched - 1) e })
      (setLash d (fun l => { l with pulse := none, proof := false, cut := false, proofOff := false })
        (gateVerdict d code held false s)) := ⟨_, rfl⟩
  have hv := gateVerdict_plain code held hp
  simp only [pulseOf, Prod.mk.injEq] at hv
  obtain ⟨hgate, hen, hd⟩ := hv
  have hpulse : (u.lash.get d).pulse = none := by rw [hu, setLash_lash, Both.get_set_same, setLash_lash, Both.get_set_same]
  have hview : pulseOf d u =
      (plainVerdict code held (s.lash.get d).gate, (s.lash.get d).energies.set ((s.lash.get d).launched - 1) e, false) := by
    rw [hu, pulseOf, setLash_lash, Both.get_set_same, setLash_lash, Both.get_set_same]
    simp only [hgate, hen, hd, hdue]
  obtain ⟨hloop, hloopPulse⟩ := energyLoop_pulse (d := d) ((s.lash.get d).launched - 1) e u
  have hstart : startProof d (energyLoop d ((s.lash.get d).launched - 1) e u) =
      energyLoop d ((s.lash.get d).launched - 1) e u :=
    startProof_none (congrArg (fun x => x.2.2) (hloop.trans hview))
  refine ⟨energyLoop d ((s.lash.get d).launched - 1) e u, ?_, hloopPulse.trans hpulse, hloop.trans hview⟩
  rw [← hstart, hu]
  show execGatePulseEnd d held e s = _
  simp only [execGatePulseEnd, hc, hp, hcut, Bool.false_eq_true, if_false]

theorem gatePulseEnd_states {code held e : Nat} (hc : (s.lash.get d).pulse = some code) (hp : (s.lash.get d).proof = false)
    (hcut : (s.lash.get d).cut = false) (hdue : (s.lash.get d).proofDue = false) :
    ∃ t, exec (.gatePulseEnd d held e) s = .next t ∧ (t.lash.get d).pulse = none ∧
      (t.lash.get d).energies = (s.lash.get d).energies.set ((s.lash.get d).launched - 1) e ∧
      (48 ≤ held → proofCode ≤ code → (s.lash.get d).gate = .unverified → (t.lash.get d).gate = .verified) ∧
      (held < 48 → (s.lash.get d).gate = .verified → (t.lash.get d).gate = .unverified) := by
  obtain ⟨t, ht, hpulse, hview⟩ := gatePulseEnd_plain held e hc hp hcut hdue
  simp only [pulseOf, Prod.mk.injEq] at hview
  obtain ⟨hgate, hen, _⟩ := hview
  refine ⟨t, ht, hpulse, hen, fun hh hcode hg => ?_, fun hh hg => ?_⟩
  · rw [hgate, plainVerdict, if_pos ⟨hcode, hh⟩, if_pos hg]
  · rw [hgate, plainVerdict, if_neg (by omega), if_pos hg]

theorem gatePulseEnd_none (h : (s.lash.get d).pulse = none) (held e : Nat) : exec (.gatePulseEnd d held e) s = .next s := by
  show execGatePulseEnd d held e s = _
  simp only [execGatePulseEnd, h]

/-- Settles O49: gate pulses, then the lock and its limits. -/
theorem gatePulsesAndLock : Obligations.GatePulsesAndLock := by
  refine ⟨fun d s => ⟨fun h held e => gatePulseEnd_none h held e, fun code held e hc hp hcut hdue => gatePulseEnd_states hc hp hcut hdue,
    fun he hl hp ht hg => ?_, fun h => ?_⟩,
    fun d s => ⟨fun h => ?_, fun h => ?_, fun h hl => ⟨?_, ?_⟩, fun hl u => ?_, fun h => ⟨?_, ?_⟩, fun h u => ⟨?_, ?_⟩⟩⟩
  · exact congrArg Host.Outcome.next (if_pos (by simp [he, hl, hp, ht, hg]))
  · exact congrArg Host.Outcome.next (if_neg (by rcases h with h | h <;> simp [h]))
  · exact congrArg Host.Outcome.next (if_pos (by simp [h]))
  · exact congrArg Host.Outcome.next (if_pos (by simp [h]))
  · exact congrArg Host.Outcome.next (if_pos (by simp [h, hl]))
  · exact congrArg Host.Outcome.next (if_pos (by simp [h, hl]))
  · exact congrArg Host.Outcome.next (if_neg (by simp [hl]))
  · exact congrArg Host.Outcome.next (if_pos h)
  · exact congrArg Host.Outcome.next (if_pos h)
  · exact congrArg Host.Outcome.next (if_neg (by simp [h]))
  · exact congrArg Host.Outcome.next (if_neg (by simp [h]))

end Sys2Proof.Machine
end

section
/-!
SUPPORT. A boundary on a side whose scan has no entry in use (R118, R134).
-/
namespace Sys2Proof.Machine

-- one theorem after the other: the threads of many at once need more memory than the check has
set_option Elab.async false

/-- A unit whose side A acquires with two groups left of its dwell, though its configuration scans no route. -/
def scanEmpty : State :=
  { State.reset with
    girth := { State.reset.girth with a := { State.reset.girth.a with acquiring := true } }
    lash := { State.reset.lash with a := { State.reset.lash.a with dwellLeft := 2 } } }

/-- The boundary leaves the dwell as it was. -/
theorem shotGroupBoundary_scanEmpty {t : State} (h : exec (.shotGroupBoundary .a) scanEmpty = .next t) :
    (t.lash.get .a).dwellLeft = 2 := by
  have ht : (match exec (.shotGroupBoundary .a) scanEmpty with | .next x => (x.lash.get .a).dwellLeft | _ => 0) = 2 := by
    decide +kernel
  rwa [h] at ht

/-- Refutes O50: the statement asks nothing of the scan; where it has no entry in use, a boundary starts the next shot group and
counts no dwell down. -/
theorem not_launches : ¬ Obligations.Launches := by
  intro h
  obtain ⟨hboundary, _⟩ := h .a scanEmpty
  obtain ⟨t, ht, _, _, _, hdwell, _⟩ := hboundary rfl rfl rfl rfl (by decide)
  rw [shotGroupBoundary_scanEmpty ht] at hdwell
  exact absurd hdwell (by decide)

end Sys2Proof.Machine
end

section
/-!
SUPPORT. A delta trace whose baseline is read without ECC (R256).
-/
namespace Sys2Proof.Machine

-- one theorem after the other: the threads of many at once need more memory than the check has
set_option Elab.async false

/-- A unit that forms a delta trace of route 0 every group, with a baseline of that route and one group summed. -/
def traceDue : State :=
  { State.reset with
    live := { State.reset.live with params := [(sid .a 0x3003, 1)] }
    base := [(0, { Baseline.none with state := 2 })]
    girth := { State.reset.girth with delta := [(0, { Delta.init with done := 1 })] } }

/-- The reading of the baseline draws two free values beside the one of the trace. -/
theorem deltaTraceForm_traceDue {t : State} (h : exec (.deltaTraceForm .a) traceDue = .next t) : t.drawn = 3 := by
  have ht : (match exec (.deltaTraceForm .a) traceDue with | .next x => x.drawn | _ => 0) = 3 := by decide +kernel
  rwa [h] at ht

/-- Refutes O52: without ECC the trace is formed from the state after the baseline's reading, which has drawn free values of the
model; the statement asks for the one before, with its memory awake. -/
theorem not_acousticEvents : ¬ Obligations.AcousticEvents := by
  intro h
  obtain ⟨_, _, _, _, _, _, _, hdelta, _⟩ := h .a traceDue
  obtain ⟨t, ht, hplain, _⟩ := hdelta (by decide +kernel) (by decide +kernel) (by decide +kernel)
  have hdrawn := deltaTraceForm_traceDue ht
  rw [hplain rfl] at hdrawn
  exact absurd hdrawn (by decide +kernel)

end Sys2Proof.Machine
end

section
/-!
SUPPORT. `Still K org s`: of the shot scheduling of the sides, the trims of the calibration, the Tack status and the slots of a
commit a state s reached from org still has what K names.
-/
namespace Sys2Proof.Machine

-- one theorem after the other: the threads of many at once need more memory than the check has
set_option Elab.async false

/-- What a side schedules: the shots in flight, the switch and the place in the scan. -/
def courseOf (l : Lash) : List Shot × Nat × Nat × Nat × SwitchSeq × Nat × Nat × Nat × Nat × Bool × BitVec 4 :=
  (l.shots, l.position, l.entry, l.dwellLeft, l.seq, l.settleLeft, l.extra, l.rampLeft, l.launched, l.running, l.blocked)

/-- Parts of the state: the course of both sides; the trims of the groups and the written records that wait; the Tack status;
which slots run a commit. -/
structure Calm where
  course : Bool := false
  groups : Bool := false
  tacks  : Bool := false
  slots  : Bool := false

/-- `Still` over the parts of the state that it looks at. -/
def StillParts (K : Calm) (org : State) (a b : Lash) (groups : List CalGroup) (writes : List (Nat × List Word)) (tacks : Tacks)
    (slots : List Slot) : Prop :=
  (K.course = true → courseOf a = courseOf org.lash.a ∧ courseOf b = courseOf org.lash.b) ∧
  (K.groups = true → groups = org.cal.groups ∧ writes = org.cal.writes) ∧ (K.tacks = true → tacks = org.tacks) ∧
  (K.slots = true → ∀ k : Nat, slots[k]? = some (.running .draft) ↔ org.brg.slots[k]? = some (.running .draft))

/-- What a state reached from another still has of it. -/
def Still (K : Calm) (org s : State) : Prop := StillParts K org s.lash.a s.lash.b s.cal.groups s.cal.writes s.tacks s.brg.slots

variable {K : Calm} {org s : State}

theorem still_refl (K : Calm) (org : State) : Still K org org := by simp [Still, StillParts]

@[simp] theorem still_mk {pwr pll harn b evq l draft rw nv tacks lash recv cur zones base therm girth tb awl aux strm tiles mem dma
    cal can drawn pending} :
    Still K org (State.mk pwr pll harn b evq l draft rw nv tacks lash recv cur zones base therm girth tb awl aux strm tiles
      mem dma cal can drawn pending) ↔ StillParts K org lash.a lash.b cal.groups cal.writes tacks b.slots := ⟨id, id⟩

@[simp] theorem stillParts_fold : StillParts K org s.lash.a s.lash.b s.cal.groups s.cal.writes s.tacks s.brg.slots ↔
    Still K org s := ⟨id, id⟩

@[simp ↓] theorem still_planes (f : State → State) (h : Still K org s) (hf : ∀ s, Still K org s → Still K org (f s)) :
    Still K org (planes f s) := hf { s with evq := { s.evq with q := [], logQ := [] } } h

@[simp ↓] theorem still_setLash (d : Side) (f : Lash → Lash) (h : Still K org s)
    (hf : K.course = true → ∀ l, courseOf (f l) = courseOf l) : Still K org (setLash d f s) := by
  obtain ⟨h1, h2⟩ := h
  refine ⟨fun k => ?_, h2⟩
  cases d
  · exact ⟨(hf k _).trans (h1 k).1, (h1 k).2⟩
  · exact ⟨(h1 k).1, (hf k _).trans (h1 k).2⟩

@[simp ↓] theorem still_setGirth (d : Side) (f : GirthSide → GirthSide) (h : Still K org s) : Still K org (setGirth d f s) := by
  cases d <;> exact h

@[simp ↓] theorem still_setCal (g : Nat) (f : CalGroup → CalGroup) (h : Still K org s) (kG : K.groups = false) :
    Still K org (setCal g f s) :=
  ⟨h.1, fun k => by simp [kG] at k, h.2.2⟩

@[simp ↓] theorem still_finish (r : Res) (st : Nat) (res : List Word) (h : Still K org s) (hr : K.slots = true → r ≠ .draft) :
    Still K org (finish r st res s) := by
  unfold finish
  split
  case h_1 k hk =>
    obtain ⟨hlt, hat, -⟩ := List.findIdx?_eq_some_iff_getElem.mp hk
    have hat : s.brg.slots[k] = .running r := eq_of_beq hat
    obtain ⟨h1, h2, h3, h4⟩ := h
    refine ⟨h1, h2, h3, fun kS j => Iff.trans ?_ (h4 kS j)⟩
    show (s.brg.slots.set k _)[j]? = _ ↔ _
    by_cases hj : k = j
    · subst hj
      simp [hlt, hat, hr kS]
    · rw [List.getElem?_set_ne hj]
  case h_2 => exact h

@[simp ↓] theorem still_passGate (d : Side) (h : Still K org s) : Still K org (passGate d s) := by
  unfold passGate
  split <;> exact h

@[simp ↓] theorem still_ite {c : Prop} [Decidable c] {a b : State} (ha : Still K org a) (hb : Still K org b) :
    Still K org (if c then a else b) := by split <;> assumption

@[simp ↓] theorem still_foldl {α : Type} (f : State → α → State) (l : List α) (h : Still K org s)
    (hf : ∀ s x, Still K org s → Still K org (f s x)) : Still K org (l.foldl f s) := by
  induction l generalizing s with
  | nil => exact h
  | cons x l ih => exact ih (hf s x h)

@[simp ↓] theorem still_bothSides (f : Side → State → State) (h : Still K org s)
    (hf : ∀ d x, Still K org x → Still K org (f d x)) : Still K org (bothSides f s) := hf _ _ (hf _ _ h)

@[simp ↓] theorem still_setCur (d : Side) (f : Currier → Currier) (h : Still K org s) : Still K org (setCur d f s) := h

@[simp ↓] theorem still_setTherm (d : Side) (f : Thermal → Thermal) (h : Still K org s) : Still K org (setTherm d f s) := h

@[simp ↓] theorem still_setZone (z : Nat) (f : ZoneRun → ZoneRun) (h : Still K org s) : Still K org (setZone z f s) := h

@[simp ↓] theorem still_setDigZone (z : Nat) (f : List Nat → List Nat) (h : Still K org s) :
    Still K org (setDigZone z f s) := h

@[simp ↓] theorem still_setLane (n : Nat) (f : Lane → Lane) (h : Still K org s) : Still K org (setLane n f s) := h

@[simp ↓] theorem still_setRecv (f : Recv → Recv) (h : Still K org s) : Still K org (setRecv f s) := h

@[simp ↓] theorem still_setBase (r : Nat) (f : Baseline → Baseline) (h : Still K org s) : Still K org (setBase r f s) := h

@[simp ↓] theorem still_setAux (f : Aux → Aux) (h : Still K org s) : Still K org (setAux f s) := h

@[simp ↓] theorem still_setStrm (f : Stream → Stream) (h : Still K org s) : Still K org (setStrm f s) := h

@[simp ↓] theorem still_setBytes (f : List Host.Cell → List Host.Cell) (h : Still K org s) : Still K org (setBytes f s) := h

@[simp ↓] theorem still_wakeMem (h : Still K org s) : Still K org (wakeMem s) := h

@[simp ↓] theorem still_postAt (n d : Nat) (tag : Word) (h : Still K org s) : Still K org (postAt n d tag s) := h

@[simp ↓] theorem still_post (n : Nat) (d : Nat) (h : Still K org s) : Still K org (post n d s) := by
  unfold post
  simp (maxDischargeDepth := 40) +contextual [h]

@[simp ↓] theorem still_postIf (c : Bool) (n : Nat) (d : Nat) (h : Still K org s) : Still K org (postIf c n d s) := by
  unfold postIf
  split <;> simp (maxDischargeDepth := 40) +contextual [h]

@[simp ↓] theorem still_dropTrackers (d : Side) (bits : Nat) (h : Still K org s) :
    Still K org (dropTrackers d bits s) := by
  unfold dropTrackers
  simp (maxDischargeDepth := 40) +contextual [h]

@[simp ↓] theorem still_watchExcl (f : State → State) (h : Still K org s)
    (hf : ∀ (x0 : State), Still K org x0 → Still K org (f x0)) :
    Still K org (watchExcl f s) := by
  unfold watchExcl
  simp (maxDischargeDepth := 40) +contextual [h, hf]

@[simp ↓] theorem still_changeLane (n : Nat) (f : Lane → Lane) (h : Still K org s) :
    Still K org (changeLane n f s) := by
  unfold changeLane
  simp (maxDischargeDepth := 40) +contextual [h]

@[simp ↓] theorem still_takePols (m : BitVec 4) (h : Still K org s) : Still K org (takePols m s) := by
  exact h

@[simp ↓] theorem still_pairsDue (d : Side) (h : Still K org s) : Still K org (pairsDue d s) := by
  exact h

@[simp ↓] theorem still_takeIdle (d : Side) (h : Still K org s) : Still K org (takeIdle d s) := by
  unfold takeIdle
  simp (maxDischargeDepth := 40) +contextual [h]

@[simp ↓] theorem still_restartDwell (h : Still K org s) : Still K org (restartDwell s) := by
  unfold restartDwell
  simp (maxDischargeDepth := 40) +contextual [h]

@[simp ↓] theorem still_takeSlices (n : Nat) (l : List Nat) (h : Still K org s) : Still K org (takeSlices n l s) := by
  unfold takeSlices
  simp (maxDischargeDepth := 40) +contextual [h]

@[simp ↓] theorem still_applyRecord (g : Nat) (p : List Word) (h : Still K org s) (kG : K.groups = false) :
    Still K org (applyRecord g p s) := by
  unfold applyRecord
  simp (maxDischargeDepth := 40) +contextual [h, kG]

@[simp ↓] theorem still_applyRecords (f : Nat → Bool) (h : Still K org s) (kG : K.groups = false) :
    Still K org (applyRecords f s) := by
  unfold applyRecords
  refine still_foldl _ _ ⟨h.1, fun k => ?_, h.2.2⟩ fun t x ht => still_applyRecord _ _ ht kG
  simp [kG] at k

@[simp ↓] theorem still_moveLane (h : Still K org s) : Still K org (moveLane s) := by
  exact h

@[simp ↓] theorem still_fixLane (h : Still K org s) : Still K org (fixLane s) := by
  unfold fixLane
  simp (maxDischargeDepth := 40) +contextual [h]

@[simp ↓] theorem still_setAuxEntry (n : Nat) (f : AuxEntry → AuxEntry) (h : Still K org s) :
    Still K org (setAuxEntry n f s) := by
  unfold setAuxEntry
  simp (maxDischargeDepth := 40) +contextual [h]

@[simp ↓] theorem still_noInput (n : Nat) (h : Still K org s) : Still K org (noInput n s) := by
  unfold noInput
  simp (maxDischargeDepth := 40) +contextual [h]

@[simp ↓] theorem still_beginEntry (n : Nat) (h : Still K org s) : Still K org (beginEntry n s) := by
  exact h

@[simp ↓] theorem still_passEnd (h : Still K org s) : Still K org (passEnd s) := by
  unfold passEnd
  simp (maxDischargeDepth := 40) +contextual [h]

@[simp ↓] theorem still_runOver (h : Still K org s) : Still K org (runOver s).2 := by
  unfold runOver
  split <;> exact h

@[simp ↓] theorem still_goOn (fuel n : Nat) (h : Still K org s) : Still K org (goOn fuel n s) := by
  induction fuel generalizing n s with
  | zero => unfold goOn; simp (maxDischargeDepth := 40) [h]
  | succ k ih => unfold goOn; dsimp only; simp (maxDischargeDepth := 40) +contextual [h, ih]

@[simp ↓] theorem still_auxResume (h : Still K org s) : Still K org (auxResume s) := by
  unfold auxResume
  dsimp only
  (repeat' split) <;> simp (maxDischargeDepth := 40) +contextual [h]

@[simp ↓] theorem still_watchMarks (h : Still K org s) : Still K org (watchMarks s) := by
  unfold watchMarks
  simp (maxDischargeDepth := 40) +contextual [h]

@[simp ↓] theorem still_dropFrame (f : Frame) (h : Still K org s) : Still K org (dropFrame f s) := by
  exact h

@[simp ↓] theorem still_overflowed (f : Frame) (h : Still K org s) : Still K org (overflowed f s) := by
  unfold overflowed
  simp (maxDischargeDepth := 40) +contextual [h]

@[simp ↓] theorem still_beginEpisode (detail : Nat) (h : Still K org s) : Still K org (beginEpisode detail s) := by
  unfold beginEpisode
  simp (maxDischargeDepth := 40) +contextual [h]

@[simp ↓] theorem still_fillRisen (h : Still K org s) : Still K org (fillRisen s) := by
  unfold fillRisen
  simp (maxDischargeDepth := 40) +contextual [h]

@[simp ↓] theorem still_enqueue (f : Frame) (h : Still K org s) : Still K org (enqueue f s) := by
  unfold enqueue
  simp (maxDischargeDepth := 40) +contextual [h]

@[simp ↓] theorem still_endDead (d : Side) (z : Nat) (h : Still K org s) : Still K org (endDead d z s) := by
  unfold endDead
  split <;> simp (maxDischargeDepth := 40) +contextual [h]

@[simp ↓] theorem still_endHoldoff (d : Side) (z : Nat) (h : Still K org s) : Still K org (endHoldoff d z s) := by
  unfold endHoldoff
  simp (maxDischargeDepth := 40) +contextual [h]

@[simp ↓] theorem still_entryFreed (h : Still K org s) : Still K org (entryFreed s) := by
  unfold entryFreed
  simp (maxDischargeDepth := 40) +contextual [h]

@[simp ↓] theorem still_closeRecord (d : Side) (z : Nat) (cause : Nat) (ns : Nat) (h : Still K org s) :
    Still K org (closeRecord d z cause ns s) := by
  unfold closeRecord
  split <;> simp (maxDischargeDepth := 40) +contextual [h]

@[simp ↓] theorem still_closeAll (d : Side) (cause : Nat) (h : Still K org s) : Still K org (closeAll d cause s) := by
  unfold closeAll
  simp (maxDischargeDepth := 40) +contextual [h]

@[simp ↓] theorem still_stopRecords (d : Side) (h : Still K org s) : Still K org (stopRecords d s) := by
  unfold stopRecords
  simp (maxDischargeDepth := 40) +contextual [h]

@[simp ↓] theorem still_clearSums (d : Side) (h : Still K org s) : Still K org (clearSums d s) := by
  unfold clearSums
  simp (maxDischargeDepth := 40) +contextual [h]

@[simp ↓] theorem still_discardPresent (d : Side) (h : Still K org s) : Still K org (discardPresent d s) := by
  unfold discardPresent
  simp (maxDischargeDepth := 40) +contextual [h]

@[simp ↓] theorem still_discardParked (d : Side) (r : Nat) (h : Still K org s) :
    Still K org (discardParked d r s) := by
  exact h

@[simp ↓] theorem still_discardRoute (d : Side) (r : Nat) (h : Still K org s) : Still K org (discardRoute d r s) := by
  unfold discardRoute
  simp (maxDischargeDepth := 40) +contextual [h]

@[simp ↓] theorem still_discardSide (d : Side) (h : Still K org s) : Still K org (discardSide d s) := by
  unfold discardSide
  simp (maxDischargeDepth := 40) +contextual [h]

@[simp ↓] theorem still_ramanStart (d : Side) (h : Still K org s) : Still K org (ramanStart d s) := by
  unfold ramanStart
  simp (maxDischargeDepth := 40) +contextual [h]

@[simp ↓] theorem still_clockCommit (d : Side) (old : Cfg) (new : Cfg) (h : Still K org s) :
    Still K org (clockCommit d old new s) := by
  unfold clockCommit
  simp (maxDischargeDepth := 40) +contextual [h]

@[simp ↓] theorem still_thermalCommit (d : Side) (all : Bool) (old new : Cfg) (h : Still K org s) :
    Still K org (thermalCommit d all old new s) := by
  unfold thermalCommit
  extract_lets differs s0 s1 zone changed kept moved m s2
  have h0 : Still K org s0 := by
    refine still_ite (still_discardSide d h) (still_foldl _ _ h fun s x hs => ?_)
    extract_lets shape s'
    have h2 : Still K org s' := still_ite (still_discardRoute d x hs) hs
    exact still_ite (still_discardRoute d x h2) h2
  have h1 : Still K org s1 := still_clockCommit _ _ _ h0
  have h3 : Still K org s2 := still_setBytes _ h1
  refine still_ite h1 ?_
  simp (maxDischargeDepth := 40) [h3]

@[simp ↓] theorem still_trigCommit (d : Side) (old : Cfg) (new : Cfg) (h : Still K org s) :
    Still K org (trigCommit d old new s) := by
  unfold trigCommit
  simp (maxDischargeDepth := 40) +contextual [h]

@[simp ↓] theorem still_baselineRoute (d : Side) (old : Cfg) (new : Cfg) (r : Nat) (h : Still K org s) :
    Still K org (baselineRoute d old new r s) := by
  unfold baselineRoute
  simp (maxDischargeDepth := 40) +contextual [h]

@[simp ↓] theorem still_clearOverload (h : Still K org s) : Still K org (clearOverload s) := by
  unfold clearOverload
  simp (maxDischargeDepth := 40) +contextual [h]

@[simp ↓] theorem still_beginProof (d : Side) (h : Still K org s) : Still K org (beginProof d s) := by
  exact still_setLash _ _ h fun _ _ => rfl

@[simp ↓] theorem still_startProof (d : Side) (h : Still K org s) : Still K org (startProof d s) := by
  unfold startProof
  simp (maxDischargeDepth := 40) +contextual [h]

@[simp ↓] theorem still_applySide (d : Side) (h : Still K org s) (kG : K.groups = false) : Still K org (applySide d s) := by
  unfold applySide
  simp (maxDischargeDepth := 40) +contextual [h, kG]

@[simp ↓] theorem still_closeDue (c : Cfg) (d : Side) (z ns : Nat) (x : ℤ) (h : Still K org s) :
    Still K org (closeDue c d z ns x s) := by
  unfold closeDue
  (repeat' split) <;> simp [h]

@[simp ↓] theorem still_boundaryDue (d : Side) (h : Still K org s) : Still K org (boundaryDue d s) := by
  unfold boundaryDue
  simp (maxDischargeDepth := 40) +contextual [h]

@[simp ↓] theorem still_holdPath (p : Nat) (h : Still K org s) : Still K org (holdPath p s) := by
  unfold holdPath
  dsimp only
  exact still_ite (still_postIf _ _ _ h)
    (still_ite (still_postIf _ _ _ (still_ite (still_discardSide _ h) h)) (still_ite h h))

@[simp ↓] theorem still_holdBoundary (d : Side) (h : Still K org s) : Still K org (holdBoundary d s) := by
  unfold holdBoundary
  simp [h]

@[simp ↓] theorem still_energyCommit (d : Side) (c : Cfg) (h : Still K org s) : Still K org (energyCommit d c s) :=
  still_setLash _ _ h fun _ _ => rfl

@[simp ↓] theorem still_commitDone (h : Still K org s) (kT : K.tacks = false) (kS : K.slots = false) :
    Still K org (commitDone s) := by
  unfold commitDone
  split
  · exact still_finish _ _ _ ⟨h.1, h.2.1, fun k => by simp [kT] at k, h.2.2.2⟩ (by simp [kS])
  · exact h

@[simp ↓] theorem still_takeCommit (d : Side) (h : Still K org s) (kT : K.tacks = false) (kS : K.slots = false) :
    Still K org (takeCommit d s) := by
  unfold takeCommit
  extract_lets s0 s1 s2 s3
  have h0 : Still K org s0 := still_setLash _ _ h fun _ _ => rfl
  have h3 : Still K org s3 := by
    refine still_clearOverload (still_thermalCommit _ _ _ _ (still_foldl _ _ ?_ fun _ _ hx => still_baselineRoute _ _ _ _ hx))
    exact still_passGate _ (still_trigCommit _ _ _ (still_energyCommit _ _ h0))
  exact still_ite h (still_ite h3 (still_commitDone h3 kT kS))

@[simp ↓] theorem still_boundary (d : Side) (h : Still K org s) (kT : K.tacks = false) (kG : K.groups = false)
    (kS : K.slots = false) : Still K org (boundary d s) := by
  exact still_applySide _ (still_pairsDue _ (still_holdBoundary _ (still_takeCommit _ (still_boundaryDue _ h) kT kS))) kG

@[simp ↓] theorem still_takeDue (d : Side) (h : Still K org s) : Still K org (takeDue d s) := still_takePols _ h

@[simp ↓] theorem still_launchTakes (d : Side) (g : Nat) (h : Still K org s) : Still K org (launchTakes d g s) := by
  unfold launchTakes
  simp [h]

@[simp ↓] theorem still_endSettle (d : Side) (dwellEnd failing : Bool) (h : Still K org s) (kC : K.course = false) :
    Still K org (endSettle d dwellEnd failing s) :=
  still_postIf _ _ _ (still_setLash _ _ h (by simp [kC]))

@[simp ↓] theorem still_enqueueAll (fs : List Frame) (h : Still K org s) : Still K org (enqueueAll fs s) := by
  unfold enqueueAll
  simp (maxDischargeDepth := 40) +contextual [h]

@[simp ↓] theorem still_envelopes (d : Side) (part : Bool) (h : Still K org s) : Still K org (envelopes d part s) := by
  unfold envelopes
  split
  · exact h
  · exact still_setGirth _ _ (still_enqueueAll _ h)

@[simp ↓] theorem still_leaveRoute (d : Side) (h : Still K org s) : Still K org (leaveRoute d s) :=
  still_setTherm _ _ (still_envelopes _ _ (still_closeAll _ _ h))

@[simp ↓] theorem still_auxStart (h : Still K org s) : Still K org (auxStart s) := by
  unfold auxStart
  simp (maxDischargeDepth := 40) [h]

@[simp ↓] theorem still_auxCommit (old new : Cfg) (h : Still K org s) : Still K org (auxCommit old new s) := by
  unfold auxCommit
  exact still_ite (still_auxStart (still_setAux _ h)) (still_ite (still_setAux _ h) h)

end Sys2Proof.Machine
end

section
/-!
SUPPORT. What a valid commit does at the sides: the snapshot that waits, the side that takes it, the last side, and what follows.
-/
namespace Sys2Proof.Machine

-- one theorem after the other: the threads of many at once need more memory than the check has
set_option Elab.async false

variable {s t : State} {d e : Side}

/-- The state that `planes` runs on: the queues hold the events of this instant alone. -/
def atInstant (s : State) : State := { s with evq := { s.evq with q := [], logQ := [] } }

/-! ### The gate -/

/-- The gate once a side has taken the snapshot. -/
def Gate.pass (d : Side) : Gate → Gate
  | .frozen t a b wa wb => match d with
    | .a => .frozen t a b false wb
    | .b => .frozen t a b wa false
  | g => g

theorem passGate_gate (d : Side) (s : State) : (passGate d s).brg.gate = s.brg.gate.pass d := by
  unfold passGate Gate.pass
  cases hg : s.brg.gate
  case frozen => cases d <;> rfl
  all_goals exact hg

/-- The load of the snapshot that the gate holds. -/
def Gate.load : Gate → Option TackLoad
  | .frozen t _ _ _ _ => t
  | _ => none

/-- A side waits for the snapshot. -/
def Gate.waiting : Gate → Side → Bool
  | .frozen _ _ _ wa wb, d => match d with | .a => wa | .b => wb
  | _, _ => false

theorem waits_eq (s : State) (d : Side) : waits s d = s.brg.gate.waiting d := by
  unfold waits Gate.waiting
  cases s.brg.gate <;> rfl

theorem cfgOf_eq (s : State) (d : Side) :
    cfgOf s d = match s.brg.gate with | .frozen _ _ _ _ _ => if s.brg.gate.waiting d then s.live else s.draft | _ => s.live := by
  unfold cfgOf Gate.waiting
  cases s.brg.gate <;> rfl

theorem Own.gate {K : Track} {org : State} (h : Own K org s) (k : K.gate = true) : s.brg.gate = org.brg.gate := by
  obtain ⟨_, _, _, _, _, _, _, _, h9, _⟩ := h
  exact h9 k

theorem cfgOf_waits (h : waits s d = true) : cfgOf s d = s.live := by
  rw [waits_eq] at h
  rw [cfgOf_eq]
  cases hg : s.brg.gate with
  | frozen => exact if_pos (hg ▸ h)
  | idle => rfl
  | validating => rfl

theorem draftLocked_waits (h : waits s d = true) : draftLocked s = true := by
  unfold waits at h
  unfold draftLocked
  split at h
  next hg => rw [hg]
  · cases h

theorem waiting_pass_self (d : Side) (g : Gate) : (g.pass d).waiting d = false := by
  cases g <;> cases d <;> rfl

theorem waiting_pass_other (hne : d ≠ e) (g : Gate) : (g.pass d).waiting e = g.waiting e := by
  cases g <;> cases d <;> cases e <;> first | exact absurd rfl hne | rfl

theorem load_pass (d : Side) (g : Gate) : (g.pass d).load = g.load := by
  cases g <;> cases d <;> rfl

/-- A gate that a side waits at holds a snapshot, also once the other side has taken it. -/
theorem pass_frozen {g : Gate} (d : Side) (h : g.waiting e = true) : ∃ a b wa wb, g.pass d = .frozen g.load a b wa wb := by
  cases g <;> first | exact Bool.noConfusion h | (cases d <;> exact ⟨_, _, _, _, rfl⟩)

theorem cfgOf_taken {g : Gate} (hg : s.brg.gate = g.pass d) (h : g.waiting d = true) : cfgOf s d = s.draft := by
  obtain ⟨a, b, wa, wb, hp⟩ := pass_frozen d h
  have hw : s.brg.gate.waiting d = false := by rw [hg, waiting_pass_self]
  rw [cfgOf_eq, hw, hg, hp]
  rfl

/-! ### A side takes the snapshot -/

theorem takeCommit_idle (h : waits s d = false) : takeCommit d s = s := by
  unfold takeCommit
  rw [h]
  rfl

/-- A waiting side takes the snapshot; where no side waits any more, the commit is done. -/
theorem takeCommit_passed (h : waits s d = true) : ∃ y, takeCommit d s = (if waits y .a || waits y .b then y else commitDone y) ∧
    y.brg.gate = s.brg.gate.pass d ∧
    Own { live := true, draft := true, acq := true, held := true } s y ∧
    Still { groups := true, tacks := true, slots := true } s y := by
  unfold takeCommit
  rw [h]
  extract_lets s0 s1 s2 s3
  have hpre : Own { gate := true } s (trigCommit d s0.live s0.draft (energyCommit d s0.draft s0)) :=
    own_trigCommit _ _ _ (own_energyCommit _ _ (own_setLash _ _ (own_refl _ _) (by simp) (by simp)))
  have hpost : Own { gate := true } s1 s3 :=
    own_clearOverload (own_thermalCommit _ _ _ _ (own_foldl _ _ (own_refl _ _) fun _ _ hx => own_baselineRoute _ _ _ _ hx))
  refine ⟨s3, rfl, ?_, ?_, ?_⟩
  · rw [hpost.gate rfl, passGate_gate, hpre.gate rfl]
  · refine own_clearOverload (own_thermalCommit _ _ _ _ (own_foldl _ _ ?_ fun _ _ hx => own_baselineRoute _ _ _ _ hx))
    exact own_passGate _ (own_trigCommit _ _ _ (own_energyCommit _ _
      (own_setLash _ _ (own_refl _ _) (by simp) (by simp)))) rfl
  · refine still_clearOverload (still_thermalCommit _ _ _ _ (still_foldl _ _ ?_ fun _ _ hx => still_baselineRoute _ _ _ _ hx))
    exact still_passGate _ (still_trigCommit _ _ _ (still_energyCommit _ _
      (still_setLash _ _ (still_refl _ _) fun k => by simp at k)))

/-- The draft copy is in force, and the Tack status says so. -/
def Applied (s t : State) : Prop :=
  t.live = s.draft ∧ t.draft = s.draft ∧ t.brg.gate = .idle ∧ t.tacks = s.tacks.applied s.brg.gate.load true

/-- The slot that runs the commit is DONE with OK. -/
def SlotOk (s t : State) : Prop :=
  ∀ k, s.brg.slots.findIdx? (· == .running .draft) = some k → t.brg.slots[k]? = some (.done 0 [])

theorem finish_gate (r : Res) (st : Nat) (res : List Word) (s : State) : (finish r st res s).brg.gate = s.brg.gate := by
  unfold finish
  split <;> rfl

theorem commitDone_applied {t : Option TackLoad} {a b wa wb : Bool} (hg : s.brg.gate = .frozen t a b wa wb) :
    Applied s (commitDone s) := by
  unfold commitDone Applied
  rw [hg]
  exact ⟨finish_live _ _ _ _, finish_draft _ _ _ _, finish_gate _ _ _ _, finish_tacks _ _ _ _⟩

/-- The slot that `finish` ends. -/
theorem finish_slot {r : Res} {k st : Nat} {res : List Word} (hk : s.brg.slots.findIdx? (· == .running r) = some k) :
    (finish r st res s).brg.slots[k]? = some (.done (BitVec.ofNat 8 st) res) := by
  obtain ⟨hlt, -⟩ := List.findIdx?_eq_some_iff_getElem.mp hk
  unfold finish
  rw [hk]
  exact List.getElem?_set_self hlt

theorem commitDone_slot {t : Option TackLoad} {a b wa wb : Bool} (hg : s.brg.gate = .frozen t a b wa wb) :
    SlotOk s (commitDone s) := by
  intro k hk
  unfold commitDone
  rw [hg]
  exact finish_slot hk

/-- Where the slots that run a commit are the same, the first one is. -/
theorem findIdx?_of_still {K : Calm} (h : Still K s t) (k : K.slots = true) {i : Nat}
    (hi : s.brg.slots.findIdx? (· == .running .draft) = some i) : t.brg.slots.findIdx? (· == .running .draft) = some i := by
  obtain ⟨-, -, -, hs⟩ := h
  have hs := hs k
  obtain ⟨hlt, hat, hbefore⟩ := List.findIdx?_eq_some_iff_getElem.mp hi
  obtain ⟨hlt', hat'⟩ := List.getElem?_eq_some_iff.mp ((hs i).mpr (by rw [List.getElem?_eq_getElem hlt, eq_of_beq hat]))
  refine List.findIdx?_eq_some_iff_getElem.mpr ⟨hlt', beq_of_eq hat', fun j hj hx => hbefore j hj ?_⟩
  have hj' := (hs j).mp (by rw [List.getElem?_eq_getElem (hj.trans hlt'), eq_of_beq hx])
  rw [List.getElem?_eq_getElem (hj.trans hlt)] at hj'
  exact beq_of_eq (Option.some.inj hj')

theorem waits_either (hne : d ≠ e) (s : State) : (waits s .a || waits s .b) = (waits s d || waits s e) := by
  cases d <;> cases e <;> first | exact absurd rfl hne | rfl | exact Bool.or_comm _ _

theorem Still.tackState {K : Calm} (h : Still K s t) (k : K.tacks = true) : t.tacks = s.tacks := by
  obtain ⟨-, -, ht, -⟩ := h
  exact ht k

/-- The last side that takes the snapshot puts it in force. -/
theorem takeCommit_last (hne : d ≠ e) (hd : waits s d = true) (he : waits s e = false) :
    Applied s (takeCommit d s) ∧ SlotOk s (takeCommit d s) := by
  obtain ⟨y, hy, hg, ho, hs⟩ := takeCommit_passed hd
  rw [waits_eq] at hd he
  have hw : (waits y .a || waits y .b) = false := by
    rw [waits_either hne, waits_eq, waits_eq, hg, waiting_pass_self, waiting_pass_other hne, he]
    rfl
  rw [hy, hw]
  obtain ⟨a, b, wa, wb, hp⟩ := pass_frozen d hd
  have hyg := hg.trans hp
  obtain ⟨h1, h2, h3, h4⟩ := commitDone_applied hyg
  refine ⟨⟨h1.trans (ho.draft rfl), h2.trans (ho.draft rfl), h3, ?_⟩, fun k hk => commitDone_slot hyg k ?_⟩
  · exact h4.trans (by rw [hs.tackState rfl, hg, load_pass])
  · exact findIdx?_of_still hs rfl hk

/-- The first of two sides that takes the snapshot leaves it waiting at the other. -/
theorem takeCommit_first (hne : d ≠ e) (hd : waits s d = true) (he : waits s e = true) :
    (takeCommit d s).brg.gate = s.brg.gate.pass d ∧
    Own { live := true, draft := true, acq := true, held := true } s (takeCommit d s) ∧
    Still { groups := true, tacks := true, slots := true } s (takeCommit d s) := by
  obtain ⟨y, hy, hg, ho, hs⟩ := takeCommit_passed hd
  rw [waits_eq] at hd he
  have hw : (waits y .a || waits y .b) = true := by
    rw [waits_either hne, waits_eq, waits_eq, hg, waiting_pass_self, waiting_pass_other hne, he]
    rfl
  rw [hy, hw]
  exact ⟨hg, ho, hs⟩

/-! ### What follows leaves it -/

/-- The side has the draft copy in force: for the whole machine where no side waits any more, otherwise at this side alone. -/
def TakenBy (d e : Side) (s t : State) : Prop :=
  t.draft = s.draft ∧ cfgOf t d = s.draft ∧
  (waits s e = false → t.live = s.draft ∧ t.brg.gate = .idle ∧ SlotOk s t) ∧
  (waits s e = true → t.live = s.live ∧ waits t d = false ∧ waits t e = true ∧ cfgOf t e = s.live)

theorem cfgOf_idle (h : s.brg.gate = .idle) : cfgOf s d = s.live := by
  unfold cfgOf
  rw [h]

theorem takeCommit_takenBy (hne : d ≠ e) (hd : waits s d = true) : TakenBy d e s (takeCommit d s) := by
  cases he : waits s e
  case false =>
    obtain ⟨⟨h1, h2, h3, -⟩, hk⟩ := takeCommit_last hne hd he
    exact ⟨h2, (cfgOf_idle h3).trans h1, fun _ => ⟨h1, h3, hk⟩, fun h => by simp [he] at h⟩
  case true =>
    obtain ⟨hg, ho, -⟩ := takeCommit_first hne hd he
    have hwe : waits (takeCommit d s) e = true := by
      rw [waits_eq, hg, waiting_pass_other hne, ← waits_eq, he]
    refine ⟨ho.draft rfl, (cfgOf_taken hg (waits_eq s d ▸ hd)).trans (ho.draft rfl), fun h => by simp [he] at h, fun _ => ?_⟩
    exact ⟨ho.live rfl, by rw [waits_eq, hg, waiting_pass_self], hwe, (cfgOf_waits hwe).trans (ho.live rfl)⟩

theorem TakenBy.waits (h : TakenBy d e s t) : waits t d = false := by
  obtain ⟨-, -, h3, h4⟩ := h
  cases he : Machine.waits s e
  case false => rw [waits_eq, (h3 he).2.1]; rfl
  case true => exact (h4 he).2.1

theorem Own.cfgOf {K : Track} (h : Own K s t) (kL : K.live = true) (kD : K.draft = true) (kG : K.gate = true) (x : Side) :
    cfgOf t x = cfgOf s x := by
  unfold Machine.cfgOf
  rw [h.gate kG, h.live kL, h.draft kD]

theorem Own.waits {K : Track} (h : Own K s t) (kG : K.gate = true) (x : Side) : waits t x = waits s x := by
  rw [waits_eq, waits_eq, h.gate kG]

theorem Own.doneSlot {K : Track} (h : Own K s t) (kH : K.held = true) {k : Nat} {st : BitVec 8} {r : List Word}
    (hk : s.brg.slots[k]? = some (.done st r)) : t.brg.slots[k]? = some (.done st r) := by
  obtain ⟨_, _, _, _, _, _, _, _, _, _, _, _, _, hh, _⟩ := h
  exact (hh kH k (.inr ⟨_, _, hk⟩)).trans hk

/-- What leaves both copies, the gate and the slots leaves it at that. -/
theorem TakenBy.own {u : State} (h : TakenBy d e s t) (ho : Own { live := true, draft := true, gate := true, held := true } t u) :
    TakenBy d e s u := by
  obtain ⟨h1, h2, h3, h4⟩ := h
  refine ⟨(ho.draft rfl).trans h1, (ho.cfgOf rfl rfl rfl d).trans h2, fun he => ?_, fun he => ?_⟩
  · obtain ⟨hl, hg, hk⟩ := h3 he
    exact ⟨(ho.live rfl).trans hl, (ho.gate rfl).trans hg, fun k hs => ho.doneSlot rfl (hk k hs)⟩
  · obtain ⟨hl, hd, hw, hc⟩ := h4 he
    exact ⟨(ho.live rfl).trans hl, (ho.waits rfl d).trans hd, (ho.waits rfl e).trans hw, (ho.cfgOf rfl rfl rfl e).trans hc⟩

/-- What leaves both copies, the gate and the slots may come before it. -/
theorem TakenBy.of_own {r : State} (h : TakenBy d e s t) (ho : Own { live := true, draft := true, gate := true, held := true } r s)
    (hs : Still { slots := true } r s) : TakenBy d e r t := by
  obtain ⟨h1, h2, h3, h4⟩ := h
  rw [ho.draft rfl] at h1 h2 h3
  rw [ho.waits rfl] at h3 h4
  rw [ho.live rfl] at h4
  refine ⟨h1, h2, fun he => ?_, h4⟩
  obtain ⟨hl, hg, hk⟩ := h3 he
  exact ⟨hl, hg, fun k hi => hk k (findIdx?_of_still hs rfl hi)⟩

end Sys2Proof.Machine
end

section
/-!
SUPPORT. A shot-group boundary and the end of blanking once the snapshot is taken: what they launch, and the entry they go to.
-/
namespace Sys2Proof.Machine

-- one theorem after the other: the threads of many at once need more memory than the check has
set_option Elab.async false

variable {s t org : State} {d e : Side}

/-- Both copies of the configuration, the gate, the slots and the blocked routes. -/
def copies : Track := { live := true, draft := true, gate := true, held := true, blocked := true }

/-! ### No snapshot waits at the side -/

theorem own_endAcq_quiet {d : Side} {cause : Nat} (h : Own copies org s) (hw : waits org d = false) :
    Own copies org (endAcq d cause s) := by
  unfold endAcq
  refine own_ite h ?_
  extract_lets s1 s2 s3
  have h1 : Own copies org s1 := own_stopRecords _ (own_setLash _ _ (own_endSettle _ _ _ (own_ite h (own_discardShots _ h)))
    (by simp [Lash.halt]) (by simp [Lash.halt]))
  have h2 : Own copies org s2 := own_post _ _ (own_setGirth _ _ h1 (fun k => Bool.noConfusion k) (fun k => Bool.noConfusion k))
  have h3 : Own copies org s3 := by
    refine own_discardSide _ (own_setTherm _ _ ?_)
    rw [takeCommit_idle ((h2.waits rfl d).trans hw)]
    exact h2
  exact own_startProof _ (own_fixLane (own_takeIdle _ (own_clearOverload (own_applySide _ h3)))) (fun k => Bool.noConfusion k)

theorem own_goTo_quiet {n : Option (Nat × Word)} (h : Own copies org s) (hw : waits org d = false) :
    Own copies org (goTo d n s) := by
  unfold goTo
  split
  · exact own_ite (own_launchGroup _ _ (own_beginDwell _ _ h) rfl) (own_switchTo _ _ h)
  · exact own_ite (own_setTherm _ _ (own_setLash _ _ (own_takeDue _ h) (by simp) (by simp))) (own_endAcq_quiet h hw)

theorem boundary_takenBy (hne : d ≠ e) (hd : waits s d = true) : TakenBy d e s (boundary d s) := by
  have hpre : Own { live := true, draft := true, gate := true, held := true } s (boundaryDue d s) := own_boundaryDue _ (own_refl _ _)
  have hx := (takeCommit_takenBy hne ((hpre.waits rfl d).trans hd)).of_own hpre (still_boundaryDue _ (still_refl _ _))
  exact hx.own (own_applySide _ (own_pairsDue _ (own_holdBoundary _ (own_refl _ _))))

theorem TakenBy.copies (h : TakenBy d e s t) (ho : Own copies t org) : TakenBy d e s org := by
  obtain ⟨h1, h2, h3, _, _, _, _, _, h9, _, _, _, _, h14, _⟩ := ho
  exact h.own ⟨h1, fun k => Bool.noConfusion k, h3, fun k => Bool.noConfusion k, fun k => Bool.noConfusion k,
    fun k => Bool.noConfusion k, fun k => Bool.noConfusion k, fun k => Bool.noConfusion k, h9, fun k => Bool.noConfusion k,
    fun k => Bool.noConfusion k, fun k => Bool.noConfusion k, fun k => Bool.noConfusion k, h14, fun k => Bool.noConfusion k,
    fun k => Bool.noConfusion k⟩

theorem entryFrom_own (h : Own copies s t) (d : Side) (n : Nat) : entryFrom t d n = entryFrom s d n := by
  have hc := h.cfgOf rfl rfl rfl d
  have hb : (t.lash.get d).blocked = (s.lash.get d).blocked := by
    obtain ⟨_, _, _, _, _, _, _, _, _, _, _, _, _, _, _, hb⟩ := h
    cases d
    · exact (hb rfl).1
    · exact (hb rfl).2
  unfold entryFrom openScan
  rw [hc, hb]

/-! ### The course of a side -/

/-- The course of the sides alone. -/
def courses : Calm := { course := true }

theorem Still.courseOf (h : Still courses s t) (d : Side) : courseOf (t.lash.get d) = courseOf (s.lash.get d) := by
  obtain ⟨hc, -⟩ := h
  cases d
  · exact (hc rfl).1
  · exact (hc rfl).2

theorem Still.shots (h : Still courses s t) (d : Side) : (t.lash.get d).shots = (s.lash.get d).shots :=
  congrArg Prod.fst (h.courseOf d)

theorem Still.presentRoute (h : Still courses s t) (d : Side) : presentRoute t d = presentRoute s d :=
  congrArg (fun x => 4 * d.num + x.2.1) (h.courseOf d)

/-- What a launch group writes into the emitter. -/
def launchLash (d : Side) (g : Nat) (s : State) (l : Lash) : Lash :=
  { l with
    running := true, launched := g + 1, pulse := some (pulseCode (cfgOf s d) d l g), pulseAt := s.tb.mono, proof := false
    cut := false, proofOff := false, groupAt := if g = 0 then s.tb.mono else l.groupAt
    number := if g = 0 then l.number + 1 else l.number, shots := l.shots ++ [newShot d g s]
    moved := l.moved.filter (· ≠ Machine.presentRoute s d), taken := [] }

theorem launchGroup_course (d : Side) (g : Nat) (s : State) :
    courseOf ((launchGroup d g s).lash.get d) = courseOf (launchLash d g s (s.lash.get d)) :=
  ((still_launchTakes d g (still_refl courses (setLash d (launchLash d g s) s))).courseOf d).trans
    (congrArg courseOf (Both.get_set_same _ _ _))

theorem courseOf_shots {a b : Lash} (h : courseOf a = courseOf b) : a.shots = b.shots := congrArg Prod.fst h

theorem launchGroup_shots (d : Side) (g : Nat) (s : State) :
    ((launchGroup d g s).lash.get d).shots = (s.lash.get d).shots ++ [newShot d g s] :=
  courseOf_shots (launchGroup_course d g s)

theorem setLash_get (d : Side) (f : Lash → Lash) (s : State) : (setLash d f s).lash.get d = f (s.lash.get d) :=
  Both.get_set_same _ _ _

/-- A switch marks the emitter as draining. -/
theorem switchTo_course (d : Side) (n : Nat) (s : State) : ((switchTo d n s).lash.get d).shots = (s.lash.get d).shots ∧
    ((switchTo d n s).lash.get d).entry = n ∧ ((switchTo d n s).lash.get d).seq = .draining ∧
    ((switchTo d n s).lash.get d).running = false := by
  have hl := (still_leaveRoute d (still_refl courses (endSettle d false false s))).shots d
  have he : ((endSettle d false false s).lash.get d).shots = (s.lash.get d).shots := by
    unfold endSettle
    rw [postIf_lash, setLash_get]
  unfold switchTo
  rw [setLash_get]
  exact ⟨hl.trans he, rfl, rfl, rfl⟩

/-- An acquisition that ends leaves no shot in flight. -/
theorem endAcq_shots (d : Side) (cause : Nat) (h : acquiring s d = true) : ((endAcq d cause s).lash.get d).shots = [] := by
  unfold endAcq
  rw [h]
  extract_lets s1 s2 s3
  have h0 := still_refl courses (setLash d (Lash.halt d) (endSettle d false false (if cause = 0 then s else discardShots d s)))
  have h1 : Still courses _ s1 := still_stopRecords d h0
  have h2 : Still courses _ s2 := still_post _ _ (still_setGirth _ _ h1)
  have h3 : Still courses _ s3 := still_discardSide _ (still_setTherm _ _ (still_takeCommit _ h2 rfl rfl))
  refine ((still_startProof d (still_fixLane (still_takeIdle d (still_clearOverload (still_applySide d h3 rfl))))).shots d).trans ?_
  rw [setLash_get]
  rfl

/-- Going to an entry launches at most one shot, under the side's configuration. -/
theorem goTo_shots (d : Side) (n : Option (Nat × Word)) (s : State) :
    ∀ x ∈ ((goTo d n s).lash.get d).shots, x ∈ (s.lash.get d).shots ∨ x.cfg = cfgOf s d := by
  intro x hx
  unfold goTo at hx
  split at hx
  next n =>
    split at hx
    · rw [launchGroup_shots, beginDwell, setLash_get] at hx
      rcases List.mem_append.mp hx with hx | hx
      · exact .inl hx
      · rw [List.mem_singleton.mp hx]
        exact .inr rfl
    · rw [(switchTo_course d n.1 s).1] at hx
      exact .inl hx
  · split at hx
    · rw [setTherm_lash, setLash_get] at hx
      exact .inl hx
    · by_cases ha : acquiring s d = true
      · rw [endAcq_shots d 7 ha] at hx
        cases hx
      · unfold endAcq at hx
        rw [Bool.not_eq_true] at ha
        rw [ha] at hx
        exact .inl hx

end Sys2Proof.Machine
end

section
/-!
O40: a valid commit is applied at once with both sides idle, waits while one acquires, and takes effect at its boundary.
-/
namespace Sys2Proof.Machine

-- one theorem after the other: the threads of many at once need more memory than the check has
set_option Elab.async false

variable {s t : State} {d e : Side}

/-! ### The shot-group boundary -/

/-- The shots in flight and the position of the switch. -/
def flight (l : Lash) : List Shot × Nat := (l.shots, l.position)

theorem Still.flight (h : Still courses s t) (d : Side) : flight (t.lash.get d) = flight (s.lash.get d) :=
  congrArg (fun x => (x.1, x.2.1)) (h.courseOf d)

theorem flight_setLash (d : Side) (f : Lash → Lash) (s : State) (h : ∀ l, flight (f l) = flight l := by intro l; rfl) :
    flight ((setLash d f s).lash.get d) = flight (s.lash.get d) := by
  rw [setLash_get, h]

theorem flight_endSettle (d : Side) (a b : Bool) (s : State) :
    flight ((endSettle d a b s).lash.get d) = flight (s.lash.get d) := by
  unfold endSettle
  rw [postIf_lash]
  exact flight_setLash d _ s

theorem flight_ramanStart (d : Side) (s : State) : flight ((ramanStart d s).lash.get d) = flight (s.lash.get d) :=
  (still_ramanStart d (still_refl courses s)).flight d

/-- What a boundary counts down, before it goes on. -/
def countDown (d : Side) (c : Cfg) (s : State) : State :=
  if activeScan c d = [] then emitAgain d s
  else settlePassed d (setLash d (fun l => { l with rampLeft := l.rampLeft - 1, dwellLeft := l.dwellLeft - 1 }) s)

theorem countDown_own (d : Side) (c : Cfg) (s : State) : Own copies s (countDown d c s) :=
  own_ite (own_emitAgain _ (own_refl _ _)) (own_settlePassed _ (own_setLash _ _ (own_refl _ _) (by simp) (by simp)))

theorem flight_settlePassed (d : Side) (s : State) : flight ((settlePassed d s).lash.get d) = flight (s.lash.get d) := by
  unfold settlePassed
  split
  · rfl
  · extract_lets s1
    have h1 : flight (s1.lash.get d) = flight (s.lash.get d) := flight_setLash d _ s
    split
    · exact (flight_ramanStart d _).trans ((flight_endSettle d _ _ s1).trans h1)
    · exact h1

theorem flight_countDown (d : Side) (c : Cfg) (s : State) : flight ((countDown d c s).lash.get d) = flight (s.lash.get d) := by
  unfold countDown
  split
  · exact (flight_ramanStart d _).trans (flight_setLash d _ s)
  · exact (flight_settlePassed d _).trans (flight_setLash d _ s)

theorem flight_boundary (d : Side) (s : State) : flight ((boundary d s).lash.get d) = flight (s.lash.get d) :=
  (still_boundary d (still_refl courses s) rfl rfl rfl).flight d

theorem groupBoundary_eq (d : Side) (s : State) : groupBoundary d s =
    let u := countDown d (cfgOf s d) (boundary d s)
    if scanChanged d s (boundary d s) then goTo d (entryFrom u d 0) u
    else if (u.lash.get d).dwellLeft = 0 then goTo d (entryFrom u d ((u.lash.get d).entry + 1)) u
    else launchGroup d 0 u := rfl

/-- Where the scan goes on at an entry: it launches there, or it switches to its route. -/
theorem goTo_some (d : Side) (n : Nat × Word) (s : State) : ((goTo d (some n) s).lash.get d).entry = n.1 ∧
    (if entryRoute d n.2 = presentRoute s d then
      ((goTo d (some n) s).lash.get d).dwellLeft = fld n.2 31 16 ∧ ((goTo d (some n) s).lash.get d).launched = 1
     else ((goTo d (some n) s).lash.get d).seq = .draining ∧ ((goTo d (some n) s).lash.get d).running = false) := by
  unfold goTo
  dsimp only
  split
  · have h := launchGroup_course d 0 (beginDwell d n s)
    rw [show (beginDwell d n s).lash.get d = { s.lash.get d with entry := n.1, dwellLeft := fld n.2 31 16 } from
      setLash_get d _ s] at h
    simp only [courseOf, launchLash, Prod.mk.injEq] at h
    obtain ⟨-, -, he, hd, -, -, -, -, hl, -⟩ := h
    exact ⟨he, hd, hl⟩
  · obtain ⟨-, he, hs, hr⟩ := switchTo_course d n.1 s
    exact ⟨he, hs, hr⟩

/-- A boundary at which the side takes the snapshot. -/
theorem groupBoundary_takes (hne : d ≠ e) (hw : waits s d = true) :
    TakenBy d e s (groupBoundary d s) ∧
    (∀ x ∈ ((groupBoundary d s).lash.get d).shots, x ∈ (s.lash.get d).shots ∨ x.cfg = s.draft) ∧
    (scanOf s.live d ≠ scanOf s.draft d → ∀ n, entryFrom (groupBoundary d s) d 0 = some n →
      ((groupBoundary d s).lash.get d).entry = n.1 ∧
      (if entryRoute d n.2 = presentRoute s d then
        ((groupBoundary d s).lash.get d).dwellLeft = fld n.2 31 16 ∧ ((groupBoundary d s).lash.get d).launched = 1
       else ((groupBoundary d s).lash.get d).seq = .draining ∧ ((groupBoundary d s).lash.get d).running = false)) := by
  rw [groupBoundary_eq]
  extract_lets u
  have hu : TakenBy d e s u := (boundary_takenBy hne hw).copies (countDown_own d _ _)
  have hf : flight (u.lash.get d) = flight (s.lash.get d) := (flight_countDown d _ _).trans (flight_boundary d s)
  have hshots : (u.lash.get d).shots = (s.lash.get d).shots := congrArg Prod.fst hf
  have hroute : presentRoute u d = presentRoute s d := congrArg (fun x => 4 * d.num + x.2) hf
  have hcfg : cfgOf u d = s.draft := hu.2.1
  have hb : cfgOf (boundary d s) d = s.draft := (boundary_takenBy hne hw).2.1
  clear_value u
  have go : ∀ n, TakenBy d e s (goTo d n u) ∧
      ∀ x ∈ ((goTo d n u).lash.get d).shots, x ∈ (s.lash.get d).shots ∨ x.cfg = s.draft := fun n => by
    refine ⟨hu.copies (own_goTo_quiet (own_refl _ _) hu.waits), fun x hx => ?_⟩
    rw [← hshots, ← hcfg]
    exact goTo_shots d n u x hx
  have hchanged : scanChanged d s (boundary d s) = (scanOf s.live d != scanOf s.draft d) := by
    unfold scanChanged
    rw [cfgOf_waits hw, hb]
  rw [hchanged]
  by_cases hs : scanOf s.live d = scanOf s.draft d
  · rw [if_neg (by simp [hs])]
    refine ⟨?_, ?_, fun h => absurd hs h⟩
    · split
      · exact (go _).1
      · exact hu.copies (own_launchGroup _ _ (own_refl _ _) rfl)
    · split
      · exact (go _).2
      · intro x hx
        rw [launchGroup_shots, hshots] at hx
        rcases List.mem_append.mp hx with hx | hx
        · exact .inl hx
        · rw [List.mem_singleton.mp hx]
          exact .inr hcfg
  · rw [if_pos (by simp [hs])]
    refine ⟨(go _).1, (go _).2, fun _ n hn => ?_⟩
    rw [entryFrom_own (own_goTo_quiet (own_refl _ _) hu.waits)] at hn
    rw [hn, ← hroute]
    exact goTo_some d n u

/-! ### The end of blanking -/

/-- The side anew on its present route. -/
def freshVisit (d : Side) (r : Nat) (s : State) : State :=
  let c := cfgOf s d
  let s1 := setCur d (fun u => { u with returned := r :: u.returned.filter (· ≠ r) })
    (setLash d (fun l => { l with seq := .none, rampLeft := rampGroups c d, settleLeft := settleGroups c d, extra := 0 }) s)
  if settleGroups c d = 0 then ramanStart d s1 else s1

theorem freshVisit_own (d : Side) (r : Nat) (s : State) : Own copies s (freshVisit d r s) := by
  unfold freshVisit
  extract_lets c s1
  have h1 : Own copies s s1 := own_setCur _ _ (own_setLash _ _ (own_refl _ _) (by simp) (by simp))
  exact own_ite (own_ramanStart _ h1) h1

theorem flight_freshVisit (d : Side) (r : Nat) (s : State) : flight ((freshVisit d r s).lash.get d) = flight (s.lash.get d) := by
  unfold freshVisit
  extract_lets c s1
  have h1 : flight (s1.lash.get d) = flight (s.lash.get d) := flight_setLash d (fun l => { l with
    seq := .none, rampLeft := rampGroups c d, settleLeft := settleGroups c d, extra := 0 }) s
  split
  · exact (flight_ramanStart d s1).trans h1
  · exact h1

/-- The visit that begins, with its event. -/
def visited (d : Side) (s : State) : State :=
  post evRouteSwitched (presentRoute s d) (setLash d (fun l => { l with visit := l.visit + 1 }) s)

theorem blankingEnd_eq (hs : (s.girth.side d).stopping = false) : ∃ n, blankingEnd d s =
    goTo d n (freshVisit d (presentRoute s d) (boundary d (visited d s))) := by
  unfold blankingEnd
  rw [hs]
  exact ⟨_, rfl⟩

theorem visited_own (d : Side) (s : State) : Own copies s (visited d s) :=
  own_post _ _ (own_setLash _ _ (own_refl _ _) (by simp) (by simp))

/-- The end of blanking where the side takes the snapshot. -/
theorem blankingEnd_takes (hne : d ≠ e) (hw : waits s d = true) (hs : (s.girth.side d).stopping = false) :
    TakenBy d e s (blankingEnd d s) ∧
    ∀ x ∈ ((blankingEnd d s).lash.get d).shots, x ∈ (s.lash.get d).shots ∨ x.cfg = s.draft := by
  obtain ⟨n, hn⟩ := blankingEnd_eq hs
  rw [hn]
  have hb : TakenBy d e s (boundary d (visited d s)) := by
    refine (boundary_takenBy hne (((visited_own d s).waits rfl d).trans hw)).of_own ?_ ?_
    · exact own_post _ _ (own_setLash _ _ (own_refl _ _) (by simp) (by simp))
    · exact still_post _ _ (still_setLash _ _ (still_refl _ _) fun k => Bool.noConfusion k)
  have hu := hb.copies (freshVisit_own d (presentRoute s d) _)
  have hf := (flight_freshVisit d (presentRoute s d) (boundary d (visited d s))).trans ((flight_boundary d (visited d s)).trans
    (flight_setLash d (fun l => { l with visit := l.visit + 1 }) s))
  have hshots : ((freshVisit d (presentRoute s d) (boundary d (visited d s))).lash.get d).shots = (s.lash.get d).shots :=
    congrArg Prod.fst hf
  refine ⟨hu.copies (own_goTo_quiet (own_refl _ _) hu.waits), fun x hx => ?_⟩
  have hx := goTo_shots d n _ x hx
  rw [hu.2.1] at hx
  exact hx.imp_left fun h => hshots ▸ h

/-! ### The end of the acquisition -/

theorem endAcq_takes (hne : d ≠ e) (ha : acquiring s d = true) (hw : waits s d = true) :
    TakenBy d e s (endAcq d 0 s) := by
  unfold endAcq
  rw [ha]
  extract_lets s1 s2 s3
  have h2 : Own { live := true, draft := true, gate := true, held := true } s s2 :=
    own_post _ _ (own_setGirth _ _ (own_stopRecords _ (own_setLash _ _ (own_endSettle _ _ _ (own_refl _ _)) (by simp) (by simp)))
      (by simp) (by simp))
  have hs2 : Still { slots := true } s s2 :=
    still_post _ _ (still_setGirth _ _ (still_stopRecords _ (still_setLash _ _ (still_endSettle _ _ _ (still_refl _ _) rfl) (by simp))))
  have hx : TakenBy d e s (takeCommit d s2) := (takeCommit_takenBy hne ((h2.waits rfl d).trans hw)).of_own h2 hs2
  refine hx.own ?_
  exact own_startProof _ (own_fixLane (own_takeIdle _ (own_clearOverload (own_applySide _ (own_discardSide _
    (own_setTherm _ _ (own_refl _ _))))))) (fun k => Bool.noConfusion k)

/-! ### The snapshot freezes -/

/-- The gate holds the snapshot, and waits for the sides that it affects. -/
def frozenAt (l : Option TackLoad) (s : State) : State :=
  let a := affected s.live s.draft .a
  let b := affected s.live s.draft .b
  loadSnapshot l (auxCommit s.live s.draft { s with brg := { s.brg with gate := .frozen l a b a b } })

/-- Everything of the configuration but the gate. -/
def snapshot : Track := { live := true, draft := true, acq := true, held := true, modified := true, sets := true }

theorem frozenAt_own (l : Option TackLoad) (s : State) : Own snapshot s (frozenAt l s) :=
  own_loadSnapshot _ (own_auxCommit _ _ (own_brg (own_refl _ _) (fun k => Bool.noConfusion k) fun _ => rfl))

/-- The gate as the snapshot freezes. -/
def frozenGate (l : Option TackLoad) (s : State) : Gate :=
  let a := affected s.live s.draft .a
  let b := affected s.live s.draft .b
  .frozen l a b a b

theorem frozenAt_gate (l : Option TackLoad) (s : State) : (frozenAt l s).brg.gate = frozenGate l s := by
  have h : Own { gate := true } { s with brg := { s.brg with gate := frozenGate l s } } (frozenAt l s) :=
    own_loadSnapshot _ (own_auxCommit _ _ (own_refl _ _))
  exact h.gate rfl

theorem frozenAt_waits (l : Option TackLoad) (s : State) (d : Side) : waits (frozenAt l s) d = affected s.live s.draft d := by
  rw [waits_eq, frozenAt_gate]
  cases d <;> rfl

/-- A side that does not acquire takes the snapshot at once. -/
def takeNow (d : Side) (x : State) : State := if acquiring x d then x else takeCommit d x

theorem takeNow_idle {x : State} (h : acquiring x d = false) : takeNow d x = takeCommit d x :=
  if_neg (by rw [h]; exact Bool.false_ne_true)

theorem freeze_changed (l : Option TackLoad) (h : s.draft ≠ s.live) : freeze l s =
    if !(affected s.live s.draft .a || affected s.live s.draft .b) then commitDone (frozenAt l s)
    else bothSides takeNow (frozenAt l s) := if_neg h

/-- Both sides take what waits for them. -/
theorem takeBoth_applied {x : State} (ha : acquiring x .a = false) (hb : acquiring x .b = false)
    (hw : waits x .a = true ∨ waits x .b = true) :
    Applied x (bothSides takeNow x) := by
  show Applied x (takeNow .b (takeNow .a x))
  rw [takeNow_idle ha]
  by_cases hwa : waits x .a = true
  · cases hwb : waits x .b
    case false =>
      have h := (takeCommit_last (by decide) hwa hwb).1
      obtain ⟨h1, h2, h3, h4⟩ := h
      have hn : waits (takeCommit .a x) .b = false := by rw [waits_eq, h3]; rfl
      have hx : takeNow .b (takeCommit .a x) = takeCommit .a x := by
        unfold takeNow
        rw [takeCommit_idle hn, ite_self]
      rw [hx]
      exact ⟨h1, h2, h3, h4⟩
    case true =>
      obtain ⟨hg, ho, hs⟩ := takeCommit_first (by decide) hwa hwb
      have hb' : waits (takeCommit .a x) .b = true := by rw [waits_eq, hg, waiting_pass_other (by decide), ← waits_eq, hwb]
      have ha' : waits (takeCommit .a x) .a = false := by rw [waits_eq, hg, waiting_pass_self]
      rw [takeNow_idle ((ho.acq rfl .b).trans hb)]
      obtain ⟨h1, h2, h3, h4⟩ := (takeCommit_last (by decide) hb' ha').1
      refine ⟨h1.trans (ho.draft rfl), h2.trans (ho.draft rfl), h3, ?_⟩
      rw [h4, hs.tackState rfl, hg, load_pass]
  · have hwb := hw.resolve_left hwa
    rw [Bool.not_eq_true] at hwa
    rw [takeCommit_idle hwa, takeNow_idle hb]
    exact (takeCommit_last (by decide) hwb hwa).1

/-- With both sides idle the snapshot is in force at once. -/
theorem freeze_applied (l : Option TackLoad) (h : s.draft ≠ s.live) (ha : acquiring s .a = false) (hb : acquiring s .b = false) :
    ∃ x, Applied x (freeze l s) ∧ x = frozenAt l s := by
  refine ⟨_, ?_, rfl⟩
  rw [freeze_changed l h]
  have ho := frozenAt_own l s
  cases hab : affected s.live s.draft .a || affected s.live s.draft .b
  case false => exact commitDone_applied (frozenAt_gate l s)
  case true =>
    refine takeBoth_applied ((ho.acq rfl .a).trans ha) ((ho.acq rfl .b).trans hb) ?_
    rw [frozenAt_waits, frozenAt_waits]
    exact (Bool.or_eq_true _ _).mp hab

/-- A side keeps the live copy and waits. -/
def KeepsLive (d : Side) (s x : State) : Prop :=
  acquiring x d = true ∧ waits x d = true ∧ x.live = s.live ∧ x.draft = s.draft

theorem KeepsLive.take {x : State} (h : KeepsLive d s x) (e : Side) :
    KeepsLive d s (takeNow e x) := by
  obtain ⟨ha, hw, hl, hd⟩ := h
  by_cases he : acquiring x e = true
  · rw [takeNow, he]; exact ⟨ha, hw, hl, hd⟩
  · have hne : e ≠ d := fun h => he (h ▸ ha)
    rw [Bool.not_eq_true] at he
    rw [takeNow_idle he]
    cases hwe : waits x e
    case false => rw [takeCommit_idle hwe]; exact ⟨ha, hw, hl, hd⟩
    case true =>
      obtain ⟨hg, ho, -⟩ := takeCommit_first hne hwe hw
      refine ⟨(ho.acq rfl d).trans ha, ?_, (ho.live rfl).trans hl, (ho.draft rfl).trans hd⟩
      rw [waits_eq, hg, waiting_pass_other hne, ← waits_eq, hw]

theorem freeze_waits (l : Option TackLoad) (h : s.draft ≠ s.live) (ha : acquiring s d = true)
    (hd : affected s.live s.draft d = true) : KeepsLive d s (freeze l s) := by
  have ho := frozenAt_own l s
  have h0 : KeepsLive d s (frozenAt l s) :=
    ⟨(ho.acq rfl d).trans ha, (frozenAt_waits l s d).trans hd, ho.live rfl, ho.draft rfl⟩
  have hab : (affected s.live s.draft .a || affected s.live s.draft .b) = true := by cases d <;> simp [hd]
  rw [freeze_changed l h, hab]
  exact (h0.take .a).take .b

theorem judgeDraft_freezes (l : Option TackLoad) (hv : s.draft ≠ s.live → validate s s.draft true = none) :
    judgeDraft l s = planes (freeze l) s := by
  have h : (if s.draft = s.live then none else validate s s.draft true) = none := ite_eq_left_iff.mpr hv
  unfold judgeDraft
  rw [h]

theorem commitValidationDone_draft (hg : s.brg.gate = .validating none) :
    exec .commitValidationDone s = .next (judgeDraft none s) := by
  show execCommitValidationDone s = _
  unfold execCommitValidationDone
  rw [hg]

/-! ### A frozen snapshot -/

theorem locked_commit {o : Origin} (hs : Served s o) (hl : draftLocked s = true) :
    exec (.commit o []) s = .next (refused o 0x06 0x13 0 s) :=
  exec_refused (h := hCommit) (p := []) rfl hs.2 <| answer_badState hCommit (hs.passes_step3 _) rfl rfl <| by
    simp [Handler.badState, hCommit, hl]

theorem locked_discard {o : Origin} (hs : Served s o) (hl : draftLocked s = true) :
    exec (.discard o []) s = .next (refused o 0x07 0x13 0 s) :=
  exec_refused (h := hDiscard) (p := []) rfl hs.2 <| answer_badState hDiscard (hs.passes_step3 _) rfl rfl <| by
    simp [Handler.badState, hDiscard, hl]

theorem locked_paramSet {o : Origin} {id v : Word} (hs : Served s o) (hl : draftLocked s = true) (hw : within 0xFFFF id = true)
    (hv : pOk (fld id 15 0) v = true) (ha : accessOf (fld id 15 0) = .rws) :
    exec (.paramSet o [id, v]) s = .next (refused o 0x05 0x13 0 s) := by
  have hf : pairFault s [(id, v)] = none := pairFault_one hw (assignable_of_pOk hv)
    ((valueOk_of_ne s v (id_ne ha (by decide))).trans hv)
  refine exec_refused (h := hParamSet) (p := [id, v]) rfl hs.2
    (answer_badState hParamSet (hs.passes_step3 _) (by simp [hParamSet]) hf ?_)
  have hb : pairBusy s (id, v) = true := by simp [pairBusy, pairId, ha, hl]
  simp [Handler.badState, hParamSet, pairs, hb]

/-! ### The commit gate -/

/-- Settles O40: the last side to take the snapshot puts it in force, and until then the gate is frozen. -/
theorem commitApplies : Obligations.CommitApplies := by
  refine ⟨fun s hg hne hv => ⟨fun ha hb => ?idle, fun d ha hd => ?waits⟩, fun o s d hs hw => ?locked, fun s d e hne ha hw => ?_⟩
  case idle =>
    refine ⟨_, (commitValidationDone_draft hg).trans (congrArg Host.Outcome.next (judgeDraft_freezes none fun _ => hv)), ?_⟩
    have hown : Own { nv := true, rw := true, draft := true, sets := true } s (planes (freeze none) s) :=
      own_planes _ (own_refl _ _) fun _ hx => own_freeze _ hx (by constructor <;> simp)
    obtain ⟨x, ⟨h1, h2, h3, h4⟩, hx⟩ := freeze_applied (s := atInstant s) none hne ha hb
    have ho := frozenAt_own none (atInstant s)
    rw [← hx] at ho
    have hl : x.brg.gate.load = none := by rw [hx, frozenAt_gate]; rfl
    rw [hl] at h4
    refine ⟨h1.trans (ho.draft rfl), h2.trans (ho.draft rfl), h3, ?_, ?_⟩
    · exact (congrArg Tacks.modified h4).trans (Bool.or_true _)
    · obtain ⟨_, _, _, h4, h5, h6, _⟩ := hown
      exact ⟨h6 rfl, h5 rfl, h4 rfl⟩
  case waits =>
    refine ⟨_, (commitValidationDone_draft hg).trans (congrArg Host.Outcome.next (judgeDraft_freezes none fun _ => hv)), ?_⟩
    obtain ⟨-, h2, h3, h4⟩ := freeze_waits (s := atInstant s) none hne ha hd
    exact ⟨h2, h3, h4, (cfgOf_waits h2).trans h3, draftLocked_waits h2⟩
  case locked =>
    have hl := draftLocked_waits hw
    exact ⟨cfgOf_waits hw, locked_commit hs hl, locked_discard hs hl, fun id v hi hv ha => locked_paramSet hs hl hi hv ha⟩
  refine ⟨fun hs hq => ?group, fun hs hq => ?blanking, fun hq => ?none, fun hs h0 hf => ?stopped⟩
  case group =>
    obtain ⟨h1, h2, h3⟩ := groupBoundary_takes (s := atInstant s) hne hw
    exact ⟨_, congrArg Host.Outcome.next (if_neg (by rw [ha, hs, hq]; decide)), h1, h2, h3⟩
  case blanking =>
    obtain ⟨h1, h2⟩ := blankingEnd_takes (s := atInstant s) hne hw hs
    exact ⟨_, congrArg Host.Outcome.next (if_neg (by rw [ha, hq]; decide)), h1, h2⟩
  case none =>
    exact congrArg Host.Outcome.next (if_pos (by simp [hq]))
  case stopped =>
    have h1 := endAcq_takes (s := atInstant s) hne ha hw
    refine ⟨_, congrArg Host.Outcome.next (if_pos ?_), h1, ?_⟩
    · rw [ha, hs, h0, hf]; rfl
    · exact endAcq_stops d 0 (atInstant s)

end Sys2Proof.Machine
end

section
/-!
O39: the commit without a change and the one refused, the Tack set loaded, and the ends of a save and of an erasure.
-/
namespace Sys2Proof.Machine

-- one theorem after the other: the threads of many at once need more memory than the check has
set_option Elab.async false

variable {s t : State}

/-! ### A snapshot that is loaded -/

section
variable {K : Calm} {org : State}

theorem still_abandonAwl (h : Still K org s) : Still K org (abandonAwl s) := h

theorem still_ringRound (rings : List (Nat × Nat)) (h : Still K org s) : Still K org (ringRound rings s) := h

theorem still_giveBack (h : Still K org s) : Still K org (giveBack s) :=
  still_ite (still_restartDwell (still_setRecv _ h)) h

theorem still_abandonSlice (g : Nat) (h : Still K org s) : Still K org (abandonSlice g s) :=
  still_ite (still_giveBack (still_setLane _ _ h)) (still_setLane _ _ h)

theorem still_applyAux (h : Still K org s) (kG : K.groups = false) : Still K org (applyAux s) :=
  still_ite (still_setAux _ (still_applyRecords _ h kG)) h

theorem still_acceptRecord (p : List Word) (h : Still K org s) (kG : K.groups = false) : Still K org (acceptRecord p s) := by
  unfold acceptRecord
  extract_lets g s1 wait x s2
  have h1 : Still K org s1 := still_ite (still_abandonSlice _ h) (still_ite (still_abandonAwl h) h)
  have h2 : Still K org s2 := ⟨h1.1, fun k => by simp [kG] at k, h1.2.2⟩
  exact still_ite h2 (still_ite (still_applyAux h2 kG)
    (still_ite (still_ringRound _ (still_applyRecords _ h2 kG)) (still_applyRecords _ h2 kG)))

theorem still_loadSnapshot (l : Option TackLoad) (h : Still K org s) (kG : K.groups = false) :
    Still K org (loadSnapshot l s) := by
  unfold loadSnapshot
  split
  · exact h
  · split
    · split
      · exact still_foldl _ _ h fun x r hx => still_ite (still_acceptRecord _ hx kG) (still_post _ _ hx)
      · exact h
    · exact h

end

theorem Still.groups (h : Still { groups := true } s t) : t.cal.groups = s.cal.groups := by
  obtain ⟨-, hg, -⟩ := h
  exact (hg rfl).1

/-- Where the records stand that a load brings: what came before, and what comes after, leaves the groups. -/
structure LoadedAt (l : Option TackLoad) (s y t : State) : Prop where
  before : y.cal.groups = s.cal.groups
  writes : y.cal.writes = s.cal.writes
  sets   : y.tacks.sets = s.tacks.sets
  slots  : y.brg.slots = s.brg.slots
  acq    : ∀ d, acquiring y d = acquiring s d
  after  : t.cal.groups = (loadSnapshot l y).cal.groups

theorem far_auxStart {f g : Bool} {org : State} (h : Far f g org s) : Far f g org (auxStart s) := by
  unfold auxStart
  extract_lets c s1
  have h1 : Far f g org s1 := far_setAux _ h
  exact far_ite (far_setAux _ h1) (far_ite (far_setAux _ h1) (far_goOn _ _ h1))

theorem far_auxCommit (old new : Cfg) (s : State) : Far true true s (auxCommit old new s) :=
  far_ite (far_auxStart (far_setAux _ (far_refl _ _ _))) (far_ite (far_setAux _ (far_refl _ _ _)) (far_refl _ _ _))

theorem freeze_loads (l : Option TackLoad) (s : State) : ∃ y, LoadedAt l s y (freeze l s) := by
  by_cases h : s.draft = s.live
  · refine ⟨{ s with brg := { s.brg with gate := .idle }, tacks := s.tacks.applied l false }, rfl, rfl, applied_tackSets _ _ _, rfl,
      fun _ => rfl, ?_⟩
    unfold freeze
    rw [if_pos h]
    exact (still_finish (K := { groups := true }) _ _ _ (still_post _ _ (still_refl _ _)) (by simp)).groups
  · have hf : Far true true { s with brg := { s.brg with gate := frozenGate l s } }
        (auxCommit s.live s.draft { s with brg := { s.brg with gate := frozenGate l s } }) := far_auxCommit _ _ _
    have hs : Still { groups := true } { s with brg := { s.brg with gate := frozenGate l s } }
        (auxCommit s.live s.draft { s with brg := { s.brg with gate := frozenGate l s } }) := still_auxCommit _ _ (still_refl _ _)
    have ho : Own { acq := true } { s with brg := { s.brg with gate := frozenGate l s } }
        (auxCommit s.live s.draft { s with brg := { s.brg with gate := frozenGate l s } }) := own_auxCommit _ _ (own_refl _ _)
    refine ⟨_, hs.groups, ?_, congrArg Tacks.sets hf.tackState, ?_, fun d => ho.acq rfl d, ?_⟩
    · obtain ⟨-, hg, -⟩ := hs
      exact (hg rfl).2
    · rw [hf.bridle]
    · rw [freeze_changed l h]
      have hk : Still { groups := true } (frozenAt l s) (frozenAt l s) := still_refl _ _
      exact (still_ite (still_commitDone hk rfl rfl) (still_bothSides _ hk fun d x hx =>
        still_ite hx (still_takeCommit d hx rfl rfl))).groups

/-! ### The record of a side's group -/

theorem groupSide_front {g : Nat} (h9 : 9 ≤ g) (h14 : g ≤ 14) : ∃ d, groupSide g = some d := by
  interval_cases g <;> exact ⟨_, rfl⟩

/-- A record of one side's group that is accepted while the side is idle is applied at once. -/
theorem acceptRecord_idle {g : Nat} {p : List Word} {y : State} (hg : fld (wd p 0) 4 0 = g) (h9 : 9 ≤ g) (h14 : g ≤ 14)
    (hw : y.cal.writes = []) (ha : ∀ d, acquiring y d = false) (hl : y.cal.groups.length = 17) :
    (calGroup (acceptRecord p y) g).trims = (p.drop 1).dropLast := by
  obtain ⟨d, hd⟩ := groupSide_front h9 h14
  have hp : acceptRecord p y = applyRecord g p { y with cal := { y.cal with writes := [] } } := by
    unfold acceptRecord
    simp [hg, hd, ha, hw, show ¬ g < 8 by omega, show g ≠ 15 by omega, show g ≠ 16 by omega, applyRecords]
  rw [hp, applyRecord]
  simp only [show ¬ g < 8 by omega, if_false]
  have hlt : g < { y with cal := { y.cal with writes := [] } }.cal.groups.length := by
    show g < y.cal.groups.length
    omega
  exact congrArg CalGroup.trims ((calGroup_setCal _ hlt).trans (if_pos rfl))

theorem recordConflict_front {p : List Word} {y : State} (h : 8 ≤ fld (wd p 0) 4 0) :
    recordConflict y p = recordConflict s p := by
  simp [recordConflict, show ¬ fld (wd p 0) 4 0 < 8 by omega]

theorem held_slots {y : State} (h : y.brg.slots = s.brg.slots) (r : Res) : held y r = held s r := by
  unfold held
  rw [h]

/-- The one record of a snapshot. -/
theorem loadSnapshot_one {l : TackLoad} {g : Nat} {p : List Word} {y : State} (hl : l.withCal = true)
    (hx : (y.tacks.sets.getD l.set TackSet.empty).cal = some [(g, p)]) : loadSnapshot (some l) y = loadRecord g p y := by
  simp only [loadSnapshot, hl, hx, if_true, List.foldl]

theorem loadSnapshot_none {l : TackLoad} {y : State}
    (h : l.withCal = false ∨ (y.tacks.sets.getD l.set TackSet.empty).cal = none) : loadSnapshot (some l) y = y := by
  rcases h with h | h
  · simp only [loadSnapshot, h, Bool.false_eq_true, if_false]
  · simp only [loadSnapshot, h, ite_self]

theorem loadRecord_accepted {g : Nat} {p : List Word} {y : State} (hf : recordFault p = none) (hg : fld (wd p 0) 4 0 = g)
    (hc : recordConflict y p = false) (hh : held y (.cal (groupMask (pairOf g))) = false) :
    loadRecord g p y = acceptRecord p y :=
  if_pos ⟨hf, hg, by simp [hc], by simp [hh]⟩

theorem loadRecord_refused {g : Nat} {p : List Word} {y : State} (h9 : 9 ≤ g)
    (h : recordFault p ≠ none ∨ recordConflict s p = true) : (loadRecord g p y).cal.groups = y.cal.groups := by
  unfold loadRecord
  rw [if_neg]
  · rfl
  · rintro ⟨hf, hg, hc, -⟩
    rcases h with h | h
    · exact h hf
    · rw [recordConflict_front (s := s) (by omega)] at hc
      simp [h] at hc

/-! ### The ends -/

theorem commitValidationDone_load {l : TackLoad} (hg : s.brg.gate = .validating (some l))
    (hx : (s.tacks.sets.getD l.set TackSet.empty).state = 1) : exec .commitValidationDone s =
      .next (judgeDraft (some l) { s with draft := (s.tacks.sets.getD l.set TackSet.empty).cfg }) := by
  show execCommitValidationDone s = _
  simp only [execCommitValidationDone, hg, hx, if_true]

theorem commitValidationDone_invalid {l : TackLoad} (hg : s.brg.gate = .validating (some l))
    (hx : (s.tacks.sets.getD l.set TackSet.empty).state ≠ 1) : exec .commitValidationDone s =
      .next (finish .draft stBadState [] { s with brg := { s.brg with gate := .idle } }) := by
  show execCommitValidationDone s = _
  simp only [execCommitValidationDone, hg, if_neg hx]

theorem judgeDraft_failed {l : Option TackLoad} {f : Failure} (hne : s.draft ≠ s.live) (hv : validate s s.draft true = some f) :
    judgeDraft l s = finish .draft stConflict [mk [(0, 10, f.code16), (16, 16, f.index)]]
      (post evCommitFailed f.code16 { s with brg := { s.brg with gate := .idle } }) := by
  have h : (if s.draft = s.live then none else validate s s.draft true) = some f := (if_neg hne).trans hv
  unfold judgeDraft
  rw [h]

/-- A commit that changes nothing touches no side. -/
theorem judgeDraft_same (h : s.draft = s.live) : judgeDraft none s =
    planes (fun t => finish .draft stOk [] (post evCommitApplied 0 { t with brg := { t.brg with gate := .idle } })) s := by
  rw [judgeDraft_freezes none fun hn => absurd h hn]
  refine planes_congr ((if_pos h).trans ?_)
  have ht : s.tacks.applied none false = s.tacks := by simp [Tacks.applied]
  show finish .draft stOk [] (post evCommitApplied 0 (loadSnapshot none { atInstant s with
    brg := { s.brg with gate := .idle }, tacks := s.tacks.applied none false })) = _
  rw [ht]
  rfl

/-- The Tack status after a load. -/
def LoadApplied (l : TackLoad) (s t : State) : Prop :=
  t.live = s.draft ∧ t.draft = s.draft ∧ t.brg.gate = .idle ∧ t.tacks = s.tacks.applied (some l) true

/-- A load that changes nothing of the live copy touches no side. -/
def untouched (l : TackLoad) (s : State) : State :=
  { s with brg := { s.brg with gate := .idle }, tacks := s.tacks.applied (some l) false }

theorem freeze_same (l : TackLoad) (h : s.draft = s.live) : LoadApplied l s (freeze (some l) s) := by
  unfold freeze
  rw [if_pos h]
  have ho : Own { live := true, draft := true, gate := true } (untouched l s) (loadSnapshot (some l) (untouched l s)) :=
    own_loadSnapshot _ (own_refl _ _)
  have hs : Still { tacks := true } (untouched l s) (loadSnapshot (some l) (untouched l s)) :=
    still_loadSnapshot _ (still_refl _ _) rfl
  refine ⟨(finish_live _ _ _ _).trans ((ho.live rfl).trans h.symm), (finish_draft _ _ _ _).trans (ho.draft rfl),
    (finish_gate _ _ _ _).trans (ho.gate rfl), (finish_tacks _ _ _ _).trans (hs.tackState rfl)⟩

theorem freeze_loaded (l : TackLoad) (h : s.draft ≠ s.live) (ha : acquiring s .a = false) (hb : acquiring s .b = false) :
    LoadApplied l s (freeze (some l) s) := by
  obtain ⟨x, ⟨h1, h2, h3, h4⟩, hx⟩ := freeze_applied (some l) h ha hb
  have ho := frozenAt_own (some l) s
  have hs : Still { tacks := true } s (frozenAt (some l) s) :=
    still_loadSnapshot _ (still_auxCommit _ _ (still_refl { tacks := true } s)) rfl
  have hl : x.brg.gate.load = some l := by rw [hx, frozenAt_gate]; rfl
  rw [← hx] at ho hs
  rw [hl, hs.tackState rfl] at h4
  exact ⟨h1.trans (ho.draft rfl), h2.trans (ho.draft rfl), h3, h4⟩

/-- The state a load is judged in: the set is the draft. -/
def withSet (l : TackLoad) (s : State) : State := { s with draft := (s.tacks.sets.getD l.set TackSet.empty).cfg }

/-- A set that equals the live copy, or that the checks pass with both sides idle. -/
def Loadable (l : TackLoad) (s : State) : Prop :=
  (withSet l s).draft = s.live ∨
    (validate (withSet l s) (withSet l s).draft true = none ∧ acquiring s .a = false ∧ acquiring s .b = false)

theorem load_out {l : TackLoad} (hg : s.brg.gate = .validating (some l)) (hv : (s.tacks.sets.getD l.set TackSet.empty).state = 1)
    (h : Loadable l s) : exec .commitValidationDone s = .next (planes (freeze (some l)) (withSet l s)) :=
  (commitValidationDone_load hg hv).trans (congrArg Host.Outcome.next (judgeDraft_freezes (some l) fun hn =>
    h.elim (fun h => absurd h hn) fun h => h.1))

theorem load_applied {l : TackLoad} (h : Loadable l s) :
    LoadApplied l (withSet l s) (planes (freeze (some l)) (withSet l s)) := by
  have happ : LoadApplied l (atInstant (withSet l s)) (freeze (some l) (atInstant (withSet l s))) := by
    by_cases hsame : (withSet l s).draft = s.live
    · exact freeze_same l hsame
    · obtain ⟨-, ha, hb⟩ := h.resolve_left hsame
      exact freeze_loaded l hsame ha hb
  exact happ

theorem load_groups (l : TackLoad) (s : State) :
    ∃ y, LoadedAt (some l) (withSet l s) y (planes (freeze (some l)) (withSet l s)) := by
  obtain ⟨y, h1, h2, h3, h4, h5, h6⟩ := freeze_loads (some l) (atInstant (withSet l s))
  exact ⟨y, h1, h2, h3, h4, h5, h6⟩

/-- Settles O39: an empty change applies at once, a failed check and a set that is not VALID end the command, and a set that is
loaded becomes both copies, its records applied where a side's group takes them. -/
theorem commitAndTackEnds : Obligations.CommitAndTackEnds := by
  refine fun s => ⟨fun hg h => ?same, fun f hg hne hv => ?failed, fun l hg hx => commitValidationDone_invalid hg hx,
    fun l x hg hx hv => ?load, fun n a b ho => ⟨?saved, ?unsaved⟩, fun n ho => ?erased⟩
  case same => exact (commitValidationDone_draft hg).trans (congrArg Host.Outcome.next (judgeDraft_same h))
  case failed => exact (commitValidationDone_draft hg).trans (congrArg Host.Outcome.next (judgeDraft_failed hne hv))
  case saved =>
    show execTackSaveDone true s = _
    simp only [execTackSaveDone, ho, if_true]
    rfl
  case unsaved =>
    show execTackSaveDone false s = _
    simp only [execTackSaveDone, ho, Bool.false_eq_true, if_false]
  case erased =>
    show execTackEraseDone s = _
    simp only [execTackEraseDone, ho]
    rfl
  subst hx
  refine ⟨fun f hne hf => (commitValidationDone_load hg hv).trans (congrArg Host.Outcome.next (judgeDraft_failed hne hf)),
    fun hcase => ⟨_, load_out hg hv hcase, ?_⟩⟩
  obtain ⟨h1, h2, h3, h4⟩ := load_applied hcase
  obtain ⟨y, hbefore, hwrites, hsets, hslots, hacq, hafter⟩ := load_groups l s
  refine ⟨h1, h2, h3, by rw [h4]; rfl, by rw [h4]; rfl, by rw [h4]; rfl, by rw [h4]; rfl, fun hn => ?_,
    fun g p hsound hcal hrec h9 h14 hw ha => ⟨fun hf hgp hc hh => ?_, fun hr => ?_⟩⟩
  · rw [loadSnapshot_none (hn.imp_right fun h => by rw [hsets]; exact h)] at hafter
    exact hafter.trans hbefore
  · rw [loadSnapshot_one hcal (by rw [hsets]; exact hrec), loadRecord_accepted hf hgp
      ((recordConflict_front (s := s) (by omega)).trans hc) ((held_slots hslots _).trans hh)] at hafter
    have hacc := acceptRecord_idle hgp h9 h14 (hwrites.trans hw) (fun d => (hacq d).trans (ha d))
      (by rw [hbefore]; exact hsound.groups)
    exact (congrArg (fun l => (l.getD g CalGroup.init).trims) hafter).trans hacc
  · rw [loadSnapshot_one hcal (by rw [hsets]; exact hrec)] at hafter
    exact hafter.trans ((loadRecord_refused (s := s) h9 hr).trans hbefore)

end Sys2Proof.Machine
end

section
/-!
O51: the route switch, the settle groups, the blocked route and the parking of an accumulation.
-/
namespace Sys2Proof.Machine

-- one theorem after the other: the threads of many at once need more memory than the check has
set_option Elab.async false

variable {s t : State} {d e : Side}

/-! ### Blanking -/

theorem thermalEnter_lash (d : Side) (r : Nat) (s : State) : (thermalEnter d r s).lash = s.lash := by
  unfold thermalEnter
  dsimp only
  split_ifs <;> rfl

theorem routeBlankingStart_out {n : Nat × Word} (ha : acquiring s d = true) (hq : (s.lash.get d).seq = .draining)
    (ht : (s.therm.get d).transfer = false) (hn : entryFrom s d (s.lash.get d).entry = some n) :
    exec (.routeBlankingStart d) s = .next (beginBlanking d n (takeDue d s)) := by
  show execRouteBlankingStart d s = _
  unfold execRouteBlankingStart
  dsimp only
  rw [if_pos (by simp [ha, hq, ht]), hn]

theorem beginBlanking_lash (d : Side) (n : Nat × Word) (s : State) : (beginBlanking d n s).lash.get d =
    { s.lash.get d with entry := n.1, position := fld n.2 1 0, seq := .blanking false, running := false } := by
  unfold beginBlanking
  rw [thermalEnter_lash, setLash_get]

theorem switchStrobe_counts (h : (s.lash.get d).seq = .blanking false) : ∃ t, exec (.switchStrobe d) s = .next t ∧
    (t.lash.get d).seq = .blanking true ∧ (t.lash.get d).count = sat 32 ((s.lash.get d).count + 1) := by
  refine ⟨_, congrArg Host.Outcome.next (if_neg (by simp [h])), ?_⟩
  rw [postIf_lash, setLash_get]
  exact ⟨rfl, rfl⟩

/-- Where no snapshot waits, a boundary leaves both copies and the gate. -/
theorem boundary_quiet (hw : waits s d = false) : Own copies s (boundary d s) := by
  have h1 : Own copies s (boundaryDue d s) := own_boundaryDue _ (own_refl _ _)
  unfold boundary
  rw [takeCommit_idle ((h1.waits rfl d).trans hw)]
  exact own_applySide _ (own_pairsDue _ (own_holdBoundary _ h1))

theorem freshVisit_course (d : Side) (r : Nat) (s : State) : courseOf ((freshVisit d r s).lash.get d) =
    courseOf { s.lash.get d with
      seq := .none, rampLeft := rampGroups (cfgOf s d) d, settleLeft := settleGroups (cfgOf s d) d, extra := 0 } := by
  unfold freshVisit
  extract_lets c s1
  have h1 : s1.lash.get d = { s.lash.get d with
      seq := .none, rampLeft := rampGroups c d, settleLeft := settleGroups c d, extra := 0 } :=
    setLash_get d (fun l => { l with seq := .none, rampLeft := rampGroups c d, settleLeft := settleGroups c d, extra := 0 }) s
  split
  · exact ((still_ramanStart d (still_refl courses s1)).courseOf d).trans (congrArg courseOf h1)
  · exact congrArg courseOf h1

theorem visited_course (d : Side) (s : State) : courseOf ((visited d s).lash.get d) = courseOf (s.lash.get d) := by
  unfold visited
  rw [post_lash, setLash_get]
  rfl

/-- Blanking ends on the route of the entry that is due: it launches there. -/
theorem blankingEnd_launches {n : Nat × Word} (hs : (s.girth.side d).stopping = false) (hw : waits s d = false)
    (hn : entryFrom s d (s.lash.get d).entry = some n) (hr : entryRoute d n.2 = presentRoute s d) :
    ∃ u, blankingEnd d s = launchGroup d 0 (beginDwell d n u) ∧
      courseOf (u.lash.get d) = courseOf { s.lash.get d with
        seq := .none, rampLeft := rampGroups (cfgOf s d) d, settleLeft := settleGroups (cfgOf s d) d, extra := 0 } := by
  have hv : Own copies s (visited d s) := visited_own d s
  have hb : Own copies (visited d s) (boundary d (visited d s)) := boundary_quiet ((hv.waits rfl d).trans hw)
  have hf : Own copies _ (freshVisit d (presentRoute s d) (boundary d (visited d s))) := freshVisit_own d _ _
  have hcfg : cfgOf (boundary d (visited d s)) d = cfgOf s d := (hb.cfgOf rfl rfl rfl d).trans (hv.cfgOf rfl rfl rfl d)
  have hcourse : courseOf ((boundary d (visited d s)).lash.get d) = courseOf (s.lash.get d) :=
    ((still_boundary d (still_refl courses _) rfl rfl rfl).courseOf d).trans (visited_course d s)
  have hu : courseOf ((freshVisit d (presentRoute s d) (boundary d (visited d s))).lash.get d) = courseOf { s.lash.get d with
      seq := .none, rampLeft := rampGroups (cfgOf s d) d, settleLeft := settleGroups (cfgOf s d) d, extra := 0 } := by
    refine (freshVisit_course d _ _).trans ?_
    simp only [courseOf, Prod.mk.injEq] at hcourse ⊢
    obtain ⟨h1, h2, h3, h4, -, -, -, -, h9, h10, h11⟩ := hcourse
    exact ⟨h1, h2, h3, h4, trivial, by rw [hcfg], trivial, by rw [hcfg], h9, h10, h11⟩
  refine ⟨_, ?_, hu⟩
  have hentry : ((freshVisit d (presentRoute s d) (boundary d (visited d s))).lash.get d).entry = (s.lash.get d).entry :=
    congrArg (fun x => x.2.2.1) hu
  have hroute : presentRoute (freshVisit d (presentRoute s d) (boundary d (visited d s))) d = presentRoute s d :=
    congrArg (fun x => 4 * d.num + x.2.1) hu
  have hscan : scanChanged d s (boundary d (visited d s)) = false := by
    unfold scanChanged
    rw [hcfg, bne_self_eq_false]
  have hgo : blankingEnd d s = goTo d (if scanChanged d s (boundary d (visited d s)) then
      entryFrom (freshVisit d (presentRoute s d) (boundary d (visited d s))) d 0
    else entryFrom (freshVisit d (presentRoute s d) (boundary d (visited d s))) d
      ((freshVisit d (presentRoute s d) (boundary d (visited d s))).lash.get d).entry)
    (freshVisit d (presentRoute s d) (boundary d (visited d s))) := by
    unfold blankingEnd
    rw [hs]
    rfl
  rw [hgo, hscan, if_neg Bool.false_ne_true, hentry, entryFrom_own hf, entryFrom_own hb, entryFrom_own hv, hn]
  exact if_pos (hr.trans hroute.symm)

/-- What a launch on an entry leaves of the course. -/
theorem launchOn_course (n : Nat × Word) (u : State) {l : Lash} (h : courseOf (u.lash.get d) = courseOf l) :
    ((launchGroup d 0 (beginDwell d n u)).lash.get d).seq = l.seq ∧ ((launchGroup d 0 (beginDwell d n u)).lash.get d).launched = 1 ∧
    ((launchGroup d 0 (beginDwell d n u)).lash.get d).rampLeft = l.rampLeft ∧
    ((launchGroup d 0 (beginDwell d n u)).lash.get d).settleLeft = l.settleLeft ∧
    ((launchGroup d 0 (beginDwell d n u)).lash.get d).entry = n.1 ∧
    ((launchGroup d 0 (beginDwell d n u)).lash.get d).dwellLeft = fld n.2 31 16 := by
  have hl := launchGroup_course d 0 (beginDwell d n u)
  rw [show (beginDwell d n u).lash.get d = { u.lash.get d with entry := n.1, dwellLeft := fld n.2 31 16 } from
    setLash_get d _ u] at hl
  simp only [courseOf, launchLash, Prod.mk.injEq] at hl h
  obtain ⟨-, -, he, hd, hq, hs, -, hr, hn, -⟩ := hl
  obtain ⟨-, -, -, -, hq', hs', -, hr', -⟩ := h
  exact ⟨hq.trans hq', hn, hr.trans hr', hs.trans hs', he, hd⟩

/-! ### Settling -/

theorem settlePeriodEnd_out (lanes : List (List Int)) (ha : acquiring s d = true) (hq : (s.lash.get d).seq = .none)
    (hl : (s.lash.get d).settleLeft = 1) : exec (.settlePeriodEnd d lanes) s =
      let fail := settleTol (cfgOf s d) d ≠ 0 && lanes.zipIdx.any fun x => laneOff s d x.2 x.1
      .next (if fail && (s.lash.get d).extra < settleExtra (cfgOf s d) d && decide (1 < (s.lash.get d).dwellLeft) then
          setLash d (fun l => { l with settleLeft := 2, extra := l.extra + 1 }) s
        else endSettle d (decide ((s.lash.get d).dwellLeft ≤ 1))
          (fail && decide (settleExtra (cfgOf s d) d ≤ (s.lash.get d).extra)) s) :=
  congrArg Host.Outcome.next (if_neg (by simp [ha, hq, hl]))

theorem settlePeriodEnd_repeats {lanes : List (List Int)} (ha : acquiring s d = true) (hq : (s.lash.get d).seq = .none)
    (hl : (s.lash.get d).settleLeft = 1) (ht : settleTol (cfgOf s d) d ≠ 0)
    (hf : lanes.zipIdx.any (fun x => laneOff s d x.2 x.1) = true) (hx : (s.lash.get d).extra < settleExtra (cfgOf s d) d)
    (hd : 1 < (s.lash.get d).dwellLeft) : exec (.settlePeriodEnd d lanes) s =
      .next (setLash d (fun l => { l with settleLeft := 2, extra := l.extra + 1 }) s) := by
  refine (settlePeriodEnd_out lanes ha hq hl).trans (congrArg Host.Outcome.next (if_pos ?_))
  rw [hf]
  simp [ht, hx, hd]

theorem settlePeriodEnd_settled {lanes : List (List Int)} (ha : acquiring s d = true) (hq : (s.lash.get d).seq = .none)
    (hl : (s.lash.get d).settleLeft = 1)
    (h : settleTol (cfgOf s d) d = 0 ∨ lanes.zipIdx.any (fun x => laneOff s d x.2 x.1) = false) :
    exec (.settlePeriodEnd d lanes) s = .next (endSettle d (decide ((s.lash.get d).dwellLeft ≤ 1)) false s) := by
  have hfail : (decide (settleTol (cfgOf s d) d ≠ 0) && lanes.zipIdx.any fun x => laneOff s d x.2 x.1) = false := by
    rcases h with h | h
    · simp [h]
    · rw [h, Bool.and_false]
  refine (settlePeriodEnd_out lanes ha hq hl).trans ?_
  dsimp only
  rw [hfail]
  rfl

/-! ### The broken route -/

theorem Own.blocked {K : Track} (h : Own K s t) (k : K.blocked = true) (d : Side) :
    (t.lash.get d).blocked = (s.lash.get d).blocked := by
  obtain ⟨_, _, _, _, _, _, _, _, _, _, _, _, _, _, _, hb⟩ := h
  cases d
  · exact (hb k).1
  · exact (hb k).2

/-- The broken route is blocked. -/
def routeBlocked (d : Side) (r : Nat) (s : State) : State :=
  setLash d (fun l => { l with blocked := l.blocked ||| ((1 : BitVec 4) <<< (r % 4)) }) s

theorem routeBlocked_bit (d : Side) (r : Nat) (s : State) :
    ((routeBlocked d r s).lash.get d).blocked.getLsbD (r % 4) = true := by
  unfold routeBlocked
  rw [setLash_get]
  have hr : r % 4 < 4 := Nat.mod_lt _ (by decide)
  simp [hr]

theorem aprActivation_blocks {r : Nat} (hr : (s.girth.side d).breakRoute = r) (hd : routeSide r = d)
    (he : bit (rwGet s (sid d 0x4009)) 0 = true) (hb : (deltaOf s r).broken = true)
    (hn : (s.lash.get d).blocked.getLsbD (r % 4) = false) :
    ∃ t, exec (.aprActivation d) s = .next t ∧ (t.lash.get d).blocked.getLsbD (r % 4) = true := by
  subst hr
  refine ⟨_, congrArg Host.Outcome.next (if_neg (by simp [hd, he, hb, hn])), ?_⟩
  have h1 : Own { blocked := true } (routeBlocked d (s.girth.side d).breakRoute s)
      (discardRoute d (s.girth.side d).breakRoute (post evAprActive (s.girth.side d).breakRoute
        (routeBlocked d (s.girth.side d).breakRoute s))) := own_discardRoute _ _ (own_post _ _ (own_refl _ _))
  have h2 := own_ite (c := (acquiring s d && presentRoute s d = (s.girth.side d).breakRoute) = true)
    (own_planes (leaveBlocked d) h1 fun _ hx => own_leaveBlocked _ hx (by constructor <;> simp) rfl rfl) h1
  exact (congrArg (fun b : BitVec 4 => b.getLsbD ((s.girth.side d).breakRoute % 4)) (h2.blocked rfl d)).trans
    (routeBlocked_bit d _ s)

/-! ### Parking -/

theorem therm_setTherm (d : Side) (f : Thermal → Thermal) (s : State) : (setTherm d f s).therm.get d = f (s.therm.get d) :=
  Both.get_set_same _ _ _

theorem ramanStart_therm (d : Side) (s : State) : ∃ b, (ramanStart d s).therm.get d = { s.therm.get d with running := b } := by
  unfold ramanStart
  dsimp only
  split
  · exact ⟨true, therm_setTherm d _ s⟩
  · exact ⟨(s.therm.get d).running, rfl⟩

theorem parkingDone_parks (ht : (s.therm.get d).transfer = true) (hq : (s.lash.get d).seq = .draining) (b : Bool) :
    exec (.thermalParkingDone d b) s = .next (park d s) :=
  congrArg Host.Outcome.next ((if_neg (by simp [ht])).trans (if_pos (by simp [hq])))

theorem clearSums_therm (d : Side) (s : State) : (clearSums d s).therm = s.therm := rfl

theorem dramBytes_therm (f : List Host.Cell → List Host.Cell) (s : State) : (dramBytes f s).therm = s.therm := rfl

theorem park_empty (h : (s.therm.get d).shots = 0) :
    (park d s).therm.get d = { s.therm.get d with transfer := false } := by
  unfold park
  dsimp only
  rw [if_pos h]
  exact therm_setTherm d _ s

theorem park_full (h : (s.therm.get d).shots ≠ 0) : (park d s).therm.get d = { s.therm.get d with
    parked := ⟨(s.therm.get d).route, (s.therm.get d).shots, (s.therm.get d).first, (s.therm.get d).last, (s.therm.get d).satUp⟩ ::
      (s.therm.get d).parked.filter (·.route ≠ (s.therm.get d).route)
    shots := 0, first := 0, last := 0, satUp := false, transfer := false } := by
  unfold park
  dsimp only
  rw [if_neg h, clearSums_therm, therm_setTherm, dramBytes_therm]

theorem parkingDone_unparks {p : Parked} (ht : (s.therm.get d).transfer = true) (hq : (s.lash.get d).seq ≠ .draining)
    (hp : (s.therm.get d).parked.find? (·.route = (s.therm.get d).route) = some p) :
    exec (.thermalParkingDone d false) s = .next (ramanStart d (unpark d p (parkingRead p.route false s))) := by
  show execThermalParkingDone d false s = _
  simp only [execThermalParkingDone, ht, hp, beq_eq_false_iff_ne.mpr hq, Bool.not_true, Bool.false_and, Bool.false_eq_true, if_false]

theorem unpark_therm (d : Side) (p : Parked) (s : State) : ((unpark d p s).therm.get d).transfer = false ∧
    ((unpark d p s).therm.get d).shots = p.shots ∧ ((unpark d p s).therm.get d).route = p.route := by
  unfold unpark
  dsimp only
  rw [therm_setTherm]
  exact ⟨rfl, rfl, rfl⟩

/-- Settles O51: each row of the switch writes what the statement names, and the functions that follow leave it. -/
theorem routeSwitch : Obligations.RouteSwitch := by
  refine ⟨fun d s => ⟨fun n ha hq ht hn => ?start, switchStrobe_counts, fun h => ?noStrobe, fun n ha hq hs hw hn hr => ?finish,
    fun lanes ha hq hl => ⟨settlePeriodEnd_repeats ha hq hl, settlePeriodEnd_settled ha hq hl⟩⟩,
    fun d s => ⟨fun r => aprActivation_blocks, fun ht hq b => ?park, fun p ht hq hp => ?unpark, fun ht b => ?idle⟩⟩
  case start =>
    refine ⟨_, routeBlankingStart_out ha hq ht hn, ?_⟩
    rw [beginBlanking_lash]
    exact ⟨rfl, rfl, rfl, rfl⟩
  case noStrobe => exact congrArg Host.Outcome.next (if_pos (by simp [h]))
  case finish =>
    refine ⟨_, congrArg Host.Outcome.next (if_neg (by rw [ha, hq]; decide)), ?_⟩
    obtain ⟨u, hu, hc⟩ := blankingEnd_launches (s := atInstant s) hs hw hn hr
    have h := launchOn_course n u hc
    rw [← hu] at h
    exact h
  case park =>
    refine ⟨_, parkingDone_parks ht hq b, ?_⟩
    by_cases h0 : (s.therm.get d).shots = 0
    · rw [park_empty h0]
      exact ⟨rfl, h0, fun _ => rfl, fun h => absurd h0 h⟩
    · rw [park_full h0]
      exact ⟨rfl, rfl, fun h => absurd h h0, fun _ => rfl⟩
  case unpark =>
    refine ⟨_, parkingDone_unparks ht hq hp, ?_⟩
    obtain ⟨b, hb⟩ := ramanStart_therm d (unpark d p (parkingRead p.route false s))
    rw [hb]
    exact unpark_therm d p _
  case idle => exact congrArg Host.Outcome.next (if_pos (by simp [ht]))

end Sys2Proof.Machine
end

section
/-!
O37: the start-up from the choice of the reference to READY.
-/
namespace Sys2Proof.Machine

-- one theorem after the other: the threads of many at once need more memory than the check has
set_option Elab.async false

variable {s t : State}

/-! ### What a step of calibration leaves -/

/-- Where the start-up stands, whether DRAM is usable, and the time. -/
def stageOf (s : State) : Nat × BitVec 17 × Bool × DevState × TimeBase :=
  (s.cal.phase, s.cal.running, s.mem.usable, s.pwr.dev, s.tb)

theorem stage_watchExcl (f : State → State) (s : State) : stageOf (watchExcl f s) = stageOf (f s) := by
  have hdrop : ∀ (d : Side) (b : Nat) (u : State), stageOf (dropTrackers d b u) = stageOf u :=
    fun d b u => ite_leaves stageOf rfl rfl
  exact (hdrop _ _ _).trans (hdrop _ _ _)

theorem stage_takeSlices (n : Nat) (l : List Nat) (s : State) : stageOf (takeSlices n l s) = stageOf s := by
  unfold takeSlices changeLane
  exact (stage_watchExcl _ s).trans rfl

theorem stage_setFigure (g k : Nat) (low : Bool) (s : State) : stageOf (setFigure g k low s) = stageOf s :=
  ite_leaves stageOf rfl rfl

theorem stage_judge (g : Nat) (s : State) : stageOf (judge g s) = stageOf s :=
  foldl_leaves stageOf (fun _ _ => stage_setFigure ..) _ s

theorem stage_takeResult (r : StepResult) (s : State) : stageOf (takeResult r s) = stageOf s := by
  unfold takeResult
  extract_lets g s1 s2 s3
  have h2 : stageOf s2 = stageOf s := ite_leaves stageOf (stage_takeSlices _ _ s1) rfl
  have h3 : stageOf s3 = stageOf s := (stage_setFigure ..).trans ((stage_judge ..).trans h2)
  exact ite_leaves stageOf h3 (ite_leaves stageOf h3 (ite_leaves stageOf h3 h3))

theorem stage_keepValues (g : Nat) (s : State) : stageOf (keepValues g s) = stageOf s :=
  (stage_setFigure ..).trans (stage_judge ..)

theorem stage_atReady {f : State → State} (h : ∀ t, stageOf (f t) = stageOf t) (s : State) : stageOf (atReady f s) = stageOf s :=
  (show stageOf (atReady f s) = stageOf (f { s with evq := Events.init }) from rfl).trans (h _)

theorem stage_applyRecord (g : Nat) (p : List Word) (s : State) : stageOf (applyRecord g p s) = stageOf s :=
  ite_leaves stageOf (stage_takeSlices ..) rfl

theorem stage_applyRecords (f : Nat → Bool) (s : State) : stageOf (applyRecords f s) = stageOf s :=
  foldl_leaves stageOf (fun _ _ => stage_applyRecord ..) _ _

theorem stage_applyAux (s : State) : stageOf (applyAux s) = stageOf s := ite_leaves stageOf (stage_applyRecords ..) rfl

theorem stage_abandonSlice (g : Nat) (s : State) : stageOf (abandonSlice g s) = stageOf s :=
  ite_leaves stageOf (ite_leaves stageOf rfl rfl) rfl

theorem stage_acceptRecord (p : List Word) (s : State) : stageOf (acceptRecord p s) = stageOf s := by
  unfold acceptRecord
  extract_lets g s1 wait x s2
  have h2 : stageOf s2 = stageOf s := ite_leaves stageOf (stage_abandonSlice ..) (ite_leaves stageOf rfl rfl)
  exact ite_leaves stageOf h2 (ite_leaves stageOf ((stage_applyAux s2).trans h2)
    (ite_leaves stageOf ((stage_applyRecords _ s2).trans h2) ((stage_applyRecords _ s2).trans h2)))

theorem stage_loadRecord (g : Nat) (p : List Word) (s : State) : stageOf (loadRecord g p s) = stageOf s :=
  ite_leaves stageOf (stage_acceptRecord ..) rfl

theorem stage_loadSnapshot (l : Option TackLoad) (s : State) : stageOf (loadSnapshot l s) = stageOf s := by
  unfold loadSnapshot
  split
  · rfl
  · split
    · split
      · exact foldl_leaves stageOf (fun _ _ => stage_loadRecord ..) _ s
      · rfl
    · rfl

theorem stage_loadSet (n : Nat) (s : State) : stageOf (loadSet n s) = stageOf s := stage_loadSnapshot _ _

theorem stage_loadStrapped (s : State) : stageOf (loadStrapped s) = stageOf s := by
  unfold loadStrapped
  extract_lets n s1 x s2
  have h2 : stageOf s2 = stageOf s := ite_leaves stageOf rfl rfl
  exact ite_leaves stageOf (stage_atReady (stage_loadSet n) s1) (ite_leaves stageOf ((stage_atReady (stage_loadSet 0) s2).trans h2) h2)

/-! ### The trims of the groups -/

/-- What a group that timed out keeps, and since when. -/
def valuesOf (c : CalGroup) : Bool × BitVec 32 × List Word := (c.kept, c.seconds, c.trims)

def valuesIn (s : State) : List (Bool × BitVec 32 × List Word) := s.cal.groups.map valuesOf

theorem valuesOf_calGroup (s : State) (g : Nat) : valuesOf (calGroup s g) = (valuesIn s).getD g (valuesOf CalGroup.init) := by
  simp [calGroup, valuesIn, List.getD_eq_getElem?_getD, Option.getD_map]

theorem values_setCal (g : Nat) (f : CalGroup → CalGroup) (s : State) (h : ∀ c, valuesOf (f c) = valuesOf c) :
    valuesIn (setCal g f s) = valuesIn s := by
  show (s.cal.groups.modify g f).map valuesOf = s.cal.groups.map valuesOf
  refine List.ext_getElem? fun i => ?_
  simp only [List.getElem?_map, List.getElem?_modify]
  split
  · cases s.cal.groups[i]? <;> simp [h]
  · simp

theorem values_setFigure (g k : Nat) (low : Bool) (s : State) : valuesIn (setFigure g k low s) = valuesIn s :=
  ite_leaves valuesIn rfl (values_setCal g _ s fun _ => rfl)

theorem values_judge (g : Nat) (s : State) : valuesIn (judge g s) = valuesIn s :=
  foldl_leaves valuesIn (fun _ _ => values_setFigure ..) _ s

/-- A group that timed out keeps its trims; the others are as before. -/
theorem values_keepValues {g h : Nat} (hh : h < s.cal.groups.length) : valuesOf (calGroup (keepValues g s) h) =
    if h = g then (true, tagSeconds s, (calGroup s h).trims) else valuesOf (calGroup s h) := by
  have hv : valuesIn (keepValues g s) = valuesIn (setCal g (fun c => { c with
      kept := true, seconds := tagSeconds s, temp := (BitVec.ofNat 16 (Config.free 368 s.drawn)).toInt
      figures := (List.range 4).map fun i => Config.free 367 (s.drawn + i) % 65536 }) { s with drawn := s.drawn + 4 }) :=
    (values_setFigure ..).trans ((values_judge ..).trans rfl)
  rw [valuesOf_calGroup, hv, ← valuesOf_calGroup,
    calGroup_setCal _ (show h < { s with drawn := s.drawn + 4 }.cal.groups.length from hh)]
  split
  · rfl
  · rfl

theorem length_keepValues (g : Nat) (s : State) : (keepValues g s).cal.groups.length = s.cal.groups.length := by
  have hv : (valuesIn (keepValues g s)).length = s.cal.groups.length := by
    rw [show valuesIn (keepValues g s) = valuesIn (setCal g _ { s with drawn := s.drawn + 4 }) from
      (values_setFigure ..).trans ((values_judge ..).trans rfl)]
    simp [valuesIn, setCal, upd]
  simpa [valuesIn] using hv

/-- A group that timed out while the device starts. -/
def timedOut (g : Nat) (s : State) : State := startDacFault g true (leaveStart g (atReady (keepValues g) s))

theorem groups_startDacFault (g : Nat) (bad : Bool) (s : State) : (startDacFault g bad s).cal = s.cal :=
  ite_leaves State.cal rfl rfl

theorem stage_startDacFault (g : Nat) (bad : Bool) (s : State) : stageOf (startDacFault g bad s) = stageOf s :=
  ite_leaves stageOf rfl rfl

theorem timedOut_groups (g : Nat) (s : State) :
    (timedOut g s).cal.groups = (keepValues g { s with evq := Events.init }).cal.groups :=
  (congrArg Cal.groups (groups_startDacFault g true (leaveStart g (atReady (keepValues g) s)))).trans rfl

theorem timedOut_stage (g : Nat) (s : State) : (timedOut g s).cal.phase = s.cal.phase ∧ (timedOut g s).tb = s.tb := by
  have h := stage_atReady (stage_keepValues g) s
  have hd := stage_startDacFault g true (leaveStart g (atReady (keepValues g) s))
  simp only [stageOf, leaveStart, Prod.mk.injEq] at h hd
  obtain ⟨h1, -, -, -, h5⟩ := h
  obtain ⟨d1, -, -, -, d5⟩ := hd
  exact ⟨d1.trans h1, d5.trans h5⟩

theorem tagSeconds_tb {u : State} (h : t.tb = u.tb) : tagSeconds t = tagSeconds u := by
  unfold tagSeconds now
  rw [h]

/-- Once the groups of l have timed out: they keep their trims, since now, and every other group has the trims it had. -/
structure Late (org : State) (l : List Nat) (s : State) : Prop where
  phase : s.cal.phase = org.cal.phase
  tb    : s.tb = org.tb
  size  : s.cal.groups.length = 17
  trims : ∀ h < 17, (calGroup s h).trims = (calGroup org h).trims
  kept  : ∀ h ∈ l, (calGroup s h).kept = true ∧ (calGroup s h).seconds = tagSeconds org

theorem Late.step {org : State} {l : List Nat} {g : Nat} (h : Late org l s) (hg : g < 17) (hl : ∀ x ∈ l, x < 17) :
    Late org (g :: l) (timedOut g s) := by
  obtain ⟨h1, h2⟩ := timedOut_stage g s
  have hsize : { s with evq := Events.init }.cal.groups.length = 17 := h.size
  have hv : ∀ x < 17, valuesOf (calGroup (timedOut g s) x) =
      if x = g then (true, tagSeconds s, (calGroup s x).trims) else valuesOf (calGroup s x) := fun x hx => by
    have he : calGroup (timedOut g s) x = calGroup (keepValues g { s with evq := Events.init }) x :=
      congrArg (fun l => l.getD x CalGroup.init) (timedOut_groups g s)
    rw [he, values_keepValues (by omega)]
    rfl
  refine ⟨h1.trans h.phase, h2.trans h.tb, ?_, fun x hx => ?_, fun x hx => ?_⟩
  · rw [timedOut_groups, length_keepValues, hsize]
  · have hx' := congrArg (fun v => v.2.2) (hv x hx)
    refine Eq.trans hx' (Eq.trans ?_ (h.trims x hx))
    split <;> rfl
  · have hlt : x < 17 := by
      rcases List.mem_cons.mp hx with rfl | hx
      · exact hg
      · exact hl x hx
    have hx' := hv x hlt
    by_cases hxg : x = g
    · rw [if_pos hxg] at hx'
      have hk : (calGroup (timedOut g s) x).kept = true := congrArg Prod.fst hx'
      have hs : (calGroup (timedOut g s) x).seconds = tagSeconds s := congrArg (fun v => v.2.1) hx'
      exact ⟨hk, hs.trans (tagSeconds_tb h.tb)⟩
    · rw [if_neg hxg] at hx'
      obtain ⟨hk, hs⟩ := h.kept x ((List.mem_cons.mp hx).resolve_left hxg)
      have hk' : (calGroup (timedOut g s) x).kept = (calGroup s x).kept := congrArg Prod.fst hx'
      have hs' : (calGroup (timedOut g s) x).seconds = (calGroup s x).seconds := congrArg (fun v => v.2.1) hx'
      exact ⟨hk'.trans hk, hs'.trans hs⟩

theorem Late.steps {org : State} (l : List Nat) {m : List Nat} (h : Late org m s) (hm : ∀ x ∈ m, x < 17)
    (hl : ∀ x ∈ l, x < 17) :
    Late org (l.reverse ++ m) (l.foldl (fun s g => timedOut g s) s) := by
  induction l generalizing s m with
  | nil => exact h
  | cons g l ih =>
    have hg := hl g List.mem_cons_self
    have hstep := ih (h.step hg hm) (List.forall_mem_cons.mpr ⟨hg, hm⟩) fun x hx => hl x (List.mem_cons_of_mem g hx)
    rw [List.reverse_cons, List.append_assoc]
    exact hstep

/-! ### READY -/

/-- The device state, the events that wait for READY, and calibration. -/
def readyView (s : State) : DevState × List (Nat × Nat) × Cal := (s.pwr.dev, s.pwr.startQ, s.cal)

theorem readyView_tellRollback (s : State) : readyView (tellRollback s) = readyView s := by
  unfold tellRollback
  split <;> rfl

theorem readyView_brownoutSurge (cause : Nat) (s : State) : readyView (brownoutSurge cause s) = readyView s := by
  unfold brownoutSurge
  split
  · split <;> rfl
  · rfl

theorem becomeReady_states (s : State) : (becomeReady s).pwr.dev = .ready ∧ (becomeReady s).pwr.startQ = [] ∧
    (becomeReady s).cal.phase = 0 ∧ (becomeReady s).cal.groups = s.cal.groups := by
  unfold becomeReady
  extract_lets cause cal s1 s2 s3 s4
  have h2 : readyView s2 = readyView s1 :=
    (readyView_tellRollback _).trans (foldl_leaves readyView (f := fun s (e : Nat × Nat) => post e.1 e.2 s) (fun _ _ => rfl) _ s1)
  have h3 : readyView s3 = readyView s1 := h2
  have h4 : readyView s4 = readyView s1 := ite_leaves readyView h3 h3
  have h5 := (readyView_brownoutSurge cause s4).trans h4
  have hf := far_auxStart (far_refl true true (brownoutSurge cause s4))
  have hs := still_auxStart (still_refl { groups := true } (brownoutSurge cause s4))
  obtain ⟨hd, hq, hc⟩ : (brownoutSurge cause s4).pwr.dev = .ready ∧ (brownoutSurge cause s4).pwr.startQ = [] ∧
      (brownoutSurge cause s4).cal = { s.cal with phase := 0, running := 0 } := by
    simp only [readyView, Prod.mk.injEq] at h5
    exact h5
  refine ⟨?_, ?_, ?_, ?_⟩
  · rw [hf.power, hd]
  · rw [hf.power, hq]
  · rw [hf.phase, hc]
  · rw [hs.groups, hc]

/-- The events that a state posts depend on its queue, its time and its masks alone. -/
theorem posts_evq (l : List (Nat × Nat)) {u : State} (he : s.evq = u.evq) (ht : s.tb = u.tb) (hr : s.rw = u.rw) :
    (l.foldl (fun s e => post e.1 e.2 s) s).evq = (l.foldl (fun s e => post e.1 e.2 s) u).evq := by
  induction l generalizing s u with
  | nil => exact he
  | cons e l ih =>
    refine ih ?_ ht hr
    simp only [post, postAt, now, discarded, logAll, he, ht, hr]

/-- Events posted later leave those posted before. -/
theorem posts_keeps (l m : List (Nat × Nat)) (s : State) : Keeps false (l.foldl (fun s e => post e.1 e.2 s) s)
    ((l ++ m).foldl (fun s e => post e.1 e.2 s) s) := by
  rw [List.foldl_append]
  exact keeps_foldl _ _ (keeps_refl _ _) fun _ _ hx => keeps_post _ _ hx

/-- The listed events come first, in their order. -/
theorem becomeReady_prefix (s : State) {u : State} (he : s.evq = u.evq) (ht : s.tb = u.tb) (hr : s.rw = u.rw) :
    (((s.pwr.startQ.filter fun (e : Nat × Nat) => listed e.1) ++ [(evCalDone, 0), (evTimeUnset, 0)]).foldl
      (fun u (e : Nat × Nat) => post e.1 e.2 u) u).evq.q <+: (becomeReady s).evq.q := by
  unfold becomeReady
  extract_lets cause cal s1 s2 s3 s4
  have h1 := posts_evq (s := s1) ((s.pwr.startQ.filter fun (e : Nat × Nat) => listed e.1) ++ [(evCalDone, 0), (evTimeUnset, 0)])
    (u := u) he ht hr
  rw [← h1]
  have h2 : Keeps false (((s.pwr.startQ.filter fun (e : Nat × Nat) => listed e.1) ++ [(evCalDone, 0), (evTimeUnset, 0)]).foldl
      (fun u (e : Nat × Nat) => post e.1 e.2 u) s1) s2 :=
    keeps_tellRollback (posts_keeps _ _ s1)
  have h3 := keeps_lifeUp 6 (keeps_setPwr (fun p => { p with powerKept := false }) h2)
  have h4 := keeps_ite (c := (s3.can.slotA == .trial && !s3.can.imageB) = true)
    (keeps_setCan (fun c => { c with trialAt := some s3.tb.mono }) h3) h3
  obtain ⟨-, -, hqueue⟩ := keeps_auxStart (keeps_brownoutSurge cause h4)
  exact hqueue rfl

/-! ### The end of a phase -/

theorem phaseEnd_groups (s : State) : (phaseEnd s).cal.groups = s.cal.groups := by
  unfold phaseEnd
  split
  · rfl
  · split
    · rfl
    · exact (becomeReady_states s).2.2.2

theorem phaseEnd_phase (h : s.cal.phase = 1) : (phaseEnd s).cal.phase ≤ 2 := by
  unfold phaseEnd
  rw [if_pos h]
  split
  · omega
  · exact le_refl 2

/-- One result taken while the device starts. -/
def takenStep (r : StepResult) (s : State) : State :=
  leaveStart r.group (startDacFault r.group (!passes (atReady (takeResult r) s) r.group) (atReady (takeResult r) s))

theorem takenStep_cal (r : StepResult) (s : State) : (takenStep r s).cal.phase = s.cal.phase ∧
    (takenStep r s).cal.running = s.cal.running &&& ~~~ groupMask [r.group] := by
  have h := stage_atReady (stage_takeResult r) s
  have hd := stage_startDacFault r.group (!passes (atReady (takeResult r) s) r.group) (atReady (takeResult r) s)
  simp only [stageOf, Prod.mk.injEq] at h hd
  obtain ⟨h1, h2, -⟩ := h
  obtain ⟨d1, d2, -⟩ := hd
  exact ⟨d1.trans h1, congrArg (· &&& ~~~ groupMask [r.group]) (d2.trans h2)⟩

theorem startSteps_eq (rs : List StepResult) (s : State) : startSteps rs s =
    phaseEnd ((rs.filter fun r => r.group < 17 && s.cal.running.getLsbD r.group).foldl (fun s r => takenStep r s) s) := rfl

theorem groupMask_bit {g i : Nat} (hi : i < 17) : (groupMask [g]).getLsbD i = decide (g = i) := by
  unfold groupMask
  rw [List.map_singleton, List.sum_singleton, BitVec.getLsbD_ofNat, Nat.testBit_two_pow, decide_eq_true hi, Bool.true_and]

/-- A group whose result was taken runs no more. -/
theorem takenSteps_cal (l : List StepResult) (s : State) : (l.foldl (fun s r => takenStep r s) s).cal.phase = s.cal.phase ∧
    ∀ i < 17, (l.foldl (fun s r => takenStep r s) s).cal.running.getLsbD i = true →
      s.cal.running.getLsbD i = true ∧ ∀ r ∈ l, r.group ≠ i := by
  induction l generalizing s with
  | nil => exact ⟨rfl, fun i _ h => ⟨h, fun r hr => nomatch hr⟩⟩
  | cons r l ih =>
    obtain ⟨hp, hr⟩ := takenStep_cal r s
    obtain ⟨ihp, ihr⟩ := ih (takenStep r s)
    refine ⟨ihp.trans hp, fun i hi h => ?_⟩
    obtain ⟨h1, h2⟩ := ihr i hi h
    rw [hr, BitVec.getLsbD_and, BitVec.getLsbD_not, groupMask_bit hi] at h1
    simp only [hi, decide_true, Bool.true_and, Bool.and_eq_true, Bool.not_eq_true', decide_eq_false_iff_not] at h1
    exact ⟨h1.1, List.forall_mem_cons.mpr ⟨h1.2, h2⟩⟩

/-- Every running group reports: the first phase ends. -/
theorem calStepDone_phaseOne {rs : List StepResult} (hp : s.cal.phase = 1)
    (h : ∀ g, s.cal.running.getLsbD g = true → g < 17 → ∃ r ∈ rs, r.group = g) :
    ∃ t, exec (.calStepDone rs) s = .next t ∧ t.cal.phase = 2 ∧ t.cal.running = 0x100 := by
  refine ⟨startSteps rs s, congrArg Host.Outcome.next (if_neg (by omega)), ?_⟩
  obtain ⟨hphase, hrun⟩ := takenSteps_cal (rs.filter fun r => r.group < 17 && s.cal.running.getLsbD r.group) s
  have h0 : ((rs.filter fun r => r.group < 17 && s.cal.running.getLsbD r.group).foldl
      (fun s r => takenStep r s) s).cal.running = 0 := by
    refine BitVec.eq_of_getLsbD_eq fun i hi => ?_
    rw [show (0 : BitVec 17).getLsbD i = false by simp, Bool.eq_false_iff]
    intro hb
    obtain ⟨hs, hn⟩ := hrun i hi hb
    obtain ⟨r, hr, hg⟩ := h i hs hi
    exact hn r (List.mem_filter.mpr ⟨hr, by rw [hg, hs, decide_eq_true hi]; rfl⟩) hg
  rw [startSteps_eq, phaseEnd, if_neg (not_not.mpr h0), if_pos (hphase.trans hp)]
  exact ⟨rfl, rfl⟩

/-- The last group of the second phase reports: the device is ready. -/
theorem calStepDone_ready {r : StepResult} (hp : s.cal.phase = 2) (hr : s.cal.running = 0x100) (hg : r.group = 8) :
    ∃ t, exec (.calStepDone [r]) s = .next t ∧ t.pwr.dev = .ready ∧ t.cal.phase = 0 ∧ t.pwr.startQ = [] ∧
      let u := atReady (takeResult r) s
      (((u.pwr.startQ.filter fun (e : Nat × Nat) => listed e.1) ++ [(evCalDone, 0), (evTimeUnset, 0)]).foldl
        (fun u (e : Nat × Nat) => post e.1 e.2 u) u).evq.q <+: t.evq.q := by
  refine ⟨startSteps [r] s, congrArg Host.Outcome.next (if_neg (by omega)), ?_⟩
  obtain ⟨hphase, hrun⟩ := takenStep_cal r s
  have h0 : (takenStep r s).cal.running = 0 := by
    rw [hrun, hr, hg]
    decide
  have hfilter : [r].filter (fun r => r.group < 17 && s.cal.running.getLsbD r.group) = [r] := by
    simp [hg, hr]
  have heq : startSteps [r] s = becomeReady (takenStep r s) := by
    rw [startSteps_eq, hfilter]
    show phaseEnd (takenStep r s) = _
    rw [phaseEnd, if_neg (not_not.mpr h0), if_neg (by rw [hphase, hp]; decide)]
  rw [heq]
  obtain ⟨h1, h2, h3, -⟩ := becomeReady_states (takenStep r s)
  refine ⟨h1, h3, h2, ?_⟩
  have hstep : takenStep r s = leaveStart 8 (atReady (takeResult r) s) := by
    unfold takenStep startDacFault
    rw [hg]
    rfl
  rw [hstep]
  exact becomeReady_prefix (leaveStart 8 (atReady (takeResult r) s)) (u := atReady (takeResult r) s) rfl rfl rfl

theorem pairOf_lt {g x : Nat} (hg : g < 17) (hx : x ∈ pairOf g) : x < 17 := by
  unfold pairOf at hx
  split at hx
  · simp only [List.mem_cons, List.not_mem_nil, or_false] at hx
    omega
  · simp only [List.mem_cons, List.not_mem_nil, or_false] at hx
    omega

/-- A pair of groups that timed out while the device starts keeps its trims. -/
theorem calStepTimeout_keeps {g : Nat} (hp : s.cal.phase ≠ 0) (hr : s.cal.running.getLsbD g = true) (hg : g < 17) (hs : Sound s) :
    ∃ t, exec (.calStepTimeout g) s = .next t ∧
      (∀ h ∈ pairOf g, (calGroup t h).kept = true ∧ (calGroup t h).seconds = tagSeconds s ∧
        (calGroup t h).trims = (calGroup s h).trims) ∧ (s.cal.phase = 1 → t.cal.phase ≤ 2) := by
  refine ⟨phaseEnd ((pairOf g).foldl (fun s g => timedOut g s) s), congrArg Host.Outcome.next
    ((if_neg hp).trans (if_neg (by simp [hr]))), ?_⟩
  have h0 : Late s [] s := ⟨rfl, rfl, hs.groups, fun _ _ => rfl, fun x hx => nomatch hx⟩
  have hl := h0.steps (pairOf g) (fun x hx => nomatch hx) fun x hx => pairOf_lt hg hx
  refine ⟨fun x hx => ?_, fun h1 => phaseEnd_phase (hl.phase.trans h1)⟩
  have he : calGroup (phaseEnd ((pairOf g).foldl (fun s g => timedOut g s) s)) x =
      calGroup ((pairOf g).foldl (fun s g => timedOut g s) s) x :=
    congrArg (fun l => l.getD x CalGroup.init) (phaseEnd_groups _)
  rw [he]
  obtain ⟨hk, hsec⟩ := hl.kept x (List.mem_append_left [] (List.mem_reverse.mpr hx))
  exact ⟨hk, hsec, hl.trims x (pairOf_lt hg hx)⟩

/-! ### Boot and training -/

theorem bootVerify_out {a b : Nat} (h : s.pwr.dev = .starting 3) (ht : ¬ (s.can.slotA = .trial ∧ 2 ≤ s.can.attempts)) :
    exec (.cantleBootVerifyDone a b) s = .next
      (if bootCheck s.can s.can.slotA s.can.imageA a = 0 then bootImage false s
       else if bootCheck s.can s.can.slotB s.can.imageBi b = 0 then
         bootImage true (queueStart evBootImageB (bootCheck s.can s.can.slotA s.can.imageA a) s)
       else setPwr (fun p => { p with dev := .recovery, startQ := [] }) s) :=
  congrArg Host.Outcome.next ((if_neg (by simp [h])).trans (if_neg (by simpa using ht)))

theorem dramTrainingDone_starts {fail : Option (Nat × Nat)} {g : Nat} (h : s.pwr.dev = .starting 4) :
    ∃ t, exec (.dramTrainingDone fail g) s = .next t ∧ t.pwr.dev = .starting 6 ∧
      t.mem.usable = fail.isNone ∧ t.cal.phase = 1 ∧ t.cal.running = 0x1FEFF ∧ t.live = t.draft := by
  refine ⟨_, congrArg Host.Outcome.next (if_neg (by simp [h])), rfl, ?_, rfl, rfl, loadStrapped_same _⟩
  have hl := fun u => congrArg (fun v => v.2.2.1) (stage_loadStrapped u)
  refine Eq.trans (hl _) ?_
  cases fail <;> rfl

/-- Settles O37: each row of the start-up leads to the next, and READY posts what was queued for it. -/
theorem startUp' : Obligations.StartUp := by
  refine fun s => ⟨fun seen code h hc hs => ?choice,
    fun a b h ht => ⟨fun ha => ?imageA, fun ha hb => ?imageB, fun ha hb => ?recovery⟩,
    fun fail g h => dramTrainingDone_starts h, fun rs h => ?operation, fun rs => calStepDone_phaseOne, fun g hp hr => ?timeout,
    fun r => calStepDone_ready, fun g => calStepTimeout_keeps⟩
  case choice =>
    have hrng : (seen || rng code 3 7) = true := by
      rcases hs with rfl | ⟨h3, h7⟩
      · rfl
      · simp [rng, h3, h7]
    exact congrArg Host.Outcome.next (if_pos (by rw [h, hrng, decide_eq_true hc]; rfl))
  case imageA => rw [bootVerify_out h ht, if_pos ha]
  case imageB =>
    rw [bootVerify_out h ht, if_neg ha, if_pos hb]
    rfl
  case recovery =>
    rw [bootVerify_out h ht, if_neg ha, if_neg hb]
    rfl
  case operation => exact congrArg Host.Outcome.next (if_pos h)
  case timeout => exact congrArg Host.Outcome.next ((if_pos hp).trans (if_neg (by simp [hr])))

end Sys2Proof.Machine
end
